-- ==== Sys2Proof/Word.lean ====
section
/-! DEFINITION. The word types of the machine (R2: 64-bit registers, bytes of eight bits). -/

namespace Sys2Proof

/-- A 64-bit scalar register value (R107). -/
abbrev Word := BitVec 64

/-- One byte of memory (R2). -/
abbrev Byte := BitVec 8

end Sys2Proof
end

