-- ==== Sys2Proof/Config.lean ====
section
/-! DEFINITION. The values the spec leaves free. They have no body: nothing can be proved of what they are. -/

namespace Sys2Proof

/-- How many cycles of a cluster's effective clock pass between two reads of its CYCLES counter (R264, R376), the n-th
such interval: the spec gives no time to a step (log 6). -/
opaque Config.freeCycles : Nat → Word

/-- The value that an overlapping copy, or a write whose effect the spec calls unknown (R63), leaves in a byte: the
n-th such byte (log 6). -/
opaque Config.freeByte : Nat → Byte

/-- The positions of each group of four that the sum of an A′ word takes under SPARSE, where no B word gives a selector: the
n-th such sum (R210, R211, R229; log 6). -/
opaque Config.freeSelector : Nat → BitVec 32

/-- The bits of a 256-bit fill above the 64 of FILLV (R85; log 77). -/
opaque Config.fillHigh : Word → BitVec 192

/-- The payload of the n-th flit that a collective engine sends (R367, R373; log 30). -/
opaque Config.freePayload : Nat → BitVec 1920

/-- The node of the fabric to which a flit with a payload goes (R371; log 30). -/
opaque Config.flitNode : BitVec 1920 → Nat

/-- The bytes of the dump of a fatal error past its header, of what the dump holds of the state and of an offset: the spec names what lies
there and does not lay it out (R323; log 108). -/
opaque Config.dumpByte {α : Type} : α → Nat → Byte

/-- KCM1 of a row when a tile has no side block: the n-th such drain (R221, R235; log 6). -/
opaque Config.freeKcm1 : Nat → BitVec 8

/-- The n-th word of a report whose value the spec does not give (R364; log 6). -/
opaque Config.freeWord : Nat → Word

end Sys2Proof
end

