-- ==== Sys2Proof/Syntax.lean ====
section
/-! DEFINITION. The syntax: one constructor for each row of the opcode table. The 185 encoded instructions
(R127) stand in the table's order, then the 75 steps of other agents and of the machine around the harts, which
have no encoding; the constructors without arguments stand at the end. -/

namespace Sys2Proof

/-- A 5-bit scalar operand field (R126): a scalar register or a queue. -/
inductive SOp where
  | s (n : Fin 24)
  | q (n : Fin 8)
  deriving DecidableEq, Repr

/-- A 7-bit vector operand field (R126). -/
inductive VOp where
  | v (n : Fin 64)
  | w (n : Fin 8)
  | z (n : Fin 4)
  | q (n : Fin 8)
  | m (n : Fin 8)
  | none
  deriving DecidableEq, Repr

/-- The steps of the part. In an encoded instruction `sd sa sb se` are scalar fields, `vd va vb vi` vector fields,
`g` a mode slot, `f` a forme, `dt` the density-time bit D, `imm off n fx sh` immediate fields (R123, R124). -/
inductive Instr where
  /-- ADD (R132). -/
  | add (sd sa sb : SOp)
  /-- SUB (R132). -/
  | sub (sd sa sb : SOp)
  /-- AND (R132). -/
  | and (sd sa sb : SOp)
  /-- OR (R132). -/
  | or (sd sa sb : SOp)
  /-- XOR (R132). -/
  | xor (sd sa sb : SOp)
  /-- SLL (R132). -/
  | sll (sd sa sb : SOp)
  /-- SRL (R132). -/
  | srl (sd sa sb : SOp)
  /-- SRA (R132). -/
  | sra (sd sa sb : SOp)
  /-- SLT (R132). -/
  | slt (sd sa sb : SOp)
  /-- SLTU (R132). -/
  | sltu (sd sa sb : SOp)
  /-- MIN (R132). -/
  | min (sd sa sb : SOp)
  /-- MAX (R132). -/
  | max (sd sa sb : SOp)
  /-- MINU (R132). -/
  | minu (sd sa sb : SOp)
  /-- MAXU (R132). -/
  | maxu (sd sa sb : SOp)
  /-- CLZ (R132). -/
  | clz (sd sa : SOp)
  /-- CTZ (R132). -/
  | ctz (sd sa : SOp)
  /-- POPC (R132). -/
  | popc (sd sa : SOp)
  /-- MUL (R132). -/
  | mul (sd sa sb : SOp)
  /-- MULH (R132). -/
  | mulh (sd sa sb : SOp)
  /-- MULHU (R132). -/
  | mulhu (sd sa sb : SOp)
  /-- DIV (R132). -/
  | div (sd sa sb : SOp)
  /-- DIVU (R132). -/
  | divu (sd sa sb : SOp)
  /-- REM (R132). -/
  | rem (sd sa sb : SOp)
  /-- REMU (R132). -/
  | remu (sd sa sb : SOp)
  /-- ADDI (R133). -/
  | addi (sd sa : SOp) (imm : BitVec 12)
  /-- ANDI (R133). -/
  | andi (sd sa : SOp) (imm : BitVec 12)
  /-- ORI (R133). -/
  | ori (sd sa : SOp) (imm : BitVec 12)
  /-- XORI (R133). -/
  | xori (sd sa : SOp) (imm : BitVec 12)
  /-- SLTI (R133). -/
  | slti (sd sa : SOp) (imm : BitVec 12)
  /-- SLTIU (R133). -/
  | sltiu (sd sa : SOp) (imm : BitVec 12)
  /-- SLLI (R133). -/
  | slli (sd sa : SOp) (sh : BitVec 6)
  /-- SRLI (R133). -/
  | srli (sd sa : SOp) (sh : BitVec 6)
  /-- SRAI (R133). -/
  | srai (sd sa : SOp) (sh : BitVec 6)
  /-- LIH (R134). -/
  | lih (sd : SOp) (imm : BitVec 20)
  /-- PCHI (R134). -/
  | pchi (sd : SOp) (imm : BitVec 20)
  /-- OBJ (R135). -/
  | obj (sd sa sb : SOp)
  /-- OBJH (R135). -/
  | objh (sd sa sb : SOp)
  /-- OBJO (R135). -/
  | objo (sd sa : SOp)
  /-- LDB (R136). -/
  | ldb (sd sa : SOp) (g : Fin 8) (imm : BitVec 12)
  /-- LDH (R136). -/
  | ldh (sd sa : SOp) (g : Fin 8) (imm : BitVec 12)
  /-- LDW (R136). -/
  | ldw (sd sa : SOp) (g : Fin 8) (imm : BitVec 12)
  /-- LDD (R136). -/
  | ldd (sd sa : SOp) (g : Fin 8) (imm : BitVec 12)
  /-- LDBU (R136). -/
  | ldbu (sd sa : SOp) (g : Fin 8) (imm : BitVec 12)
  /-- LDHU (R136). -/
  | ldhu (sd sa : SOp) (g : Fin 8) (imm : BitVec 12)
  /-- LDWU (R136). -/
  | ldwu (sd sa : SOp) (g : Fin 8) (imm : BitVec 12)
  /-- STB (R136). -/
  | stb (sb sa : SOp) (imm : BitVec 12) (g : Fin 8)
  /-- STH (R136). -/
  | sth (sb sa : SOp) (imm : BitVec 12) (g : Fin 8)
  /-- STW (R136). -/
  | stw (sb sa : SOp) (imm : BitVec 12) (g : Fin 8)
  /-- STD (R136). -/
  | std (sb sa : SOp) (imm : BitVec 12) (g : Fin 8)
  /-- AMOADD (R139). -/
  | amoadd (sd sa sb : SOp) (g : Fin 8)
  /-- AMOSWAP (R139). -/
  | amoswap (sd sa sb : SOp) (g : Fin 8)
  /-- AMOCAS (R139). -/
  | amocas (sd sa sb : SOp) (g : Fin 8)
  /-- AMOAND (R139). -/
  | amoand (sd sa sb : SOp) (g : Fin 8)
  /-- AMOOR (R139). -/
  | amoor (sd sa sb : SOp) (g : Fin 8)
  /-- AMOXOR (R139). -/
  | amoxor (sd sa sb : SOp) (g : Fin 8)
  /-- AMOMIN (R139). -/
  | amomin (sd sa sb : SOp) (g : Fin 8)
  /-- AMOMAX (R139). -/
  | amomax (sd sa sb : SOp) (g : Fin 8)
  /-- AMOMINU (R139). -/
  | amominu (sd sa sb : SOp) (g : Fin 8)
  /-- AMOMAXU (R139). -/
  | amomaxu (sd sa sb : SOp) (g : Fin 8)
  /-- BEQ (R140). -/
  | beq (sa sb : SOp) (off : BitVec 12)
  /-- BNE (R140). -/
  | bne (sa sb : SOp) (off : BitVec 12)
  /-- BLT (R140). -/
  | blt (sa sb : SOp) (off : BitVec 12)
  /-- BGE (R140). -/
  | bge (sa sb : SOp) (off : BitVec 12)
  /-- BLTU (R140). -/
  | bltu (sa sb : SOp) (off : BitVec 12)
  /-- BGEU (R140). -/
  | bgeu (sa sb : SOp) (off : BitVec 12)
  /-- JAL (R141). -/
  | jal (sd : SOp) (off : BitVec 20)
  /-- JALR (R141). -/
  | jalr (sd sa : SOp) (imm : BitVec 12)
  /-- STICK (R143). -/
  | stick (sa : SOp) (fx : BitVec 5)
  /-- LOOP (R142). -/
  | loop (sa sb : SOp) (fx : BitVec 5)
  /-- SETVL (R147). -/
  | setvl (sd sa : SOp) (g : Fin 8)
  /-- SETVLW (R148). -/
  | setvlw (sd sa sb : SOp) (g : Fin 8)
  /-- SETVLX (R147). -/
  | setvlx (sd sa : SOp) (g : Fin 8) (imm : BitVec 12)
  /-- SETMODE (R115). -/
  | setmode (sa : SOp) (g : Fin 8)
  /-- GETMODE (R149). -/
  | getmode (sd : SOp) (g : Fin 8)
  /-- SETFORME (R121). -/
  | setforme (sa : SOp) (f : Fin 8)
  /-- SETTILE (R150). -/
  | settile (sa sb : SOp)
  /-- GETS (R151). -/
  | gets (sd : SOp) (n : BitVec 12)
  /-- PUTS (R151). -/
  | puts (sa : SOp) (n : BitVec 12)
  /-- STRIP (R156). -/
  | strip (sa sb : SOp)
  /-- PROOF (R157). -/
  | proof (sa : SOp) (g : Fin 8)
  /-- VADD (R184). -/
  | vadd (dt : Bool) (g : Fin 8) (vd va vb : VOp)
  /-- VSUB (R184). -/
  | vsub (dt : Bool) (g : Fin 8) (vd va vb : VOp)
  /-- VMUL (R184). -/
  | vmul (dt : Bool) (g : Fin 8) (vd va vb : VOp)
  /-- VFMA (R184). -/
  | vfma (dt : Bool) (g : Fin 8) (vd va vb : VOp)
  /-- VFMS (R184). -/
  | vfms (dt : Bool) (g : Fin 8) (vd va vb : VOp)
  /-- VMIN (R189). -/
  | vmin (dt : Bool) (g : Fin 8) (vd va vb : VOp)
  /-- VMAX (R189). -/
  | vmax (dt : Bool) (g : Fin 8) (vd va vb : VOp)
  /-- VAND (R187). -/
  | vand (dt : Bool) (g : Fin 8) (vd va vb : VOp)
  /-- VOR (R187). -/
  | vor (dt : Bool) (g : Fin 8) (vd va vb : VOp)
  /-- VXOR (R187). -/
  | vxor (dt : Bool) (g : Fin 8) (vd va vb : VOp)
  /-- VSHL (R187). -/
  | vshl (dt : Bool) (g : Fin 8) (vd va vb : VOp)
  /-- VSHR (R187). -/
  | vshr (dt : Bool) (g : Fin 8) (vd va vb : VOp)
  /-- VSRA (R187). -/
  | vsra (dt : Bool) (g : Fin 8) (vd va vb : VOp)
  /-- VDIV (R184). -/
  | vdiv (dt : Bool) (g : Fin 8) (vd va vb : VOp)
  /-- VCMPEQ (R188). -/
  | vcmpeq (dt : Bool) (g : Fin 8) (vd va vb : VOp)
  /-- VCMPNE (R188). -/
  | vcmpne (dt : Bool) (g : Fin 8) (vd va vb : VOp)
  /-- VCMPLT (R188). -/
  | vcmplt (dt : Bool) (g : Fin 8) (vd va vb : VOp)
  /-- VCMPLE (R188). -/
  | vcmple (dt : Bool) (g : Fin 8) (vd va vb : VOp)
  /-- VSEL (R190). -/
  | vsel (g : Fin 8) (vd va vb : VOp)
  /-- VCLAMP (R189). -/
  | vclamp (dt : Bool) (g : Fin 8) (vd va vb : VOp)
  /-- VSLIDEUP (R194). -/
  | vslideup (dt : Bool) (g : Fin 8) (vd va vb : VOp)
  /-- VSLIDEDN (R194). -/
  | vslidedn (dt : Bool) (g : Fin 8) (vd va vb : VOp)
  /-- VPERM (R195). -/
  | vperm (dt : Bool) (g : Fin 8) (vd va vb : VOp)
  /-- VEXPAND (R196). -/
  | vexpand (dt : Bool) (g : Fin 8) (vd va vb : VOp)
  /-- VCOMPRESS (R196). -/
  | vcompress (dt : Bool) (g : Fin 8) (vd va vb : VOp)
  /-- VABS (R184). -/
  | vabs (dt : Bool) (g : Fin 8) (vd va : VOp)
  /-- VNEG (R184). -/
  | vneg (dt : Bool) (g : Fin 8) (vd va : VOp)
  /-- VNOT (R187). -/
  | vnot (dt : Bool) (g : Fin 8) (vd va : VOp)
  /-- VSQRT (R186). -/
  | vsqrt (dt : Bool) (g : Fin 8) (vd va : VOp)
  /-- VRCP (R186). -/
  | vrcp (dt : Bool) (g : Fin 8) (vd va : VOp)
  /-- VRSQ (R186). -/
  | vrsq (dt : Bool) (g : Fin 8) (vd va : VOp)
  /-- VEXP2 (R186). -/
  | vexp2 (dt : Bool) (g : Fin 8) (vd va : VOp)
  /-- VLOG2 (R186). -/
  | vlog2 (dt : Bool) (g : Fin 8) (vd va : VOp)
  /-- VCVT (R191). -/
  | vcvt (dt : Bool) (g : Fin 8) (vd va : VOp)
  /-- VIOTA (R197). -/
  | viota (dt : Bool) (g : Fin 8) (vd va : VOp)
  /-- VCONFLICT (R198). -/
  | vconflict (dt : Bool) (g : Fin 8) (vd va : VOp)
  /-- VMV (R192). -/
  | vmv (dt : Bool) (g : Fin 8) (vd va : VOp)
  /-- VBCAST (R193). -/
  | vbcast (dt : Bool) (g : Fin 8) (vd va : VOp)
  /-- VEXTRACT (R193). -/
  | vextract (g : Fin 8) (vd va : VOp)
  /-- VREDSUM (R199). -/
  | vredsum (dt : Bool) (g : Fin 8) (vd va : VOp)
  /-- VREDMAX (R199). -/
  | vredmax (dt : Bool) (g : Fin 8) (vd va : VOp)
  /-- VREDMIN (R199). -/
  | vredmin (dt : Bool) (g : Fin 8) (vd va : VOp)
  /-- MAND (R200). -/
  | mand (dt : Bool) (g : Fin 8) (vd va vb : VOp)
  /-- MOR (R200). -/
  | mor (dt : Bool) (g : Fin 8) (vd va vb : VOp)
  /-- MXOR (R200). -/
  | mxor (dt : Bool) (g : Fin 8) (vd va vb : VOp)
  /-- MANDN (R200). -/
  | mandn (dt : Bool) (g : Fin 8) (vd va vb : VOp)
  /-- MPOP (R201). -/
  | mpop (dt : Bool) (g : Fin 8) (vd va : VOp)
  /-- MFIRST (R201). -/
  | mfirst (dt : Bool) (g : Fin 8) (vd va : VOp)
  /-- MSET (R200). -/
  | mset (dt : Bool) (g : Fin 8) (vd : VOp)
  /-- MCLR (R200). -/
  | mclr (dt : Bool) (g : Fin 8) (vd : VOp)
  /-- VLD (R163). -/
  | vld (dt : Bool) (g : Fin 8) (vd : VOp) (sa : SOp)
  /-- VLDS (R163). -/
  | vlds (dt : Bool) (g : Fin 8) (vd : VOp) (sa sb : SOp)
  /-- VLDT (R164). -/
  | vldt (dt : Bool) (g : Fin 8) (vd : VOp) (sa : SOp)
  /-- VLDB (R165). -/
  | vldb (g : Fin 8) (vd : VOp) (sa : SOp)
  /-- VLDPK (R166). -/
  | vldpk (dt : Bool) (g : Fin 8) (vd : VOp) (sa sb : SOp)
  /-- VST (R172). -/
  | vst (dt : Bool) (g : Fin 8) (vd : VOp) (sa : SOp)
  /-- VSTU (R172). -/
  | vstu (dt : Bool) (g : Fin 8) (vd : VOp) (sa : SOp)
  /-- VSTS (R163). -/
  | vsts (dt : Bool) (g : Fin 8) (vd : VOp) (sa sb : SOp)
  /-- VSTT (R164). -/
  | vstt (dt : Bool) (g : Fin 8) (vd : VOp) (sa : SOp)
  /-- VSTPK (R167). -/
  | vstpk (dt : Bool) (g : Fin 8) (vd : VOp) (sa sb : SOp)
  /-- VLDX (R163). -/
  | vldx (dt : Bool) (g : Fin 8) (vd : VOp) (sa : SOp) (vi : VOp)
  /-- VSTX (R163). -/
  | vstx (dt : Bool) (g : Fin 8) (vd : VOp) (sa : SOp) (vi : VOp)
  /-- VAMOADD (R168). -/
  | vamoadd (dt : Bool) (g : Fin 8) (vd : VOp) (sa : SOp) (vi : VOp)
  /-- VAMOMAX (R168). -/
  | vamomax (dt : Bool) (g : Fin 8) (vd : VOp) (sa : SOp) (vi : VOp)
  /-- VAMOMIN (R168). -/
  | vamomin (dt : Bool) (g : Fin 8) (vd : VOp) (sa : SOp) (vi : VOp)
  /-- MMA (R229). -/
  | mma (dt : Bool) (g : Fin 8) (vd va vb : VOp)
  /-- MMAS (R229). -/
  | mmas (dt : Bool) (g : Fin 8) (vd va vb : VOp)
  /-- MMAU (R232). -/
  | mmau (dt : Bool) (g : Fin 8) (vd va vb : VOp)
  /-- VWMUL (R222). -/
  | vwmul (dt : Bool) (g : Fin 8) (vd va vb : VOp)
  /-- VWMAC (R222). -/
  | vwmac (dt : Bool) (g : Fin 8) (vd va vb : VOp)
  /-- VEXTF (R223). -/
  | vextf (dt : Bool) (g : Fin 8) (vd va : VOp)
  /-- VPACK (R224). -/
  | vpack (dt : Bool) (g : Fin 8) (vd va : VOp)
  /-- VUNPACK (R225). -/
  | vunpack (dt : Bool) (g : Fin 8) (vd va : VOp)
  /-- MZERO (R227). -/
  | mzero (g : Fin 8) (vd : VOp)
  /-- MSUMS (R228). -/
  | msums (dt : Bool) (g : Fin 8) (vd va : VOp)
  /-- DRAIN (R236). -/
  | drain (g : Fin 8) (vd va : VOp)
  /-- DRAINA (R237). -/
  | draina (g : Fin 8) (vd va : VOp)
  /-- DRAINQ (R238). -/
  | drainq (g : Fin 8) (vd va : VOp)
  /-- DRAINRC (R239). -/
  | drainrc (g : Fin 8) (vd va : VOp)
  /-- CSET (R245). -/
  | cset (sa : SOp) (n : BitVec 4)
  /-- CGET (R245). -/
  | cget (sd : SOp) (n : BitVec 4)
  /-- CLAUNCH (R246). -/
  | claunch (sd se : SOp) (g : Fin 8)
  /-- CCANCEL (R247). -/
  | ccancel (sd sa : SOp)
  /-- COLL (R248). -/
  | coll (sd se : SOp) (g : Fin 8)
  /-- GDECL (R249). -/
  | gdecl (sa sb : SOp)
  /-- GSTATE (R250). -/
  | gstate (sd sa sb : SOp)
  /-- GFREE (R251). -/
  | gfree (sa : SOp)
  /-- SYNCINIT (R252). -/
  | syncinit (sa sb : SOp)
  /-- SYNCWAIT (R253). -/
  | syncwait (sd sa sb : SOp) (g : Fin 8)
  /-- GBAR (R255). -/
  | gbar (sa : SOp) (g : Fin 8)
  /-- GARRIVE (R255). -/
  | garrive (sd sa : SOp) (g : Fin 8)
  /-- GWAIT (R255). -/
  | gwait (sa sb : SOp) (g : Fin 8)
  /-- TRAP (R256). -/
  | trap (n : BitVec 5)
  /-- ICINV (R260). -/
  | icinv (sd sa sb : SOp) (g : Fin 8)
  /-- ORCINV (R261). -/
  | orcinv (sd sa : SOp) (g : Fin 8)
  /-- OBJMOVE (R262). -/
  | objmove (sd sa sb : SOp) (fx : BitVec 5)
  /-- FLAGCLR (R263). -/
  | flagclr (sd sa : SOp)
  /-- CTRRD (R264). -/
  | ctrrd (sd sa : SOp)
  /-- NOP (R128). -/
  | nop (bits : BitVec 27)
  /-- Operation `seq` of hart `hid` performs (R270, R273). -/
  | memoryOpPerform (hid seq : Nat)
  /-- Hart `hid`, waiting in SETVLW, reads its watermark word again (R299). -/
  | watermarkReread (hid : Nat)
  /-- The ORC of a core is filled with the record of a handle of a context (R74). -/
  | orcFill (core ctx handle : Nat)
  /-- The map cache of a core is filled with a sub-tile entry (R77). -/
  | mapEntryFill (core ctx handle st : Nat)
  /-- Block `k` of transfer `x` is translated, probed and written (R88). -/
  | copyBlock (x k : Nat)
  /-- Transfer `x` ends and its status word is written (R89). -/
  | copyEnd (x : Nat)
  /-- The drain of move `x` ends (R79). -/
  | moveDrainEnd (x : Nat)
  /-- The copy of move `x` completes (R79). -/
  | moveCopyEnd (x : Nat)
  /-- The copy of move `x` aborts with a status code and element (R79, R90). -/
  | moveAbort (x code elem : Nat)
  /-- READY of a rank reaches the coordinator of collective `idx` of a communicator; `staged` is what a rank of another package sends: the terms that all must agree on, and its share (R248, R373). -/
  | collReady (comm idx rank : Nat) (staged : List Nat × List Nat)
  /-- ABORT of a rank reaches the coordinator (R373). -/
  | collAbort (comm idx rank : Nat)
  /-- Participant transfer `x` receives a decision: 0 the local coordinator's, 1 COMMIT and 2 ABORT of a coordinator elsewhere, 3 no route (R321, R373, R374). -/
  | collDecision (x verdict : Nat)
  /-- Both dies have invalidated the range of ICINV `x` (R260). -/
  | icinvDone (x : Nat)
  /-- The handle of ORCINV `x` has been dropped everywhere (R261). -/
  | orcinvDone (x : Nat)
  /-- The banks of a core are exchanged (R258, R316). -/
  | bankExchange (core : Nat)
  /-- The image of the spilled bank of a core is written (R316). -/
  | spillDone (core : Nat)
  /-- The image of a context is loaded into the shadow bank of a core (R316). -/
  | bankFillDone (core ctx : Nat)
  /-- A host write of `size` bytes to a device register of BAR 0; from 0x80000 on, a write of firmware to a power controller (R4, R359,
  R360, R375). -/
  | registerWrite (off size : Nat) (val : Word)
  /-- A request to retire a pseudo-channel of a die (R53). -/
  | mcbRetirePch (die pch : Nat)
  /-- TOPCUT of a die is written (R53). -/
  | topcut (die : Nat)
  /-- A waiting retirement of a die starts its migration (R54). -/
  | migrationStart (die : Nat)
  /-- The sweep of a die copies one unit (R54). -/
  | migrateUnit (die : Nat)
  /-- The sweep of a die ends (R54). -/
  | migrationEnd (die : Nat)
  /-- MCB_NRP of a die is written (R56). -/
  | mcbNrpWrite (die : Nat) (val : Word)
  /-- MCB_SEED of a die is written (R56). -/
  | mcbSeedWrite (die : Nat) (val : Word)
  /-- A row of a pseudo-channel is activated; `draw` is what the entropy source gives when TEST is 0 (R56). -/
  | activate (die pch : Nat) (draw : BitVec 16)
  /-- A stack raises an alert for a pseudo-channel (R57). -/
  | activationAlert (die pch : Nat)
  /-- The back-off window of a pseudo-channel ends (R57). -/
  | backoffWindowEnd (die pch : Nat)
  /-- The patrol scrub reads a unit of a die and finds `errs` correctable lines; 5 to 8: line `errs - 5` uncorrectable (R58, R59). -/
  | patrolScrub (die unit errs : Nat)
  /-- Window register `n` is written (R61). -/
  | cxwWrite (n : Nat) (val : Word)
  /-- The link of a CXL port goes down (R63, R366). -/
  | cxlLinkDown (port : Nat)
  /-- A CXL port trains with a device of generation `gen`, 0 CXL 2.0 and 1 CXL 3.x or later, that supports rates up to `most` GT/s, on `width` lanes (R24, R60, R366). -/
  | cxlPortTrained (port gen most width : Nat)
  /-- RETRAIN of a CXL port is written (R366). -/
  | retrain (port : Nat)
  /-- IU_DOORBELL is written (R362). -/
  | iuDoorbell (val : Word)
  /-- A queue with work is given a free slot (R293). -/
  | queueSlotGrant (queue : Nat)
  /-- The next record of a queue that holds a slot is taken (R290, R363). -/
  | recordIntake (queue : Nat)
  /-- A decrement that has been sent reaches a node (R288). -/
  | decrement (ctx node : Nat) (real : Bool)
  /-- The predicate read of a ready conditional node returns (R291). -/
  | conditionalRead (ctx node : Nat)
  /-- A ready kernel node is placed (R294). -/
  | kernelPlacement (ctx node : Nat)
  /-- A kernel that has waited over a timeslice makes the unit pre-empt cores (R294). -/
  | preemptCores (ctx node : Nat)
  /-- A node whose operations have performed completes (R289). -/
  | nodeComplete (ctx node : Nat)
  /-- The harts of a core move to the core R296 chooses. -/
  | hartMigration (core : Nat)
  /-- Firmware retires a core (R10, R385). -/
  | coreRetire (core : Nat)
  /-- IU_KILL is written (R319). -/
  | iuKill (val : Word)
  /-- RT_REQ is written (R347). -/
  | rtReqGo (val : Word)
  /-- A host write to device memory performs (R360). -/
  | hostWrite (addr : Nat) (bytes : List Byte)
  /-- A host read of device memory; from 2^47 on, of BAR 0 (R359, R360). -/
  | hostRead (addr n : Nat)
  /-- A flit arrives at a Stolier port (R368). -/
  | flitReceive (port : Nat) (flit : BitVec 2048)
  /-- The repair of a due lane of a Stolier port proceeds (R369). -/
  | laneRepair (port : Nat)
  /-- The training of a Stolier port ends, well or not, with a partner that offers 224 Gb/s or not (R24, R369). -/
  | stolierRetrainEnd (port : Nat) (ok partner : Bool)
  /-- FORCE of a Stolier port is written with a lane (R370). -/
  | force (port lane : Nat)
  /-- EN of a Stolier port is written (R370). -/
  | stlctlEn (port : Nat) (en : Bool)
  /-- A fatal error with a cause, a die and a unit (R323). -/
  | fatalError (cause die unit : Nat)
  /-- The next 16-slot window of a cluster begins (R376). -/
  | levelWindowBoundary (cl : Nat)
  /-- The 100 microsecond evaluation of a die with its measured power in milliwatts (R379). -/
  | powerEval (die mw : Nat)
  /-- The 1 ms evaluation of a die (R380). -/
  | thermalEval (die : Nat)
  /-- The hottest sensor of a cluster is read (R377). -/
  | tempRefresh (cl : Nat) (t : BitVec 8)
  /-- The 10 ms evaluation of the SRAM rail of a die, after `found` errors that reads of core `core` have corrected (R264, R383). -/
  | vsramEval (die core found : Nat)
  /-- The SRAM patrol scrub of a core reads a word: `what` 0 clean, 1 corrected, else uncorrectable in the storage that R322 lists (R322, R384). -/
  | sramScrub (core what pos : Nat)
  /-- A cluster has held for HOLD microseconds (R381). -/
  | gateHoldEnd (cl : Nat)
  /-- A wake request reaches a cluster (R381). -/
  | wakeRequest (cl : Nat)
  /-- GATEEN of a cluster is written (R381). -/
  | gateenWrite (cl : Nat) (en : Bool)
  /-- A fetched word that does not decode (R126, R128). -/
  | illegalInstruction (w : BitVec 32)
  /-- A Stolier port loses its lanes or its partner (R369, R374). -/
  | stolierLinkLoss (port : Nat)
  /-- STICKEND (R143). -/
  | stickend
  /-- END (R158). -/
  | endHart
  /-- ERET (R308). -/
  | eret
  /-- BREAK (R256). -/
  | brk
  /-- SWAPCTX (R258). -/
  | swapctx
  /-- SPILLWAIT (R259). -/
  | spillwait
  /-- The lowest held asynchronous cause of the hart in focus is taken at its boundary (R310). -/
  | asyncTrap
  /-- A queue wait cycle of the hart in focus has lasted 2^20 cycles (R112, R318). -/
  | qdeadlock
  /-- A timeslice ends (R293). -/
  | timesliceEnd
  /-- The oldest queued installation request runs (R348). -/
  | installObject
  /-- The oldest queued removal request runs (R348). -/
  | removeObject
  /-- The 10 microsecond throttle of vector 0 ends (R364). -/
  | msixVector0Timer
  /-- The dump completes (R323). -/
  | dumpComplete
  /-- The in-rush arbiter serves the next waking cluster (R382). -/
  | wakeRampStart
  /-- The ramp of the served cluster ends (R381, R382). -/
  | wakeDone
  /-- Package reset and bring-up (R386). -/
  | packageReset
  /-- The fetch at the pc faults (R122, R346). -/
  | fetchFault
  deriving DecidableEq, Repr

end Sys2Proof
end

