-- ==== Sys2Proof/Machine/State.lean ====
section
/-! DEFINITION. The state of the package as plain data, and the state after package reset (R386). A field cites the
rule of spec/ that names it. -/

namespace Sys2Proof.Machine

/-! ## Why a step stops -/

/-- Why the machine stops with a fault. -/
inductive Fault where
  /-- Raised by `step` when the package is halted by a fatal error: it issues nothing until package reset (R323). Safe:
  the spec itself stops the machine. -/
  | halted
  deriving DecidableEq, Repr

/-- Why a step is refused. -/
inductive Refusal where
  /-- Raised by `exec` for an instruction that has no meaning yet. Safe: nothing can be proved of its effect. -/
  | notModelled (mnemonic : String)
  deriving DecidableEq, Repr

/-! ## Places of memory -/

/-- Bytes by address in canonical form: addresses strictly rising, no byte equal to what an unlisted address reads
as. -/
abbrev Cells := List Host.Cell

/-- What an unlisted byte reads as: main memory after power-on (the spec gives nothing: log 4), a zeroed scratchpad
(R381). -/
def unlisted : Byte := 0

/-- The canonical form of a memory, from a lower bound on. -/
def wfFrom (lo : Nat) : Cells → Bool
  | [] => true
  | (a, b) :: rest => decide (lo ≤ a) && b != unlisted && wfFrom (a + 1) rest

/-- The canonical form of a memory. -/
def Memory.wf (m : Cells) : Bool := wfFrom 0 m

/-- Where one element lies: in main memory (`core = none`) or in the scratchpad of a core, from a byte address and a bit
within it, over a number of bits (R50, R64, R68). -/
structure Place where
  core : Option Nat
  addr : Nat
  bit  : Nat
  bits : Nat
  /-- Where its second and last byte lies, when another sub-tile holds that byte (R77). -/
  next : Option Nat := none
  deriving DecidableEq, Repr

/-- A range of image bytes of one handle of a context, as an interlock entry holds it (R173). -/
structure Span where
  handle : Nat
  lo     : Nat
  hi     : Nat
  deriving DecidableEq, Repr

/-! ## Traps -/

/-- What a trap reports: the cause code of R303 and the frame fields of R305 and R306. -/
structure TrapInfo where
  code  : Nat
  elem  : Nat := 0
  coord : List Nat := []
  info  : Word := 0
  deriving DecidableEq, Repr

/-- Why an instruction waits. -/
inductive WaitReason where
  /-- A queue to be read is empty (R111). -/
  | queueEmpty (q : Fin 8)
  /-- A queue to be written is full (R111). -/
  | queueFull (q : Fin 8)
  /-- A register is pending (R87, R243). -/
  | pendingReg
  /-- A landed bit is clear (R91). -/
  | landed
  /-- An earlier instruction of the hart has not retired (R154, R304). -/
  | earlier
  /-- An earlier operation that the instruction is ordered after has not performed, or the interlock holds it (R173,
  R273). -/
  | ordering
  /-- A stream has 1,023 operations outstanding, 64 transfers or 8 moves are pending, or a table is full (R87, R153,
  R173, R262). -/
  | limit
  /-- The object is being moved (R79). -/
  | moving
  /-- SETVLW waits for its watermark (R148). -/
  | watermark
  /-- SYNCWAIT waits for a generation of a galley (R253). -/
  | sync (galley : Nat)
  /-- GARRIVE, GWAIT or GBAR waits for a phase (R255). -/
  | phase
  /-- SWAPCTX or SPILLWAIT waits for the shadow bank (R258, R259). -/
  | bank
  /-- GSTATE or GFREE waits for an access to the galley (R250). -/
  | galley
  /-- END waits for the operations of the hart (R158). -/
  | drain
  /-- A pseudo-channel is in its back-off window (R57). -/
  | backoff
  /-- The window of the core has no room for what would join the instructions that wait (R297, R298). -/
  | window
  deriving DecidableEq, Repr

/-- How an attempt of an instruction ends other than by retiring. -/
inductive Stop where
  | trap (t : TrapInfo)
  | wait (r : WaitReason)
  /-- It waits at retirement for room in a queue; its queues are as it has popped them (R111). -/
  | full (q : Fin 8) (qs : Vector (List Word) 8)
  deriving DecidableEq, Repr

/-! ## The registers of a hart -/

/-- A v or w register of a hart: 512 bytes in each of up to 32 lanes (R12). Byte 64 L j + 64 l + b holds byte 64 j + b
of lane l (element group j), so that the elements of R108 lie in rising order. -/
abbrev VReg := BitVec 131072

/-- A z register: 4 KiB in each of up to 32 lanes (R12); the bytes of lane l follow those of lane l - 1. -/
abbrev ZReg := BitVec 1048576

/-- An m register: 256 bits in each of up to 32 lanes (R12, R182). -/
abbrev MReg := BitVec 8192

/-- The composing stick (R142 to R146, R153). -/
structure Stick where
  count   : Vector (BitVec 32) 6
  index   : Vector (BitVec 32) 6
  stride  : Vector Word 6
  firsts  : Word
  lasts   : Word
  active  : Bool
  lvm1    : BitVec 3
  len     : BitVec 7
  walk    : BitVec 5
  flagLvl : BitVec 3
  pos     : BitVec 7
  base    : Word
  pc      : Word
  /-- The captured words, by body index, each with its ordering strength (R146, R344). -/
  buf     : List (Nat × BitVec 32 × Bool)
  /-- Which capture the buffer holds, and which one the last trap inside a body left there (R146). -/
  capture : Nat
  held    : Nat
  deriving DecidableEq, Repr

/-- Counts of committed instructions that wait to be added to the counters of the core (R47, R264). -/
structure Counts where
  retired  : Nat
  nanenc   : Nat
  headroom : Nat
  dtskip   : Nat
  deriving DecidableEq, Repr

/-- A store buffered in the strip (R175). -/
structure StripStore where
  seq    : Nat
  stream : Nat
  pmask  : BitVec 16
  scope  : Nat
  spans  : List Span
  lines  : List (Nat × Nat)
  writes : List (Place × Nat)
  deriving DecidableEq, Repr

/-- The strip of a hart (R156, R157, R175). -/
structure StripState where
  isOpen : Bool
  w      : Word
  b      : Word
  pc     : Word
  stores : List StripStore
  flags  : BitVec 7
  counts : Counts
  deriving DecidableEq, Repr

/-- The registers of a hart (R107) that a discarded instruction leaves unchanged. -/
structure Regs where
  pc     : Word
  x      : Vector Word 24
  v      : Vector VReg 64
  w      : Vector VReg 8
  z      : Vector ZReg 4
  m      : Vector MReg 8
  g      : Vector Word 8
  fm     : Vector Word 8
  c      : Vector Word 16
  q      : Vector (List Word) 8
  vl     : Word
  vstart : Word
  prog   : Word
  rows   : Word
  pitch  : Word
  wpos   : Word
  fflags : BitVec 7
  dphase : Word
  /-- The barrier token, laid out as TBTOK (R254, R306). -/
  token  : Word
  stick  : Stick
  strip  : StripState
  /-- The trap frame 0x100 to 0x1FF (R305). -/
  frame  : Vector Word 256
  /-- The instruction at the pc re-executes in progress mode (R308, R312). -/
  armed  : Bool
  /-- The counter RETIRED (R264). -/
  retired : Word
  /-- Counts not yet added to the core (R264, R314). -/
  counts : Counts
  deriving DecidableEq, Repr

/-- What an instruction of the vector or access stream copies when it is dispatched (R115, R154). -/
structure Env where
  seq    : Nat
  slot   : Word
  slot2  : Word
  forme  : Word
  vl     : Nat
  vstart : Nat
  prog   : Nat
  rows   : Nat
  pitch  : Int
  a      : Word
  b      : Word
  armed  : Bool
  strong : Bool
  pc     : Word
  deriving DecidableEq, Repr

/-- An element whose data an operation reads: its place, and what a fault of it names (R58). -/
structure Mark where
  place  : Place
  handle : Nat
  elem   : Nat
  coord  : List Nat
  deriving DecidableEq, Repr

/-- What an operation that has issued does when it performs (R270). -/
inductive Action where
  /-- Write values to places, in order. -/
  | store (ws : List (Place × Nat))
  /-- Read the places as one little-endian value of n bytes into a scalar destination, sign-extended or not. -/
  | load (sd : SOp) (ps : List Place) (n : Nat) (signed : Bool)
  /-- The read-modify-write of a scalar atomic. -/
  | amo (fn : Nat) (sd : SOp) (p : Place) (operand expected : Word)
  /-- Read the places of the elements of a vector load, of a memory format. -/
  | vload (fmt : Nat) (ps : List (Nat × Place))
  /-- The combined updates of a vector atomic, in order. -/
  | vamo (us : List (Place × Nat))
  /-- The galley reads of MMAU. -/
  | mmau (ps : List (Nat × Place))
  deriving DecidableEq, Repr

/-- An instruction that has been dispatched and waits to start (`parked`), or an operation that has issued and has not
performed (R270, R273). -/
structure Flight where
  seq    : Nat
  instr  : Instr
  env    : Env
  parked : Bool
  /-- Every check the instruction makes at issue has passed; it only waits. -/
  checked : Bool
  /-- Why it waits, as its last attempt found. -/
  why    : Option WaitReason
  /-- The registers before the instruction, to which a trap of it returns (R6, R304). -/
  before : Regs
  stream : Nat
  pmask  : BitVec 16
  scope  : Nat
  spans  : List Span
  writes : Bool
  action : Action
  /-- It is a store that PROOF has released, or the watermark write of one. -/
  released : Bool
  /-- The elements whose data it reads, and the places whose data were lost on the way with their port (R58, R63). -/
  marks  : List Mark := []
  lost   : List Place := []
  /-- The model's own: the age of the request, by which a controller tells the oldest of a channel (R57). -/
  born   : Nat := 0
  deriving DecidableEq, Repr

/-- A load that took its value from the strip buffer: it has performed at a scope wider than the hart's only when the stores
that supplied the value have (R270). -/
structure Lent where
  seq     : Nat
  stream  : Nat
  sources : List Nat
  deriving DecidableEq, Repr

/-- A held asynchronous cause (R310). -/
structure Async where
  code : Nat
  info : Word
  elem : Nat
  deriving DecidableEq, Repr

/-- The ORC and map entries that a hart pins (R76, R313): the translated place of the element. -/
structure Pin where
  pc     : Word
  start  : Nat
  handle : Nat
  sub    : Nat
  frame  : Word
  words  : Vector Word 8
  deriving DecidableEq, Repr

/-- Where the registers of a hart lie (R316). -/
inductive Bank where
  | active | shadow | image
  deriving DecidableEq, Repr

/-- A hart (R107). -/
structure Hart where
  /-- The model's own name of the hart. -/
  hid    : Nat
  live   : Bool
  core   : Nat
  idx    : Nat
  nh     : Nat
  ctx    : Nat
  node   : Nat
  launch : Nat
  bank   : Bank
  otb    : Word
  gmask  : BitVec 32
  rswap  : Bool
  rtable : Bool
  trapv  : Word
  r      : Regs
  /-- One bit for each element group of each v register (R91). -/
  landed : Vector (BitVec 8) 64
  issued : Vector (BitVec 16) 16
  perf   : Vector (BitVec 16) 16
  lastTid : BitVec 16
  nextSeq : Nat
  flights : List Flight
  /-- Loads whose value came from stores of the strip (R270). -/
  lent    : List Lent
  /-- Operations, by sequence number and stream, that have performed while an earlier instruction could still trap (R6, R153). -/
  late    : List (Nat × Nat)
  /-- Entries that the instruction at the pc has popped while it waits at retirement (R111). -/
  popped  : List (Nat × Word)
  /-- The instruction in hand was fetched from text of memory-model revision 1 (R115, R344). -/
  strong  : Bool
  asyncs : List Async
  pin    : Option Pin
  wait   : Option WaitReason
  /-- The parked instruction that the step in hand starts. -/
  replay : Option Flight
  /-- The turn of this step keeps the memory operation of the instruction from performing at once. -/
  defer  : Bool
  /-- An instruction before this sequence number can trap no more at issue: one with an effect that nothing takes back has passed it
  (R6, R304). -/
  firmSeq : Nat
  deriving DecidableEq, Repr

/-! ## Cores -/

/-- An entry of the ORC (R74). -/
structure OrcEntry where
  ctx    : Nat
  handle : Nat
  words  : Vector Word 8
  deriving DecidableEq, Repr

/-- An entry of the sub-tile map cache (R74, R77). -/
structure MapEntry where
  ctx    : Nat
  handle : Nat
  sub    : Nat
  entry  : Word
  deriving DecidableEq, Repr

/-- A word of an instruction cache, by context, object address and physical address (R74, R260). -/
structure CachedWord where
  ctx  : Nat
  pc   : Word
  addr : Nat
  word : BitVec 32
  deriving DecidableEq, Repr

/-- The state of a shadow bank (R316). -/
inductive Shadow where
  | free | filling | clean | spilling
  deriving DecidableEq, Repr

/-- A core (R12). -/
structure Core where
  scratch  : Cells
  /-- Byte addresses of scratchpad words that hold an uncorrectable error (R322). -/
  badWords : List Nat
  galleys  : Vector Word 32
  sync     : Vector Word 32
  /-- Galleys whose change to full waits for the copies in flight (R95). -/
  pendingFull : BitVec 32
  /-- Galleys of a killed context, undeclared when the last transfer on them ends (R92, R320). -/
  dying    : BitVec 32
  orc      : List OrcEntry
  maps     : List MapEntry
  icache   : List CachedWord
  shadow   : Shadow
  /-- A swap has been asked for, by a hart (`some hid`) or by the unit (`some none`). -/
  swapAsked : Option (Option Nat)
  nanenc   : Word
  headroom : Word
  sramce   : Word
  dtskip   : Word
  swaps    : Word
  present  : Bool
  /-- The harts of the core are to move to another core (R296). -/
  leaving  : Bool
  /-- The shadow bank became Clean while there was no image area, and has no image (R317). -/
  kept     : Bool
  /-- The number of the hart that was served last with a shared entry of the window (R298). -/
  served   : Nat
  /-- The first evaluation of the die at or after the arrival of the harts, and the one at which heat made them leave, 0 for none (R380). -/
  arrived  : Nat
  heatAt   : Nat
  deriving DecidableEq, Repr

/-! ## Transfers and collectives -/

/-- What a transfer is. -/
inductive TransferKind where
  | copy | coll | move | icinv | orcinv
  deriving DecidableEq, Repr

/-- A copy, COLL, move or invalidation under way (R83, R105, R79, R260, R261). -/
structure Transfer where
  uid    : Nat
  kind   : TransferKind
  /-- The hart it acts for; none for a node of the graph (R287). -/
  owner  : Option Nat
  ctx    : Nat
  node   : Option Nat
  core   : Nat
  cluster : Nat
  lanes  : Nat
  otb    : Word
  tid    : BitVec 16
  se     : Fin 24
  latch  : Vector Word 16
  slot   : Word
  seq    : Nat
  stream : Nat
  pmask  : BitVec 16
  scope  : Nat
  spans  : List Span
  gsrc   : Option Nat
  gdst   : Option Nat
  /-- The v registers whose landed bits it has cleared (R91). -/
  vregs  : List Nat
  /-- Copies: the code lengths, once the table has been read (R102); source elements read ahead of their block (R283). -/
  lens   : Option (List Nat)
  ahead  : List (Nat × Nat)
  /-- Moves: the record as the move began, which a software write does not change (R75). -/
  moved  : Option (Vector Word 8)
  /-- Copies: blocks checked and read before a higher one was written: each element with the place and the value it is still to write,
  or nothing where the block fails alone as corrupt (R88). -/
  prepared : List (Nat × Option (List (Nat × Place × Nat)))
  /-- Blocks that have performed, blocks that failed alone, an early end, a cancel. -/
  done   : List Nat
  failed : List (Nat × Nat)
  ended  : Option (Nat × Nat)
  cancelled : Bool
  flags  : BitVec 7
  /-- Moves: begun draining, copying. -/
  draining : Bool
  copying : Bool
  /-- COLL: its position on the communicator, whether its share is staged. -/
  index  : Nat
  staged : Bool
  /-- COLL: where its results go, and their scales, as it checked them when it staged (R80, R105). -/
  dests  : List (Place × Option Place)
  deriving DecidableEq, Repr

/-- A collective under way: the shares staged so far and the coordinator's decision (R373). -/
structure Coll where
  comm    : Nat
  index   : Nat
  nranks  : Nat
  /-- What every participant must agree on (R248). -/
  terms   : List Nat
  shares  : List (Nat × List Nat)
  ready   : List Nat
  decided : Option Bool
  /-- Rank 0 is of this package, whose engine coordinates. -/
  home    : Bool
  /-- An ABORT has left this package, whose ranks are not all ready, for the coordinator: no COMMIT can follow (R373). -/
  barred  : Bool
  /-- The ranks that have received the decision. -/
  left    : List Nat
  deriving DecidableEq, Repr

/-! ## The imposition unit -/

/-- Where a node stands (R288, R294). -/
inductive NodeState where
  | credit | waiting | ready | running | ending (status : Nat)
  deriving DecidableEq, Repr

/-- A group of a launch (R254, R295). -/
structure Group where
  members : List Nat
  arrived : List Nat
  ended   : List Nat
  phase   : BitVec 16
  deriving DecidableEq, Repr

/-- An entry of the node table (R284, R288). -/
structure Node where
  ctx     : Nat
  id      : Nat
  record  : Vector Word 16
  counter : Nat
  anyReal : Bool
  st      : NodeState
  /-- How many of its harts have executed END. -/
  ended   : Nat
  groups  : List (Nat × Group)
  branch  : Bool
  status  : Word
  flags   : BitVec 7
  /-- A timeslice has ended while it waited for cores (R294). -/
  slices  : Nat
  deriving DecidableEq, Repr

/-- What the unit keeps of a software queue (R362, R293). -/
structure QueueInfo where
  queue : Nat
  word0 : Word
  work  : Bool
  /-- Holds a slot, and since before the last timeslice ended. -/
  slot  : Bool
  whole : Bool
  deriving DecidableEq, Repr

/-- The registers and tables of the imposition unit (R284, R317, R319, R361, R364, R372). -/
structure Unit_ where
  ctxt    : Word
  slice   : Word
  spill   : Word
  qtab    : Word
  elog    : Word
  elogp   : Word
  elogc   : Word
  commtab : Word
  nodes   : List Node
  /-- In the order in which they began to wait. -/
  queues  : List QueueInfo
  /-- Decrements sent and not yet arrived: context, node, real. -/
  decs    : List (Nat × Nat × Bool)
  /-- How many COLLs each participant has issued on each communicator: communicator, rank, count. -/
  colls   : List (Nat × Nat × Nat)
  fired0  : Nat
  fired1  : Nat
  /-- Within 10 microseconds of a firing; entries written meanwhile. -/
  throttle : Bool
  again   : Bool
  deriving DecidableEq, Repr

/-! ## Memory control, links, root of trust, power -/

/-- The memory control block of a die (R52 to R59). -/
structure Mcb where
  retired  : List Nat
  waiting  : List Nat
  /-- Retirements held until more cuts are made, oldest first (R53). -/
  heldPch  : List Nat
  migrating : Option Nat
  bound    : Nat
  esc      : Bool
  share    : BitVec 3
  cuts     : Nat
  rpch     : Nat
  halved   : List Nat
  nrp      : Word
  seed     : Word
  /-- The seeded generators by channel; empty until TEST loads them. -/
  gens     : List (BitVec 32)
  scrub    : Word
  /-- Corrected and uncorrectable errors by channel (R58), and the corrected ones of the hour (R59). -/
  ce       : List (Nat × Nat)
  ue       : List (Nat × Nat)
  ceHour   : List (Nat × Nat)
  /-- Channels in a back-off window: the windows still to end, and the model's count of requests at the beginning of each of the last of
  them, newest first (R57). -/
  windows  : List (Nat × Nat × List Nat)
  alerts   : Word
  refreshes : Word
  deriving DecidableEq, Repr

/-- A Stolier port (R367 to R370). -/
structure Port where
  ctl     : Word
  /-- 0 down, 1 training, 2 up, 3 replay, 4 repair. -/
  st      : BitVec 3
  rate    : Bool
  width   : Nat
  spare   : Bool
  crcerr  : Nat
  repairs : Nat
  replays : Nat
  /-- Flits sent and not acknowledged, oldest first. -/
  buffer  : List (BitVec 2048)
  nextSeq : BitVec 12
  acked   : BitVec 12
  expect  : BitVec 12
  /-- The flits that have failed their CRC, each with the SEQ that it was taken to have (R369). -/
  failed  : List (BitVec 12 × BitVec 2048)
  /-- Lanes that work, the spare counted for the one it replaces. -/
  lanes   : Nat
  /-- The last flit accepted, whose payload goes to the collective engine or to the port of its route. -/
  last    : Option (BitVec 2048)
  /-- Lanes charged with the count of flits received at the charge. -/
  charges : List (Nat × Nat)
  flits   : Nat
  due     : List Nat
  /-- The replay in hand: the newest sequence number to be acknowledged, and its NAKs. -/
  replay  : Option (BitVec 12 × Nat)
  /-- The replay that a NAK of this port asked of the other end: the newest flit that it will send again (R369). -/
  asked   : Option (BitVec 12)
  /-- What the last step of the port put on its lanes. -/
  out     : List (BitVec 2048)
  /-- The payloads that wait to be sent: of control flits, which go first, and of data flits (R367). -/
  control : List (BitVec 1920)
  data    : List (BitVec 1920)
  deriving DecidableEq, Repr

/-- A registered text range (R346): context, handle, offsets, physical base, revision. -/
structure TextRange where
  ctx  : Nat
  handle : Nat
  lo   : Nat
  len  : Nat
  phys : Nat
  rev  : Nat
  deriving DecidableEq, Repr

/-- The root-of-trust core (R323, R345 to R348). -/
structure Rot where
  queue   : List Nat
  /-- Public-key slots: modulus and REVOKED; none is empty. -/
  keys    : Vector (Option (Nat × Bool)) 8
  ranges  : List TextRange
  digests : List (BitVec 256)
  dumpe   : Word
  dumpw   : Word
  deriving DecidableEq, Repr

/-- PSTATE of a cluster (R381). -/
inductive PState where
  | active | hold | gated | waking
  deriving DecidableEq, Repr

/-- Power and clock state of a cluster (R376 to R378, R381). -/
structure Cluster where
  level   : BitVec 5
  elevel  : BitVec 5
  kern    : BitVec 3
  gateen  : Bool
  pstate  : PState
  temp    : BitVec 8
  thermal : Nat
  cycles  : Word
  /-- Whether the spare core has taken a number (R10). -/
  spareUsed : Bool
  deriving DecidableEq, Repr

/-- Power state of a die (R379, R380, R383). -/
structure Die where
  pcap    : BitVec 11
  thot    : BitVec 8
  hold    : BitVec 8
  power   : Nat
  thermal : Nat
  vnow    : BitVec 10
  vmin    : BitVec 10
  vmax    : BitVec 10
  ceset   : BitVec 16
  /-- Corrected SRAM errors since the last evaluation of the rail, whether an uncorrectable one has occurred, and the evaluations for
  which the rail is still held at its ceiling (R383). -/
  srErrs  : Nat
  srUe    : Bool
  vheld   : Nat
  evals   : Nat
  mcb     : Mcb
  deriving DecidableEq, Repr

/-- What the host last read (R360). -/
inductive HostReply where
  | none
  | data (bytes : List Byte)
  | unsuccessful
  deriving DecidableEq, Repr

/-- A fatal error in hand (R323). -/
structure Fatal where
  cause : Nat
  die   : Nat
  part  : Nat
  dumped : Bool
  deriving DecidableEq, Repr

/-- Who takes the next step: an event of an agent, or a hart, which may keep the operation it issues from performing at
once; or what happens to the package that no row of the opcode table names. -/
inductive Turn where
  | event (i : Instr)
  | hart (hid : Nat) (defer : Bool)
  /-- A copy reads its source element k before it performs the block (R283). -/
  | read (uid k : Nat)
  /-- An operation of a hart, or a block of a copy, performs though its channel is in a back-off window: the row was open when the alert
  came (R57). -/
  | openRow (hid seq : Nat)
  | openBlock (uid k : Nat)
  /-- An error arises in a 64-byte word of memory, correctable or not; a CXL response that carries poison is one that is not
  (R58, R59). -/
  | upset (word : Nat) (uncorrectable : Bool)
  /-- An hour of corrected errors of a die has passed (R59). -/
  | hour (die : Nat)
  /-- The key slots are written at manufacture (R345). -/
  | provision (keys : List (Option (Nat × Bool)))
  /-- A firmware update, which slot 0 must have signed, writes a key slot (R345). -/
  | update (image : List Byte) (slot : Nat) (key : Nat × Bool)
  /-- The next step of bring-up: whether the firmware image verifies, the cores that fail their test, a stack that fails to train
  (R386). -/
  | bringUp (image : Bool) (failing : List Nat) (stack : Option Nat)
  deriving DecidableEq, Repr

/-- The state of the package. -/
structure State where
  /-- The hart in focus, and every other hart, whatever bank holds it. -/
  me      : Hart
  rest    : List Hart
  /-- Cores by package core number; an unlisted core is as after reset. -/
  cores   : List (Nat × Core)
  mem     : Cells
  /-- 64-byte words of memory, by index, that hold an uncorrectable error, and those that hold a correctable one (R58). -/
  badMem  : List Nat
  softMem : List Nat
  transfers : List Transfer
  colls   : List Coll
  unit    : Unit_
  dies    : Vector Die 2
  cxw     : Vector Word 16
  cxp     : Vector Word 8
  stlNode : Word
  stlRtab : Word
  ports   : Vector Port 16
  rot     : Rot
  clusters : Vector Cluster 20
  /-- The in-rush arbiter: the clusters waiting, and the one that ramps (R382). -/
  arbiter : List Nat
  ramping : Option Nat
  fatal   : Option Fatal
  host    : HostReply
  /-- The step of bring-up that is next, 0 when the package is up; 6 when its firmware image has failed to verify (R386). -/
  boot    : Nat
  /-- The model's own: the next name of a transfer and of a hart, the free values drawn, the turns to come. -/
  nextUid : Nat
  nextHid : Nat
  drawn   : Nat
  agenda  : List Turn
  deriving DecidableEq, Repr

/-! ## The values at launch and at reset -/

/-- The value of every mode slot at launch (R113). -/
def slotReset : Word := 0x0000000000040000

/-- No counts. -/
def Counts.zero : Counts := { retired := 0, nanenc := 0, headroom := 0, dtskip := 0 }

/-- The stick at launch (R142, R152). -/
def Stick.reset : Stick :=
  { count := Vector.replicate 6 1, index := Vector.replicate 6 0, stride := Vector.replicate 6 0, firsts := 0,
    lasts := 0, active := false, lvm1 := 0, len := 0, walk := 0, flagLvl := 0, pos := 0, base := 0, pc := 0,
    buf := [], capture := 0, held := 0 }

/-- No strip open (R156). -/
def StripState.reset : StripState :=
  { isOpen := false, w := 0, b := 0, pc := 0, stores := [], flags := 0, counts := Counts.zero }

/-- The launch value of the trap-frame register of a number from 0x100 (R305). -/
def frameReset (i : Nat) : Word :=
  if i = 0x0F then 1 else if 0x18 ≤ i ∧ i ≤ 0x1F then slotReset else if 0xA0 ≤ i ∧ i ≤ 0xA5 then 1 else 0

/-- The registers at launch, the pc apart (R107, R152). -/
def Regs.launch : Regs :=
  { pc := 0, x := Vector.replicate 24 0, v := Vector.replicate 64 0, w := Vector.replicate 8 0,
    z := Vector.replicate 4 0, m := Vector.replicate 8 0, g := Vector.replicate 8 slotReset,
    fm := Vector.replicate 8 0, c := Vector.replicate 16 0, q := Vector.replicate 8 [], vl := 0, vstart := 0,
    prog := 0, rows := 1, pitch := 0, wpos := 0, fflags := 0, dphase := 0, token := 0, stick := Stick.reset,
    strip := StripState.reset, frame := Vector.ofFn fun i => frameReset i.val, armed := false, retired := 0,
    counts := Counts.zero }

/-- No hart: what stands in focus before any launch. -/
def Hart.idle : Hart :=
  { hid := 0, live := false, core := 0, idx := 0, nh := 0, ctx := 0, node := 0, launch := 0, bank := .active,
    otb := 0, gmask := 0, rswap := false, rtable := false, trapv := 0, r := Regs.launch,
    landed := Vector.replicate 64 0xFF, issued := Vector.replicate 16 0, perf := Vector.replicate 16 0,
    lastTid := 0, nextSeq := 1, flights := [], lent := [], late := [], popped := [], strong := false, asyncs := [],
    pin := none, wait := none, replay := none, defer := false, firmSeq := 0 }

/-- A core after reset. -/
def Core.reset : Core :=
  { scratch := [], badWords := [], galleys := Vector.replicate 32 0, sync := Vector.replicate 32 0,
    pendingFull := 0, dying := 0, orc := [], maps := [], icache := [], shadow := .free, swapAsked := none, nanenc := 0,
    headroom := 0, sramce := 0, dtskip := 0, swaps := 0, present := true, leaving := false,
    kept := false, served := 0, arrived := 0, heatAt := 0 }

/-- The imposition unit after reset. -/
def Unit_.reset : Unit_ :=
  { ctxt := 0, slice := 2000, spill := 0, qtab := 0, elog := 0, elogp := 0, elogc := 0, commtab := 0, nodes := [],
    queues := [], decs := [], colls := [], fired0 := 0, fired1 := 0, throttle := false, again := false }

/-- A memory control block after reset (R55, R56, R59). -/
def Mcb.reset : Mcb :=
  { retired := [], waiting := [], heldPch := [], migrating := none, bound := 0, esc := false, share := 1,
    cuts := 0, rpch := 0, halved := [], nrp := 0x40, seed := 1, gens := [],
    scrub := 24 ||| (64 <<< 16), ce := [], ue := [], ceHour := [], windows := [], alerts := 0, refreshes := 0 }

/-- A Stolier port after reset (R370). -/
def Port.reset : Port :=
  { ctl := 2 ||| (16 <<< 2), st := 0, rate := false, width := 0, spare := false, crcerr := 0, repairs := 0,
    replays := 0, buffer := [], nextSeq := 0, acked := 0xFFF, expect := 0, failed := [], lanes := 8, last := none,
    charges := [], flits := 0, due := [], replay := none, asked := none, out := [], control := [], data := [] }

/-- The root-of-trust core after reset (R323, R347). -/
def Rot.reset : Rot :=
  { queue := [], keys := Vector.replicate 8 none, ranges := [], digests := [], dumpe := 0,
    dumpw := 0 }

/-- A cluster after reset (R377). -/
def Cluster.reset : Cluster :=
  { level := 16, elevel := 16, kern := 4, gateen := true, pstate := .active, temp := 0, thermal := 16, cycles := 0,
    spareUsed := false }

/-- A die after reset (R379, R380, R383). -/
def Die.reset : Die :=
  { pcap := 1050, thot := 95, hold := 50, power := 16, thermal := 16, vnow := 800, vmin := 600, vmax := 800,
    ceset := 8, srErrs := 0, srUe := false, vheld := 0, evals := 0, mcb := Mcb.reset }

/-- The package right after reset: bring-up is at its first step (R386, log 11). -/
def State.reset : State :=
  { me := Hart.idle, rest := [], cores := [], mem := [], badMem := [], softMem := [], transfers := [], colls := [],
    unit := Unit_.reset, dies := Vector.replicate 2 Die.reset, cxw := Vector.replicate 16 0,
    cxp := Vector.replicate 8 0, stlNode := 0, stlRtab := 0, ports := Vector.replicate 16 Port.reset,
    rot := Rot.reset, clusters := Vector.replicate 20 Cluster.reset, arbiter := [], ramping := none, fatal := none,
    host := .none, boot := 1, nextUid := 1, nextHid := 1, drawn := 0, agenda := [] }

end Sys2Proof.Machine
end

