-- ==== Sys2Proof/Machine/Bits.lean ====
section
/-! DEFINITION. Bit fields, sign extension and byte order (R2, R3). -/

namespace Sys2Proof.Machine

/-- Bits [lo + n - 1 : lo] of a number. -/
def bitsOf (x lo n : Nat) : Nat := (x >>> lo) % 2 ^ n

/-- Bits [lo + n - 1 : lo] of a register, as a number. -/
def field (x : Word) (lo n : Nat) : Nat := bitsOf x.toNat lo n

/-- Bit i of a register. -/
def bitAt (x : Word) (i : Nat) : Bool := x.toNat.testBit i

/-- The number x with bits [lo + n - 1 : lo] replaced by v. -/
def putBits (x lo n v : Nat) : Nat :=
  x - (bitsOf x lo n <<< lo) + ((v % 2 ^ n) <<< lo)

/-- A register with one field replaced. -/
def putField (x : Word) (lo n v : Nat) : Word := BitVec.ofNat 64 (putBits x.toNat lo n v)

/-- Read n bits as two's complement. -/
def signedOf (x n : Nat) : Int :=
  let y := x % 2 ^ n
  if n = 0 then 0 else if y < 2 ^ (n - 1) then (y : Int) else (y : Int) - (2 ^ n : Nat)

/-- The low n bits of an integer. -/
def lowBits (i : Int) (n : Nat) : Nat := (i % ((2 ^ n : Nat) : Int)).toNat

/-- An integer modulo 2^64. -/
def wordOfInt (i : Int) : Word := BitVec.ofInt 64 i

/-- A number modulo 2^64. -/
def wordOfNat (n : Nat) : Word := BitVec.ofNat 64 n

/-- The two's complement value of a register. -/
def intOf (x : Word) : Int := x.toInt

/-- Bytes, least significant first, of a number (R2). -/
def bytesOf : Nat → Nat → List Byte
  | 0, _ => []
  | n + 1, x => BitVec.ofNat 8 x :: bytesOf n (x / 256)

/-- The number whose bytes, least significant first, are given (R2). -/
def ofBytes : List Byte → Nat
  | [] => 0
  | b :: bs => b.toNat + 256 * ofBytes bs

/-- Quotient rounded up. -/
def ceilDiv (a b : Nat) : Nat := (a + b - 1) / b

/-- The least element of a list, or a default. -/
def minOr (d : Nat) : List Nat → Nat
  | [] => d
  | x :: xs => xs.foldl Nat.min x

/-- The number of leading zero bits of a register (R132). -/
def clz (x : Word) : Nat := if x = 0 then 64 else 63 - x.toNat.log2

/-- The number of trailing zero bits, counted by trying each position (R132). -/
def ctzFrom (x : Nat) : Nat → Nat → Nat
  | 0, i => i
  | fuel + 1, i => if x.testBit i then i else ctzFrom x fuel (i + 1)

/-- The number of trailing zero bits of a register (R132). -/
def ctz (x : Word) : Nat := ctzFrom x.toNat 64 0

/-- The number of set bits among the first n (R132). -/
def popCount (x : Nat) : Nat → Nat
  | 0 => 0
  | n + 1 => popCount x n + (if x.testBit n then 1 else 0)

/-- A flag as a number. -/
def bit (b : Bool) : Nat := if b then 1 else 0

/-- The first index below a bound that meets a test. -/
def findIdx (p : Nat → Bool) (n : Nat) : Option Nat := (List.range n).find? p

end Sys2Proof.Machine
end

