-- ==== Sys2Proof/Machine/Mem.lean ====
section
/-! DEFINITION. Named operations over memory, cores and the harts (R12, R50, R58). -/

namespace Sys2Proof.Machine

/-! ## Cells -/

/-- Read one byte. -/
def readByte : Cells → Nat → Byte
  | [], _ => unlisted
  | (a', b') :: rest, a => if a = a' then b' else if a < a' then unlisted else readByte rest a

/-- Write one byte, keeping the canonical form. -/
def writeByte : Cells → Nat → Byte → Cells
  | [], a, b => if b = unlisted then [] else [(a, b)]
  | (a', b') :: rest, a, b =>
    if a < a' then (if b = unlisted then (a', b') :: rest else (a, b) :: (a', b') :: rest)
    else if a = a' then (if b = unlisted then rest else (a, b) :: rest)
    else (a', b') :: writeByte rest a b

/-- Read n bytes from an address, least significant first. -/
def readBytes (m : Cells) (a n : Nat) : List Byte := (List.range n).map fun i => readByte m (a + i)

/-- Write bytes from an address on. -/
def writeBytes (m : Cells) (a : Nat) : List Byte → Cells
  | [] => m
  | b :: bs => writeBytes (writeByte m a b) (a + 1) bs

/-- Read n bytes as a little-endian number (R2). -/
def readNat (m : Cells) (a n : Nat) : Nat := ofBytes (readBytes m a n)

/-- Write n bytes of a number (R2). -/
def writeNat (m : Cells) (a n v : Nat) : Cells := writeBytes m a (bytesOf n v)

/-- The bits of a place in a memory (R30, R68). -/
def readBits (m : Cells) (p : Place) : Nat :=
  match p.next with
  | none => bitsOf (readNat m p.addr (ceilDiv (p.bit + p.bits) 8)) p.bit p.bits
  | some a => bitsOf (readNat m p.addr 1 + readNat m a 1 <<< 8) p.bit p.bits

/-- Write the bits of a place, and no other bit (R163). -/
def writeBits (m : Cells) (p : Place) (v : Nat) : Cells :=
  match p.next with
  | none =>
    let n := ceilDiv (p.bit + p.bits) 8
    writeNat m p.addr n (putBits (readNat m p.addr n) p.bit p.bits v)
  | some a =>
    let x := putBits (readNat m p.addr 1 + readNat m a 1 <<< 8) p.bit p.bits v
    writeNat (writeNat m p.addr 1 x) a 1 (x >>> 8)

/-! ## Cores and harts -/

/-- A core of the package; a core that nothing has touched is as after reset. -/
def getCore (s : State) (n : Nat) : Core :=
  match s.cores.find? (fun c => c.1 == n) with
  | some c => c.2
  | none => Core.reset

/-- Replace a core. -/
def setCore (s : State) (n : Nat) (c : Core) : State :=
  { s with cores := (n, c) :: s.cores.filter (fun d => d.1 != n) }

/-- Change a core. -/
def modCore (s : State) (n : Nat) (f : Core → Core) : State := setCore s n (f (getCore s n))

/-- Change the hart in focus. -/
def modMe (s : State) (f : Hart → Hart) : State := { s with me := f s.me }

/-- Change the registers of the hart in focus. -/
def modRegs (s : State) (f : Regs → Regs) : State := { s with me := { s.me with r := f s.me.r } }

/-- Every hart of the package that has been launched. -/
def allHarts (s : State) : List Hart := if s.me.hid = 0 then s.rest else s.me :: s.rest

/-- A hart by its name. -/
def hartOf (s : State) (hid : Nat) : Option Hart := (allHarts s).find? (fun h => h.hid == hid)

/-- Change one hart by its name. -/
def modHart (s : State) (hid : Nat) (f : Hart → Hart) : State :=
  { s with me := if s.me.hid = hid then f s.me else s.me,
           rest := s.rest.map fun h => if h.hid = hid then f h else h }

/-- Change every hart. -/
def modHarts (s : State) (f : Hart → Hart) : State := { s with me := f s.me, rest := s.rest.map f }

/-- Bring a hart into focus. -/
def focus (s : State) (hid : Nat) : State :=
  if s.me.hid = hid then s else
  match s.rest.find? (fun h => h.hid == hid) with
  | some h =>
    { s with me := h,
             rest := (if s.me.hid = 0 then [] else [s.me]) ++ s.rest.filter (fun g => g.hid != hid) }
  | none => s

/-- A write of registers that also reaches the registers to which parked instructions return, since it belongs to an
earlier operation than they do (R6). -/
def landRegs (h : Hart) (seq : Nat) (f : Regs → Regs) : Hart :=
  { h with r := f h.r,
           flights := h.flights.map fun x => if x.seq > seq then { x with before := f x.before } else x }

/-- The lanes of a hart (R153). -/
def lanesOf (h : Hart) : Nat := 32 >>> h.nh

/-- The cluster of a core, die x 10 + cluster (R9). -/
def clusterOf (core : Nat) : Nat := core / 16

/-- The die of a core (R9). -/
def dieOf (core : Nat) : Nat := core / 160

/-- The read of an element of a vector with a default. -/
def vget {α : Type} {n : Nat} (v : Vector α n) (i : Nat) (d : α) : α := v.toList.getD i d

/-- The write of an element of a vector; nothing past its end. -/
def vset {α : Type} {n : Nat} (v : Vector α n) (i : Nat) (x : α) : Vector α n := v.setIfInBounds i x

/-- Read CYCLES of a cluster: a free number of cycles has passed since the last read (R264, log 6). -/
def readCycles (s : State) (cl : Nat) : Word × State :=
  match s.clusters[cl]? with
  | none => (0, s)
  | some c =>
    let v := c.cycles + Config.freeCycles s.drawn
    (v, { s with clusters := vset s.clusters cl { c with cycles := v }, drawn := s.drawn + 1 })

/-- A word of a report that the spec does not give (R364, log 6). -/
def openWord (s : State) : Word × State := (Config.freeWord s.drawn, { s with drawn := s.drawn + 1 })

/-- The clock of a cluster runs (R381). -/
def clusterActive (s : State) (cl : Nat) : Bool :=
  match s.clusters[cl]? with
  | some c => c.pstate == .active
  | none => false

/-- Change a cluster. -/
def modCluster (s : State) (cl : Nat) (f : Cluster → Cluster) : State :=
  match s.clusters[cl]? with
  | some c => { s with clusters := vset s.clusters cl (f c) }
  | none => s

/-- A wake request (R381): a holding cluster is active again, a gated one queues at the in-rush arbiter. -/
def wakeCluster (s : State) (cl : Nat) : State :=
  match s.clusters[cl]? with
  | some c =>
    match c.pstate with
    | .hold => modCluster s cl fun c => { c with pstate := .active }
    | .gated => modCluster { s with arbiter := s.arbiter ++ [cl] } cl fun c => { c with pstate := .waking }
    | _ => s
  | none => s

/-! ## Main memory -/

/-- The cells a place lies in. -/
def cellsOf (s : State) (core : Option Nat) : Cells :=
  match core with
  | none => s.mem
  | some c => (getCore s c).scratch

/-- Replace the cells of a space. -/
def setCells (s : State) (core : Option Nat) (m : Cells) : State :=
  match core with
  | none => { s with mem := m }
  | some c => modCore s c fun k => { k with scratch := m }

/-- The value at a place. -/
def readPlace (s : State) (p : Place) : Nat := readBits (cellsOf s p.core) p

/-- The byte addresses of a place. -/
def placeBytes (p : Place) : List Nat :=
  match p.next with
  | none => (List.range (ceilDiv (p.bit + p.bits) 8)).map (p.addr + ·)
  | some a => [p.addr, a]

/-- Whether the data of a place holds an uncorrectable error (R58, R322). -/
def placeBad (s : State) (p : Place) : Bool :=
  match p.core with
  | none => (placeBytes p).any fun a => s.badMem.contains (a / 64)
  | some c => (placeBytes p).any fun a => (getCore s c).badWords.contains (a / 8)

/-- The live channels of a die in ascending order (R52). -/
def liveChannels (m : Mcb) : List Nat := (List.range 768).filter fun c => !m.retired.contains c

/-- The channel and the byte address within it at which an address of the range of a die lies, by a table of live channels (R52). -/
def channelPlace (live : List Nat) (a : Nat) : Nat × Nat :=
  let u := a / 256
  (live.getD (u % live.length) 0, u / live.length * 256 + a % 256)

/-- The table that places a unit of a die: the old one from the boundary of a migration on, the new one below it (R54). -/
def channelTable (m : Mcb) (u : Nat) : List Nat :=
  match m.migrating with
  | some p => if u < m.bound then (liveChannels m).filter (· != p) else liveChannels m
  | none => liveChannels m

/-- The channel of a unit of a die (R52, R54). -/
def channelOf (m : Mcb) (u : Nat) : Nat := (channelPlace (channelTable m u) (256 * u)).1

/-- The die whose HBM holds a physical address, and the unit in it (R50, R52). -/
def hbmUnit (a : Nat) : Option (Nat × Nat) :=
  if a < 0x3000000000 then some (0, a / 256)
  else if a < 0x6000000000 then some (1, (a - 0x3000000000) / 256)
  else none

/-- No pseudo-channel is under an alert (R57). -/
def noWindows (s : State) : Bool := s.dies.toList.all fun d => d.mcb.windows.isEmpty

/-- A request to one of the addresses waits: its pseudo-channel is in a back-off window (R57). -/
def backoffAt (s : State) (as : List Nat) : Bool :=
  if noWindows s then false
  else as.any fun a =>
    match hbmUnit a with
    | some (d, u) =>
      match s.dies[d]? with
      | some x => x.mcb.windows.any fun w => w.1 == channelOf x.mcb u && decide (0 < w.2.1)
      | none => false
    | none => false

/-- The addresses of main memory that places cover. -/
def memoryBytes (ps : List Place) : List Nat := (ps.filter fun p => p.core.isNone).flatMap placeBytes

/-- Add one to a count kept by key. -/
def bump (l : List (Nat × Nat)) (k : Nat) : List (Nat × Nat) :=
  match l.find? (fun e => e.1 == k) with
  | some e => (k, e.2 + 1) :: l.filter (fun d => d.1 != k)
  | none => (k, 1) :: l

/-- Change a die. -/
def modDie (s : State) (d : Nat) (f : Die → Die) : State :=
  match s.dies[d]? with
  | some x => { s with dies := vset s.dies d (f x) }
  | none => s

/-- Change the memory control block of a die. -/
def modMcb (s : State) (d : Nat) (f : Mcb → Mcb) : State := modDie s d fun x => { x with mcb := f x.mcb }

/-- Error correction under the writes of one operation: a 64-byte word in error is clean again when all of it was written; an
uncorrectable one stays so, counted, when part of it was (R58). -/
def settleEcc (s : State) (written : List Nat) : State :=
  let whole (w : Nat) : Bool := (List.range 64).all fun i => written.contains (w * 64 + i)
  let part := s.badMem.filter fun w => (written.any fun a => a / 64 == w) && !whole w
  let s := { s with badMem := s.badMem.filter fun w => !whole w, softMem := s.softMem.filter fun w => !whole w }
  part.foldl (fun s w =>
    match hbmUnit (w * 64) with
    | some (d, u) => modMcb s d fun m => { m with ue := bump m.ue (channelOf m u) }
    | none => s) s

/-- A scratchpad word that was uncorrectable is clean again when all of it was written (R58, R322). -/
def settleScratch (s : State) (ws : List (Place × Nat)) : State :=
  let settle (c : Nat × Core) : Nat × Core :=
    if c.2.badWords.isEmpty then c
    else
      let written := (ws.filter fun w => w.1.core == some c.1).flatMap fun w => placeBytes w.1
      (c.1, { c.2 with badWords := c.2.badWords.filter fun k => !(List.range 8).all fun i => written.contains (8 * k + i) })
  { s with cores := s.cores.map settle }

/-- Write values to places in order; the last value of a shared place stays (R68, R172). -/
def writePlaces (s : State) (ws : List (Place × Nat)) : State :=
  let t := ws.foldl (fun t w => setCells t w.1.core (writeBits (cellsOf t w.1.core) w.1 w.2)) s
  let t := if t.cores.all fun c => c.2.badWords.isEmpty then t else settleScratch t ws
  if t.badMem.isEmpty && t.softMem.isEmpty then t else settleEcc t (memoryBytes (ws.map (·.1)))

/-- Write a number of n bytes at a physical address at system scope. -/
def writePhys (s : State) (a n v : Nat) : State := writePlaces s [({ core := none, addr := a, bit := 0, bits := 8 * n }, v)]

/-- Read n bytes at a physical address. -/
def readPhys (s : State) (a n : Nat) : Nat := readNat s.mem a n

/-! ## Physical ranges -/

/-- The windows that are enabled (R60). -/
def windowHolds (s : State) (a : Nat) : Bool :=
  let u := (a - 0x40000000000) / 2 ^ 28
  s.cxw.toList.any fun w =>
    bitAt w 39 && decide (field w 0 14 ≤ u) && decide (u < field w 0 14 + field w 14 14 + 1) &&
      (List.range 8).all fun p => !(bitAt w (28 + p)) || bitAt (vget s.cxp p 0) 0

/-- An address lies in a spill image or a dump region (R317, R323). -/
def guardedArea (s : State) (a : Nat) : Bool :=
  let sp := s.unit.spill
  let inSpill := bitAt sp 39 && decide (field sp 0 39 * 256 ≤ a) && decide (a < field sp 0 39 * 256 + 320 * 2 ^ 21)
  let dump (r : Word) : Bool := bitAt r 39 && decide (field r 0 39 * 256 ≤ a) && decide (a < field r 0 39 * 256 + 2 ^ 31)
  inSpill || dump s.rot.dumpe || dump s.rot.dumpw

/-- The registered text range that holds an address (R346). -/
def textRange (s : State) (a : Nat) : Option TextRange :=
  s.rot.ranges.find? fun r => decide (r.phys ≤ a) && decide (a < r.phys + r.len)

/-- The registered text range of a context that holds an address (R346). -/
def textRangeOf (s : State) (ctx a : Nat) : Option TextRange :=
  s.rot.ranges.find? fun r => r.ctx == ctx && decide (r.phys ≤ a) && decide (a < r.phys + r.len)

/-- An address is guarded: spill images, dump regions, registered text (R317, R323, R346). -/
def guarded (s : State) (a : Nat) : Bool := guardedArea s a || (textRange s a).isSome

/-- The address exists: HBM below the cuts of its die, or an enabled window of the second tier (R50, R51, R53, R61). -/
def exists_ (s : State) (a : Nat) : Bool :=
  match hbmUnit a with
  | some (d, u) =>
    match s.dies[d]? with
    | some x => decide (u < (768 - x.mcb.cuts) * 2 ^ 20)
    | none => false
  | none => decide (0x40000000000 ≤ a) && decide (a < 0x80000000000) && windowHolds s a

/-- The physical probe of R51: the address exists and is not guarded. -/
def physOk (s : State) (a : Nat) : Bool := exists_ s a && !guarded s a

/-- Write n bytes at a physical address that the package reaches by no translation: a range with a guarded byte stays as it is (R317,
R323, R346, log 93). -/
def writeOpen (s : State) (a n v : Nat) : State :=
  if (List.range n).any fun i => guarded s (a + i) then s else writePhys s a n v

end Sys2Proof.Machine
end

