-- ==== Sys2Proof/Machine/Flits.lean ====
section
/-! DEFINITION. The flits of the Stolier ports and their sending (R367, R368). -/

namespace Sys2Proof.Machine

/-! ## Flits (R367) -/

/-- One step of the CRC register: the ECMA-182 polynomial, most significant bit first (R367, log 28). -/
def crcBit (c : BitVec 64) : BitVec 64 := if c.getLsbD 63 then (c <<< 1) ^^^ 0x42F0E1EBA9EA3693#64 else c <<< 1

/-- The CRC register takes a byte. -/
def crcByte (c : BitVec 64) (b : BitVec 8) : BitVec 64 := (List.range 8).foldl (fun c _ => crcBit c) (c ^^^ (b ++ 0#56))

/-- The CRC-64 of bytes 0 to 247 of a flit (R367). -/
def flitCrc (body : BitVec 1984) : BitVec 64 := (List.range 248).foldl (fun c i => crcByte c (body.extractLsb' (8 * i) 8)) 0

/-- SEQ of a flit. -/
def flitSeq (f : BitVec 2048) : BitVec 12 := f.extractLsb' 0 12
/-- ACK of a flit. -/
def flitAck (f : BitVec 2048) : BitVec 12 := f.extractLsb' 12 12
/-- TYPE of a flit: 0 idle, 1 data, 2 NAK, 3 control. -/
def flitType (f : BitVec 2048) : Nat := (f.extractLsb' 24 4).toNat
/-- The CRC of a flit passes. -/
def crcOk (f : BitVec 2048) : Bool := flitCrc (f.extractLsb' 0 1984) == f.extractLsb' 1984 64

/-- A flit from its header fields and its payload (R367). -/
def makeFlit (seq ack : BitVec 12) (ty : BitVec 4) (payload : BitVec 1920) : BitVec 2048 :=
  let body : BitVec 1984 := payload ++ (0#36 ++ ty ++ ack ++ seq : BitVec 64)
  flitCrc body ++ body

/-- The bytes of a flit that a lane carries, byte k going to lane k mod the width (R367, R369, log 29). -/
def laneShare (width lane : Nat) (f : BitVec 2048) : List (BitVec 8) :=
  ((List.range 256).filter fun k => k % width == lane).map fun k => f.extractLsb' (8 * k) 8

/-! ## Sending -/

/-- A Stolier port. -/
def portAt (s : State) (port : Nat) : Port := vget s.ports port Port.reset

/-- Replace a port. -/
def setPort (s : State) (port : Nat) (p : Port) : State := { s with ports := vset s.ports port p }

/-- The newest flit that waits to be acknowledged. -/
def newestSent (p : Port) : BitVec 12 := p.nextSeq - 1

/-- Flits that a port sends one after another while it may: control flits go ahead of data flits, fewer than 256 are unacknowledged, and no
lane is due for repair (R367 to R369). -/
def pumpPort : Nat → Port → Port
  | 0, p => p
  | n + 1, p =>
    if p.st ≠ 2 ∨ 256 ≤ p.buffer.length ∨ !p.due.isEmpty then p
    else
      let send (ty : BitVec 4) (x : BitVec 1920) (p : Port) : Port :=
        let f := makeFlit p.nextSeq (p.expect - 1) ty x
        pumpPort n { p with buffer := p.buffer ++ [f], out := p.out ++ [f], nextSeq := p.nextSeq + 1 }
      match p.control, p.data with
      | x :: rest, _ => send 3 x { p with control := rest }
      | [], x :: rest => send 1 x { p with data := rest }
      | [], [] => p

/-- A port sends what waits to be sent. -/
def sendQueued (s : State) (port : Nat) : State :=
  let p := portAt s port
  if p.control.isEmpty && p.data.isEmpty then s else setPort s port (pumpPort 256 p)

/-- A payload is handed to a port, of a control or of a data flit. -/
def queuePayload (s : State) (port : Nat) (control : Bool) (x : BitVec 1920) : State :=
  let p := { portAt s port with out := [] }
  sendQueued (setPort s port (if control then { p with control := p.control ++ [x] } else { p with data := p.data ++ [x] })) port

/-! ## Routes (R371) -/

/-- The port by which flits for a node of the fabric leave, where its route has V set (R371). -/
def routeOf (s : State) (node : Nat) : Option Nat :=
  let e := readPhys s (field s.stlRtab 0 39 * 256 + 2 * (node % 65536)) 2
  if e.testBit 15 then some (e % 16) else none

/-- A port takes flits: it is not down. While it trains they wait for it (R370, R374). -/
def portCarries (s : State) (port : Nat) : Bool := (portAt s port).st != 0

/-- The port by which flits reach a node. -/
def routeUp (s : State) (node : Nat) : Option Nat := (routeOf s node).filter (portCarries s)

/-- A payload sets out for a node: it leaves by the port of its route, or is dropped (R371). -/
def sendPayload (s : State) (node : Nat) (control : Bool) (x : BitVec 1920) : State :=
  match routeUp s node with
  | some p => queuePayload s p control x
  | none => s

/-- A collective engine sends n flits to a node (R373). -/
def sendFlits (s : State) (node : Nat) (control : Bool) : Nat → State
  | 0 => s
  | n + 1 => sendFlits (sendPayload { s with drawn := s.drawn + 1 } node control (Config.freePayload s.drawn)) node control n

end Sys2Proof.Machine
end

