-- ==== Sys2Proof/Machine/Log.lean ====
section
/-! DEFINITION. The error log and MSI-X vector 0 (R364), and the correction of memory errors with its counts (R58, R59). -/

namespace Sys2Proof.Machine

/-! ## The error log and MSI-X -/

/-- MSI-X vector 0 fires when PROD advances, at most once in 10 microseconds (R364). -/
def fire0 (u : Unit_) : Unit_ :=
  if u.throttle then { u with again := true } else { u with fired0 := u.fired0 + 1, throttle := true }

/-- Write an entry to the error log, or drop it when the log is full or disabled (R364); no byte that is guarded is written (R346). -/
def logEntry (s : State) (src code ctx queue : Nat) (w1 w2 : Word) (cl : Nat) : State :=
  let u := s.unit
  let n := field u.elog 39 5
  let prod := field u.elogp 0 32
  let cons := field u.elogc 0 32
  if n ≠ 0 ∧ (prod + 2 ^ 32 - cons) % 2 ^ 32 < 2 ^ n then
    let (cyc, s) := readCycles s cl
    let a := field u.elog 0 39 * 256 + prod % 2 ^ n * 32
    let w0 := src % 256 + (code % 256) <<< 8 + (ctx % 65536) <<< 16 + (queue % 4096) <<< 32
    let s := if (List.range 32).all fun i => physOk s (a + i) then
        writePhys s a 32 (w0 + w1.toNat <<< 64 + w2.toNat <<< 128 + cyc.toNat <<< 192)
      else s
    { s with unit := fire0 { s.unit with elogp := putField u.elogp 0 32 (prod + 1) } }
  else { s with unit := { u with elogp := putField u.elogp 32 16 (Nat.min 65535 (field u.elogp 32 16 + 1)) } }

/-- Memory service is logged (R364); word 1 is not given for it (log 6). -/
def logService (s : State) : State :=
  let (w, s) := openWord s
  logEntry s 4 0 0 0 w 0 0

/-! ## Corrected errors -/

/-- A count kept by key. -/
def countAt (l : List (Nat × Nat)) (k : Nat) : Nat := ((l.find? fun e => e.1 == k).map (·.2)).getD 0

/-- A channel of a die has had n errors corrected: they are counted, and it is reported for service when those of the hour reach CETHR
(R58, R59). With CETHR = 0 no count reaches it from below, and the channel is never reported: the model's choice (log 94). -/
def countCorrected (s : State) (d ch n : Nat) : State :=
  match s.dies[d]? with
  | none => s
  | some x =>
    let before := countAt x.mcb.ceHour ch
    let cethr := field x.mcb.scrub 16 16
    let add (l : List (Nat × Nat)) : List (Nat × Nat) := (List.range n).foldl (fun l _ => bump l ch) l
    let s := modMcb s d fun m => { m with ce := add m.ce, ceHour := add m.ceHour }
    if before < cethr ∧ cethr ≤ before + n then logService s else s

/-- Addresses are read: a correctable error in their words is corrected, written back and counted (R58). -/
def correctReads (s : State) (as : List Nat) : State :=
  (s.softMem.filter fun w => as.any fun a => a / 64 == w).foldl (fun s w =>
    let s := { s with softMem := s.softMem.filter (· != w) }
    match hbmUnit (w * 64) with
    | some (d, u) => countCorrected s d (((s.dies[d]?).map fun x => channelOf x.mcb u).getD 0) 1
    | none => s) s

/-- A range of main memory is read: a correctable error in it is corrected, written back and counted (R58). -/
def correctRange (s : State) (a n : Nat) : State :=
  if s.softMem.isEmpty then s else correctReads s ((List.range n).map (a + ·))

/-- A range of main memory holds an uncorrectable error (R58). -/
def rangeBad (s : State) (a n : Nat) : Bool := s.badMem.any fun w => decide (w * 64 < a + n) && decide (a < w * 64 + 64)

/-- A range of main memory lies in part in a pseudo-channel in its back-off window (R57). -/
def rangeHeld (s : State) (a n : Nat) : Bool := !noWindows s && backoffAt s ((List.range n).map (a + ·))

end Sys2Proof.Machine
end

