-- ==== Sys2Proof/Machine/Objects.lean ====
section
/-! DEFINITION. Tensor objects: records, layouts, checks and translation (R64 to R78), and galleys as operands
(R92, R93). -/

namespace Sys2Proof.Machine

/-! ## Formats -/

/-- The width in bits of an ETYPE code; none for a refused code (R114). -/
def etypeBits (t : Nat) : Option Nat :=
  if t = 0 ∨ t = 3 ∨ t = 4 then some 32
  else if t = 1 ∨ t = 2 ∨ t = 5 ∨ t = 6 then some 16
  else if t = 7 then some 256
  else if t = 16 ∨ t = 17 ∨ t = 20 ∨ t = 21 ∨ t = 25 then some 8
  else if t = 18 ∨ t = 19 ∨ t = 24 then some 4
  else if t = 22 ∨ t = 23 then some 6
  else none

/-- The element unit of an offset: the element size in bytes, or 1 where offsets count elements (R65, R163). -/
def offsetUnit (bits : Nat) : Nat := if bits < 8 then 1 else bits / 8

/-! ## Records -/

/-- An object record (R67). -/
abbrev Record := Vector Word 8

/-- A word of a record. -/
def Record.word (r : Record) (i : Nat) : Word := vget r i 0
/-- BASE, in bytes. -/
def Record.base (r : Record) : Nat := field (r.word 0) 0 39 * 256
/-- STATE. -/
def Record.state (r : Record) : Nat := field (r.word 0) 39 2
/-- RANK. -/
def Record.rank (r : Record) : Nat := field (r.word 0) 41 3
/-- LAYOUT. -/
def Record.layout (r : Record) : Nat := field (r.word 0) 44 3
/-- FMT. -/
def Record.fmt (r : Record) : Nat := field (r.word 0) 47 5
/-- PR, PW, PX, PA and PC are bits 52 to 56 of word 0. -/
def Record.perm (r : Record) (i : Nat) : Bool := bitAt (r.word 0) (52 + i)
/-- The width of an element in bits. -/
def Record.bits (r : Record) : Nat := (etypeBits r.fmt).getD 8
/-- GSZ. -/
def Record.gsz (r : Record) : Nat := field (r.word 1) 55 2
/-- SHAPE of a dimension. -/
def Record.shape (r : Record) (d : Nat) : Nat := field (r.word (2 + d)) 0 28
/-- STRIDE of a dimension. -/
def Record.stride (r : Record) (d : Nat) : Nat := field (r.word (2 + d)) 28 36
/-- The group size of the companion plane (R67, R69). -/
def Record.group (r : Record) : Nat := if r.gsz = 1 then 32 else if r.gsz = 2 then 64 else 128
/-- The contiguous dimension (R68). -/
def Record.contig (r : Record) : Nat := if r.layout = 1 then 1 else 0
/-- The dimensions of the record. -/
def Record.dims (r : Record) : List Nat := List.range r.rank
/-- The number of elements of the logical view. -/
def Record.count (r : Record) : Nat := (r.dims.map r.shape).foldl (· * ·) 1

/-- The record of which the words stand in memory at an address (R66). -/
def recordAt (s : State) (a : Nat) : Record := Vector.ofFn fun i => wordOfNat (readPhys s (a + 8 * i.val) 8)

/-- The logical position of a coordinate, dimension 0 varying fastest, and its inverse (R65, R72): all but the last
dimension wrap. -/
def coordOf (shapes : List Nat) (pos : Nat) : List Nat :=
  match shapes with
  | [] => []
  | [_] => [pos]
  | n :: rest => pos % n :: coordOf rest (pos / n)

/-- The image offset of a coordinate, in elements (R68). -/
def imageOffset (r : Record) (c : List Nat) : Nat :=
  let at_ (d : Nat) := c.getD d 0
  if r.layout = 2 then
    (at_ 1 % 64) * 64 + at_ 0 % 64 + at_ 0 / 64 * r.stride 0 + at_ 1 / 64 * r.stride 1 +
      ((r.dims.filter (2 ≤ ·)).map fun d => at_ d * r.stride d).sum
  else (r.dims.map fun d => at_ d * r.stride d).sum

/-- The largest image offset over the shape (R68). In the tiled layout an extent of dimensions 0 or 1 reaches furthest
either at its end or at the end of its last whole tile. -/
def lastOffset (r : Record) : Nat :=
  if r.layout = 2 then
    let reach (d step : Nat) : Nat :=
      let f (c : Nat) := c % 64 * step + c / 64 * r.stride d
      let n := r.shape d
      Nat.max (f (n - 1)) (if 64 ≤ n then f (n / 64 * 64 - 1) else 0)
    reach 0 1 + reach 1 64 + ((r.dims.filter (2 ≤ ·)).map fun d => (r.shape d - 1) * r.stride d).sum
  else (r.dims.map fun d => (r.shape d - 1) * r.stride d).sum

/-- The image extent in bytes (R68). -/
def imageExtent (r : Record) : Nat := ceilDiv ((lastOffset r + 1) * r.bits) 8

/-- Where the companion plane starts in the image (R69). -/
def planeStart (r : Record) : Nat := ceilDiv (imageExtent r) 256 * 256

/-- The size of an entry of the companion plane: a scale, or a group record (R69); of the formats outside the rule's table those of code 19
and less take four bytes, the others one (log 73). -/
def planeEntry (r : Record) : Nat := if r.fmt ≤ 19 then 4 else 1

/-- The extent of the companion plane in bytes (R69). -/
def planeExtent (r : Record) : Nat :=
  if r.gsz = 0 then 0
  else ((r.dims.filter (1 ≤ ·)).map r.shape).foldl (· * ·) 1 * ceilDiv (r.shape 0) r.group * planeEntry r

/-- The number of sub-tiles of the image (R77). -/
def imageTiles (r : Record) : Nat := ceilDiv (imageExtent r) 65536

/-- The number of entries of the sub-tile map (R77). -/
def mapEntries (r : Record) : Nat := imageTiles r + ceilDiv (planeExtent r) 65536

/-- The end of the memory range of R50 that holds an address, 0 for one in no range: a sub-tile map based there fails check 9 (R70,
log 75). -/
def rangeEnd (a : Nat) : Nat :=
  if a < 0x3000000000 then 0x3000000000 else if a < 0x6000000000 then 0x6000000000
  else if a < 0x40000000000 then 0 else if a < 0x80000000000 then 0x80000000000 else 0

/-- The stride conditions of R68. -/
def stridesOk (r : Record) : Bool :=
  match r.layout with
  | 0 => r.stride 0 == 1
  | 1 => decide (2 ≤ r.rank) && r.stride 1 == 1
  | 2 => decide (2 ≤ r.rank) && r.stride 0 == 4096 && r.stride 1 % 4096 == 0 &&
      decide (ceilDiv (r.shape 0) 64 * 4096 ≤ r.stride 1)
  | _ => decide (2 ≤ r.rank) && r.stride 0 == 1 && r.stride 1 % 32 == 0

/-- A floating-point format of R114. -/
def fmtIsFloat (t : Nat) : Bool := t == 0 || t == 1 || t == 2 || (decide (20 ≤ t) && decide (t ≤ 25))

/-- The first check of R70 that a record fails, counted from 1; `moving` when a move of the handle is in progress. -/
def failedCheck (r : Record) (moving : Bool) : Option Nat :=
  let b := r.bits
  let other := r.dims.filter (· != r.contig)
  if r.rank = 7 ∨ 3 < r.layout ∨ etypeBits r.fmt = none ∨ r.state = 3 ∨ field (r.word 0) 57 7 ≠ 0 ∨
      field (r.word 1) 57 7 ≠ 0 then some 1
  else if (r.dims.any fun d => r.shape d == 0) ∨
      ((List.range 6).any fun d => decide (r.rank ≤ d) && r.word (2 + d) != 0) then some 2
  else if !stridesOk r then some 3
  else if r.gsz ≠ 0 ∧ (r.layout ≠ 3 ∨ (fmtIsFloat r.fmt ∧ r.gsz ≠ 1)) then some 4
  else if (b = 4 ∧ other.any fun d => r.stride d % 2 == 1) ∨ (b = 6 ∧ other.any fun d => r.stride d % 4 != 0) then
    some 5
  else if 2 ^ 44 < r.count * offsetUnit b then some 6
  else if r.perm 1 ∧ r.perm 2 then some 7
  else if r.state = 2 ∧ !moving then some 8
  else if r.state = 1 ∧ rangeEnd r.base < r.base + 8 * mapEntries r then some 9
  else none

/-! ## Translation -/

/-- Why an element does not translate: a cause of R303 with its report, or `moving`: a move of its object holds the access, or a back-off
window the record or the map entry that it would read (R57, R79). -/
inductive TStop where
  | fault (t : TrapInfo)
  | moving
  deriving DecidableEq, Repr

/-- Who translates: a context, its object table, the core whose ORC serves it, and a pin (R66, R74, R76). -/
structure Who where
  ctx : Nat
  otb : Word
  core : Option Nat
  pin : Option Pin
  deriving DecidableEq, Repr

/-- The hart in focus as translator. -/
def whoMe (s : State) : Who := { ctx := s.me.ctx, otb := s.me.otb, core := some s.me.core, pin := s.me.pin }

/-- TINFO of the address causes (R306, log 92). -/
def addrInfo (handle kind failed sub : Nat) : Word :=
  wordOfNat (handle % 2 ^ 20 + kind <<< 20 + failed <<< 23 + sub <<< 32)

/-- The handle of an object address (R64). -/
def handleOf (a : Word) : Nat := field a 44 20

/-- The offset of an object address (R64). -/
def offsetOf (a : Word) : Nat := field a 0 44

/-- The move of a handle that is under way, draining or copying (R79). -/
def moveOf (s : State) (ctx handle : Nat) : Option Transfer :=
  s.transfers.find? fun t => t.kind == .move && t.ctx == ctx && handleOf (vget t.latch 0 0) == handle &&
    (t.draining || t.copying)

/-- OTLEN (R66). -/
def otLen (otb : Word) : Nat := Nat.min (field otb 39 20) 0xFFF00

/-- The physical address of a record of a table (R66). -/
def recordAddr (otb : Word) (h : Nat) : Nat := field otb 0 39 * 256 + h * 64

/-- The record of a handle: from the pin, from the ORC, or from the table, where it is checked (R64, R70, R74); while a move of the
handle is under way, the record with which it began (R75). A table in a back-off window holds the access (R57), and an uncorrectable
error in the record is the fault of that name (R58, log 22). -/
def lookupRecord (s : State) (w : Who) (h kind : Nat) : Except TStop Record :=
  let fail (code failed : Nat) : Except TStop Record :=
    .error (.fault { code := code, info := addrInfo h kind failed 0 })
  if h = 0 then fail 0x07 0
  else if otLen w.otb ≤ h then fail 0x08 0
  else match w.pin with
  | some p => if p.handle = h then .ok p.words else look fail
  | none => look fail
where
  look (fail : Nat → Nat → Except TStop Record) : Except TStop Record :=
    let cached : Option OrcEntry := match w.core with
      | some c => (getCore s c).orc.find? fun (e : OrcEntry) => e.ctx == w.ctx && e.handle == h
      | none => none
    let a := recordAddr w.otb h
    match cached with
    | some e => .ok e.words
    | none =>
      let r : Record := ((moveOf s w.ctx h).bind (·.moved)).getD (recordAt s a)
      if rangeHeld s a 64 then .error .moving
      else if rangeBad s a 64 then fail 0x0F 0
      else if r.rank = 0 then fail 0x08 0
      else match failedCheck r (moveOf s w.ctx h).isSome with
        | some k => fail 0x09 k
        | none => .ok r

/-- The permission that an access kind of R71 needs: 0 load, 1 store, 2 atomic, 3 fetch, 4 copy reading, 5 copy
writing, 6 OBJMOVE. -/
def permOk (r : Record) (kind : Nat) : Bool :=
  let pc := r.perm 4
  match kind with
  | 0 => r.perm 0 && !pc
  | 1 => r.perm 1 && !pc
  | 2 => r.perm 3 && !pc
  | 3 => r.perm 2 && !pc
  | 4 => r.perm 0
  | 5 => r.perm 1
  | _ => r.perm 0 && r.perm 1

/-- A sub-tile map entry that needs no read of memory: from the pin or the map cache (R74, R76, R77). -/
def heldEntry (s : State) (w : Who) (h st : Nat) : Option Word :=
  let pinned := match w.pin with
    | some p => if p.handle = h ∧ p.sub = st then some p.frame else none
    | none => none
  let cached := match w.core with
    | some c => ((getCore s c).maps.find? fun e => e.ctx == w.ctx && e.handle == h && e.sub == st).map (·.entry)
    | none => none
  pinned.or cached

/-- A sub-tile map entry: from the pin, the map cache or memory (R74, R77). -/
def mapEntry (s : State) (w : Who) (h : Nat) (r : Record) (st : Nat) : Word :=
  (heldEntry s w h st).getD (wordOfNat (readPhys s (r.base + 8 * st) 8))

/-- The physical address of an image byte, whose sub-tile is `st` of the map; an uncorrectable error in the entry is the fault of that name
(R57, R58, R72, R77, log 22). -/
def imageByte (s : State) (w : Who) (h : Nat) (r : Record) (kind img st within : Nat) (coord : List Nat) :
    Except TStop Nat :=
  if r.state = 1 then
    let e := mapEntry s w h r st
    let reads := (heldEntry s w h st).isNone
    if reads && rangeHeld s (r.base + 8 * st) 8 then .error .moving
    else if reads && rangeBad s (r.base + 8 * st) 8 then .error (.fault { code := 0x0F, info := addrInfo h kind 0 0, coord := coord })
    else if field e 32 16 ≠ 0 then .error (.fault { code := 0x09, info := addrInfo h kind 10 st })
    else if !bitAt e 31 then .error (.fault { code := 0x0E, info := addrInfo h kind 0 st, coord := coord })
    else .ok (field e 0 31 * 65536 + within % 65536)
  else .ok (r.base + img)

/-- A translated element. -/
structure Element where
  place : Place
  handle : Nat
  /-- The image byte at which the element begins, and the byte after its end. -/
  lo : Nat
  hi : Nat
  sub : Nat
  fmt : Nat
  coord : List Nat
  deriving DecidableEq, Repr

/-- Probe the physical address of an element (R51); the guard of registered text does not stop a fetch (R346). -/
def probe (s : State) (h kind : Nat) (coord : List Nat) (pa n : Nat) : Except TStop PUnit :=
  let good (a : Nat) : Bool := if kind = 3 then exists_ s a && !guardedArea s a else physOk s a
  if good pa ∧ good (pa + n - 1) then .ok ⟨⟩
  else .error (.fault { code := 0x0D, info := addrInfo h kind 0 0, coord := coord })

/-- The element that a fault reports: its number among those of a vector access, L of a scalar one (R73, R136, R305, log 20). -/
def atElem {α : Type} (i : Nat) (r : Except TStop α) : Except TStop α :=
  match r with
  | .error (.fault t) => .error (.fault { t with elem := i })
  | r => r

/-- The sub-tiles in which an element lies (R77). -/
def Element.subs (e : Element) : List Nat := if e.place.next.isSome then [e.sub, e.sub + 1] else [e.sub]

/-- The translations of the two bytes of an element: both, or the fault that ranks first (R73, R77). -/
def bothOf (a b : Except TStop Nat) : Except TStop (Nat × Nat) :=
  match a, b with
  | .ok x, .ok y => .ok (x, y)
  | .error .moving, _ => .error .moving
  | _, .error .moving => .error .moving
  | .error (.fault t), .error (.fault u) => .error (.fault (if u.code < t.code then u else t))
  | .error t, .ok _ => .error t
  | .ok _, .error u => .error u

/-- Translate the element at logical index L of an object whose record has been found and whose permission holds (R72); an FP6
element of a partial object may have its second byte in the next sub-tile (R77). -/
def translateIndex (s : State) (w : Who) (h kind : Nat) (r : Record) (idx : Nat) : Except TStop Element := do
  let c := coordOf (r.dims.map r.shape) idx
  if r.shape (r.rank - 1) ≤ c.getD (r.rank - 1) 0 then
    .error (.fault { code := 0x0C, info := addrInfo h kind 0 0, coord := c })
  else
    let i := imageOffset r c
    let img := i * r.bits / 8
    let st := img / 65536
    let n := ceilDiv (i * r.bits % 8 + r.bits) 8
    let found (pa : Nat) (next : Option Nat) : Element :=
      { place := { core := none, addr := pa, bit := i * r.bits % 8, bits := r.bits, next := next }, handle := h, lo := img, hi := img + n,
        sub := st, fmt := r.fmt, coord := c }
    let byte (img st len : Nat) : Except TStop Nat := do
      let p ← imageByte s w h r kind img st img c
      probe s h kind c p len
      return p
    if r.state = 1 ∧ 65536 < img % 65536 + n then do
      let p ← bothOf (byte img st 1) (byte (img + 1) (st + 1) 1)
      return found p.1 (some p.2)
    else do
      let pa ← byte img st n
      return found pa none

/-- A record for an access of a kind, with its permission checked, held back while its object moves: what the record alone decides faults
before the wait, what an element decides after it (R71, R79, log 76). -/
def openRecord (s : State) (w : Who) (h kind : Nat) : Except TStop Record := do
  let r ← lookupRecord s w h kind
  if !permOk r kind then .error (.fault { code := 0x0A, info := addrInfo h kind 0 0 })
  else if (moveOf s w.ctx h).isSome then .error .moving
  else return r

/-- The misaligned fault of an access: the element, and the offset where a coordinate stands (R73, log 66). -/
def misaligned (h kind idx off : Nat) : TrapInfo :=
  { code := 0x0B, elem := idx, coord := [off], info := addrInfo h kind 0 0 }

/-- An element that an access reads and whose data holds an uncorrectable error faults after every other check of it (R58,
R73); `bad` picks such places. -/
def readable (bad : Place → Bool) (h kind : Nat) (e : Element) : Except TStop Element :=
  if bad e.place then .error (.fault { code := 0x0F, coord := e.coord, info := addrInfo h kind 0 0 }) else .ok e

/-- The elements that a scalar access of n bytes covers of an object whose record has been found (R136): whole elements, the last
one in part when n is less than an element; the lowest one that faults is reported. -/
def recordElements (bad : Place → Bool) (s : State) (w : Who) (kind : Nat) (r : Record) (a : Word) (n : Nat) :
    Except TStop (List Element) :=
  let h := handleOf a
  let off := offsetOf a
  let es := r.bits / 8
  if r.bits < 8 ∨ off % n ≠ 0 ∨ off % es ≠ 0 then .error (.fault (misaligned h kind (off / offsetUnit r.bits) off))
  else
    (List.range (ceilDiv n es)).mapM fun k => do
      let e ← atElem (off / es + k) (translateIndex s w h kind r (off / es + k))
      let m := Nat.min es (n - k * es)
      atElem (off / es + k)
        (readable bad h kind { e with place := { e.place with bits := 8 * m }, hi := e.lo + m })

/-- The elements of a scalar access of n bytes (R72, R136). -/
def scalarElementsIf (bad : Place → Bool) (s : State) (w : Who) (kind : Nat) (a : Word) (n : Nat) :
    Except TStop (List Element) := do
  let r ← openRecord s w (handleOf a) kind
  recordElements bad s w kind r a n

/-- The elements of a scalar access, whatever their data. -/
def scalarElements (s : State) (w : Who) (kind : Nat) (a : Word) (n : Nat) : Except TStop (List Element) :=
  scalarElementsIf (fun _ => false) s w kind a n

/-- The bytes of elements lie contiguously in one image and one sub-tile (R139, R148, R156). -/
def contiguous : List Element → Bool
  | e :: f :: rest =>
    e.place.addr + e.place.bits / 8 == f.place.addr && e.sub == f.sub && e.hi == f.lo && contiguous (f :: rest)
  | _ => true

/-- The value that places hold one after another, least significant first (R2). -/
def readPlaces (s : State) (ps : List Place) : Nat :=
  ps.foldr (fun p acc => readPlace s p + acc <<< p.bits) 0

/-- The values that a number gives to places one after another (R2). -/
def spread : List Place → Nat → List (Place × Nat)
  | [], _ => []
  | p :: ps, v => (p, v % 2 ^ p.bits) :: spread ps (v >>> p.bits)

/-! ## Galleys -/

/-- The galley that a handle names (R64). -/
def galleyOf (h : Nat) : Option Nat := if 0xFFF00 ≤ h ∧ h ≤ 0xFFF1F then some (h - 0xFFF00) else none

/-- The fields of a galley descriptor (R92). -/
def gBase (d : Word) : Nat := field d 0 11 * 256
/-- SIZE in bytes. -/
def gSize (d : Word) : Nat := field d 11 11 * 256
/-- KIND: 0 plain, 1 sparse 2:4, 2 sparse 1:4, 3 coded. -/
def gKind (d : Word) : Nat := field d 22 3
/-- The element width in bits. -/
def gBits (d : Word) : Nat := 4 <<< field d 25 2
/-- STATE: 0 undeclared, 1 empty, 2 filling, 3 full, 4 draining. -/
def gState (d : Word) : Nat := field d 29 3
/-- SPLIT in bytes. -/
def gSplit (d : Word) : Nat := field d 32 11 * 256
/-- The slot size of a coded galley. -/
def gSlotSize (d : Word) : Nat := 512 <<< field d 27 2
/-- OWNER. -/
def gOwner (d : Word) : Nat := field d 43 16

/-- The descriptor of a galley of a core. -/
def galley (s : State) (core id : Nat) : Word := vget (getCore s core).galleys id 0

/-- The values kept of each group of four in a sparse galley (R99). -/
def gKeep (d : Word) : Nat := if gKind d = 1 then 2 else 1

/-- The logical capacity of a galley, in elements of its width (R93, R99). -/
def gCapacity (d : Word) : Nat :=
  match gKind d with
  | 0 => gSize d * 8 / gBits d
  | 3 => gSplit d / gSlotSize d * 4096
  | _ =>
    let n := gKeep d
    4 * Nat.min (gSplit d * 8 / (n * gBits d)) ((gSize d - gSplit d) * 8 / (n * 2))

/-- TINFO of the galley causes (R306). -/
def galleyInfo (id state kind : Nat) : Word := wordOfNat (id + state <<< 5 + kind <<< 8)

/-- Whether a context may name a galley that it must find declared: GMASK, a declaration, the owner (R92, R93). -/
def galleyUsable (s : State) (ctx core : Nat) (gmask : BitVec 32) (id : Nat) : Bool :=
  let d := galley s core id
  id < 32 && gmask.getLsbD id && gState d != 0 && gOwner d == ctx

/-- Whether the state of a galley admits a hart access (R93): `kind` 0 is a load, 1 a store; `matrix` is a matrix
operand load. -/
def galleyAdmits (d : Word) (kind : Nat) (matrix : Bool) : Bool :=
  let st := gState d
  if gKind d = 0 then (if kind = 1 then st == 2 else st == 3 || st == 4)
  else matrix && kind == 0 && gKind d != 3 && (st == 3 || st == 4)

/-- Where element i of a plain galley lies, for a width of b bits (R93). -/
def galleyPlace (core : Nat) (d : Word) (b i : Nat) : Place :=
  { core := some core, addr := gBase d + i * b / 8, bit := i * b % 8, bits := b }

/-- The checks of a hart access through a galley handle that come before its offset (R64, R92, R93). -/
def openGalley (s : State) (id kind : Nat) (matrix : Bool) : Except TStop Word :=
  let d := galley s s.me.core id
  if !galleyUsable s s.me.ctx s.me.core s.me.gmask id then
    .error (.fault { code := 0x08, info := addrInfo (0xFFF00 + id) kind 0 0 })
  else if !galleyAdmits d kind matrix then
    .error (.fault { code := 0x10, info := galleyInfo id (gState d) kind })
  else .ok d

/-- The element at a byte offset of a plain galley, of b bits, b at least 8 (R93, R162). -/
def galleyElement (s : State) (id kind : Nat) (d : Word) (b off : Nat) : Except TStop Element :=
  let h := 0xFFF00 + id
  if off % (b / 8) ≠ 0 then .error (.fault (misaligned h kind (off / (b / 8)) off))
  else if gSize d < off + b / 8 then
    .error (.fault { code := 0x0C, info := addrInfo h kind 0 0, coord := [off] })
  else .ok { place := galleyPlace s.me.core d b (off * 8 / b), handle := h, lo := off, hi := off + b / 8, sub := 0,
             fmt := 0, coord := [off] }

/-- The element that an offset of a handle falls into, as a misaligned fault names it: by the width of the object or the galley, 0 where
there is none (R65, R73). -/
def elementNo (s : State) (w : Who) (a : Word) : Nat :=
  let h := handleOf a
  match galleyOf h, w.core with
  | some id, some c => let d := galley s c id; if gState d = 0 then 0 else offsetOf a / offsetUnit (gBits d)
  | _, _ =>
    match lookupRecord s w h 0 with
    | .ok r => offsetOf a / offsetUnit r.bits
    | .error _ => 0

/-! ## Caches -/

/-- Put an entry at the head of a cache of n entries, replacing its namesake: least recently used leaves (R74). -/
def cachePut {α : Type} (same : α → Bool) (e : α) (n : Nat) (l : List α) : List α :=
  (e :: l.filter fun x => !same x).take n

/-- The record of a handle has been used by a core: the ORC holds it as most recently used (R74). -/
def touchOrc (s : State) (core ctx h : Nat) (words : Record) : State :=
  modCore s core fun c =>
    let e : OrcEntry := { ctx := ctx, handle := h, words := words }
    { c with orc := cachePut (fun x => x.ctx == ctx && x.handle == h) e 256 c.orc }

/-- A map entry has been used by a core (R74). -/
def touchMap (s : State) (core ctx h st : Nat) (entry : Word) : State :=
  modCore s core fun c =>
    let e : MapEntry := { ctx := ctx, handle := h, sub := st, entry := entry }
    { c with maps := cachePut (fun x => x.ctx == ctx && x.handle == h && x.sub == st) e 64 c.maps }

/-- A correctable error in a record or a map entry that an access reads of memory is corrected (R58). -/
def correctTable (s : State) (w : Who) (h : Nat) (subs : List Nat) : State :=
  if s.softMem.isEmpty then s
  else
    let inOrc := match w.core with
      | some c => (getCore s c).orc.any fun e => e.ctx == w.ctx && e.handle == h
      | none => false
    let t := if inOrc then s else correctRange s (recordAddr w.otb h) 64
    match lookupRecord s w h 0 with
    | .ok r => if r.state ≠ 1 then t else
        (subs.filter fun st => (heldEntry s w h st).isNone).foldl (fun t st => correctRange t (r.base + 8 * st) 8) t
    | .error _ => t

/-- An access of a hart of a core has translated elements of one handle: the ORC and the map cache hold what it used
(R74). What a pin supplies is no entry of theirs (R75, R76). -/
def touchHandle (s : State) (w : Who) (h : Nat) (subs : List Nat) : State :=
  if w.pin.any fun p => p.handle == h then s
  else
    let s := correctTable s w h subs
    match w.core, lookupRecord s w h 0 with
    | some c, .ok r =>
      let s := touchOrc s c w.ctx h r
      if r.state = 1 then
        subs.eraseDups.foldl (fun s st => touchMap s c w.ctx h st (mapEntry s w h r st)) s
      else s
    | _, _ => s

end Sys2Proof.Machine
end

