-- ==== Sys2Proof/Machine/Order.lean ====
section
/-! DEFINITION. What keeps an operation of a hart from performing (R83, R173, R270 to R279), and which operations wait for the
PROOF of the open strip of their own hart (R280, R282). -/

namespace Sys2Proof.Machine

/-! ## Ranges -/

/-- The handle that stands for an address nothing has read yet. -/
def anyHandle : Nat := 2 ^ 20

/-- Two ranges of image bytes of one handle overlap (R173). -/
def overlaps (a b : Span) : Bool := a.handle == b.handle && decide (a.lo < b.hi) && decide (b.lo < a.hi)

/-- Some range of one list overlaps some range of another. -/
def anyOverlap (a b : List Span) : Bool := a.any fun x => b.any (overlaps x)

/-- Ranges may overlap, one list holding what an instruction that waits may reach. -/
def mayOverlap (a b : List Span) : Bool := (a.any fun x => x.handle == anyHandle) || anyOverlap a b

/-! ## Kinds of operations -/

/-- A load or store, scalar or vector, for the rule of R279 on strips. -/
def plainAccess (a : Action) : Bool :=
  match a with
  | .store _ => true
  | .load _ _ _ _ => true
  | .vload _ _ => true
  | _ => false

/-- The operation is an MMAU, which may still trap once its reads have performed (R232, R233). -/
def isMmau (f : Flight) : Bool :=
  match f.action with
  | .mmau _ => true
  | _ => false

/-- A transfer is one of the operations that later ones may be ordered after (R274). -/
def ordersOthers (t : Transfer) : Bool := t.kind == .copy || t.kind == .coll || t.kind == .move

/-- The interlock between an access and the source and destination entries of a transfer: its last entry is written
(R83, R173). -/
def transferOverlap (t : Transfer) (spans : List Span) (writes : Bool) : Bool :=
  if t.kind = .move then anyOverlap t.spans spans
  else anyOverlap (t.spans.drop (t.spans.length - 1)) spans || (writes && anyOverlap t.spans spans)

/-- The object that a move or an ORCINV names. -/
def namedHandle (t : Transfer) : Nat := handleOf (vget t.latch 0 0)

/-- Ranges name a handle, or any for handle 0. -/
def spansName (handle : Nat) (l : List Span) : Bool := l.any fun y => handle == 0 || y.handle == handle

/-! ## The strip -/

/-- The open strip holds a store to a handle, or, for handle 0, to any (R75, R80, R261). -/
def stripNames (r : Regs) (handle : Nat) : Bool := r.strip.isOpen && r.strip.stores.any fun x => spansName handle x.spans

/-- A buffered store of the open strip, earlier than an operation, is one of its predecessors (R279). -/
def behindStrip (r : Regs) (seq : Nat) (pmask : BitVec 16) : Bool :=
  r.strip.isOpen && r.strip.stores.any fun x => decide (x.seq < seq) && pmask.getLsbD x.stream

/-- A store is in the open strip still. -/
def stillBuffered (h : Hart) (seq : Nat) : Bool := h.r.strip.stores.any fun x => x.seq == seq

/-- A store that was buffered has not performed. -/
def stillUnperformed (h : Hart) (seq : Nat) : Bool :=
  stillBuffered h seq || h.flights.any fun y => y.released && y.seq == seq

/-- A load among the predecessors took a value of the strip that no other agent receives yet (R270): `out` picks the stores that
count. -/
def lentBehind (h : Hart) (seq : Nat) (pmask : BitVec 16) (out : Hart → Nat → Bool) : Bool :=
  h.lent.any fun l => decide (l.seq < seq) && pmask.getLsbD l.stream && l.sources.any (out h)

/-- A load with a value of the strip counts as performed for a plain access at hart scope, and for nothing else (R270, R279). -/
def needsLent (f : Flight) : Bool := f.scope != 0 || !plainAccess f.action

/-- A buffered store keeps an operation from performing (R279, log 19). `joins` marks a store into the strip, and an arrival or
SETVLW at hart scope. -/
def stripBlocks (r : Regs) (f : Flight) (joins : Bool) : Bool :=
  !joins && r.strip.stores.any fun x => decide (x.seq < f.seq) &&
    ((f.pmask.getLsbD x.stream && !(plainAccess f.action && f.scope == 0)) ||
      (!plainAccess f.action && !isMmau f && anyOverlap x.spans f.spans))

/-! ## One operation behind another -/

/-- An operation y of the hart keeps a later one, f, from performing: one PROOF released both, y is a predecessor, the interlock
puts it before f, or it may still trap (R6, R157, R173, R273). -/
def flightBlocks (y f : Flight) : Bool :=
  decide (y.seq < f.seq) && (
    if y.released && f.released && y.env.seq == f.env.seq then true
    else if y.parked then
      f.writes || isMmau f || (!y.spans.isEmpty && (f.pmask.getLsbD y.stream || (y.writes && mayOverlap y.spans f.spans)))
    else (isMmau y && (f.writes || isMmau f)) || f.pmask.getLsbD y.stream ||
      (anyOverlap y.spans f.spans && (y.writes || f.writes)))

/-- A transfer t of the hart keeps a later operation from performing (R83, R173, R274). A store that PROOF released takes no
entry of the interlock, and goes before a move of its object that it holds in draining (R80, R175). -/
def transferBlocks (t : Transfer) (f : Flight) : Bool :=
  ordersOthers t && decide (t.seq < f.seq) &&
    (f.pmask.getLsbD t.stream || (!(t.kind == .move && f.released) && transferOverlap t f.spans f.writes))

/-- An operation y of the hart keeps a later transfer from performing (R83, R173, R273). -/
def flightBlocksTransfer (y : Flight) (t : Transfer) : Bool :=
  decide (y.seq < t.seq) &&
    (if y.parked then !y.spans.isEmpty && (t.pmask.getLsbD y.stream || mayOverlap y.spans t.spans)
     else t.pmask.getLsbD y.stream || transferOverlap t y.spans y.writes)

/-- A transfer u of the hart keeps a later one from performing (R83, R173, R273). -/
def transferBlocksTransfer (u t : Transfer) : Bool :=
  ordersOthers u && decide (u.seq < t.seq) &&
    (t.pmask.getLsbD u.stream || transferOverlap u t.spans false || transferOverlap t u.spans false)

/-- While its context is out, what a PROOF has released goes on past an instruction that the swap has made wait and that it is not ordered
after (R157, R324). -/
def passesBy (h : Hart) (y f : Flight) : Bool :=
  f.released && h.bank != .active && y.parked && !f.pmask.getLsbD y.stream && !mayOverlap y.spans f.spans

/-- The transfers of a hart. -/
def ownTransfers (s : State) (h : Hart) : List Transfer := s.transfers.filter fun t => t.owner == some h.hid

/-- An operation of hart h still waits for something before it (R6, R173, R270, R273, R279). -/
def orderBlocked (s : State) (h : Hart) (f : Flight) (joins : Bool) : Bool :=
  (h.flights.any fun y => flightBlocks y f && !passesBy h y f) || ((ownTransfers s h).any fun t => transferBlocks t f) ||
    stripBlocks h.r f joins || (!joins && needsLent f && lentBehind h f.seq f.pmask stillUnperformed)

/-- A transfer still waits for operations of its hart that come before it (R83, R173, R175, R279). -/
def transferBlocked (s : State) (t : Transfer) : Bool :=
  match t.owner.bind (hartOf s) with
  | none => false
  | some h =>
    (h.flights.any fun y => flightBlocksTransfer y t) || ((ownTransfers s h).any fun u => transferBlocksTransfer u t) ||
      (h.r.strip.stores.any fun x => decide (x.seq < t.seq) && t.pmask.getLsbD x.stream) ||
      lentBehind h t.seq t.pmask stillUnperformed

/-! ## What only the PROOF of the open strip can end -/

/-- An access of the hart of a move is ordered after it, by the interlock or by its mask, and is probed when the move has ended;
a store of the strip takes no entry of the interlock (R79, R82, R173, R175, log 49). -/
def afterMove (t : Transfer) (seq : Nat) (pmask : BitVec 16) (strip : Bool) : Bool :=
  decide (t.seq < seq) && (!strip || pmask.getLsbD t.stream)

/-- An ORCINV, or a move that drains, of the hart waits for an access that names its object (R79, R80, R261). -/
def drainsOver (t : Transfer) (seq : Nat) (pmask : BitVec 16) (strip : Bool) (spans : List Span) : Bool :=
  (t.kind == .orcinv || (t.kind == .move && t.draining && !afterMove t seq pmask strip)) && spansName (namedHandle t) spans

/-- One round of `stuck`: the operations of a hart that wait for the open strip, or for one that does. -/
def stuckRound (ts : List Transfer) (h : Hart) (l : List Nat) : List Nat :=
  let flights := h.flights.filter fun f => !f.parked &&
    (stripBlocks h.r f false || (needsLent f && lentBehind h f.seq f.pmask stillBuffered) ||
      (h.flights.any fun y => !y.parked && l.contains y.seq && flightBlocks y f) ||
      ts.any fun t => l.contains t.seq && transferBlocks t f)
  let transfers := ts.filter fun t =>
    behindStrip h.r t.seq t.pmask || lentBehind h t.seq t.pmask stillBuffered ||
      (h.r.strip.stores.any fun x => drainsOver t x.seq x.pmask true x.spans) ||
      (h.flights.any fun y => !y.parked && l.contains y.seq &&
        (flightBlocksTransfer y t || drainsOver t y.seq y.pmask y.released y.spans)) ||
      ts.any fun u => l.contains u.seq && transferBlocksTransfer u t
  flights.map (·.seq) ++ transfers.map (·.seq)

/-- Rounds of `stuck`, from the operations found so far. -/
def stuckRounds (ts : List Transfer) (h : Hart) : Nat → List Nat → List Nat
  | 0, l => l
  | n + 1, l => stuckRounds ts h n (stuckRound ts h l)

/-- The operations of a hart, by sequence number, that can perform only after the PROOF of its open strip, since they wait for a
buffered store or for an operation that does (R279, R280, R282). -/
def stuck (s : State) (h : Hart) : List Nat :=
  if h.r.strip.stores.isEmpty then []
  else
    let ts := ownTransfers s h
    stuckRounds ts h (h.flights.length + ts.length) []

/-- An operation that would wait before it has an effect waits for the PROOF of the open strip (R279, R280). -/
def waitsForProof (s : State) (h : Hart) (f : Flight) (joins : Bool) : Bool :=
  let k := stuck s h
  stripBlocks h.r f joins || (!joins && needsLent f && lentBehind h f.seq f.pmask stillBuffered) ||
    (h.flights.any fun y => !y.parked && k.contains y.seq && flightBlocks y f) ||
    (ownTransfers s h).any fun t => k.contains t.seq && transferBlocks t f

end Sys2Proof.Machine
end

