-- ==== Sys2Proof/Machine/Graph.lean ====
section
/-! DEFINITION. What the imposition unit and the engines share with the harts: the error log (R364), colophons and
decrements (R288, R300), the end of transfers (R89, R95) and the killing of a context (R320). -/

namespace Sys2Proof.Machine

/-! ## Harts -/

/-- HARTID (R153). -/
def hartId (h : Hart) : Word := wordOfNat (h.core + h.idx <<< 9 + h.nh <<< 12)

/-! ## Context descriptors and object addresses of the unit -/

/-- The address of a context descriptor (R285). -/
def descAddr (s : State) (ctx : Nat) : Nat := field s.unit.ctxt 0 39 * 256 + 32 * ctx

/-- A word of a context descriptor as a register may take it: one that is known bad reaches none, and zero stands in its place (R59,
log 22). -/
def descWord (s : State) (ctx i : Nat) : Word :=
  let a := descAddr s ctx + 8 * i
  if rangeBad s a 8 then 0 else wordOfNat (readPhys s a 8)

/-- The object table of a context, as its descriptor stands (R285); its reserved bits read zero (R4, R66). -/
def ctxOtb (s : State) (ctx : Nat) : Word := wordOfNat ((descWord s ctx 0).toNat % 2 ^ 59)

/-- GMASK of a context, as its descriptor stands (R285). -/
def ctxGmask (s : State) (ctx : Nat) : BitVec 32 := (descWord s ctx 1).setWidth 32

/-- The unit and the root-of-trust core as translators for a context: they read the table itself (R290, R347). -/
def whoUnit (s : State) (ctx : Nat) : Who := { ctx := ctx, otb := ctxOtb s ctx, core := none, pin := none }

/-- An access of the unit or the root-of-trust core waits: its object is being moved, or its pseudo-channel is in a back-off window
(R57, R79). -/
def unitWaits (s : State) (ctx kind : Nat) (a : Word) (n : Nat) : Bool :=
  match scalarElements s (whoUnit s ctx) kind a n with
  | .ok es => backoffAt s (memoryBytes (es.map (·.place)))
  | .error .moving => true
  | .error (.fault _) => false

/-- Write an aligned 64-bit word through the table of a context; none when it does not translate with PW. -/
def unitStore (s : State) (ctx : Nat) (a : Word) (f : Nat → Nat) : Option State :=
  match scalarElements s (whoUnit s ctx) 1 a 8 with
  | .ok es =>
    let ps := es.map (·.place)
    some (writePlaces s (spread ps (f (readPlaces s ps))))
  | .error _ => none

/-- The same memory with no pseudo-channel under an alert (R57). -/
def outOfWindows (s : State) : State :=
  { s with dies := s.dies.map fun d => { d with mcb := { d.mcb with windows := [] } } }

/-- The same for a kill, which waits for no move and no back-off window: the word goes to the old place, whence the move copies it (R320,
log 68). -/
def killStore (s : State) (ctx : Nat) (a : Word) (f : Nat → Nat) : Option State :=
  let w := whoUnit s ctx
  let calm := outOfWindows s
  match lookupRecord calm w (handleOf a) 1 with
  | .ok r =>
    if !permOk r 1 then none
    else match recordElements (fun _ => false) calm w 1 r a 8 with
      | .ok es =>
        let ps := es.map (·.place)
        some (writePlaces s (spread ps (f (readPlaces s ps))))
      | .error _ => none
  | .error _ => none

/-! ## Nodes -/

/-- The entry of a node id of a context (R284). -/
def findNode (s : State) (ctx id : Nat) : Option Node := s.unit.nodes.find? fun n => n.ctx == ctx && n.id == id

/-- Change the unit. -/
def modUnit (s : State) (f : Unit_ → Unit_) : State := { s with unit := f s.unit }

/-- Replace the entry of a node. -/
def setNode (s : State) (n : Node) : State :=
  modUnit s fun u => { u with nodes := u.nodes.map fun m => if m.ctx = n.ctx ∧ m.id = n.id then n else m }

/-- Free the id of a node (R288). -/
def freeNode (s : State) (ctx id : Nat) : State :=
  modUnit s fun u => { u with nodes := u.nodes.filter fun m => !(m.ctx == ctx && m.id == id) }

/-- A word of a node record (R286). -/
def recWord (r : Vector Word 16) (i : Nat) : Word := vget r i 0
/-- KIND. -/
def nodeKind (r : Vector Word 16) : Nat := field (recWord r 0) 0 3
/-- NODEID. -/
def nodeId (r : Vector Word 16) : Nat := field (recWord r 0) 3 14
/-- DEPS. -/
def nodeDeps (r : Vector Word 16) : Nat := field (recWord r 0) 17 16
/-- NSUCC. -/
def nodeNsucc (r : Vector Word 16) : Nat := field (recWord r 0) 33 4
/-- NTRUE. -/
def nodeNtrue (r : Vector Word 16) : Nat := field (recWord r 0) 37 4
/-- CTX. -/
def nodeCtx (r : Vector Word 16) : Nat := field (recWord r 0) 41 16
/-- CLU. -/
def nodeClu (r : Vector Word 16) : Nat := field (recWord r 0) 57 5
/-- COLO. -/
def nodeColo (r : Vector Word 16) : Word := recWord r 1
/-- SUCC of an index. -/
def nodeSucc (r : Vector Word 16) (i : Nat) : Nat := field (recWord r (2 + i / 4)) (16 * (i % 4)) 16
/-- HARTS. -/
def nodeHarts (r : Vector Word 16) : Nat := field (recWord r 10) 0 12
/-- LSPLIT. -/
def nodeSplit (r : Vector Word 16) : Nat := field (recWord r 10) 12 2
/-- CLMASK allows a cluster. -/
def nodeAllows (r : Vector Word 16) (cl : Nat) : Bool := bitAt (recWord r 10) (14 + cl)

/-- Send the decrements of a record: real to the successors that `real` picks, skips to the others (R288). -/
def sendDecs (s : State) (r : Vector Word 16) (real : Nat → Bool) : State :=
  modUnit s fun u =>
    { u with decs := u.decs ++ (List.range (Nat.min 8 (nodeNsucc r))).map fun i =>
        (nodeCtx r, nodeSucc r i % 16384, real i) }

/-- The colophon word of a node at its completion (R300): STATUS alone is replaced for a kernel that has started; the whole word is
written for every other node. -/
def colophonWord (n : Node) (status : Nat) (started : Bool) (old : Nat) : Nat :=
  if started then putBits old 0 8 status
  else
    let transfer := nodeKind n.record = 1 ∨ nodeKind n.record = 2
    status + bit n.branch <<< 15 +
      (if transfer ∧ status = 1 then n.flags.toNat <<< 8 + field n.status 0 8 <<< 32 + field n.status 24 4 <<< 40 else 0)

/-- The colophon of a node lies in an object that is being moved (R79). -/
def coloMoving (s : State) (n : Node) : Bool := unitWaits s n.ctx 1 (nodeColo n.record) 8

/-- Write a colophon and send decrements (R288, R289). -/
def reportNode (s : State) (n : Node) (status : Nat) (started : Bool) (decs : Option (Nat → Bool)) : State :=
  let s := (unitStore s n.ctx (nodeColo n.record) (colophonWord n status started)).getD s
  match decs with
  | some real => sendDecs s n.record real
  | none => s

/-- Complete a node: write its colophon, send its decrements, free its id (R289, R300). -/
def completeNode (s : State) (n : Node) (status : Nat) (started : Bool) (decs : Option (Nat → Bool)) : State :=
  freeNode (reportNode s n status started decs) n.ctx n.id

/-- Complete a node that ran nothing, with skips to every successor (R288, R290). -/
def refuseNode (s : State) (n : Node) (status : Nat) : State := completeNode s n status false (some fun _ => false)

/-! ## Groups (R254) -/

/-- Every member of a group has arrived in its phase or ended: the phase advances and the count clears (R254). -/
def advanceGroup (g : Group) : Group :=
  if g.members.all fun i => g.arrived.contains i || g.ended.contains i then
    { g with arrived := [], phase := g.phase + 1 }
  else g

/-- Change a group of a node. -/
def modGroup (n : Node) (k : Nat) (f : Group → Group) : Node :=
  { n with groups := n.groups.map fun (e : Nat × Group) => if e.1 = k then (k, f e.2) else e }

/-- A launch hart arrives in a group (R254). -/
def arriveIn (i : Nat) (g : Group) : Group := advanceGroup { g with arrived := i :: g.arrived }

/-- A launch hart has executed END (R254). -/
def endIn (i : Nat) (g : Group) : Group :=
  if g.members.contains i then advanceGroup { g with ended := i :: g.ended } else g

/-! ## The end of transfers -/

/-- A transfer is in flight into a galley, or from it (R93). -/
def galleyBusy (s : State) (core id : Nat) (into : Bool) : Bool :=
  s.transfers.any fun t => t.core == core && (if into then t.gdst else t.gsrc) == some id

/-- Change the descriptor of a galley. -/
def setGalley (s : State) (core id : Nat) (d : Word) : State :=
  modCore s core fun c => { c with galleys := vset c.galleys id d }

/-- The STATE of a galley becomes n (R92). -/
def setGState (s : State) (core id n : Nat) : State := setGalley s core id (putField (galley s core id) 29 3 n)

/-- A galley becomes undeclared (R92). -/
def undeclare (s : State) (core id : Nat) : State :=
  modCore s core fun c =>
    { c with galleys := vset c.galleys id 0, pendingFull := c.pendingFull &&& ~~~(1#32 <<< id),
             dying := c.dying &&& ~~~(1#32 <<< id) }

/-- What a galley does when a transfer on it has ended: the change to full that waited for it, or the end that a kill
asked for (R92, R95). -/
def galleyAfter (s : State) (core id : Nat) : State :=
  let c := getCore s core
  let idle := !galleyBusy s core id true && !galleyBusy s core id false
  if idle ∧ c.dying.getLsbD id then undeclare s core id
  else if c.pendingFull.getLsbD id ∧ !galleyBusy s core id true then
    modCore (setGState s core id 3) core fun c => { c with pendingFull := c.pendingFull &&& ~~~(1#32 <<< id) }
  else s

/-- Remove a transfer and let its galleys go (R95). -/
def dropTransfer (s : State) (t : Transfer) : State :=
  let s := { s with transfers := s.transfers.filter fun x => x.uid != t.uid }
  let s := match t.gdst with
    | some g => galleyAfter s t.core g
    | none => s
  match t.gsrc with
  | some g => galleyAfter s t.core g
  | none => s

/-- The status word of R89. -/
def statusWord (code tid nfail index : Nat) : Word :=
  wordOfNat (code + tid <<< 8 + Nat.min 15 nfail <<< 24 + (index % 2 ^ 36) <<< 28)

/-- One operation of a stream of a hart has performed (R153). -/
def countPerf (h : Hart) (stream : Nat) : Hart :=
  { h with perf := vset h.perf stream (vget h.perf stream 0 + 1) }

/-- Write a scalar register; s0 keeps nothing (R107). -/
def setX (r : Regs) (i : Nat) (v : Word) : Regs := if i = 0 then r else { r with x := vset r.x i v }

/-- A transfer ends: its value goes into its register in every bank that holds its hart, its flags into FFLAGS, its
operation counts as performed, and it is gone (R89, R106, R317). A node keeps the word for its colophon. -/
def endTransfer (s : State) (t : Transfer) (word : Word) (counted : Bool) : State :=
  let s := match t.owner with
    | some hid => modHart s hid fun h =>
        let h := landRegs h t.seq fun r => { setX r t.se.val word with fflags := r.fflags ||| t.flags }
        if counted then countPerf h t.stream else h
    | none =>
      match t.node with
      | some id =>
        match findNode s t.ctx id with
        | some n => setNode s { n with st := .ending 1, status := word, flags := t.flags }
        | none => s
      | none => s
  dropTransfer s t

/-! ## Moves -/

/-- Write the table entry of a handle, and the copies of it in every ORC of the context and in the pins of its harts (R76, R79); no
word that lies in registered text or another guarded range is written (R346, log 93). -/
def putRecord (s : State) (ctx : Nat) (otb : Word) (h : Nat) (r : Record) : State :=
  let a := recordAddr otb h
  let s := (List.range 8).foldl (fun s i => writeOpen s (a + 8 * i) 8 (r.word i).toNat) s
  let s := { s with cores := s.cores.map fun c =>
      (c.1, { c.2 with orc := c.2.orc.map fun e =>
        if e.ctx = ctx ∧ e.handle = h then { e with words := r } else e }) }
  let pinned (g : Hart) : Bool := g.ctx == ctx && g.pin.any fun p => p.handle == h
  if (allHarts s).any pinned then
    modHarts s fun g => if pinned g then { g with pin := g.pin.map fun p => { p with words := r } } else g
  else s

/-- The record of the object of a move: as it began, or as the table holds it before (R75). -/
def moveRecord (s : State) (t : Transfer) : Record := t.moved.getD (recordAt s (recordAddr t.otb (namedHandle t)))

/-- STATE 0 and NEWBASE 0, with BASE and GEN as they are: the move is over without effect (R79, R247). -/
def stillRecord (r : Record) : Record :=
  vset (vset r 0 (putField (r.word 0) 39 2 0)) 1 (putField (r.word 1) 0 39 0)

/-- A move ends without effect; what software has written to the record since it began is overwritten (R75, R79). -/
def cancelMove (s : State) (t : Transfer) : State :=
  putRecord s t.ctx t.otb (namedHandle t) (stillRecord (moveRecord s t))

/-! ## Communicators (R372) -/

/-- The enabled entry of a communicator: its NRANKS and the base of its rank map. -/
def commEntry (s : State) (comm : Nat) : Option (Nat × Nat) :=
  let base := field s.unit.commtab 0 39 * 256
  let word (i k : Nat) : Word := wordOfNat (readPhys s (base + 64 * i + 8 * k) 8)
  ((List.range (field s.unit.commtab 39 12)).find? fun i => (word i 0).toNat == comm && bitAt (word i 1) 16).map fun i =>
    (field (word i 1) 0 16, field (word i 2) 0 39 * 256)

/-- The node and the die of a rank. -/
def rankEntry (s : State) (map r : Nat) : Nat × Nat :=
  let e := readPhys s (map + 4 * r) 4
  (bitsOf e 0 16, bitsOf e 16 1)

/-- A rank is of this package. -/
def rankHere (s : State) (comm r : Nat) : Bool :=
  match commEntry s comm with
  | some (_, map) => (rankEntry s map r).1 == field s.stlNode 0 16
  | none => false

/-- The node of the fabric that serves a rank of a communicator (R372). -/
def rankNode (s : State) (comm rank : Nat) : Option Nat := (commEntry s comm).map fun e => (rankEntry s e.2 rank).1

/-- Flits of this package reach the node that serves a rank (R371). -/
def rankReached (s : State) (comm rank : Nat) : Bool := ((rankNode s comm rank).bind (routeUp s)).isSome

/-- The nodes of other packages that serve ranks of a collective. -/
def otherNodes (s : State) (c : Coll) : List Nat :=
  (((List.range c.nranks).filter fun r => !rankHere s c.comm r).filterMap (rankNode s c.comm)).eraseDups

/-- A rank of another package to which the flits of this one are dropped (R371). -/
def rankCut (s : State) (c : Coll) : Bool :=
  (List.range c.nranks).any fun r => !rankHere s c.comm r && !rankReached s c.comm r

/-- An engine sends flits to nodes. -/
def sendToAll (s : State) (nodes : List Nat) (control : Bool) (n : Nat) : State :=
  nodes.foldl (fun s d => sendFlits s d control n) s

/-! ## Killing a context -/

/-- The collective that a COLL takes part in. -/
def collOf (s : State) (t : Transfer) : Option Coll :=
  s.colls.find? fun c => c.comm == (vget t.latch 11 0).toNat && c.index == t.index

/-- Replace a collective. -/
def setColl (s : State) (c : Coll) : State :=
  { s with colls := s.colls.map fun d => if d.comm = c.comm ∧ d.index = c.index then c else d }

/-- The coordinator decides, and the decision sets out for every participant (R373). -/
def decideAs (s : State) (c : Coll) (verdict : Bool) : State :=
  setColl (sendToAll s (otherNodes s c) true 1) { c with decided := some verdict }

/-- An engine that meets a kill, a CCANCEL, a disagreement or a fault sends ABORT to the coordinator of its collective, which decides so
unless it has decided already (R373). A coordinator in another package cannot have decided COMMIT while a rank of this one is not ready. -/
def abortColl (s : State) (c : Coll) : State :=
  if c.home then (if c.decided.isNone then decideAs s c false else s)
  else
    let s := sendToAll s (rankNode s c.comm 0).toList true 1
    if (List.range c.nranks).all fun r => !rankHere s c.comm r || c.ready.contains r then s else setColl s { c with barred := true }

/-- Step 2 of a kill for one transfer (R320, R321): copies are dropped, a draining move ends without effect, a copying one
completes, a COLL aborts unless its commit has been decided. -/
def killTransfer (s : State) (t : Transfer) : State :=
  let orphan (s : State) : State :=
    { s with transfers := s.transfers.map fun x => if x.uid = t.uid then { x with owner := none, node := none } else x }
  match t.kind with
  | .move =>
    if t.copying then orphan s
    else dropTransfer (if t.draining then cancelMove s t else s) t
  | .coll =>
    match collOf s t with
    | some c => if c.decided = some true || !c.home then orphan (abortColl s c) else dropTransfer (abortColl s c) t
    | none => dropTransfer s t
  | _ => dropTransfer s t

/-! ## Banks -/

/-- No hart stands in the active bank of a core. -/
def activeFree (s : State) (core : Nat) : Bool := !(allHarts s).any fun h => h.core == core && h.bank == .active

/-- A free shadow bank begins to fill with the image of a context of the core (R294, R316, log 69). -/
def startFill (s : State) (core : Nat) : State :=
  match (allHarts s).find? fun h => h.core == core && h.bank == .image with
  | none => s
  | some h =>
    if (getCore s core).shadow = .free then
      modCore (modHarts (wakeCluster s (clusterOf core)) fun g =>
        if g.core = core ∧ g.ctx = h.ctx ∧ g.bank = .image then { g with bank := .shadow } else g) core
        fun c => { c with shadow := .filling }
    else s

/-- The contexts that a core has put aside go on as banks free: an image fills a free shadow bank, and once the active bank is free
the unit asks for the swap that brings the context of the shadow bank back (R294, R316); the cluster is woken (R381). -/
def resumeShadow (s : State) (core : Nat) : State :=
  let s := startFill s core
  if activeFree s core && (allHarts s).any fun h => h.core == core && h.bank == .shadow then
    modCore (wakeCluster s (clusterOf core)) core fun c => { c with swapAsked := some none }
  else s

/-- A node of a killed context completes with KILLED (R301, R320). -/
def killNode (s : State) (n : Node) (started : Bool) : State :=
  freeNode ((killStore s n.ctx (nodeColo n.record) (colophonWord n 7 started)).getD s) n.ctx n.id

/-- The stores of a hart that have passed their ordering edges, in program order: they have left the hart (R320). -/
def leftStores (s : State) (h : Hart) : List (Place × Nat) :=
  let gone := h.flights.filter fun f => !f.parked && !orderBlocked s h f false
  (gone.mergeSort fun x y => decide (x.seq ≤ y.seq)).flatMap fun f => match f.action with
    | .store ws => ws
    | _ => []

/-- End a context for good (R320). -/
def killContext (s : State) (ctx : Nat) : State :=
  let mine := allHarts s |>.filter fun h => h.ctx == ctx
  let s := writePlaces s (mine.flatMap (leftStores s))
  let s := { s with me := if s.me.ctx = ctx then Hart.idle else s.me, rest := s.rest.filter fun h => h.ctx != ctx }
  let s := (s.transfers.filter fun t => t.ctx == ctx).foldl killTransfer s
  let s := (s.unit.nodes.filter fun n => n.ctx == ctx).foldl (fun s n =>
    match n.st with
    | .credit => freeNode s n.ctx n.id
    | .running => killNode s n (nodeKind n.record == 0)
    | _ => killNode s n false) s
  let s := modUnit s fun u => { u with decs := u.decs.filter fun d => d.1 != ctx }
  let cores := (s.cores.map (·.1))
  cores.foldl (fun s k =>
    let s := if mine.any (fun h => h.core == k && h.bank == .shadow) then
        modCore s k fun c => { c with shadow := .free, swapAsked := none }
      else s
    (List.range 32).foldl (fun s g =>
      let d := galley s k g
      if gState d ≠ 0 ∧ gOwner d = ctx then
        if galleyBusy s k g true ∨ galleyBusy s k g false then
          modCore s k fun c => { c with dying := c.dying ||| (1#32 <<< g) }
        else undeclare s k g
      else s) (resumeShadow s k)) s

/-- Kill a context and log the cause, the hart and TPC (R302, R364). -/
def killLogged (s : State) (code : Nat) (second : Option Nat) : State :=
  let h := s.me
  let w2 := match second with
    | some c => wordOfNat c
    | none => hartId h
  logEntry (killContext s h.ctx) 3 code h.ctx 0 h.r.pc w2 (clusterOf h.core)

end Sys2Proof.Machine
end

