-- ==== Sys2Proof/Machine/Coding.lean ====
section
/-! DEFINITION. What the copy engine makes of galleys that are not plain: structured-sparse groups (R99, R100), and the coded
blocks, their prefix code, chunks and gap table (R101 to R104). -/

namespace Sys2Proof.Machine

/-! ## Sparse groups (R100) -/

/-- An element is zero for packing: every bit, or every bit but the sign of a floating-point format. -/
def packZero (float : Bool) (b v : Nat) : Bool := if float then v % 2 ^ (b - 1) == 0 else v == 0

/-- The positions that packing keeps of a group of four, or none when too many are not zero (R100). -/
def keptPositions (float : Bool) (b n : Nat) (vs : List Nat) : Option (List Nat) :=
  let ps := List.range 4
  let full := ps.filter fun i => !packZero float b (vs.getD i 0)
  if n < full.length then none
  else
    let extra := (ps.filter fun i => packZero float b (vs.getD i 0)).take (n - full.length)
    some (ps.filter fun i => full.contains i || extra.contains i)

/-- The place of kept value j of group g in the value area, and that of its index (R99). -/
def groupPlaces (core : Nat) (d : Word) (g j : Nat) : Place × Place :=
  let p := g * gKeep d + j
  (galleyPlace core d (gBits d) p, { core := some core, addr := gBase d + gSplit d + p / 4, bit := p % 4 * 2, bits := 2 })

/-- The dense values of group g of a sparse galley (R99, R100). -/
def denseGroup (s : State) (core : Nat) (d : Word) (g : Nat) : List Nat :=
  let kept := (List.range (gKeep d)).map fun j =>
    let q := groupPlaces core d g j
    (readPlace s q.2, readPlace s q.1)
  (List.range 4).map fun i => ((kept.find? fun k => k.1 == i).map (·.2)).getD 0

/-- The writes that pack the values of group g. -/
def packGroup (core : Nat) (d : Word) (float : Bool) (g : Nat) (vs : List Nat) : Option (List (Place × Nat)) :=
  (keptPositions float (gBits d) (gKeep d) vs).map fun ps => ps.zipIdx.flatMap fun p =>
    let q := groupPlaces core d g p.2
    [(q.1, vs.getD p.1 0), (q.2, p.1)]

/-! ## The prefix code (R102) -/

/-- A codeword: symbol, length, code. -/
abbrev Codeword := Nat × Nat × Nat

/-- The 256 lengths of a code table of 128 bytes. -/
def codeLengths (table : List Nat) : List Nat := table.flatMap fun b => [b % 16, b / 16 % 16]

/-- The lengths oversubscribe the code (R102). -/
def oversubscribed (lens : List Nat) : Bool :=
  decide (2 ^ 15 < ((lens.filter (· != 0)).map fun n => 2 ^ (15 - n)).sum)

/-- Assign codewords to symbols in order: the next code, the length it has, and what is assigned. -/
def assignCodes : List (Nat × Nat) → Nat → Nat → List Codeword
  | [], _, _ => []
  | (sym, len) :: rest, next, at_ =>
    let c := next <<< (len - at_)
    (sym, len, c) :: assignCodes rest (c + 1) len

/-- The canonical code of lengths: in order of length and symbol (R102). -/
def canonicalCode (lens : List Nat) : List Codeword :=
  let sorted := (List.range 15).flatMap fun l => (lens.zipIdx.filter fun p => p.1 == l + 1).map fun p => (p.2, p.1)
  match sorted with
  | [] => []
  | (sym, len) :: rest => (sym, len, 0) :: assignCodes rest 1 len

/-- The bits of a codeword in string order: most significant first, bit 0 the first. -/
def codeBits (len code : Nat) : Nat := ((List.range len).map fun i => bit (code.testBit (len - 1 - i)) <<< i).sum

/-- The bit string of symbols, with the position at which each codeword starts; none when a symbol has no codeword. -/
def encodeSymbols (t : List Codeword) : List Nat → Nat → Option (List (Nat × Nat × Nat))
  | [], _ => some []
  | s :: rest, pos =>
    match t.find? fun c => c.1 == s with
    | none => none
    | some c => (encodeSymbols t rest (pos + c.2.1)).map fun l => (pos, c.2.1, codeBits c.2.1 c.2.2) :: l

/-- The codeword that starts at a position of a bit string. -/
def codeAt (t : List Codeword) (x pos : Nat) : Option Codeword :=
  t.find? fun c => bitsOf x pos c.2.1 == codeBits c.2.1 c.2.2

/-- One decoder: from a position to a stop, the symbols it writes from an index on; none when it does not end there or meets
no codeword (R104). -/
def decodeFrom (t : List Codeword) (x stop : Nat) : Nat → Nat → Nat → Option (List (Nat × Nat))
  | 0, pos, _ => if pos = stop then some [] else none
  | fuel + 1, pos, idx =>
    if pos = stop then some []
    else if stop < pos then none
    else match codeAt t x pos with
      | none => none
      | some c => (decodeFrom t x stop fuel (pos + c.2.1) (idx + 1)).map fun l => (idx, c.1) :: l

/-! ## Coded blocks (R101, R103, R104) -/

/-- The address of the slot of block b in the scratchpad. -/
def slotAddr (d : Word) (b : Nat) : Nat := gBase d + b * gSlotSize d

/-- The number of slots of a coded galley. -/
def slotsOf (d : Word) : Nat := gSplit d / gSlotSize d

/-- Byte i of the header of block b. -/
def headByte (m : Cells) (d : Word) (b i : Nat) : Nat := (readByte m (slotAddr d b + i)).toNat

/-- Block b is VALID. -/
def blockValid (m : Cells) (d : Word) (b : Nat) : Bool := (headByte m d b 2).testBit 1

/-- The chunks that block b holds, in header order. -/
def blockChunks (m : Cells) (d : Word) (b : Nat) : List Nat :=
  if blockValid m d b then
    (List.range (Nat.min 22 (headByte m d b 3))).map fun i => headByte m d b (20 + 2 * i) + 256 * headByte m d b (21 + 2 * i)
  else []

/-- The free chunks, ascending (R101, R103). -/
def freeChunks (m : Cells) (d : Word) : List Nat :=
  let held := (List.range (slotsOf d)).flatMap (blockChunks m d)
  (List.range ((gSize d - gSplit d) / 256)).filter fun c => !held.contains c

/-- The byte addresses of the data of a block that holds chunks: its slot, then its chunks (R101). -/
def dataAddrs (d : Word) (b : Nat) (chunks : List Nat) : List Nat :=
  (List.range (gSlotSize d - 64)).map (slotAddr d b + 64 + ·) ++
    chunks.flatMap fun c => (List.range 256).map (gBase d + gSplit d + 256 * c + ·)

/-- The gap table of a coded string of BITS bits, from the starts of its codewords (R104). -/
def gapTable (bits : Nat) (starts : List Nat) : List Nat :=
  (List.range 8).map fun j =>
    if j = 0 then 0
    else
      let g := j * (bits / 8)
      match starts.zipIdx.find? fun p => decide (g ≤ p.1) with
      | some p => (p.1 - g) % 16 + p.2 % 4096 * 16
      | none => 0

/-- Encode the 4,096 bytes of a block: BITS, RAW, the data and the gap table (R103, R104). -/
def encodeBlock (lens : List Nat) (content : List Nat) : Nat × Bool × List Byte × List Nat :=
  let raw := (0, true, content.map (BitVec.ofNat 8), List.replicate 8 0)
  match encodeSymbols (canonicalCode lens) content 0 with
  | none => raw
  | some l =>
    let bits := (l.map (·.2.1)).sum
    if 32767 < bits then raw
    else
      let x := (l.map fun e => e.2.2 <<< e.1).sum
      (bits, false, bytesOf (ceilDiv bits 8) x, gapTable bits (l.map (·.1)))

/-- Store a block in a coded galley; none when the chunks do not suffice (R103). Header bytes past the chunks, and the gap
table of a RAW block, are written as zero (log 26). -/
def storeBlock (m : Cells) (d : Word) (lens : List Nat) (b : Nat) (content : List Nat) : Option Cells :=
  let (bits, raw, data, gaps) := encodeBlock lens content
  let need := ceilDiv (data.length - (gSlotSize d - 64)) 256
  let own := blockChunks m d b
  let chunks := (own ++ freeChunks m d).take need
  if chunks.length < need then none
  else
    let two (n : Nat) : List Nat := [n % 256, n / 256 % 256]
    let head := two bits ++ [2 + bit raw, need] ++ gaps.flatMap two ++
      ((List.range 22).flatMap fun i => two (chunks.getD i 0))
    let m := writeBytes m (slotAddr d b) (head.map (BitVec.ofNat 8))
    some (((dataAddrs d b chunks).zip data).foldl (fun m p => writeByte m p.1 p.2) m)

/-- The 4,096 bytes of a block of a coded galley; none when it is corrupt (R104). Where decoders that all end well leave an
index unwritten, or two write it, its byte is a free value (log 6, log 81). DESIGN CHOICE (log 102): a stored BITS longer than the data of
the slot and its chunks makes the block corrupt. -/
def loadBlock (m : Cells) (d : Word) (lens : List Nat) (b : Nat) : Option (List Nat) :=
  if !blockValid m d b then none
  else
    let data := dataAddrs d b (blockChunks m d b)
    if (headByte m d b 2).testBit 0 then
      let l := (data.take 4096).map fun a => (readByte m a).toNat
      if l.length = 4096 then some l else none
    else
      let bits := headByte m d b 0 + 256 * headByte m d b 1
      if data.length * 8 < bits then none
      else
        let x := ofBytes ((data.take (ceilDiv bits 8)).map (readByte m))
        let gap (j : Nat) : Nat := headByte m d b (4 + 2 * j) + 256 * headByte m d b (5 + 2 * j)
        let start (j : Nat) : Nat := if j = 8 then bits else j * (bits / 8) + gap j % 16
        let t := canonicalCode lens
        match (List.range 8).mapM fun j => decodeFrom t x (start (j + 1)) 4097 (start j) (gap j / 16) with
        | none => none
        | some ls =>
          let l := ls.flatten
          if l.length = 4096 then
            some ((List.range 4096).map fun i => match l.filter fun p => p.1 == i with
              | [p] => p.2
              | _ => (Config.freeByte i).toNat)
          else none

/-- Every block of a coded galley becomes invalid, which returns its chunks (R95). -/
def invalidateBlocks (m : Cells) (d : Word) : Cells :=
  (List.range (slotsOf d)).foldl (fun m b =>
    writeByte m (slotAddr d b + 2) (readByte m (slotAddr d b + 2) &&& 0xFD#8)) m

end Sys2Proof.Machine
end

