-- ==== Sys2Proof/Machine/Ops.lean ====
section
/-! DEFINITION. The operations every meaning is made of: object addresses (R131), the slot fields (R113), the registers,
retirement, taking an exception (R302 to R310) and returning from one (R308). -/

namespace Sys2Proof.Machine

/-- The outcome of a step of the package. -/
abbrev Out := Host.Outcome State Fault Refusal

/-- A precise trap with a cause and nothing more to report. -/
def trapOf {α : Type} (code : Nat) (info : Word := 0) : Except Stop α := .error (.trap { code := code, info := info })

/-- The instruction waits. -/
def waitFor {α : Type} (r : WaitReason) : Except Stop α := .error (.wait r)

/-- Trap with a cause unless a condition holds. -/
def ensure (ok : Bool) (code : Nat) : Except Stop PUnit := if ok then .ok ⟨⟩ else trapOf code

/-- Wait unless a condition holds. -/
def holds (ok : Bool) (r : WaitReason) : Except Stop PUnit := if ok then .ok ⟨⟩ else waitFor r

/-! ## The cause codes (R303) -/

/-- Illegal instruction. -/
def cIllegal : Nat := 0x01
/-- Illegal mode. -/
def cMode : Nat := 0x02
/-- Illegal forme. -/
def cForme : Nat := 0x03
/-- Reserved combination. -/
def cReserved : Nat := 0x04
/-- Privilege. -/
def cPrivilege : Nat := 0x05
/-- ADDRFORM. -/
def cAddrForm : Nat := 0x06
/-- Invalid handle. -/
def cHandle : Nat := 0x08
/-- Permission. -/
def cPermission : Nat := 0x0A
/-- Misaligned. -/
def cMisaligned : Nat := 0x0B
/-- Uncorrectable memory. -/
def cUncorrectable : Nat := 0x0F
/-- Galley state. -/
def cGalley : Nat := 0x10
/-- Galley declaration. -/
def cDeclare : Nat := 0x11
/-- STRIPSTATE. -/
def cStripState : Nat := 0x12
/-- STRIPFULL. -/
def cStripFull : Nat := 0x13
/-- STRIPLOST. -/
def cStripLost : Nat := 0x14
/-- Leading overflow. -/
def cLeading : Nat := 0x15
/-- ACCOVF. -/
def cAccOvf : Nat := 0x16
/-- Stick. -/
def cStick : Nat := 0x17
/-- QDEADLOCK. -/
def cDeadlock : Nat := 0x18
/-- Group fault. -/
def cGroup : Nat := 0x19
/-- No context. -/
def cNoContext : Nat := 0x1A
/-- Software trap. -/
def cSoftware : Nat := 0x1B
/-- Breakpoint. -/
def cBreak : Nat := 0x1C

/-! ## Object addresses -/

/-- The address an instruction forms from a base and a signed displacement, or none when the offset leaves its range
(R131). -/
def effAddr? (base : Word) (d : Int) : Option Word :=
  let off := (offsetOf base : Int) + d
  if off < 0 ∨ (2 ^ 44 : Nat) ≤ off then none
  else some (wordOfNat (handleOf base * 2 ^ 44 + off.toNat))

/-- The address, or the precise ADDRFORM fault, which names the handle and, for an access, its kind (R131, R306). -/
def effAddr (base : Word) (d : Int) (kind : Nat := 0) : Except Stop Word :=
  match effAddr? base d with
  | some a => .ok a
  | none => .error (.trap { code := cAddrForm, info := addrInfo (handleOf base) kind 0 0 })

/-- The address of the next word: 4 is added to the offset (R122). -/
def nextPc (pc : Word) : Word := wordOfNat (handleOf pc * 2 ^ 44 + (offsetOf pc + 4) % 2 ^ 44)

/-! ## Scalar accesses -/

/-- A translation that stops an instruction. -/
def liftT {α : Type} (r : Except TStop α) : Except Stop α :=
  match r with
  | .ok a => .ok a
  | .error (.fault t) => .error (.trap t)
  | .error .moving => .error (.wait .moving)

/-- The elements of a scalar access of n bytes of the hart in focus, through an object or a galley (R93, R136); `bad` picks
places whose data an access that reads them faults on. -/
def accessElementsIf (bad : Place → Bool) (s : State) (kind : Nat) (a : Word) (n : Nat) : Except Stop (List Element) :=
  match galleyOf (handleOf a) with
  | none => liftT (scalarElementsIf bad s (whoMe s) kind a n)
  | some id => do
    if kind = 2 then .error (.trap { code := cPermission, info := addrInfo (handleOf a) kind 0 0 })
    let d ← liftT (openGalley s id kind false)
    let off := offsetOf a
    let es := gBits d / 8
    if gBits d < 8 ∨ off % n ≠ 0 ∨ off % es ≠ 0 then
      .error (.trap (misaligned (handleOf a) kind (off / offsetUnit (gBits d)) off))
    else
      (List.range (ceilDiv n es)).mapM fun k => do
        let e ← liftT (atElem (off / es + k) (galleyElement s id kind d (gBits d) (off + k * es)))
        let m := Nat.min es (n - k * es)
        liftT (atElem (off / es + k)
          (readable bad (handleOf a) kind { e with place := { e.place with bits := 8 * m }, hi := e.lo + m }))

/-- The elements of a scalar access, whatever their data. -/
def accessElements (s : State) (kind : Nat) (a : Word) (n : Nat) : Except Stop (List Element) :=
  accessElementsIf (fun _ => false) s kind a n

/-! ## Slot fields (R113) -/

/-- ETYPE. -/
def slotEtype (s : Word) : Nat := field s 0 5
/-- RND. -/
def slotRnd (s : Word) : Nat := field s 5 3
/-- PREDREG. -/
def slotPredreg (s : Word) : Nat := field s 8 3
/-- PREDEN. -/
def slotPreden (s : Word) : Bool := bitAt s 11
/-- PNEG. -/
def slotPneg (s : Word) : Bool := bitAt s 12
/-- SAT. -/
def slotSat (s : Word) : Bool := bitAt s 13
/-- STREAM. -/
def slotStream (s : Word) : Nat := field s 14 4
/-- PMASK. -/
def slotPmask (s : Word) : BitVec 16 := BitVec.ofNat 16 (field s 18 16)
/-- SCOPE; 1 to 6 act alike (R271, log 87). -/
def slotScope (s : Word) : Nat := field s 34 3
/-- The register-group factor F. -/
def slotF (s : Word) : Nat := 2 ^ field s 37 3
/-- FORME. -/
def slotForme (s : Word) : Nat := field s 40 3
/-- UNFOLD. -/
def slotUnfold (s : Word) : Nat := field s 43 3
/-- SPARSE. -/
def slotSparse (s : Word) : Nat := field s 46 2
/-- STRIPMODE. -/
def slotStrip (s : Word) : Bool := bitAt s 48
/-- UNORD. -/
def slotUnord (s : Word) : Bool := bitAt s 49

/-- The values that SETMODE accepts (R113 to R115). -/
def slotOk (v : Word) : Bool :=
  (etypeBits (slotEtype v)).isSome && decide (slotRnd v ≤ 5) && decide (slotScope v ≤ 6) &&
    decide (field v 37 3 ≤ 4) && decide (slotSparse v ≤ 2) && field v 50 14 == 0

/-- The predecessor streams of an operation, its own among them in code of memory-model revision 1 (R115, R281). -/
def effPmask (slot : Word) (strong : Bool) : BitVec 16 :=
  if strong then slotPmask slot ||| (1#16 <<< slotStream slot) else slotPmask slot

/-- A slot of the hart in focus. -/
def slotOf (s : State) (g : Fin 8) : Word := s.me.r.g[g]

/-- The registered text of the context from which an address is fetched (R346). -/
def textAt (s : State) (pc : Word) : Option TextRange :=
  match scalarElements s (whoMe s) 3 pc 4 with
  | .ok (e :: _) => textRangeOf s s.me.ctx e.place.addr
  | _ => none

/-- The code at an address runs with ordering strength: its registered range is of memory-model revision 1 (R344). -/
def strongAt (s : State) (pc : Word) : Bool :=
  match textAt s pc with
  | some t => t.rev == 1
  | none => false

/-! ## The scoreboard -/

/-- The register into which an operation that has issued will write its result (R87). -/
def scalarDst (f : Flight) : Option SOp :=
  match f.action with
  | .load sd _ _ _ => some sd
  | .amo _ sd _ _ _ => some sd
  | _ => none

/-- The scalar destination or the completion register of an operation of the hart is register n, and the operation has
not ended (R87, R243). -/
def pendingX (s : State) (n : Fin 24) : Bool :=
  n.val != 0 &&
    ((s.transfers.any fun t => t.owner == some s.me.hid && t.se == n) ||
      s.me.flights.any fun f => !f.parked && scalarDst f == some (.s n))

/-- The operation on which register n waits itself waits for the PROOF of the open strip (R280, R282). -/
def stripHolds (s : State) (n : Fin 24) : Bool :=
  let k := stuck s s.me
  ((ownTransfers s s.me).any fun t => t.se == n && k.contains t.seq) ||
    s.me.flights.any fun f => !f.parked && scalarDst f == some (.s n) && k.contains f.seq

/-- Register n may be read or written: it is not pending, or the instruction waits, or takes STRIPSTATE when the wait
could only end at a PROOF behind it (R87, R280, R282). -/
def useX (s : State) (n : Fin 24) : Except Stop PUnit :=
  if pendingX s n then (if stripHolds s n then trapOf cStripState else waitFor .pendingReg) else .ok ⟨⟩

/-- A load that will push its result into queue k has not performed. -/
def pendingQ (s : State) (k : Fin 8) : Bool := s.me.flights.any fun f => !f.parked && scalarDst f == some (.q k)

/-- No operation is still to push into queue k; else the instruction waits, or takes STRIPSTATE as for a register (R280,
log 67). -/
def useQ (s : State) (k : Fin 8) : Except Stop PUnit :=
  if pendingQ s k then
    (if s.me.flights.any fun f => !f.parked && scalarDst f == some (.q k) && (stuck s s.me).contains f.seq then
      trapOf cStripState else waitFor .pendingReg)
  else .ok ⟨⟩

/-- An instruction that has not retired: it waits to start, or it is an MMAU that has not performed. -/
def unretired (f : Flight) : Bool := f.parked || isMmau f

/-- An instruction that has not retired and whose retirement a later one can wait for: an MMAU that waits for the PROOF of the open strip
is left aside, since that PROOF comes after it (R279); `k` lists what waits so. -/
def unsettled (k : List Nat) (f : Flight) : Bool := f.parked || (isMmau f && !k.contains f.seq)

/-- Instructions of the hart have not retired that a later one can wait for. -/
def anyParked (s : State) : Bool := s.me.flights.any (unsettled (stuck s s.me))

/-- An instruction waits on a queue: no other stream waits because of it (R111). -/
def queueWaits (f : Flight) : Bool :=
  match f.why with
  | some (.queueEmpty _) => true
  | some (.queueFull _) => true
  | _ => false

/-- Every instruction that still waits has passed its checks, or waits on a queue (R6, R111, log 107). -/
def allChecked (s : State) : Bool :=
  let k := stuck s s.me
  s.me.flights.all fun f => !unsettled k f || (f.parked && (f.checked || queueWaits f))

/-- An operation that waits for the PROOF of the open strip, of those that a test picks. -/
def anyStuck (s : State) (p : Flight → Bool) : Bool :=
  let k := stuck s s.me
  s.me.flights.any fun f => !f.parked && k.contains f.seq && p f

/-- What waits of the hart is passed for good: no boundary goes back to before it (log 107). -/
def passOn (s : State) : State := if anyParked s then modMe s fun h => { h with firmSeq := h.nextSeq } else s

/-- An instruction with an effect that nothing can take back waits until no earlier instruction of the hart can trap at issue, but not for
a queue on which another stream waits, and what waits still is passed for good (R6, R111, log 107); behind an MMAU that waits for a PROOF
after both it takes STRIPSTATE (log 67). -/
def firm (s : State) : Except Stop State := do
  ensure (!anyStuck s isMmau) cStripState
  holds (allChecked s) .earlier
  return passOn s

/-- The flags of the operation are still to be raised (R47, R154). -/
def raisesFlags (f : Flight) : Bool :=
  match f.action, f.instr with
  | .vamo _, _ => true
  | .mmau _, _ => true
  | .vload _ _, .vldpk _ _ _ _ _ => true
  | _, _ => false

/-- Flags of operations that have issued are still to be raised (R47, R154). -/
def flagsPending (s : State) : Bool := anyParked s || s.me.flights.any raisesFlags

/-- Every flag of an earlier instruction stands in FFLAGS, or the instruction waits, or takes STRIPSTATE when the wait could only
end at a PROOF behind it (R154, R263, log 67). -/
def flagsSettled (s : State) : Except Stop PUnit := do
  ensure (!anyStuck s raisesFlags) cStripState
  holds (!flagsPending s) .earlier

/-! ## Retirement -/

/-- Count one retired instruction, at once or at PROOF (R264, R314). -/
def countRetired (held : Bool) (r : Regs) : Regs :=
  if held && r.strip.isOpen then
    { r with strip := { r.strip with counts := { r.strip.counts with retired := r.strip.counts.retired + 1 } } }
  else { r with retired := r.retired + 1 }

/-- Add to the counts that belong to the core (R264). -/
def addCounts (c : Counts) (d : Counts) : Counts :=
  { retired := c.retired + d.retired, nanenc := c.nanenc + d.nanenc, headroom := c.headroom + d.headroom,
    dtskip := c.dtskip + d.dtskip }

/-- Counts added to the counters of a core (R264). -/
def addCore (c : Core) (d : Counts) : Core :=
  { c with nanenc := c.nanenc + wordOfNat d.nanenc, headroom := c.headroom + wordOfNat d.headroom,
           dtskip := c.dtskip + wordOfNat d.dtskip }

/-- Counts reach the core once no instruction before them can trap (R264, R314). -/
def settleCounts (s : State) : State :=
  if s.me.flights.any unretired ∨ s.me.r.counts = Counts.zero then s
  else modRegs (modCore s s.me.core fun c => addCore c s.me.r.counts) fun r => { r with counts := Counts.zero }

/-- The stick moves on to the next word of an open body (R143, R153). -/
def stickNext (k : Stick) : Stick := if k.active then { k with pos := k.pos + 1 } else k

/-- A scalar instruction retires: the next word is next. -/
def retire (s : State) : State :=
  let h := s.me
  { s with me := { h with r := countRetired false { h.r with pc := nextPc h.r.pc, stick := stickNext h.r.stick, armed := false },
                          wait := none } }

/-- An instruction retires and control goes to an address (R140, R141). -/
def retireTo (s : State) (pc : Word) : State :=
  let h := s.me
  { s with me := { h with r := countRetired false { h.r with pc := pc, armed := false }, wait := none } }

/-! ## Boundaries -/

/-- A held asynchronous cause may be taken at the boundary of a hart: it runs, no frame is active, and nothing waits that a later
instruction has passed for good (R304, R309, R310, log 107). -/
def asyncReady (h : Hart) : Bool :=
  h.live && h.bank == .active && !h.asyncs.isEmpty && !bitAt (vget h.r.frame 0x14 0) 0 &&
    !h.flights.any fun f => unretired f && decide (f.seq < h.firmSeq)

/-- A swap that the unit has asked for is to take place at the next boundary: no spill or fill of the shadow bank is under way
(R294, R316). -/
def swapPending (s : State) (core : Nat) : Bool :=
  (getCore s core).swapAsked.isSome && (getCore s core).shadow == .clean

/-- Something comes at the boundary of a hart before its instruction issues or ends its wait (R258, R310). -/
def boundaryDue (s : State) (h : Hart) : Bool := asyncReady h || swapPending s h.core

/-! ## Taking an exception -/

/-- Fields of the frame that hold the state registers, slots, formes, shadows, counters, pending ids, queues and stick
state of a hart (R305, R306), by number from 0x100. -/
def stickWords (k : Stick) : List Word :=
  ((List.range 6).map fun l => (vget k.index l 0 ++ vget k.count l 0 : Word)) ++ k.stride.toList ++
    [k.firsts, k.lasts,
     (0#38 ++ k.pos ++ k.flagLvl ++ k.walk ++ k.len ++ k.lvm1 ++ BitVec.ofBool k.active : Word), k.base, k.pc]

/-- The stream counters as a register (R153). -/
def stcnt (h : Hart) (i : Nat) : Word := (0#32 ++ vget h.perf i 0 ++ vget h.issued i 0 : Word)

/-- The pending transfers of a hart in the order of issue (R306). -/
def pendingTransfers (s : State) (hid : Nat) : List Transfer :=
  s.transfers.filter fun t => t.owner == some hid && (t.kind == .copy || t.kind == .coll || t.kind == .move)

/-- One entry of TPEND (R306). -/
def pendEntry (l : List Transfer) (i : Nat) : Nat :=
  match l[i]? with
  | some t => t.tid.toNat + t.se.val <<< 16 + 1 <<< 21
  | none => 0

/-- Queue entries as frame registers, head first, to the depth of the queue (R305). -/
def queueWords (q : List Word) (depth : Nat) : List Word := (List.range depth).map fun i => q.getD i 0

/-- The depth of a queue (R110). -/
def queueDepth (k : Nat) : Nat := if k = 4 ∨ k = 5 ∨ k = 7 then 4 else 8

/-- The barrier token, slots, formes and shadows, and so on, listed from a frame number on (R305). -/
def frameImage (s : State) : List (Nat × List Word) :=
  let h := s.me
  let r := h.r
  let pend := pendingTransfers s h.hid
  let q (k : Nat) := vget r.q k []
  [(0x0B, [r.strip.pc]),
   (0x0C, [r.vl, r.vstart, r.prog, r.rows, r.pitch, r.wpos, r.dphase, r.token]),
   (0x18, r.g.toList), (0x20, r.fm.toList), (0x28, r.c.toList),
   (0x38, (List.range 16).map (stcnt h)),
   (0x48, (List.range 32).map fun j => wordOfNat (pendEntry pend (2 * j) + pendEntry pend (2 * j + 1) <<< 32)),
   (0x68, (List.range 8).flatMap fun k => queueWords (q k) (queueDepth k)),
   (0x9C, [wordOfNat ((List.range 8).map fun k => (q k).length <<< (4 * k)).sum]),
   (0xA0, stickWords r.stick)]

/-- Write consecutive frame registers. -/
def putFrame (f : Vector Word 256) (i : Nat) : List Word → Vector Word 256
  | [] => f
  | w :: ws => putFrame (vset f i w) (i + 1) ws

/-- TCAUSE (R306). -/
def tcause (t : TrapInfo) (async part : Bool) : Word :=
  wordOfNat (t.code + bit async <<< 8 + bit part <<< 9 + (Nat.min 6 t.coord.length) <<< 10)

/-- The frame that an exception writes (R305 to R307). -/
def writeFrame (s : State) (t : TrapInfo) (async part arms : Bool) : Vector Word 256 :=
  let pc := s.me.r.pc
  let passed := t.code == cSoftware || t.code == cBreak
  let resume := if passed then nextPc pc else pc
  let s := if passed then modRegs s fun r => { r with stick := stickNext r.stick } else s
  let f := (frameImage s).foldl (fun f e => putFrame f e.1 e.2) s.me.r.frame
  let f := putFrame f 0 ([tcause t async part, pc, resume, wordOfNat t.elem] ++
    ((List.range 6).map fun d => wordOfNat (t.coord.getD d 0)) ++ [t.info])
  vset f 0x14 (wordOfNat (1 + bit arms <<< 1))

/-- The elements of the vector entry of a cause, read as a load reads them, from a galley too (R64, R93, R302). -/
def vectorElements (s : State) (code : Nat) : Except Stop (List Element) :=
  match effAddr? s.me.trapv (8 * code) with
  | none => trapOf cAddrForm
  | some a => accessElements s 0 a 8

/-- The handler of a cause: the vector entry (R302), or why there is none: a cause to log beside it. -/
def vectorEntry (s : State) (code : Nat) : Except (Option Nat) Word :=
  match vectorElements s code with
  | .error (.trap t) => .error (some t.code)
  | .error _ => .error none
  | .ok es =>
    if es.any fun e => placeBad s e.place then .error (some cUncorrectable)
    else
      let v := wordOfNat (readPlaces s (es.map (·.place)))
      if v = 0 then .error none
      else if v.toNat % 4 ≠ 0 then .error (some cMisaligned)
      else .ok v

/-- The vector entry lies in an object that is being moved, or in a back-off window: its read waits (R57, R79, R302). -/
def vectorMoving (s : State) (code : Nat) : Bool :=
  match vectorElements s code with
  | .error (.wait _) => true
  | .error _ => false
  | .ok es => backoffAt s (memoryBytes (es.map (·.place)))

/-- The read of the vector entry of a cause corrects what it meets (R58). -/
def correctVector (s : State) (code : Nat) : State :=
  if s.softMem.isEmpty then s
  else match vectorElements s code with
    | .error _ => s
    | .ok es =>
      let t := correctReads s (memoryBytes (es.map (·.place)))
      match es with
      | [] => t
      | e :: _ => if (galleyOf e.handle).isSome then t else correctTable t (whoMe t) e.handle (es.flatMap (·.subs))

/-- The entries that the instruction at the pc of a hart has popped while it waits at retirement are at the heads of their queues
again (R111). -/
def unpopHart (h : Hart) : Hart :=
  match h.popped with
  | [] => h
  | l => { h with popped := [], r := { h.r with q := l.foldr (fun e q => vset q e.1 (e.2 :: vget q e.1 [])) h.r.q } }

/-- The same for the hart in focus. -/
def unpop (s : State) : State := modMe s unpopHart

/-- The strip is lost or discarded: its stores never perform and count as performed for those that wait, its flags and
counts are dropped, and it closes (R279, R315). -/
def discardStrip (s : State) : State :=
  let stores := s.me.r.strip.stores
  let h := stores.foldl (fun h x => countPerf h x.stream) s.me
  { s with me := { h with r := { h.r with strip := StripState.reset } } }

/-- TAKING AN EXCEPTION, precise or asynchronous, at the pc of the hart in focus (R302, R304, R309, R310): the frame is
written, ACTIVE and ARM are set, the stick body closes, and the pc goes to the handler of the vector; a missing or
unreadable handler and a cause while a frame is active kill the context, and the log receives both causes of the latter. While the
object of the vector is being moved, the hart waits (R79). -/
def takeTrap (s : State) (t : TrapInfo) (async part arms : Bool) : State :=
  let frame := s.me.r.frame
  if bitAt (vget frame 0x14 0) 0 then killLogged s (field (vget frame 0 0) 0 8) (some t.code)
  else if vectorMoving s t.code then modMe s fun h => { h with wait := some .moving }
  else
    match vectorEntry s t.code with
    | .error second => killLogged s t.code second
    | .ok pc =>
      let s := unpop (correctVector s t.code)
      let f := writeFrame s t async part arms
      let s := if t.code = 0x0E then
          modCore s s.me.core fun c =>
            { c with maps := c.maps.filter fun e =>
                !(e.ctx == s.me.ctx && e.handle == field t.info 0 20 && e.sub == field t.info 32 32) }
        else s
      let h := s.me
      let k := h.r.stick
      { s with me := { h with
          r := { h.r with frame := f, pc := pc, armed := false,
                          stick := { k with active := false, held := if k.active then k.capture else k.held } },
          pin := none, wait := none } }

/-- An uncorrectable error under a STRIPMODE slot inside a strip loses the strip: STRIPLOST takes the place of the cause
(R315). -/
def stripLoss (s : State) (t : TrapInfo) (slot : Option Word) : State × TrapInfo :=
  match slot with
  | some g =>
    if t.code = cUncorrectable ∧ slotStrip g ∧ s.me.r.strip.isOpen then
      let handle := match s.me.r.strip.stores with
        | x :: _ => (x.lines.map (·.1)).headD 0
        | [] => 0
      (s, { code := cStripLost, elem := s.me.r.strip.b.toNat, info := wordOfNat handle })
    else (s, t)
  | none => (s, t)

/-- A precise trap of the instruction at the pc (R304). A strip that it loses is closed once the frame has recorded where
it was opened; while the trap waits for its vector entry the strip is open still (R79, R315). -/
def preciseTrap (s : State) (t : TrapInfo) (slot : Option Word) (part arms : Bool) : State :=
  let (s, t) := stripLoss s t slot
  let lost := t.code == cStripLost && (bitAt (vget s.me.r.frame 0x14 0) 0 || !vectorMoving s t.code)
  let hid := s.me.hid
  let s := takeTrap s t false part (arms && decide (0x06 ≤ t.code) && decide (t.code ≤ 0x10))
  if lost && s.me.hid == hid then discardStrip s else s

/-- The entries by which queues have become shorter, head first. -/
def popsOf (q p : Vector (List Word) 8) : List (Nat × Word) :=
  (List.range 8).flatMap fun k =>
    ((vget q k []).take ((vget q k []).length - (vget p k []).length)).map fun v => (k, v)

/-- How an attempt that does not retire leaves the machine: it waits and nothing else changes, or waits at retirement with its
sources popped, or its trap is taken once every earlier instruction has retired (R6, R111, R304). -/
def stopAt (s : State) (st : Stop) (slot : Option Word) : State :=
  match st with
  | .wait r => modMe s fun h => { h with wait := some r }
  | .full q qs =>
    modMe s fun h =>
      { h with wait := some (.queueFull q), popped := if h.popped.isEmpty then popsOf h.r.q qs else h.popped,
               r := { h.r with q := qs } }
  | .trap t =>
    if anyParked s then modMe s fun h => { h with wait := some .earlier }
    else preciseTrap s t slot false false

/-- The outcome of a scalar instruction: retired as computed, or stopped with nothing changed. -/
def finish (s : State) (r : Except Stop State) : Out :=
  match r with
  | .ok t => .next t
  | .error st => .next (stopAt s st none)

/-- The outcome of a scalar instruction under a slot. -/
def finishSlot (s : State) (slot : Word) (r : Except Stop State) : Out :=
  match r with
  | .ok t => .next t
  | .error st => .next (stopAt s st (some slot))

/-- The outcome of a step of another agent: what it does, or nothing while its conditions do not hold. -/
def eventOut (s : State) (r : Option State) : Out := .next (r.getD s)

/-! ## Returning from an exception -/

/-- A queue from its frame entries and its count, clamped at its depth (R306, R308). -/
def queueBack (f : Vector Word 256) (k base : Nat) : List Word :=
  let n := Nat.min (queueDepth k) (field (vget f 0x9C 0) (4 * k) 4)
  (List.range n).map fun i => vget f (base + i) 0

/-- Where the entries of a queue start in the frame (R305). -/
def queueBase (k : Nat) : Nat :=
  if k < 4 then 0x68 + 8 * k else if k = 4 then 0x88 else if k = 5 then 0x8C else if k = 6 then 0x90 else 0x98

/-- The stick from its frame registers; the buffer stays when it still holds the words captured for that body (R146,
R308). -/
def stickBack (k : Stick) (f : Vector Word 256) : Stick :=
  let w (i : Nat) : Word := vget f (0xA0 + i) 0
  let ctl := w 14
  { count := Vector.ofFn fun i => BitVec.ofNat 32 (field (w i.val) 0 32),
    index := Vector.ofFn fun i => BitVec.ofNat 32 (field (w i.val) 32 32),
    stride := Vector.ofFn fun i => w (6 + i.val),
    firsts := w 12, lasts := w 13, active := bitAt ctl 0, lvm1 := BitVec.ofNat 3 (field ctl 1 3),
    len := BitVec.ofNat 7 (field ctl 4 7), walk := BitVec.ofNat 5 (field ctl 11 5),
    flagLvl := BitVec.ofNat 3 (field ctl 16 3), pos := BitVec.ofNat 7 (field ctl 19 7), base := w 15, pc := w 16,
    buf := if k.capture = k.held ∧ k.pc = w 16 then k.buf else [], capture := k.capture, held := k.held }

/-- RETURNING FROM AN EXCEPTION (R308): what the frame holds is restored, ACTIVE clears, the pc goes to TRESUME, armed
when ARM stands and TRESUME is TPC. -/
def returnFromTrap (s : State) : State :=
  let h := s.me
  let r := h.r
  let f := r.frame
  let w (i : Nat) : Word := vget f i 0
  let armed := bitAt (w 0x14) 1 && w 2 == w 1
  let ctl := wordOfNat (w 0x14).toNat
  let r := { r with
    vl := w 0x0C, vstart := w 0x0D, prog := w 0x0E, rows := w 0x0F, pitch := w 0x10, wpos := w 0x11,
    dphase := w 0x12, token := w 0x13,
    g := Vector.ofFn fun i => w (0x18 + i.val), fm := Vector.ofFn fun i => w (0x20 + i.val),
    c := Vector.ofFn fun i => w (0x28 + i.val),
    q := Vector.ofFn fun k => queueBack f k.val (queueBase k.val),
    stick := stickBack r.stick f, armed := armed, frame := vset f 0x14 (putField ctl 0 1 0), pc := w 2 }
  { s with me := { h with r := countRetired false r, wait := none } }

end Sys2Proof.Machine
end

