-- ==== Sys2Proof/Machine/Flags.lean ====
section
/-! DEFINITION. The sticky flags (R47), exact values, and rounding to a format with its flags (R27 to R46). -/

namespace Sys2Proof.Machine

/-! ## Flags (R47) -/

/-- A set of flags. -/
abbrev FlagSet := BitVec 7

/-- NX, inexact. -/
def fNX : FlagSet := 1
/-- UF, tiny after rounding and inexact. -/
def fUF : FlagSet := 2
/-- OF, overflow. -/
def fOF : FlagSet := 4
/-- DZ, a finite non-zero value divided by zero. -/
def fDZ : FlagSet := 8
/-- NV, invalid. -/
def fNV : FlagSet := 16
/-- SX, saturated or clamped by SAT. -/
def fSX : FlagSet := 32
/-- NQ, a NaN encoded into a format with no NaN code. -/
def fNQ : FlagSet := 64

/-- Set flags when what raised them commits: in FFLAGS, or in the open strip for an instruction under STRIPMODE (R47,
R314). -/
def raise (held : Bool) (f : FlagSet) (r : Regs) : Regs :=
  if held && r.strip.isOpen then { r with strip := { r.strip with flags := r.strip.flags ||| f } }
  else { r with fflags := r.fflags ||| f }

/-! ## Exact values -/

/-- An exact value: a NaN, signalling or not; an infinity; or a signed magnitude num / den, the sign kept at zero. -/
inductive Val where
  | nan (signalling : Bool)
  | inf (neg : Bool)
  | fin (neg : Bool) (num den : Nat)
  deriving DecidableEq, Repr

/-- An integer as a value. -/
def Val.ofInt (i : Int) : Val := .fin (decide (i < 0)) i.natAbs 1

/-- Plus zero. -/
def Val.zero : Val := .fin false 0 1

/-- 2^e as a fraction. -/
def pow2 (e : Int) : Nat × Nat := if 0 ≤ e then (2 ^ e.toNat, 1) else (1, 2 ^ (-e).toNat)

/-- A value times 2^e. -/
def Val.scale (v : Val) (e : Int) : Val :=
  match v with
  | .fin s n d => .fin s (n * (pow2 e).1) (d * (pow2 e).2)
  | w => w

/-- The opposite value. -/
def Val.neg : Val → Val
  | .nan g => .nan g
  | .inf s => .inf (!s)
  | .fin s n d => .fin (!s) n d

/-- The value is a NaN. -/
def Val.isNan : Val → Bool
  | .nan _ => true
  | _ => false

/-- The value is a signalling NaN. -/
def Val.isSignalling : Val → Bool
  | .nan g => g
  | _ => false

/-- The value is zero. -/
def Val.isZero : Val → Bool
  | .fin _ n _ => n == 0
  | _ => false

/-- The signed numerator of a finite value. -/
def Val.signed : Val → Int
  | .fin s n _ => if s then -(n : Int) else n
  | _ => 0

/-- The denominator of a finite value. -/
def Val.den : Val → Nat
  | .fin _ _ d => d
  | _ => 1

/-- x < y for values that are no NaN (R188). -/
def Val.lt (x y : Val) : Bool :=
  match x, y with
  | .inf true, .inf true => false
  | .inf true, _ => true
  | _, .inf true => false
  | .inf false, _ => false
  | _, .inf false => true
  | x, y => decide (x.signed * y.den < y.signed * x.den)

/-- The numerical equality of values that are no NaN; -0 equals +0. -/
def Val.eq (x y : Val) : Bool := !x.lt y && !y.lt x && !x.isNan && !y.isNan

/-- The invalid flag of a signalling input (R28). -/
def sigFlag (vs : List Val) : FlagSet := if vs.any Val.isSignalling then fNV else 0

/-- The exact sum; a zero sum of unlike signs is -0 only when rounding goes down (R184). -/
def Val.add (down : Bool) (x y : Val) : Val × FlagSet :=
  match x, y with
  | .nan _, _ => (.nan false, sigFlag [x, y])
  | _, .nan _ => (.nan false, sigFlag [x, y])
  | .inf a, .inf b => if a = b then (.inf a, 0) else (.nan false, fNV)
  | .inf a, _ => (.inf a, 0)
  | _, .inf b => (.inf b, 0)
  | .fin a n d, .fin b m e =>
    if n = 0 ∧ m = 0 then (.fin (if a = b then a else down) 0 1, 0)
    else
      let t : Int := x.signed * e + y.signed * d
      if t = 0 then (.fin down 0 1, 0) else (.fin (decide (t < 0)) t.natAbs (d * e), 0)

/-- The exact product (R184). -/
def Val.mul (x y : Val) : Val × FlagSet :=
  match x, y with
  | .nan _, _ => (.nan false, sigFlag [x, y])
  | _, .nan _ => (.nan false, sigFlag [x, y])
  | .inf a, .inf b => (.inf (a != b), 0)
  | .inf a, .fin b m _ => if m = 0 then (.nan false, fNV) else (.inf (a != b), 0)
  | .fin a n _, .inf b => if n = 0 then (.nan false, fNV) else (.inf (a != b), 0)
  | .fin a n d, .fin b m e => (.fin (a != b) (n * m) (d * e), 0)

/-- The exact quotient (R184). -/
def Val.div (x y : Val) : Val × FlagSet :=
  match x, y with
  | .nan _, _ => (.nan false, sigFlag [x, y])
  | _, .nan _ => (.nan false, sigFlag [x, y])
  | .inf _, .inf _ => (.nan false, fNV)
  | .inf a, .fin b _ _ => (.inf (a != b), 0)
  | .fin a _ _, .inf b => (.fin (a != b) 0 1, 0)
  | .fin a n d, .fin b m e =>
    if m = 0 then (if n = 0 then (.nan false, fNV) else (.inf (a != b), fDZ))
    else (.fin (a != b) (n * e) (d * m), 0)

/-! ## Formats -/

/-- A floating-point format: exponent bits, fraction bits, bias, the code of the largest finite magnitude (R27, R31). -/
structure FFmt where
  e : Nat
  m : Nat
  bias : Nat
  maxCode : Nat
  deriving DecidableEq, Repr

/-- The floating-point format of an ETYPE code (R27, R31, R114). -/
def ffmt (t : Nat) : Option FFmt :=
  match t with
  | 0 => some { e := 8, m := 23, bias := 127, maxCode := 0x7F7FFFFF }
  | 1 => some { e := 5, m := 10, bias := 15, maxCode := 0x7BFF }
  | 2 => some { e := 8, m := 7, bias := 127, maxCode := 0x7F7F }
  | 20 => some { e := 4, m := 3, bias := 7, maxCode := 0x7E }
  | 21 => some { e := 5, m := 2, bias := 15, maxCode := 0x7B }
  | 22 => some { e := 2, m := 3, bias := 1, maxCode := 0x1F }
  | 23 => some { e := 3, m := 2, bias := 3, maxCode := 0x1F }
  | 24 => some { e := 2, m := 1, bias := 1, maxCode := 0x7 }
  | _ => none

/-- The magnitude bits of a code. -/
def FFmt.magBits (f : FFmt) : Nat := f.e + f.m

/-- An integer format: signed or not, width (R29). -/
def ifmt (t : Nat) : Option (Bool × Nat) :=
  match t with
  | 3 => some (true, 32)
  | 4 => some (false, 32)
  | 5 => some (true, 16)
  | 6 => some (false, 16)
  | 16 => some (true, 8)
  | 17 => some (false, 8)
  | 18 => some (true, 4)
  | 19 => some (false, 4)
  | _ => none

/-- FP6 and FP4, which have no NaN and no infinity (R31). -/
def noSpecials (t : Nat) : Bool := t == 22 || t == 23 || t == 24

/-- The value of a floating-point code (R27, R31). -/
def decodeFloat (t : Nat) (f : FFmt) (code : Nat) : Val :=
  let neg := code.testBit f.magBits
  let mag := code % 2 ^ f.magBits
  let e := mag >>> f.m
  let frac := mag % 2 ^ f.m
  let finite : Val :=
    let q : Int := (if e = 0 then 1 else e : Int) - f.bias - f.m
    let k := if e = 0 then frac else 2 ^ f.m + frac
    (Val.fin neg k 1).scale q
  if noSpecials t then finite
  else if t = 20 then (if mag = 0x7F then .nan false else finite)
  else if e = 2 ^ f.e - 1 then
    if frac = 0 then .inf neg else .nan (t ≠ 21 && !frac.testBit (f.m - 1))
  else finite

/-- The value of an element code of an ETYPE (R27 to R31). -/
def decodeVal (t code : Nat) : Val :=
  match ffmt t with
  | some f => decodeFloat t f code
  | none =>
    match ifmt t with
    | some (true, n) => .ofInt (signedOf code n)
    | some (false, n) => .ofInt (code % 2 ^ n : Nat)
    | none => .zero

/-- The quiet NaN that the part writes (R28, R31); +0 where the format has none (R44). -/
def quietNan (t : Nat) : Nat :=
  match t with
  | 0 => 0x7FC00000
  | 1 => 0x7E00
  | 2 => 0x7FC0
  | 20 => 0x7F
  | 21 => 0x7E
  | _ => 0

/-- The code of infinity. -/
def infCode (f : FFmt) : Nat := (2 ^ f.e - 1) <<< f.m

/-! ## Rounding -/

/-- A rounding mode: RND 0 to 4 of R39, or ordered dither with its threshold numerator (R40). -/
inductive RMode where
  | rnd (n : Nat)
  | dither (t : Nat)
  deriving DecidableEq, Repr

/-- The rounding of every operation but the final conversion of a drain: 5 acts as 0 (R40). -/
def rmode (n : Nat) : RMode := .rnd (if n = 5 then 0 else n)

/-- Rounding goes down. -/
def RMode.isDown : RMode → Bool
  | .rnd n => n == 2
  | .dither _ => false

/-- Whether a magnitude k + rem / den, inexact, is rounded away from zero (R39, R40). -/
def roundsUp (m : RMode) (neg : Bool) (k rem den : Nat) : Bool :=
  if rem = 0 then false
  else match m with
  | .rnd 0 => decide (den < 2 * rem) || (2 * rem == den && k % 2 == 1)
  | .rnd 1 => false
  | .rnd 2 => neg
  | .rnd 3 => !neg
  | .rnd _ => decide (den ≤ 2 * rem)
  | .dither t => if neg then !decide (t * den < 32 * (den - rem)) else decide (t * den < 32 * rem)

/-- The floor of log2 of n / d, both positive. -/
def floorLog2 (n d : Nat) : Int :=
  let e : Int := (n.log2 : Int) - d.log2
  let p := pow2 e
  if n * p.2 < d * p.1 then e - 1 else e

/-- n / d in units of 2^q, rounded: the integer, and whether it was inexact. -/
def roundUnits (m : RMode) (neg : Bool) (n d : Nat) (q : Int) : Nat × Bool :=
  let p := pow2 q
  let num := n * p.2
  let den := d * p.1
  let k := num / den
  let rem := num % den
  (k + bit (roundsUp m neg k rem den), rem != 0)

/-- The largest finite code, or infinity, for a finite value that is too large (R43). -/
def overflowCode (t : Nat) (f : FFmt) (m : RMode) (sat neg : Bool) : Nat × FlagSet :=
  if t = 20 ∨ noSpecials t ∨ sat then (f.maxCode, fOF ||| fNX ||| fSX)
  else
    let toInf := match m with
      | .rnd 1 => false
      | .rnd 2 => neg
      | .rnd 3 => !neg
      | _ => true
    (if toInf then infCode f else f.maxCode, fOF ||| fNX)

/-- Round a finite magnitude n / d, positive, to a floating-point format: the magnitude code and the flags (R39, R43). -/
def roundMag (t : Nat) (f : FFmt) (m : RMode) (sat neg : Bool) (n d : Nat) : Nat × FlagSet :=
  let emin : Int := 1 - f.bias
  let e := floorLog2 n d
  let q := (if e < emin then emin else e) - f.m
  let (k, inexact) := roundUnits m neg n d q
  let code := ((q + f.m + f.bias - 1).toNat <<< f.m) + k
  if f.maxCode < code then overflowCode t f m sat neg
  else
    let tiny := decide (e < emin) &&
      !(e + 1 == emin && (roundUnits m neg n d (e - f.m)).1 == 2 ^ (f.m + 1))
    (code, (if inexact then fNX else 0) ||| (if inexact && tiny then fUF else 0))

/-- Put a sign on a magnitude code. -/
def signCode (f : FFmt) (neg : Bool) (mag : Nat) : Nat := mag + bit neg <<< f.magBits

/-- Convert a value to a floating-point format, rounding once (R42 to R44). -/
def toFloat (t : Nat) (f : FFmt) (m : RMode) (sat : Bool) (v : Val) : Nat × FlagSet :=
  match v with
  | .nan g =>
    if noSpecials t then (0, fNV ||| fNQ) else (quietNan t, if g then fNV else 0)
  | .inf s =>
    if noSpecials t ∨ sat then (signCode f s f.maxCode, fSX)
    else if t = 20 then (0x7F, fNV)
    else (signCode f s (infCode f), 0)
  | .fin s n d =>
    if n = 0 then (signCode f s 0, 0)
    else
      let (c, fl) := roundMag t f m sat s n d
      (signCode f s c, fl)

/-- The ends of an integer format (R29). -/
def intRange (signed : Bool) (w : Nat) : Int × Int :=
  if signed then (-(2 ^ (w - 1) : Nat), (2 ^ (w - 1) : Nat) - 1) else (0, (2 ^ w : Nat) - 1)

/-- Fit an integer into an integer format: clamped with SX, or its low bits (R45). -/
def fitInt (signed : Bool) (w : Nat) (sat : Bool) (i : Int) : Nat × FlagSet :=
  let (lo, hi) := intRange signed w
  if !sat then (lowBits i w, 0)
  else if i < lo then (lowBits lo w, fSX)
  else if hi < i then (lowBits hi w, fSX)
  else (lowBits i w, 0)

/-- Round a value to an integer (R39, R45): the integer and whether it was inexact. -/
def roundToInt (m : RMode) (neg : Bool) (n d : Nat) : Int × Bool :=
  let (k, inexact) := roundUnits m neg n d 0
  (if neg then -(k : Int) else k, inexact)

/-- Convert a floating-point value to an integer format (R44, R45). -/
def floatToInt (signed : Bool) (w : Nat) (m : RMode) (v : Val) : Nat × FlagSet :=
  let (lo, hi) := intRange signed w
  match v with
  | .nan _ => (0, fNV)
  | .inf s => (lowBits (if s then lo else hi) w, fNV)
  | .fin s n d =>
    let (i, inexact) := roundToInt m s n d
    if i < lo then (lowBits lo w, fNV)
    else if hi < i then (lowBits hi w, fNV)
    else (lowBits i w, if inexact then fNX else 0)

/-- Convert an exact value of a source ETYPE to a target ETYPE (R42 to R45). -/
def convert (src dst : Nat) (m : RMode) (sat : Bool) (v : Val) : Nat × FlagSet :=
  match ffmt dst with
  | some f => toFloat dst f m sat v
  | none =>
    match ifmt dst with
    | some (sg, w) =>
      if (ifmt src).isSome then fitInt sg w sat v.signed else floatToInt sg w m v
    | none => (0, 0)

/-! ## Roots, powers and logarithms (R186) -/

/-- The integer square root, bit by bit from bit i down. -/
def isqrtFrom (n : Nat) : Nat → Nat → Nat
  | 0, r => r
  | i + 1, r =>
    let c := r + 2 ^ i
    isqrtFrom n i (if c * c ≤ n then c else r)

/-- The integer square root. -/
def isqrt (n : Nat) : Nat := isqrtFrom n (n.log2 / 2 + 1) 0

/-- A fraction known to lie strictly between k / d and (k + 1) / d, or to be k / d exactly. -/
def between (exact : Bool) (k d : Nat) : Nat × Nat := if exact then (k, d) else (2 * k + 1, 2 * d)

/-- The square root of n / d, to 128 bits and a sticky half. -/
def sqrtFrac (n d : Nat) : Nat × Nat :=
  let x := n * d * 2 ^ 256
  let r := isqrt x
  between (r * r == x) r (d * 2 ^ 128)

/-- Bits of working precision of 2^x and log2 x. -/
def workBits : Nat := 400

/-- The product of 2^(2^-j) over the set bits of a fraction, from bit j on, in units of 2^-400: `root` is 2^(2^-j). -/
def exp2Bits : Nat → Nat → Nat → Nat → Nat
  | 0, _, _, acc => acc
  | fuel + 1, frac, root, acc =>
    let root := isqrt (root <<< workBits)
    let acc := if frac.testBit fuel then (acc * root) >>> workBits else acc
    exp2Bits fuel frac root acc

/-- 2^x for a finite x = s n / d, d a power of two: exact for an integer, else between two close fractions (R186). -/
def exp2Frac (neg : Bool) (n d : Nat) : Nat × Nat :=
  let x : Int := if neg then -(n : Int) else n
  let i := x / (d : Int)
  let frac := (x % (d : Int)).toNat
  let p := pow2 i
  if frac = 0 then p
  else
    let y := exp2Bits d.log2 frac (2 <<< workBits) (1 <<< workBits)
    ((2 * y + 1) * p.1, (2 <<< workBits) * p.2)

/-- The fraction bits of log2 of y, 1 <= y < 2 in units of 2^-400. -/
def log2Bits : Nat → Nat → Nat → Nat
  | 0, _, acc => acc
  | fuel + 1, y, acc =>
    let z := (y * y) >>> workBits
    if 2 <<< workBits ≤ z then log2Bits fuel (z >>> 1) (2 * acc + 1) else log2Bits fuel z (2 * acc)

/-- log2 of a positive n / d, d a power of two: exact for a power of two, else between two close fractions (R186). -/
def log2Val (n d : Nat) : Val :=
  let e := floorLog2 n d
  let p := pow2 e
  if n * p.2 = d * p.1 then .ofInt e
  else
    let y := ((n * p.2) <<< workBits) / (d * p.1)
    let k := log2Bits 160 y 0
    let t : Int := e * (2 ^ 161 : Nat) + (2 * k + 1 : Nat)
    .fin (decide (t < 0)) t.natAbs (2 ^ 161)

end Sys2Proof.Machine
end

