-- ==== Sys2Proof/WellFormed.lean ====
section
/-! DEFINITION. Which terms of the syntax stand for a step of the part: the ranges that the operand types alone do not
give (R126, R142, and the counts of R8, R9, R53, R60, R67 for the arguments of events). -/

namespace Sys2Proof

/-- A core number names one of the 320 cores (R9). -/
def coreOk (n : Nat) : Bool := n < 320

/-- A die number (R8). -/
def dieOk (n : Nat) : Bool := n < 2

/-- A die and a pseudo-channel of it (R52). -/
def channelOk (die pch : Nat) : Bool := dieOk die && pch < 768

/-- A cluster number, die x 10 + cluster (R286). -/
def clusterOk (n : Nat) : Bool := n < 20

/-- A context number (R286). -/
def ctxOk (n : Nat) : Bool := n < 65536

/-- A context and a node id (R284). -/
def nodeOk (ctx node : Nat) : Bool := ctxOk ctx && node < 16384

/-- The well-formed instructions. -/
def wellFormed : Instr → Bool
  | .stick _ fx => fx.toNat < 6
  | .loop _ _ fx => fx.toNat < 8
  | .orcFill core ctx handle => coreOk core && ctxOk ctx && handle < 2 ^ 20
  | .mapEntryFill core ctx handle _ => coreOk core && ctxOk ctx && handle < 2 ^ 20
  | .collReady _ _ rank _ => rank < 65536
  | .collAbort _ _ rank => rank < 65536
  | .collDecision _ verdict => verdict < 4
  | .bankExchange core => coreOk core
  | .spillDone core => coreOk core
  | .bankFillDone core ctx => coreOk core && ctxOk ctx
  | .registerWrite off _ _ => off < 0x80200
  | .mcbRetirePch die pch => dieOk die && pch < 1024
  | .topcut die => dieOk die
  | .migrationStart die => dieOk die
  | .migrateUnit die => dieOk die
  | .migrationEnd die => dieOk die
  | .mcbNrpWrite die _ => dieOk die
  | .mcbSeedWrite die _ => dieOk die
  | .activate die pch _ => channelOk die pch
  | .activationAlert die pch => channelOk die pch
  | .backoffWindowEnd die pch => channelOk die pch
  | .patrolScrub die unit errs => dieOk die && unit < 805306368 && errs < 9
  | .cxwWrite n _ => n < 16
  | .cxlLinkDown port => port < 8
  | .cxlPortTrained port gen most width => port < 8 && gen < 2 && most < 256 && 0 < width && width ≤ 16
  | .retrain port => port < 8
  | .queueSlotGrant queue => queue < 4096
  | .recordIntake queue => queue < 4096
  | .decrement ctx node _ => nodeOk ctx node
  | .conditionalRead ctx node => nodeOk ctx node
  | .kernelPlacement ctx node => nodeOk ctx node
  | .preemptCores ctx node => nodeOk ctx node
  | .nodeComplete ctx node => nodeOk ctx node
  | .hartMigration core => coreOk core
  | .coreRetire core => coreOk core
  | .hostWrite addr bytes => addr + bytes.length ≤ 2 ^ 47
  | .hostRead addr n => addr + n ≤ 2 ^ 47 + 0x80000
  | .flitReceive port _ => port < 16
  | .laneRepair port => port < 16
  | .stolierRetrainEnd port _ _ => port < 16
  | .force port lane => port < 16 && lane < 16
  | .stlctlEn port _ => port < 16
  | .fatalError cause die unit => cause < 256 && dieOk die && unit < 256
  | .levelWindowBoundary cl => clusterOk cl
  | .powerEval die _ => dieOk die
  | .thermalEval die => dieOk die
  | .tempRefresh cl _ => clusterOk cl
  | .vsramEval die core _ => dieOk die && coreOk core
  | .sramScrub core what _ => coreOk core && what < 9
  | .gateHoldEnd cl => clusterOk cl
  | .wakeRequest cl => clusterOk cl
  | .gateenWrite cl _ => clusterOk cl
  | .stolierLinkLoss port => port < 16
  | .add .. | .sub .. | .and .. | .or .. | .xor .. | .sll .. | .srl .. | .sra .. | .slt .. | .sltu .. | .min .. | .max ..
  | .minu .. | .maxu .. | .clz .. | .ctz .. | .popc .. | .mul .. | .mulh .. | .mulhu .. | .div .. | .divu .. | .rem ..
  | .remu .. | .addi .. | .andi .. | .ori .. | .xori .. | .slti .. | .sltiu .. | .slli .. | .srli .. | .srai .. | .lih ..
  | .pchi .. | .obj .. | .objh .. | .objo .. | .ldb .. | .ldh .. | .ldw .. | .ldd .. | .ldbu .. | .ldhu .. | .ldwu .. | .stb ..
  | .sth .. | .stw .. | .std .. | .amoadd .. | .amoswap .. | .amocas .. | .amoand .. | .amoor .. | .amoxor .. | .amomin ..
  | .amomax .. | .amominu .. | .amomaxu .. | .beq .. | .bne .. | .blt .. | .bge .. | .bltu .. | .bgeu .. | .jal .. | .jalr ..
  | .stickend | .setvl .. | .setvlw .. | .setvlx .. | .setmode .. | .getmode .. | .setforme .. | .settile .. | .gets ..
  | .puts .. | .strip .. | .proof .. | .endHart | .vadd .. | .vsub .. | .vmul .. | .vfma .. | .vfms .. | .vmin .. | .vmax ..
  | .vand .. | .vor .. | .vxor .. | .vshl .. | .vshr .. | .vsra .. | .vdiv .. | .vcmpeq .. | .vcmpne .. | .vcmplt ..
  | .vcmple .. | .vsel .. | .vclamp .. | .vslideup .. | .vslidedn .. | .vperm .. | .vexpand .. | .vcompress .. | .vabs ..
  | .vneg .. | .vnot .. | .vsqrt .. | .vrcp .. | .vrsq .. | .vexp2 .. | .vlog2 .. | .vcvt .. | .viota .. | .vconflict ..
  | .vmv .. | .vbcast .. | .vextract .. | .vredsum .. | .vredmax .. | .vredmin .. | .mand .. | .mor .. | .mxor .. | .mandn ..
  | .mpop .. | .mfirst .. | .mset .. | .mclr .. | .vld .. | .vlds .. | .vldt .. | .vldb .. | .vldpk .. | .vst .. | .vstu ..
  | .vsts .. | .vstt .. | .vstpk .. | .vldx .. | .vstx .. | .vamoadd .. | .vamomax .. | .vamomin .. | .mma .. | .mmas ..
  | .mmau .. | .vwmul .. | .vwmac .. | .vextf .. | .vpack .. | .vunpack .. | .mzero .. | .msums .. | .drain .. | .draina ..
  | .drainq .. | .drainrc .. | .cset .. | .cget .. | .claunch .. | .ccancel .. | .coll .. | .gdecl .. | .gstate .. | .gfree ..
  | .syncinit .. | .syncwait .. | .gbar .. | .garrive .. | .gwait .. | .trap .. | .eret | .brk | .swapctx | .spillwait
  | .icinv .. | .orcinv .. | .objmove .. | .flagclr .. | .ctrrd .. | .nop .. | .asyncTrap | .qdeadlock | .memoryOpPerform ..
  | .watermarkReread .. | .copyBlock .. | .copyEnd .. | .moveDrainEnd .. | .moveCopyEnd .. | .moveAbort .. | .icinvDone ..
  | .orcinvDone .. | .iuDoorbell .. | .timesliceEnd | .iuKill .. | .rtReqGo .. | .installObject | .removeObject
  | .msixVector0Timer | .dumpComplete | .wakeRampStart | .wakeDone | .packageReset | .illegalInstruction .. | .fetchFault => true

end Sys2Proof
end

