-- ==== Sys2Proof/Decode.lean ====
section
/-! DEFINITION. The decoder (R122 to R128), total on any bytes and refusing by name, and after it the
encoder, both written from the format table of R123 and the opcode map of R127. -/

namespace Sys2Proof

/-- Why a word is no instruction. Every one of them is the precise illegal-instruction trap when the word is fetched
(R126, R128). -/
inductive DecodeError where
  /-- The opcode is not assigned (R128). -/
  | reservedOpcode
  /-- The function, condition or level value is not listed (R127, R142). -/
  | functionValue
  /-- A field or bit that must be zero is not (R126). -/
  | mustBeZero
  /-- A 7-bit operand field holds a code of 92 to 126 (R126). -/
  | vectorCode
  /-- Fewer than four bytes are given. -/
  | tooShort
  deriving DecidableEq, Repr

/-- Bits [lo + n - 1 : lo] of a word. -/
def fld (w : BitVec 32) (lo n : Nat) : BitVec n := w.extractLsb' lo n

/-- The 5-bit scalar operand code of R126. -/
def SOp.ofBits (b : BitVec 5) : SOp :=
  if h : b.toNat < 24 then .s ⟨b.toNat, h⟩ else .q ⟨b.toNat - 24, by have := b.isLt; omega⟩

/-- The code of a scalar operand (R126). -/
def SOp.bits : SOp → BitVec 5
  | .s n => BitVec.ofNat 5 n.val
  | .q n => BitVec.ofNat 5 (24 + n.val)

/-- The 7-bit vector operand code of R126; codes 92 to 126 name nothing. -/
def VOp.ofBits (b : BitVec 7) : Option VOp :=
  let n := b.toNat
  if h : n < 64 then some (.v ⟨n, h⟩)
  else if h : n < 72 then some (.w ⟨n - 64, by omega⟩)
  else if h : n < 76 then some (.z ⟨n - 72, by omega⟩)
  else if h : n < 84 then some (.q ⟨n - 76, by omega⟩)
  else if h : n < 92 then some (.m ⟨n - 84, by omega⟩)
  else if n = 127 then some .none
  else Option.none

/-- The code of a vector operand (R126). -/
def VOp.bits : VOp → BitVec 7
  | .v n => BitVec.ofNat 7 n.val
  | .w n => BitVec.ofNat 7 (64 + n.val)
  | .z n => BitVec.ofNat 7 (72 + n.val)
  | .q n => BitVec.ofNat 7 (76 + n.val)
  | .m n => BitVec.ofNat 7 (84 + n.val)
  | .none => 127

/-- The scalar operand at bit lo. -/
def sop (w : BitVec 32) (lo : Nat) : SOp := SOp.ofBits (fld w lo 5)

/-- The slot or forme number at bit lo. -/
def slot (w : BitVec 32) (lo : Nat) : Fin 8 := (fld w lo 3).toFin

/-- The D bit of a vector word (R123). -/
def dbit (w : BitVec 32) : Bool := fld w 24 1 == 1#1

/-- The S-format immediate of R124. -/
def simm (w : BitVec 32) : BitVec 12 := fld w 20 5 ++ fld w 0 7

/-- The field of n bits at lo is zero. -/
def zero (w : BitVec 32) (lo n : Nat) : Bool := fld w lo n == 0

/-- Refuse the word when a must-be-zero field is not zero (R126). -/
def need (ok : Bool) (r : Except DecodeError Instr) : Except DecodeError Instr :=
  if ok then r else .error .mustBeZero

/-- The operand vd of a vector word. -/
def v1 (w : BitVec 32) (k : VOp → Instr) : Except DecodeError Instr :=
  match VOp.ofBits (fld w 14 7) with
  | some vd => .ok (k vd)
  | none => .error .vectorCode

/-- The operands vd and va of a VU word. -/
def v2 (w : BitVec 32) (k : VOp → VOp → Instr) : Except DecodeError Instr :=
  match VOp.ofBits (fld w 14 7), VOp.ofBits (fld w 7 7) with
  | some vd, some va => .ok (k vd va)
  | _, _ => .error .vectorCode

/-- The operands vd and vi of a VMX word. -/
def vx (w : BitVec 32) (k : VOp → VOp → Instr) : Except DecodeError Instr :=
  match VOp.ofBits (fld w 14 7), VOp.ofBits (fld w 2 7) with
  | some vd, some vi => .ok (k vd vi)
  | _, _ => .error .vectorCode

/-- The operands vd, va and vb of a V word. -/
def v3 (w : BitVec 32) (k : VOp → VOp → VOp → Instr) : Except DecodeError Instr :=
  match VOp.ofBits (fld w 14 7), VOp.ofBits (fld w 7 7), VOp.ofBits (fld w 0 7) with
  | some vd, some va, some vb => .ok (k vd va vb)
  | _, _, _ => .error .vectorCode

/-- Opcode 0x01 (R127). -/
def decodeOp01 (w : BitVec 32) : Except DecodeError Instr :=
  match (fld w 0 5).toNat with
  | 0 => need (zero w 5 5) <| .ok (.add (sop w 20) (sop w 15) (sop w 10))
  | 1 => need (zero w 5 5) <| .ok (.sub (sop w 20) (sop w 15) (sop w 10))
  | 2 => need (zero w 5 5) <| .ok (.and (sop w 20) (sop w 15) (sop w 10))
  | 3 => need (zero w 5 5) <| .ok (.or (sop w 20) (sop w 15) (sop w 10))
  | 4 => need (zero w 5 5) <| .ok (.xor (sop w 20) (sop w 15) (sop w 10))
  | 5 => need (zero w 5 5) <| .ok (.sll (sop w 20) (sop w 15) (sop w 10))
  | 6 => need (zero w 5 5) <| .ok (.srl (sop w 20) (sop w 15) (sop w 10))
  | 7 => need (zero w 5 5) <| .ok (.sra (sop w 20) (sop w 15) (sop w 10))
  | 8 => need (zero w 5 5) <| .ok (.slt (sop w 20) (sop w 15) (sop w 10))
  | 9 => need (zero w 5 5) <| .ok (.sltu (sop w 20) (sop w 15) (sop w 10))
  | 10 => need (zero w 5 5) <| .ok (.min (sop w 20) (sop w 15) (sop w 10))
  | 11 => need (zero w 5 5) <| .ok (.max (sop w 20) (sop w 15) (sop w 10))
  | 12 => need (zero w 5 5) <| .ok (.minu (sop w 20) (sop w 15) (sop w 10))
  | 13 => need (zero w 5 5) <| .ok (.maxu (sop w 20) (sop w 15) (sop w 10))
  | 14 => need (zero w 10 5 && zero w 5 5) <| .ok (.clz (sop w 20) (sop w 15))
  | 15 => need (zero w 10 5 && zero w 5 5) <| .ok (.ctz (sop w 20) (sop w 15))
  | 16 => need (zero w 10 5 && zero w 5 5) <| .ok (.popc (sop w 20) (sop w 15))
  | _ => .error .functionValue

/-- Opcode 0x02 (R127). -/
def decodeOp02 (w : BitVec 32) : Except DecodeError Instr :=
  match (fld w 0 5).toNat with
  | 0 => need (zero w 5 5) <| .ok (.mul (sop w 20) (sop w 15) (sop w 10))
  | 1 => need (zero w 5 5) <| .ok (.mulh (sop w 20) (sop w 15) (sop w 10))
  | 2 => need (zero w 5 5) <| .ok (.mulhu (sop w 20) (sop w 15) (sop w 10))
  | 3 => need (zero w 5 5) <| .ok (.div (sop w 20) (sop w 15) (sop w 10))
  | 4 => need (zero w 5 5) <| .ok (.divu (sop w 20) (sop w 15) (sop w 10))
  | 5 => need (zero w 5 5) <| .ok (.rem (sop w 20) (sop w 15) (sop w 10))
  | 6 => need (zero w 5 5) <| .ok (.remu (sop w 20) (sop w 15) (sop w 10))
  | _ => .error .functionValue

/-- Opcode 0x03, the register-immediate forms (R127, R133). -/
def decodeOp03 (w : BitVec 32) : Except DecodeError Instr :=
  match (fld w 12 3).toNat with
  | 0 => .ok (.addi (sop w 20) (sop w 15) (fld w 0 12))
  | 1 => .ok (.andi (sop w 20) (sop w 15) (fld w 0 12))
  | 2 => .ok (.ori (sop w 20) (sop w 15) (fld w 0 12))
  | 3 => .ok (.xori (sop w 20) (sop w 15) (fld w 0 12))
  | 4 => .ok (.slti (sop w 20) (sop w 15) (fld w 0 12))
  | 5 => .ok (.sltiu (sop w 20) (sop w 15) (fld w 0 12))
  | 6 =>
    match (fld w 10 2).toNat with
    | 0 => need (zero w 6 4) <| .ok (.slli (sop w 20) (sop w 15) (fld w 0 6))
    | 1 => need (zero w 6 4) <| .ok (.srli (sop w 20) (sop w 15) (fld w 0 6))
    | 2 => need (zero w 6 4) <| .ok (.srai (sop w 20) (sop w 15) (fld w 0 6))
    | _ => .error .functionValue
  | _ => .error .functionValue

/-- Opcode 0x06 (R127). -/
def decodeOp06 (w : BitVec 32) : Except DecodeError Instr :=
  match (fld w 0 5).toNat with
  | 0 => need (zero w 5 5) <| .ok (.obj (sop w 20) (sop w 15) (sop w 10))
  | 1 => need (zero w 5 5) <| .ok (.objh (sop w 20) (sop w 15) (sop w 10))
  | 2 => need (zero w 10 5 && zero w 5 5) <| .ok (.objo (sop w 20) (sop w 15))
  | _ => .error .functionValue

/-- Opcode 0x14 (R127). -/
def decodeOp14 (w : BitVec 32) : Except DecodeError Instr :=
  match (fld w 3 4).toNat with
  | 0 => need (zero w 0 3) <| .ok (.amoadd (sop w 20) (sop w 15) (sop w 10) (slot w 7))
  | 1 => need (zero w 0 3) <| .ok (.amoswap (sop w 20) (sop w 15) (sop w 10) (slot w 7))
  | 2 => need (zero w 0 3) <| .ok (.amocas (sop w 20) (sop w 15) (sop w 10) (slot w 7))
  | 3 => need (zero w 0 3) <| .ok (.amoand (sop w 20) (sop w 15) (sop w 10) (slot w 7))
  | 4 => need (zero w 0 3) <| .ok (.amoor (sop w 20) (sop w 15) (sop w 10) (slot w 7))
  | 5 => need (zero w 0 3) <| .ok (.amoxor (sop w 20) (sop w 15) (sop w 10) (slot w 7))
  | 6 => need (zero w 0 3) <| .ok (.amomin (sop w 20) (sop w 15) (sop w 10) (slot w 7))
  | 7 => need (zero w 0 3) <| .ok (.amomax (sop w 20) (sop w 15) (sop w 10) (slot w 7))
  | 8 => need (zero w 0 3) <| .ok (.amominu (sop w 20) (sop w 15) (sop w 10) (slot w 7))
  | 9 => need (zero w 0 3) <| .ok (.amomaxu (sop w 20) (sop w 15) (sop w 10) (slot w 7))
  | _ => .error .functionValue

/-- Opcode 0x18 (R127). -/
def decodeOp18 (w : BitVec 32) : Except DecodeError Instr :=
  match (fld w 12 3).toNat with
  | 0 => .ok (.beq (sop w 20) (sop w 15) (fld w 0 12))
  | 1 => .ok (.bne (sop w 20) (sop w 15) (fld w 0 12))
  | 4 => .ok (.blt (sop w 20) (sop w 15) (fld w 0 12))
  | 5 => .ok (.bge (sop w 20) (sop w 15) (fld w 0 12))
  | 6 => .ok (.bltu (sop w 20) (sop w 15) (fld w 0 12))
  | 7 => .ok (.bgeu (sop w 20) (sop w 15) (fld w 0 12))
  | _ => .error .functionValue

/-- Opcode 0x1B (R127). -/
def decodeOp1B (w : BitVec 32) : Except DecodeError Instr :=
  match (fld w 0 5).toNat with
  | 0 => need (zero w 20 5 && zero w 10 5) <|
      if (fld w 5 5).toNat < 6 then .ok (.stick (sop w 15) (fld w 5 5)) else .error .functionValue
  | 1 => need (zero w 20 5 && zero w 15 5 && zero w 10 5 && zero w 5 5) <| .ok .stickend
  | 2 => need (zero w 20 5) <|
      if (fld w 5 5).toNat < 8 then .ok (.loop (sop w 15) (sop w 10) (fld w 5 5)) else .error .functionValue
  | _ => .error .functionValue

/-- Opcode 0x1C (R127). -/
def decodeOp1C (w : BitVec 32) : Except DecodeError Instr :=
  match (fld w 0 5).toNat with
  | 0 => need (zero w 10 5 && zero w 8 2) <| .ok (.setvl (sop w 20) (sop w 15) (slot w 5))
  | 1 => need (zero w 8 2) <| .ok (.setvlw (sop w 20) (sop w 15) (sop w 10) (slot w 5))
  | _ => .error .functionValue

/-- Opcode 0x1E (R127). -/
def decodeOp1E (w : BitVec 32) : Except DecodeError Instr :=
  match (fld w 0 5).toNat with
  | 0 => need (zero w 20 5 && zero w 10 5 && zero w 8 2) <| .ok (.setmode (sop w 15) (slot w 5))
  | 1 => need (zero w 15 5 && zero w 10 5 && zero w 8 2) <| .ok (.getmode (sop w 20) (slot w 5))
  | 2 => need (zero w 20 5 && zero w 10 5 && zero w 8 2) <| .ok (.setforme (sop w 15) (slot w 5))
  | 3 => need (zero w 20 5 && zero w 5 5) <| .ok (.settile (sop w 15) (sop w 10))
  | _ => .error .functionValue

/-- Opcode 0x1F (R127). -/
def decodeOp1F (w : BitVec 32) : Except DecodeError Instr :=
  match (fld w 12 3).toNat with
  | 0 => need (zero w 15 5) <| .ok (.gets (sop w 20) (fld w 0 12))
  | 1 => need (zero w 20 5) <| .ok (.puts (sop w 15) (fld w 0 12))
  | _ => .error .functionValue

/-- Opcode 0x20 (R127). -/
def decodeOp20 (w : BitVec 32) : Except DecodeError Instr :=
  match (fld w 0 5).toNat with
  | 0 => need (zero w 20 5 && zero w 5 5) <| .ok (.strip (sop w 15) (sop w 10))
  | 1 => need (zero w 20 5 && zero w 10 5 && zero w 8 2) <| .ok (.proof (sop w 15) (slot w 5))
  | 2 => need (zero w 20 5 && zero w 15 5 && zero w 10 5 && zero w 5 5) <| .ok .endHart
  | _ => .error .functionValue

/-- Opcode 0x59 (R127). -/
def decodeOp59 (w : BitVec 32) : Except DecodeError Instr :=
  match (fld w 0 7).toNat with
  | 0 => v2 w fun vd va => .vabs (dbit w) (slot w 21) vd va
  | 1 => v2 w fun vd va => .vneg (dbit w) (slot w 21) vd va
  | 2 => v2 w fun vd va => .vnot (dbit w) (slot w 21) vd va
  | 3 => v2 w fun vd va => .vsqrt (dbit w) (slot w 21) vd va
  | 4 => v2 w fun vd va => .vrcp (dbit w) (slot w 21) vd va
  | 5 => v2 w fun vd va => .vrsq (dbit w) (slot w 21) vd va
  | 6 => v2 w fun vd va => .vexp2 (dbit w) (slot w 21) vd va
  | 7 => v2 w fun vd va => .vlog2 (dbit w) (slot w 21) vd va
  | 8 => v2 w fun vd va => .vcvt (dbit w) (slot w 21) vd va
  | 9 => v2 w fun vd va => .viota (dbit w) (slot w 21) vd va
  | 10 => v2 w fun vd va => .vconflict (dbit w) (slot w 21) vd va
  | 11 => v2 w fun vd va => .vmv (dbit w) (slot w 21) vd va
  | 12 => v2 w fun vd va => .vbcast (dbit w) (slot w 21) vd va
  | 13 => need (zero w 24 1) <| v2 w fun vd va => .vextract (slot w 21) vd va
  | _ => .error .functionValue

/-- Opcode 0x5A (R127). -/
def decodeOp5A (w : BitVec 32) : Except DecodeError Instr :=
  match (fld w 0 7).toNat with
  | 0 => v2 w fun vd va => .vredsum (dbit w) (slot w 21) vd va
  | 1 => v2 w fun vd va => .vredmax (dbit w) (slot w 21) vd va
  | 2 => v2 w fun vd va => .vredmin (dbit w) (slot w 21) vd va
  | _ => .error .functionValue

/-- Opcode 0x5F (R127). -/
def decodeOp5F (w : BitVec 32) : Except DecodeError Instr :=
  match (fld w 0 7).toNat with
  | 0 => v2 w fun vd va => .mpop (dbit w) (slot w 21) vd va
  | 1 => v2 w fun vd va => .mfirst (dbit w) (slot w 21) vd va
  | 2 => need (zero w 7 7) <| v1 w fun vd => .mset (dbit w) (slot w 21) vd
  | 3 => need (zero w 7 7) <| v1 w fun vd => .mclr (dbit w) (slot w 21) vd
  | _ => .error .functionValue

/-- Opcode 0x60 (R127). -/
def decodeOp60 (w : BitVec 32) : Except DecodeError Instr :=
  match (fld w 0 4).toNat with
  | 0 => need (zero w 4 5) <| v1 w fun vd => .vld (dbit w) (slot w 21) vd (sop w 9)
  | 1 => v1 w fun vd => .vlds (dbit w) (slot w 21) vd (sop w 9) (sop w 4)
  | 2 => need (zero w 4 5) <| v1 w fun vd => .vldt (dbit w) (slot w 21) vd (sop w 9)
  | 3 => need (zero w 24 1 && zero w 4 5) <| v1 w fun vd => .vldb (slot w 21) vd (sop w 9)
  | 4 => v1 w fun vd => .vldpk (dbit w) (slot w 21) vd (sop w 9) (sop w 4)
  | 8 => need (zero w 4 5) <| v1 w fun vd => .vst (dbit w) (slot w 21) vd (sop w 9)
  | 9 => need (zero w 4 5) <| v1 w fun vd => .vstu (dbit w) (slot w 21) vd (sop w 9)
  | 10 => v1 w fun vd => .vsts (dbit w) (slot w 21) vd (sop w 9) (sop w 4)
  | 11 => need (zero w 4 5) <| v1 w fun vd => .vstt (dbit w) (slot w 21) vd (sop w 9)
  | 12 => v1 w fun vd => .vstpk (dbit w) (slot w 21) vd (sop w 9) (sop w 4)
  | _ => .error .functionValue

/-- Opcode 0x61 (R127). -/
def decodeOp61 (w : BitVec 32) : Except DecodeError Instr :=
  match (fld w 0 2).toNat with
  | 0 => vx w fun vd vi => .vldx (dbit w) (slot w 21) vd (sop w 9) vi
  | _ => .error .functionValue

/-- Opcode 0x62 (R127). -/
def decodeOp62 (w : BitVec 32) : Except DecodeError Instr :=
  match (fld w 0 2).toNat with
  | 0 => vx w fun vd vi => .vstx (dbit w) (slot w 21) vd (sop w 9) vi
  | _ => .error .functionValue

/-- Opcode 0x63 (R127). -/
def decodeOp63 (w : BitVec 32) : Except DecodeError Instr :=
  match (fld w 0 2).toNat with
  | 0 => vx w fun vd vi => .vamoadd (dbit w) (slot w 21) vd (sop w 9) vi
  | 1 => vx w fun vd vi => .vamomax (dbit w) (slot w 21) vd (sop w 9) vi
  | 2 => vx w fun vd vi => .vamomin (dbit w) (slot w 21) vd (sop w 9) vi
  | _ => .error .functionValue

/-- Opcode 0x6E (R127). -/
def decodeOp6E (w : BitVec 32) : Except DecodeError Instr :=
  match (fld w 0 7).toNat with
  | 0 => v2 w fun vd va => .vpack (dbit w) (slot w 21) vd va
  | 1 => v2 w fun vd va => .vunpack (dbit w) (slot w 21) vd va
  | 2 => need (zero w 24 1 && zero w 7 7) <| v1 w fun vd => .mzero (slot w 21) vd
  | 3 => v2 w fun vd va => .msums (dbit w) (slot w 21) vd va
  | _ => .error .functionValue

/-- Opcode 0x6F (R127). -/
def decodeOp6F (w : BitVec 32) : Except DecodeError Instr :=
  match (fld w 0 7).toNat with
  | 0 => need (zero w 24 1) <| v2 w fun vd va => .drain (slot w 21) vd va
  | 1 => need (zero w 24 1) <| v2 w fun vd va => .draina (slot w 21) vd va
  | 2 => need (zero w 24 1) <| v2 w fun vd va => .drainq (slot w 21) vd va
  | 3 => need (zero w 24 1) <| v2 w fun vd va => .drainrc (slot w 21) vd va
  | _ => .error .functionValue

/-- Opcode 0x70 (R127). -/
def decodeOp70 (w : BitVec 32) : Except DecodeError Instr :=
  match (fld w 0 5).toNat with
  | 0 => need (zero w 20 5 && zero w 10 5 && zero w 9 1) <| .ok (.cset (sop w 15) (fld w 5 4))
  | 1 => need (zero w 15 5 && zero w 10 5 && zero w 9 1) <| .ok (.cget (sop w 20) (fld w 5 4))
  | 2 => need (zero w 15 5 && zero w 8 2) <| .ok (.claunch (sop w 20) (sop w 10) (slot w 5))
  | 3 => need (zero w 10 5 && zero w 5 5) <| .ok (.ccancel (sop w 20) (sop w 15))
  | 4 => need (zero w 15 5 && zero w 8 2) <| .ok (.coll (sop w 20) (sop w 10) (slot w 5))
  | _ => .error .functionValue

/-- Opcode 0x71 (R127). -/
def decodeOp71 (w : BitVec 32) : Except DecodeError Instr :=
  match (fld w 0 5).toNat with
  | 0 => need (zero w 20 5 && zero w 5 5) <| .ok (.gdecl (sop w 15) (sop w 10))
  | 1 => need (zero w 5 5) <| .ok (.gstate (sop w 20) (sop w 15) (sop w 10))
  | 2 => need (zero w 20 5 && zero w 10 5 && zero w 5 5) <| .ok (.gfree (sop w 15))
  | 3 => need (zero w 20 5 && zero w 5 5) <| .ok (.syncinit (sop w 15) (sop w 10))
  | 4 => need (zero w 8 2) <| .ok (.syncwait (sop w 20) (sop w 15) (sop w 10) (slot w 5))
  | _ => .error .functionValue

/-- Opcode 0x72 (R127). -/
def decodeOp72 (w : BitVec 32) : Except DecodeError Instr :=
  match (fld w 0 5).toNat with
  | 0 => need (zero w 20 5 && zero w 10 5 && zero w 8 2) <| .ok (.gbar (sop w 15) (slot w 5))
  | 1 => need (zero w 10 5 && zero w 8 2) <| .ok (.garrive (sop w 20) (sop w 15) (slot w 5))
  | 2 => need (zero w 20 5 && zero w 8 2) <| .ok (.gwait (sop w 15) (sop w 10) (slot w 5))
  | _ => .error .functionValue

/-- Opcode 0x74 (R127). -/
def decodeOp74 (w : BitVec 32) : Except DecodeError Instr :=
  match (fld w 0 5).toNat with
  | 0 => need (zero w 20 5 && zero w 15 5 && zero w 10 5) <| .ok (.trap (fld w 5 5))
  | 1 => need (zero w 20 5 && zero w 15 5 && zero w 10 5 && zero w 5 5) <| .ok .eret
  | 2 => need (zero w 20 5 && zero w 15 5 && zero w 10 5 && zero w 5 5) <| .ok .brk
  | 3 => need (zero w 20 5 && zero w 15 5 && zero w 10 5 && zero w 5 5) <| .ok .swapctx
  | 4 => need (zero w 20 5 && zero w 15 5 && zero w 10 5 && zero w 5 5) <| .ok .spillwait
  | 5 => need (zero w 8 2) <| .ok (.icinv (sop w 20) (sop w 15) (sop w 10) (slot w 5))
  | 6 => need (zero w 10 5 && zero w 8 2) <| .ok (.orcinv (sop w 20) (sop w 15) (slot w 5))
  | 7 => .ok (.objmove (sop w 20) (sop w 15) (sop w 10) (fld w 5 5))
  | 8 => need (zero w 10 5 && zero w 5 5) <| .ok (.flagclr (sop w 20) (sop w 15))
  | 9 => need (zero w 10 5 && zero w 5 5) <| .ok (.ctrrd (sop w 20) (sop w 15))
  | _ => .error .functionValue

/-- The instruction a word stands for, or why it stands for none (R127, R128). -/
def decode (w : BitVec 32) : Except DecodeError Instr :=
  match (fld w 25 7).toNat with
  | 0x01 => decodeOp01 w
  | 0x02 => decodeOp02 w
  | 0x03 => decodeOp03 w
  | 0x04 => .ok (.lih (sop w 20) (fld w 0 20))
  | 0x05 => .ok (.pchi (sop w 20) (fld w 0 20))
  | 0x06 => decodeOp06 w
  | 0x08 => .ok (.ldb (sop w 20) (sop w 15) (slot w 12) (fld w 0 12))
  | 0x09 => .ok (.ldh (sop w 20) (sop w 15) (slot w 12) (fld w 0 12))
  | 0x0A => .ok (.ldw (sop w 20) (sop w 15) (slot w 12) (fld w 0 12))
  | 0x0B => .ok (.ldd (sop w 20) (sop w 15) (slot w 12) (fld w 0 12))
  | 0x0C => .ok (.ldbu (sop w 20) (sop w 15) (slot w 12) (fld w 0 12))
  | 0x0D => .ok (.ldhu (sop w 20) (sop w 15) (slot w 12) (fld w 0 12))
  | 0x0E => .ok (.ldwu (sop w 20) (sop w 15) (slot w 12) (fld w 0 12))
  | 0x10 => .ok (.stb (sop w 10) (sop w 15) (simm w) (slot w 7))
  | 0x11 => .ok (.sth (sop w 10) (sop w 15) (simm w) (slot w 7))
  | 0x12 => .ok (.stw (sop w 10) (sop w 15) (simm w) (slot w 7))
  | 0x13 => .ok (.std (sop w 10) (sop w 15) (simm w) (slot w 7))
  | 0x14 => decodeOp14 w
  | 0x18 => decodeOp18 w
  | 0x19 => .ok (.jal (sop w 20) (fld w 0 20))
  | 0x1A => need (zero w 12 3) <| .ok (.jalr (sop w 20) (sop w 15) (fld w 0 12))
  | 0x1B => decodeOp1B w
  | 0x1C => decodeOp1C w
  | 0x1D => .ok (.setvlx (sop w 20) (sop w 15) (slot w 12) (fld w 0 12))
  | 0x1E => decodeOp1E w
  | 0x1F => decodeOp1F w
  | 0x20 => decodeOp20 w
  | 0x40 => v3 w fun vd va vb => .vadd (dbit w) (slot w 21) vd va vb
  | 0x41 => v3 w fun vd va vb => .vsub (dbit w) (slot w 21) vd va vb
  | 0x42 => v3 w fun vd va vb => .vmul (dbit w) (slot w 21) vd va vb
  | 0x43 => v3 w fun vd va vb => .vfma (dbit w) (slot w 21) vd va vb
  | 0x44 => v3 w fun vd va vb => .vfms (dbit w) (slot w 21) vd va vb
  | 0x45 => v3 w fun vd va vb => .vmin (dbit w) (slot w 21) vd va vb
  | 0x46 => v3 w fun vd va vb => .vmax (dbit w) (slot w 21) vd va vb
  | 0x47 => v3 w fun vd va vb => .vand (dbit w) (slot w 21) vd va vb
  | 0x48 => v3 w fun vd va vb => .vor (dbit w) (slot w 21) vd va vb
  | 0x49 => v3 w fun vd va vb => .vxor (dbit w) (slot w 21) vd va vb
  | 0x4A => v3 w fun vd va vb => .vshl (dbit w) (slot w 21) vd va vb
  | 0x4B => v3 w fun vd va vb => .vshr (dbit w) (slot w 21) vd va vb
  | 0x4C => v3 w fun vd va vb => .vsra (dbit w) (slot w 21) vd va vb
  | 0x4D => v3 w fun vd va vb => .vdiv (dbit w) (slot w 21) vd va vb
  | 0x4E => v3 w fun vd va vb => .vcmpeq (dbit w) (slot w 21) vd va vb
  | 0x4F => v3 w fun vd va vb => .vcmpne (dbit w) (slot w 21) vd va vb
  | 0x50 => v3 w fun vd va vb => .vcmplt (dbit w) (slot w 21) vd va vb
  | 0x51 => v3 w fun vd va vb => .vcmple (dbit w) (slot w 21) vd va vb
  | 0x52 => need (zero w 24 1) <| v3 w fun vd va vb => .vsel (slot w 21) vd va vb
  | 0x53 => v3 w fun vd va vb => .vclamp (dbit w) (slot w 21) vd va vb
  | 0x54 => v3 w fun vd va vb => .vslideup (dbit w) (slot w 21) vd va vb
  | 0x55 => v3 w fun vd va vb => .vslidedn (dbit w) (slot w 21) vd va vb
  | 0x56 => v3 w fun vd va vb => .vperm (dbit w) (slot w 21) vd va vb
  | 0x57 => v3 w fun vd va vb => .vexpand (dbit w) (slot w 21) vd va vb
  | 0x58 => v3 w fun vd va vb => .vcompress (dbit w) (slot w 21) vd va vb
  | 0x59 => decodeOp59 w
  | 0x5A => decodeOp5A w
  | 0x5B => v3 w fun vd va vb => .mand (dbit w) (slot w 21) vd va vb
  | 0x5C => v3 w fun vd va vb => .mor (dbit w) (slot w 21) vd va vb
  | 0x5D => v3 w fun vd va vb => .mxor (dbit w) (slot w 21) vd va vb
  | 0x5E => v3 w fun vd va vb => .mandn (dbit w) (slot w 21) vd va vb
  | 0x5F => decodeOp5F w
  | 0x60 => decodeOp60 w
  | 0x61 => decodeOp61 w
  | 0x62 => decodeOp62 w
  | 0x63 => decodeOp63 w
  | 0x68 => v3 w fun vd va vb => .mma (dbit w) (slot w 21) vd va vb
  | 0x69 => v3 w fun vd va vb => .mmas (dbit w) (slot w 21) vd va vb
  | 0x6A => v3 w fun vd va vb => .mmau (dbit w) (slot w 21) vd va vb
  | 0x6B => v3 w fun vd va vb => .vwmul (dbit w) (slot w 21) vd va vb
  | 0x6C => v3 w fun vd va vb => .vwmac (dbit w) (slot w 21) vd va vb
  | 0x6D => need (zero w 0 7) <| v2 w fun vd va => .vextf (dbit w) (slot w 21) vd va
  | 0x6E => decodeOp6E w
  | 0x6F => decodeOp6F w
  | 0x70 => decodeOp70 w
  | 0x71 => decodeOp71 w
  | 0x72 => decodeOp72 w
  | 0x74 => decodeOp74 w
  | 0x78 | 0x79 | 0x7A | 0x7B => .ok (.nop (fld w 0 27))
  | _ => .error .reservedOpcode

/-- Four bytes as a little-endian word (R2). -/
def wordOfBytes (b0 b1 b2 b3 : Byte) : BitVec 32 := b3 ++ b2 ++ b1 ++ b0

/-- Decode from bytes in memory order: the instruction, and the bytes after it. -/
def decodeBytes : List Byte → Except DecodeError (Instr × List Byte)
  | b0 :: b1 :: b2 :: b3 :: rest =>
    match decode (wordOfBytes b0 b1 b2 b3) with
    | .ok i => .ok (i, rest)
    | .error e => .error e
  | _ => .error .tooShort

/-- The bytes of a word of the opcode table in memory order: bit 0 of the table is the least significant bit of the
first byte (R2, R122). -/
def tableBytes (w : Nat) : List Byte :=
  [BitVec.ofNat 8 w, BitVec.ofNat 8 (w / 256), BitVec.ofNat 8 (w / 65536), BitVec.ofNat 8 (w / 16777216)]

/-- What the decoder reads from an instruction whose bits, as the opcode table numbers them, are w. -/
def decodeTableWord (nbits w : Nat) : Option Instr :=
  match decodeBytes (tableBytes (w % 2 ^ nbits)) with
  | .ok (i, _) => some i
  | .error _ => none

/-! ## The encoder -/

/-- The R format (R123). -/
def rWord (op : BitVec 7) (sd sa sb fx fn : BitVec 5) : BitVec 32 := op ++ sd ++ sa ++ sb ++ fx ++ fn

/-- The I format (R123). -/
def iWord (op : BitVec 7) (sd sa : BitVec 5) (f3 : BitVec 3) (imm : BitVec 12) : BitVec 32 :=
  op ++ sd ++ sa ++ f3 ++ imm

/-- The shift forms of opcode 0x03: the kind in imm[11:10], the amount in imm[5:0] (R127, R133). -/
def shWord (sd sa : BitVec 5) (kind : BitVec 2) (sh : BitVec 6) : BitVec 32 :=
  (0x03#7) ++ sd ++ sa ++ (6#3) ++ kind ++ (0#4) ++ sh

/-- The S format (R123). -/
def sWord (op : BitVec 7) (imm : BitVec 12) (sa sb : BitVec 5) (g : BitVec 3) : BitVec 32 :=
  op ++ imm.extractLsb' 7 5 ++ sa ++ sb ++ g ++ imm.extractLsb' 0 7

/-- The U and J formats (R123). -/
def uWord (op : BitVec 7) (sd : BitVec 5) (imm : BitVec 20) : BitVec 32 := op ++ sd ++ imm

/-- The B format (R123). -/
def bWord (op : BitVec 7) (sa sb : BitVec 5) (cond : BitVec 3) (off : BitVec 12) : BitVec 32 :=
  op ++ sa ++ sb ++ cond ++ off

/-- The AMO format (R123). -/
def amoWord (sd sa sb : BitVec 5) (g : BitVec 3) (fn : BitVec 4) : BitVec 32 :=
  (0x14#7) ++ sd ++ sa ++ sb ++ g ++ fn ++ (0#3)

/-- The V and VU formats; in VU the last field is fn7 (R123). -/
def vWord (op : BitVec 7) (d : BitVec 1) (g : BitVec 3) (vd va vb : BitVec 7) : BitVec 32 :=
  op ++ d ++ g ++ vd ++ va ++ vb

/-- The VM format (R123). -/
def vmWord (op : BitVec 7) (d : BitVec 1) (g : BitVec 3) (vd : BitVec 7) (sa sb : BitVec 5) (fn : BitVec 4) :
    BitVec 32 := op ++ d ++ g ++ vd ++ sa ++ sb ++ fn

/-- The VMX format (R123). -/
def vmxWord (op : BitVec 7) (d : BitVec 1) (g : BitVec 3) (vd : BitVec 7) (sa : BitVec 5) (vi : BitVec 7)
    (fn : BitVec 2) : BitVec 32 := op ++ d ++ g ++ vd ++ sa ++ vi ++ fn

/-- The no-op word: opcodes 0x78 to 0x7B, every other bit free (R128). -/
def nopWord (bits : BitVec 27) : BitVec 32 := (30#5) ++ bits

/-- A slot number in three bits. -/
def slotBits (g : Fin 8) : BitVec 3 := BitVec.ofFin g

/-- A slot or forme number in fx[2:0]. -/
def fx3 (g : Fin 8) : BitVec 5 := (0#2) ++ slotBits g

/-- A copy-register number in fx[3:0]. -/
def fx4 (n : BitVec 4) : BitVec 5 := (0#1) ++ n

/-- The D bit. -/
def dBits (dt : Bool) : BitVec 1 := BitVec.ofBool dt

/-- The word of an instruction; none for the steps of other agents, which have no encoding. -/
def encodeWord : Instr → Option (BitVec 32)
| .add sd sa sb => some (rWord 0x01 sd.bits sa.bits sb.bits 0 0)
  | .sub sd sa sb => some (rWord 0x01 sd.bits sa.bits sb.bits 0 1)
  | .and sd sa sb => some (rWord 0x01 sd.bits sa.bits sb.bits 0 2)
  | .or sd sa sb => some (rWord 0x01 sd.bits sa.bits sb.bits 0 3)
  | .xor sd sa sb => some (rWord 0x01 sd.bits sa.bits sb.bits 0 4)
  | .sll sd sa sb => some (rWord 0x01 sd.bits sa.bits sb.bits 0 5)
  | .srl sd sa sb => some (rWord 0x01 sd.bits sa.bits sb.bits 0 6)
  | .sra sd sa sb => some (rWord 0x01 sd.bits sa.bits sb.bits 0 7)
  | .slt sd sa sb => some (rWord 0x01 sd.bits sa.bits sb.bits 0 8)
  | .sltu sd sa sb => some (rWord 0x01 sd.bits sa.bits sb.bits 0 9)
  | .min sd sa sb => some (rWord 0x01 sd.bits sa.bits sb.bits 0 10)
  | .max sd sa sb => some (rWord 0x01 sd.bits sa.bits sb.bits 0 11)
  | .minu sd sa sb => some (rWord 0x01 sd.bits sa.bits sb.bits 0 12)
  | .maxu sd sa sb => some (rWord 0x01 sd.bits sa.bits sb.bits 0 13)
  | .clz sd sa => some (rWord 0x01 sd.bits sa.bits 0 0 14)
  | .ctz sd sa => some (rWord 0x01 sd.bits sa.bits 0 0 15)
  | .popc sd sa => some (rWord 0x01 sd.bits sa.bits 0 0 16)
  | .mul sd sa sb => some (rWord 0x02 sd.bits sa.bits sb.bits 0 0)
  | .mulh sd sa sb => some (rWord 0x02 sd.bits sa.bits sb.bits 0 1)
  | .mulhu sd sa sb => some (rWord 0x02 sd.bits sa.bits sb.bits 0 2)
  | .div sd sa sb => some (rWord 0x02 sd.bits sa.bits sb.bits 0 3)
  | .divu sd sa sb => some (rWord 0x02 sd.bits sa.bits sb.bits 0 4)
  | .rem sd sa sb => some (rWord 0x02 sd.bits sa.bits sb.bits 0 5)
  | .remu sd sa sb => some (rWord 0x02 sd.bits sa.bits sb.bits 0 6)
  | .addi sd sa imm => some (iWord 0x03 sd.bits sa.bits 0 imm)
  | .andi sd sa imm => some (iWord 0x03 sd.bits sa.bits 1 imm)
  | .ori sd sa imm => some (iWord 0x03 sd.bits sa.bits 2 imm)
  | .xori sd sa imm => some (iWord 0x03 sd.bits sa.bits 3 imm)
  | .slti sd sa imm => some (iWord 0x03 sd.bits sa.bits 4 imm)
  | .sltiu sd sa imm => some (iWord 0x03 sd.bits sa.bits 5 imm)
  | .slli sd sa sh => some (shWord sd.bits sa.bits 0 sh)
  | .srli sd sa sh => some (shWord sd.bits sa.bits 1 sh)
  | .srai sd sa sh => some (shWord sd.bits sa.bits 2 sh)
  | .lih sd imm => some (uWord 0x04 sd.bits imm)
  | .pchi sd imm => some (uWord 0x05 sd.bits imm)
  | .obj sd sa sb => some (rWord 0x06 sd.bits sa.bits sb.bits 0 0)
  | .objh sd sa sb => some (rWord 0x06 sd.bits sa.bits sb.bits 0 1)
  | .objo sd sa => some (rWord 0x06 sd.bits sa.bits 0 0 2)
  | .ldb sd sa g imm => some (iWord 0x08 sd.bits sa.bits (slotBits g) imm)
  | .ldh sd sa g imm => some (iWord 0x09 sd.bits sa.bits (slotBits g) imm)
  | .ldw sd sa g imm => some (iWord 0x0A sd.bits sa.bits (slotBits g) imm)
  | .ldd sd sa g imm => some (iWord 0x0B sd.bits sa.bits (slotBits g) imm)
  | .ldbu sd sa g imm => some (iWord 0x0C sd.bits sa.bits (slotBits g) imm)
  | .ldhu sd sa g imm => some (iWord 0x0D sd.bits sa.bits (slotBits g) imm)
  | .ldwu sd sa g imm => some (iWord 0x0E sd.bits sa.bits (slotBits g) imm)
  | .stb sb sa imm g => some (sWord 0x10 imm sa.bits sb.bits (slotBits g))
  | .sth sb sa imm g => some (sWord 0x11 imm sa.bits sb.bits (slotBits g))
  | .stw sb sa imm g => some (sWord 0x12 imm sa.bits sb.bits (slotBits g))
  | .std sb sa imm g => some (sWord 0x13 imm sa.bits sb.bits (slotBits g))
  | .amoadd sd sa sb g => some (amoWord sd.bits sa.bits sb.bits (slotBits g) 0)
  | .amoswap sd sa sb g => some (amoWord sd.bits sa.bits sb.bits (slotBits g) 1)
  | .amocas sd sa sb g => some (amoWord sd.bits sa.bits sb.bits (slotBits g) 2)
  | .amoand sd sa sb g => some (amoWord sd.bits sa.bits sb.bits (slotBits g) 3)
  | .amoor sd sa sb g => some (amoWord sd.bits sa.bits sb.bits (slotBits g) 4)
  | .amoxor sd sa sb g => some (amoWord sd.bits sa.bits sb.bits (slotBits g) 5)
  | .amomin sd sa sb g => some (amoWord sd.bits sa.bits sb.bits (slotBits g) 6)
  | .amomax sd sa sb g => some (amoWord sd.bits sa.bits sb.bits (slotBits g) 7)
  | .amominu sd sa sb g => some (amoWord sd.bits sa.bits sb.bits (slotBits g) 8)
  | .amomaxu sd sa sb g => some (amoWord sd.bits sa.bits sb.bits (slotBits g) 9)
  | .beq sa sb off => some (bWord 0x18 sa.bits sb.bits 0 off)
  | .bne sa sb off => some (bWord 0x18 sa.bits sb.bits 1 off)
  | .blt sa sb off => some (bWord 0x18 sa.bits sb.bits 4 off)
  | .bge sa sb off => some (bWord 0x18 sa.bits sb.bits 5 off)
  | .bltu sa sb off => some (bWord 0x18 sa.bits sb.bits 6 off)
  | .bgeu sa sb off => some (bWord 0x18 sa.bits sb.bits 7 off)
  | .jal sd off => some (uWord 0x19 sd.bits off)
  | .jalr sd sa imm => some (iWord 0x1A sd.bits sa.bits 0 imm)
  | .stick sa fx => some (rWord 0x1B 0 sa.bits 0 fx 0)
  | .stickend => some (rWord 0x1B 0 0 0 0 1)
  | .loop sa sb fx => some (rWord 0x1B 0 sa.bits sb.bits fx 2)
  | .setvl sd sa g => some (rWord 0x1C sd.bits sa.bits 0 (fx3 g) 0)
  | .setvlw sd sa sb g => some (rWord 0x1C sd.bits sa.bits sb.bits (fx3 g) 1)
  | .setvlx sd sa g imm => some (iWord 0x1D sd.bits sa.bits (slotBits g) imm)
  | .setmode sa g => some (rWord 0x1E 0 sa.bits 0 (fx3 g) 0)
  | .getmode sd g => some (rWord 0x1E sd.bits 0 0 (fx3 g) 1)
  | .setforme sa f => some (rWord 0x1E 0 sa.bits 0 (fx3 f) 2)
  | .settile sa sb => some (rWord 0x1E 0 sa.bits sb.bits 0 3)
  | .gets sd n => some (iWord 0x1F sd.bits 0 0 n)
  | .puts sa n => some (iWord 0x1F 0 sa.bits 1 n)
  | .strip sa sb => some (rWord 0x20 0 sa.bits sb.bits 0 0)
  | .proof sa g => some (rWord 0x20 0 sa.bits 0 (fx3 g) 1)
  | .endHart => some (rWord 0x20 0 0 0 0 2)
  | .vadd dt g vd va vb => some (vWord 0x40 (dBits dt) (slotBits g) vd.bits va.bits vb.bits)
  | .vsub dt g vd va vb => some (vWord 0x41 (dBits dt) (slotBits g) vd.bits va.bits vb.bits)
  | .vmul dt g vd va vb => some (vWord 0x42 (dBits dt) (slotBits g) vd.bits va.bits vb.bits)
  | .vfma dt g vd va vb => some (vWord 0x43 (dBits dt) (slotBits g) vd.bits va.bits vb.bits)
  | .vfms dt g vd va vb => some (vWord 0x44 (dBits dt) (slotBits g) vd.bits va.bits vb.bits)
  | .vmin dt g vd va vb => some (vWord 0x45 (dBits dt) (slotBits g) vd.bits va.bits vb.bits)
  | .vmax dt g vd va vb => some (vWord 0x46 (dBits dt) (slotBits g) vd.bits va.bits vb.bits)
  | .vand dt g vd va vb => some (vWord 0x47 (dBits dt) (slotBits g) vd.bits va.bits vb.bits)
  | .vor dt g vd va vb => some (vWord 0x48 (dBits dt) (slotBits g) vd.bits va.bits vb.bits)
  | .vxor dt g vd va vb => some (vWord 0x49 (dBits dt) (slotBits g) vd.bits va.bits vb.bits)
  | .vshl dt g vd va vb => some (vWord 0x4A (dBits dt) (slotBits g) vd.bits va.bits vb.bits)
  | .vshr dt g vd va vb => some (vWord 0x4B (dBits dt) (slotBits g) vd.bits va.bits vb.bits)
  | .vsra dt g vd va vb => some (vWord 0x4C (dBits dt) (slotBits g) vd.bits va.bits vb.bits)
  | .vdiv dt g vd va vb => some (vWord 0x4D (dBits dt) (slotBits g) vd.bits va.bits vb.bits)
  | .vcmpeq dt g vd va vb => some (vWord 0x4E (dBits dt) (slotBits g) vd.bits va.bits vb.bits)
  | .vcmpne dt g vd va vb => some (vWord 0x4F (dBits dt) (slotBits g) vd.bits va.bits vb.bits)
  | .vcmplt dt g vd va vb => some (vWord 0x50 (dBits dt) (slotBits g) vd.bits va.bits vb.bits)
  | .vcmple dt g vd va vb => some (vWord 0x51 (dBits dt) (slotBits g) vd.bits va.bits vb.bits)
  | .vsel g vd va vb => some (vWord 0x52 0 (slotBits g) vd.bits va.bits vb.bits)
  | .vclamp dt g vd va vb => some (vWord 0x53 (dBits dt) (slotBits g) vd.bits va.bits vb.bits)
  | .vslideup dt g vd va vb => some (vWord 0x54 (dBits dt) (slotBits g) vd.bits va.bits vb.bits)
  | .vslidedn dt g vd va vb => some (vWord 0x55 (dBits dt) (slotBits g) vd.bits va.bits vb.bits)
  | .vperm dt g vd va vb => some (vWord 0x56 (dBits dt) (slotBits g) vd.bits va.bits vb.bits)
  | .vexpand dt g vd va vb => some (vWord 0x57 (dBits dt) (slotBits g) vd.bits va.bits vb.bits)
  | .vcompress dt g vd va vb => some (vWord 0x58 (dBits dt) (slotBits g) vd.bits va.bits vb.bits)
  | .vabs dt g vd va => some (vWord 0x59 (dBits dt) (slotBits g) vd.bits va.bits 0)
  | .vneg dt g vd va => some (vWord 0x59 (dBits dt) (slotBits g) vd.bits va.bits 1)
  | .vnot dt g vd va => some (vWord 0x59 (dBits dt) (slotBits g) vd.bits va.bits 2)
  | .vsqrt dt g vd va => some (vWord 0x59 (dBits dt) (slotBits g) vd.bits va.bits 3)
  | .vrcp dt g vd va => some (vWord 0x59 (dBits dt) (slotBits g) vd.bits va.bits 4)
  | .vrsq dt g vd va => some (vWord 0x59 (dBits dt) (slotBits g) vd.bits va.bits 5)
  | .vexp2 dt g vd va => some (vWord 0x59 (dBits dt) (slotBits g) vd.bits va.bits 6)
  | .vlog2 dt g vd va => some (vWord 0x59 (dBits dt) (slotBits g) vd.bits va.bits 7)
  | .vcvt dt g vd va => some (vWord 0x59 (dBits dt) (slotBits g) vd.bits va.bits 8)
  | .viota dt g vd va => some (vWord 0x59 (dBits dt) (slotBits g) vd.bits va.bits 9)
  | .vconflict dt g vd va => some (vWord 0x59 (dBits dt) (slotBits g) vd.bits va.bits 10)
  | .vmv dt g vd va => some (vWord 0x59 (dBits dt) (slotBits g) vd.bits va.bits 11)
  | .vbcast dt g vd va => some (vWord 0x59 (dBits dt) (slotBits g) vd.bits va.bits 12)
  | .vextract g vd va => some (vWord 0x59 0 (slotBits g) vd.bits va.bits 13)
  | .vredsum dt g vd va => some (vWord 0x5A (dBits dt) (slotBits g) vd.bits va.bits 0)
  | .vredmax dt g vd va => some (vWord 0x5A (dBits dt) (slotBits g) vd.bits va.bits 1)
  | .vredmin dt g vd va => some (vWord 0x5A (dBits dt) (slotBits g) vd.bits va.bits 2)
  | .mand dt g vd va vb => some (vWord 0x5B (dBits dt) (slotBits g) vd.bits va.bits vb.bits)
  | .mor dt g vd va vb => some (vWord 0x5C (dBits dt) (slotBits g) vd.bits va.bits vb.bits)
  | .mxor dt g vd va vb => some (vWord 0x5D (dBits dt) (slotBits g) vd.bits va.bits vb.bits)
  | .mandn dt g vd va vb => some (vWord 0x5E (dBits dt) (slotBits g) vd.bits va.bits vb.bits)
  | .mpop dt g vd va => some (vWord 0x5F (dBits dt) (slotBits g) vd.bits va.bits 0)
  | .mfirst dt g vd va => some (vWord 0x5F (dBits dt) (slotBits g) vd.bits va.bits 1)
  | .mset dt g vd => some (vWord 0x5F (dBits dt) (slotBits g) vd.bits 0 2)
  | .mclr dt g vd => some (vWord 0x5F (dBits dt) (slotBits g) vd.bits 0 3)
  | .vld dt g vd sa => some (vmWord 0x60 (dBits dt) (slotBits g) vd.bits sa.bits 0 0)
  | .vlds dt g vd sa sb => some (vmWord 0x60 (dBits dt) (slotBits g) vd.bits sa.bits sb.bits 1)
  | .vldt dt g vd sa => some (vmWord 0x60 (dBits dt) (slotBits g) vd.bits sa.bits 0 2)
  | .vldb g vd sa => some (vmWord 0x60 0 (slotBits g) vd.bits sa.bits 0 3)
  | .vldpk dt g vd sa sb => some (vmWord 0x60 (dBits dt) (slotBits g) vd.bits sa.bits sb.bits 4)
  | .vst dt g vd sa => some (vmWord 0x60 (dBits dt) (slotBits g) vd.bits sa.bits 0 8)
  | .vstu dt g vd sa => some (vmWord 0x60 (dBits dt) (slotBits g) vd.bits sa.bits 0 9)
  | .vsts dt g vd sa sb => some (vmWord 0x60 (dBits dt) (slotBits g) vd.bits sa.bits sb.bits 10)
  | .vstt dt g vd sa => some (vmWord 0x60 (dBits dt) (slotBits g) vd.bits sa.bits 0 11)
  | .vstpk dt g vd sa sb => some (vmWord 0x60 (dBits dt) (slotBits g) vd.bits sa.bits sb.bits 12)
  | .vldx dt g vd sa vi => some (vmxWord 0x61 (dBits dt) (slotBits g) vd.bits sa.bits vi.bits 0)
  | .vstx dt g vd sa vi => some (vmxWord 0x62 (dBits dt) (slotBits g) vd.bits sa.bits vi.bits 0)
  | .vamoadd dt g vd sa vi => some (vmxWord 0x63 (dBits dt) (slotBits g) vd.bits sa.bits vi.bits 0)
  | .vamomax dt g vd sa vi => some (vmxWord 0x63 (dBits dt) (slotBits g) vd.bits sa.bits vi.bits 1)
  | .vamomin dt g vd sa vi => some (vmxWord 0x63 (dBits dt) (slotBits g) vd.bits sa.bits vi.bits 2)
  | .mma dt g vd va vb => some (vWord 0x68 (dBits dt) (slotBits g) vd.bits va.bits vb.bits)
  | .mmas dt g vd va vb => some (vWord 0x69 (dBits dt) (slotBits g) vd.bits va.bits vb.bits)
  | .mmau dt g vd va vb => some (vWord 0x6A (dBits dt) (slotBits g) vd.bits va.bits vb.bits)
  | .vwmul dt g vd va vb => some (vWord 0x6B (dBits dt) (slotBits g) vd.bits va.bits vb.bits)
  | .vwmac dt g vd va vb => some (vWord 0x6C (dBits dt) (slotBits g) vd.bits va.bits vb.bits)
  | .vextf dt g vd va => some (vWord 0x6D (dBits dt) (slotBits g) vd.bits va.bits 0)
  | .vpack dt g vd va => some (vWord 0x6E (dBits dt) (slotBits g) vd.bits va.bits 0)
  | .vunpack dt g vd va => some (vWord 0x6E (dBits dt) (slotBits g) vd.bits va.bits 1)
  | .mzero g vd => some (vWord 0x6E 0 (slotBits g) vd.bits 0 2)
  | .msums dt g vd va => some (vWord 0x6E (dBits dt) (slotBits g) vd.bits va.bits 3)
  | .drain g vd va => some (vWord 0x6F 0 (slotBits g) vd.bits va.bits 0)
  | .draina g vd va => some (vWord 0x6F 0 (slotBits g) vd.bits va.bits 1)
  | .drainq g vd va => some (vWord 0x6F 0 (slotBits g) vd.bits va.bits 2)
  | .drainrc g vd va => some (vWord 0x6F 0 (slotBits g) vd.bits va.bits 3)
  | .cset sa n => some (rWord 0x70 0 sa.bits 0 (fx4 n) 0)
  | .cget sd n => some (rWord 0x70 sd.bits 0 0 (fx4 n) 1)
  | .claunch sd se g => some (rWord 0x70 sd.bits 0 se.bits (fx3 g) 2)
  | .ccancel sd sa => some (rWord 0x70 sd.bits sa.bits 0 0 3)
  | .coll sd se g => some (rWord 0x70 sd.bits 0 se.bits (fx3 g) 4)
  | .gdecl sa sb => some (rWord 0x71 0 sa.bits sb.bits 0 0)
  | .gstate sd sa sb => some (rWord 0x71 sd.bits sa.bits sb.bits 0 1)
  | .gfree sa => some (rWord 0x71 0 sa.bits 0 0 2)
  | .syncinit sa sb => some (rWord 0x71 0 sa.bits sb.bits 0 3)
  | .syncwait sd sa sb g => some (rWord 0x71 sd.bits sa.bits sb.bits (fx3 g) 4)
  | .gbar sa g => some (rWord 0x72 0 sa.bits 0 (fx3 g) 0)
  | .garrive sd sa g => some (rWord 0x72 sd.bits sa.bits 0 (fx3 g) 1)
  | .gwait sa sb g => some (rWord 0x72 0 sa.bits sb.bits (fx3 g) 2)
  | .trap n => some (rWord 0x74 0 0 0 n 0)
  | .eret => some (rWord 0x74 0 0 0 0 1)
  | .brk => some (rWord 0x74 0 0 0 0 2)
  | .swapctx => some (rWord 0x74 0 0 0 0 3)
  | .spillwait => some (rWord 0x74 0 0 0 0 4)
  | .icinv sd sa sb g => some (rWord 0x74 sd.bits sa.bits sb.bits (fx3 g) 5)
  | .orcinv sd sa g => some (rWord 0x74 sd.bits sa.bits 0 (fx3 g) 6)
  | .objmove sd sa sb fx => some (rWord 0x74 sd.bits sa.bits sb.bits fx 7)
  | .flagclr sd sa => some (rWord 0x74 sd.bits sa.bits 0 0 8)
  | .ctrrd sd sa => some (rWord 0x74 sd.bits sa.bits 0 0 9)
  | .nop bits => some (nopWord bits)
  | .asyncTrap => none
  | .qdeadlock => none
  | .memoryOpPerform _ _ => none
  | .watermarkReread _ => none
  | .orcFill _ _ _ => none
  | .mapEntryFill _ _ _ _ => none
  | .copyBlock _ _ => none
  | .copyEnd _ => none
  | .moveDrainEnd _ => none
  | .moveCopyEnd _ => none
  | .moveAbort _ _ _ => none
  | .collReady _ _ _ _ => none
  | .collAbort _ _ _ => none
  | .collDecision _ _ => none
  | .icinvDone _ => none
  | .orcinvDone _ => none
  | .bankExchange _ => none
  | .spillDone _ => none
  | .bankFillDone _ _ => none
  | .registerWrite _ _ _ => none
  | .mcbRetirePch _ _ => none
  | .topcut _ => none
  | .migrationStart _ => none
  | .migrateUnit _ => none
  | .migrationEnd _ => none
  | .mcbNrpWrite _ _ => none
  | .mcbSeedWrite _ _ => none
  | .activate _ _ _ => none
  | .activationAlert _ _ => none
  | .backoffWindowEnd _ _ => none
  | .patrolScrub _ _ _ => none
  | .cxwWrite _ _ => none
  | .cxlLinkDown _ => none
  | .cxlPortTrained _ _ _ _ => none
  | .retrain _ => none
  | .iuDoorbell _ => none
  | .queueSlotGrant _ => none
  | .timesliceEnd => none
  | .recordIntake _ => none
  | .decrement _ _ _ => none
  | .conditionalRead _ _ => none
  | .kernelPlacement _ _ => none
  | .preemptCores _ _ => none
  | .nodeComplete _ _ => none
  | .hartMigration _ => none
  | .coreRetire _ => none
  | .iuKill _ => none
  | .rtReqGo _ => none
  | .installObject => none
  | .removeObject => none
  | .hostWrite _ _ => none
  | .hostRead _ _ => none
  | .msixVector0Timer => none
  | .flitReceive _ _ => none
  | .laneRepair _ => none
  | .stolierRetrainEnd _ _ _ => none
  | .force _ _ => none
  | .stlctlEn _ _ => none
  | .fatalError _ _ _ => none
  | .dumpComplete => none
  | .levelWindowBoundary _ => none
  | .powerEval _ _ => none
  | .thermalEval _ => none
  | .tempRefresh _ _ => none
  | .vsramEval _ _ _ => none
  | .sramScrub _ _ _ => none
  | .gateHoldEnd _ => none
  | .wakeRequest _ => none
  | .wakeRampStart => none
  | .wakeDone => none
  | .gateenWrite _ _ => none
  | .packageReset => none
  | .illegalInstruction _ => none
  | .fetchFault => none
  | .stolierLinkLoss _ => none

/-- The encoding of an instruction as its words (R122: one word of 32 bits); no words for the steps of other
agents. -/
def encode (i : Instr) : List (BitVec 32) := (encodeWord i).toList

end Sys2Proof
end

