-- ==== Sys2Proof/Machine/Formes.lean ====
section
/-! DEFINITION. Formes: their fields, the plans they describe and the values that SETFORME accepts (R118 to R121). -/

namespace Sys2Proof.Machine

/-- The field width w. -/
def fW (f : Word) : Nat := field f 0 6
/-- The leading width G. -/
def fG (f : Word) : Nat := field f 6 5
/-- M. -/
def fM (f : Word) : Nat := field f 11 3 + 1
/-- N. -/
def fN (f : Word) : Nat := field f 14 3 + 1
/-- K. -/
def fK (f : Word) : Nat := field f 17 4 + 1
/-- KIND: convolution when set, bundle when clear. -/
def fConv (f : Word) : Bool := bitAt f 21
/-- SFMT. -/
def fSfmt (f : Word) : Nat := field f 22 4
/-- SIGNED. -/
def fSigned (f : Word) : Bool := bitAt f 26
/-- The extraction window XW. -/
def fXw (f : Word) : Nat := field f 27 6
/-- The extraction stride XS. -/
def fXs (f : Word) : Nat := field f 33 6

/-- The number of fields of operand A (R120). -/
def fFieldsA (f : Word) : Nat := if fConv f then fM f + fK f - 1 else fK f + (2 * fK f - 1) * fN f * (fM f - 1)
/-- The number of fields of operand B (R120). -/
def fFieldsB (f : Word) : Nat := if fConv f then fK f else fK f + (2 * fK f - 1) * (fN f - 1)
/-- The number of fields of the product (R120). -/
def fFieldsP (f : Word) : Nat := if fConv f then fM f + 2 * fK f - 2 else (2 * fK f - 1) * fM f * fN f

/-- SFMT is assigned and SIGNED suits it (R119). -/
def sfmtOk (f : Word) : Bool := decide (fSfmt f ≤ 8) && (fSigned f || fSfmt f == 1 || fSfmt f == 3 || fSfmt f == 5)

/-- The values that SETFORME accepts (R121). -/
def formeOk (f : Word) : Bool :=
  field f 39 25 == 0 && decide (4 ≤ fW f) && decide (2 ≤ fG f) && decide (fG f ≤ Nat.min (fW f - 2) 31) && sfmtOk f &&
    decide (1 ≤ fXw f) && decide (1 ≤ fXs f) && decide (fXs f ≤ fXw f) && !(fConv f && fN f != 1) &&
    decide (fW f * fFieldsA f ≤ 256) && decide (fW f * fFieldsB f ≤ 256) && decide (fW f * fFieldsP f ≤ 512)

/-- The null forme (R121). -/
def formeNull (f : Word) : Bool := f == 0

end Sys2Proof.Machine
end

