-- ==== Sys2Proof/Machine/Tiles.lean ====
section
/-! DEFINITION. The registers that the instructions of the vector and access streams name: groups (R108, R116, R117), runs, the
tile of a slot with its z registers and its side block (R218, R221), and what an instruction may read or write. -/

namespace Sys2Proof.Machine

/-- Names of registers: 1 v, 2 w, 3 z, 4 m. -/
abbrev RegName := Nat × Nat

/-- The registers that a v, w or z operand of a factor names (R116). -/
def regsOf (o : VOp) (f : Nat) : List RegName :=
  match o with
  | .v n => (List.range f).map fun i => (1, n.val + i)
  | .w n => [(2, n.val)]
  | .z n => [(3, n.val)]
  | _ => []

/-- The element width in bits of a slot, for register elements. -/
def slotEbits (slot : Word) : Nat := (etypeBits (slotEtype slot)).getD 32

/-- The predicate registers that an instruction of factor F and width b uses (R117). -/
def predCount (f b : Nat) : Nat := Nat.max 1 (ceilDiv (16 * f) b)

/-- The elements of one element group (R108). -/
def groupElems (lanes b : Nat) : Nat := lanes * 512 / b

/-- The registers of an index group (R160, R195). -/
def indexRegs (f b : Nat) : Nat := Nat.max 1 (f * 32 / b)

/-- The registers of a run. -/
def runRegs (reg count : Nat) : List RegName := (List.range count).map fun i => (1, reg + i)

/-! ## Tiles -/

/-- The ratio of a slot: 1 dense, 2 under 2:4, 4 under 1:4 (R218). -/
def slotRatio (slot : Word) : Nat := if slotSparse slot = 1 then 2 else if slotSparse slot = 2 then 4 else 1

/-- SFMT is an integer format. -/
def sfmtInt (f : Word) : Bool := decide (fSfmt f ≤ 5)

/-- The geometry of a tile, of its slot and VL (R218). -/
structure Tile where
  f : Word
  ratio : Nat
  lanes : Nat
  /-- A′ words per lane, tile rows, tile columns. -/
  rw : Nat
  tr : Nat
  tc : Nat
  /-- The first register of the side block, 0 for none, and the registers of a side group. -/
  base : Nat
  sr : Nat
  deriving DecidableEq, Repr

/-- The tile of an environment (R218, R221). -/
def tileOf (lanes : Nat) (slot forme : Word) (vl : Nat) : Tile :=
  let ratio := slotRatio slot
  let rw := slotF slot * 16 / ratio
  let tr := rw * fM forme
  let tc := vl * fN forme
  { f := forme, ratio := ratio, lanes := lanes, rw := rw, tr := tr, tc := tc, base := 8 * slotUnfold slot,
    sr := ceilDiv ((tr + tc) * 8) 512 }

/-- The tile elements per lane. -/
def Tile.count (t : Tile) : Nat := t.tr * t.tc

/-- The z registers of a tile. -/
def Tile.zregs (t : Tile) (zd : Nat) : List RegName := if t.count ≤ 1024 then [(3, zd)] else [(3, zd), (3, zd + 1)]

/-- The registers of side group k. -/
def Tile.sideRegs (t : Tile) (k : Nat) : List RegName := runRegs (t.base + k * t.sr) t.sr

/-- The registers that the side groups of a drain occupy. -/
def drainSideRegs (t : Tile) (ks : List Nat) : List RegName := if t.base = 0 then [] else ks.flatMap t.sideRegs

/-- The registers of the side block that VLDPK may write. -/
def packSideRegs (t : Tile) (forme : Word) : List RegName := if sfmtInt forme then [] else (List.range 4).flatMap t.sideRegs

/-! ## What an instruction names -/

/-- The registers of an operand of a group of n: v, w or z registers, or the m registers that the slot's factor and width
take (R116, R117, R182). -/
def groupRegs (o : VOp) (n slotPreds : Nat) : List RegName :=
  match o with
  | .m k => (List.range slotPreds).map fun i => (4, k.val + i)
  | o => regsOf o n

/-- The registers of a run that starts at an operand and may go on to v63. -/
def openRun : VOp → List RegName
  | .v n => runRegs n.val (64 - n.val)
  | o => regsOf o 1

/-- The number of a z operand; 0 for any other. -/
def zIndex : VOp → Nat
  | .z n => n.val
  | _ => 0

/-- The registers that the fields of an instruction and its description name, as dispatch has captured its slot and forme; the
predicate's apart. -/
def fieldRegs (lanes : Nat) (i : Instr) (env : Env) : List RegName :=
  let f := slotF env.slot
  let b := slotEbits env.slot
  let p := predCount f b
  let fi := indexRegs f b
  let t := tileOf lanes env.slot env.forme env.vl
  let g (o : VOp) : List RegName := groupRegs o f p
  match i with
  | .vcvt _ _ vd va => g vd ++ groupRegs va (Nat.max 1 (f * slotEbits env.slot2 / b)) p
  | .vperm _ _ vd va vb => g vd ++ g va ++ groupRegs vb fi p
  | .vldx _ _ vd _ vi => g vd ++ groupRegs vi fi p
  | .vstx _ _ vd _ vi => g vd ++ groupRegs vi fi p
  | .vamoadd _ _ vd _ vi => g vd ++ groupRegs vi fi p
  | .vamomax _ _ vd _ vi => g vd ++ groupRegs vi fi p
  | .vamomin _ _ vd _ vi => g vd ++ groupRegs vi fi p
  | .vldpk _ _ vd _ _ => g vd ++ packSideRegs t env.forme
  | .vwmul _ _ vd va vb => groupRegs vd (2 * f) p ++ g va ++ g vb
  | .vwmac _ _ vd va vb => groupRegs vd (2 * f) p ++ g va ++ g vb
  | .vextf _ _ vd va => openRun vd ++ groupRegs va (2 * f) p
  | .vpack _ _ vd va => g vd ++ openRun va
  | .vunpack _ _ vd va => openRun vd ++ g va
  | .mma _ _ vd va vb => t.zregs (zIndex vd) ++ g va ++ groupRegs vb 1 p
  | .mmas _ _ vd va vb => t.zregs (zIndex vd) ++ g va ++ groupRegs vb 1 p ++ t.sideRegs (zIndex vd)
  | .mmau _ _ vd _ vb => t.zregs (zIndex vd) ++ groupRegs vb 1 p ++ [(2, 7)]
  | .msums _ _ vd va => g va ++ t.sideRegs (zIndex vd)
  | .drain _ vd va => openRun vd ++ t.zregs (zIndex va) ++ t.sideRegs (zIndex va)
  | .draina _ vd _ => openRun vd ++ (List.range 4).map (fun k => (3, k)) ++ (List.range 4).flatMap t.sideRegs
  | .drainq _ vd va => openRun vd ++ openRun va ++ t.zregs (zIndex va) ++ t.sideRegs (zIndex va)
  | .drainrc _ vd va => openRun vd ++ openRun va ++ t.zregs (zIndex va) ++ t.sideRegs (zIndex va)
  | i =>
    match encodeWord i with
    | none => []
    | some w =>
      let field (lo : Nat) : List RegName := ((VOp.ofBits (fld w lo 7)).map g).getD []
      if 0x60 ≤ (fld w 25 7).toNat ∧ (fld w 25 7).toNat ≤ 0x63 then field 14 else field 14 ++ field 7 ++ field 0

/-- Every register that an instruction may read or write: those it names, and the predicate's (R117, R217). -/
def footprint (lanes : Nat) (i : Instr) (env : Env) : List RegName :=
  let pred := if slotPreden env.slot then
      (List.range (predCount (slotF env.slot) (slotEbits env.slot))).map fun k => (4, slotPredreg env.slot + k)
    else []
  pred ++ fieldRegs lanes i env

/-- The registers that a vector load or an MMAU that has issued will write. -/
def vectorDst (lanes : Nat) (f : Flight) : List RegName :=
  let g (o : VOp) : List RegName := regsOf o (slotF f.env.slot)
  let t := tileOf lanes f.env.slot f.env.forme f.env.vl
  match f.action with
  | .vload _ _ =>
    match f.instr with
    | .vld _ _ vd _ => g vd
    | .vlds _ _ vd _ _ => g vd
    | .vldt _ _ vd _ => g vd
    | .vldb _ vd _ => regsOf vd 1
    | .vldpk _ _ vd _ _ => g vd ++ packSideRegs t f.env.forme
    | .vldx _ _ vd _ _ => g vd
    | _ => []
  | .mmau _ =>
    match f.instr with
    | .mmau _ _ vd _ _ => t.zregs (zIndex vd)
    | _ => []
  | _ => []

/-- The element groups of a v group that hold elements from lo up to hi, as landed bits by register (R91, R108). -/
def groupBits (o : VOp) (lanes f b lo hi : Nat) : List (Nat × BitVec 8) :=
  let k := groupElems lanes b
  let bits (i : Nat) : BitVec 8 := (List.range 8).foldl (fun m t =>
    if lo < (8 * i + t + 1) * k ∧ (8 * i + t) * k < hi ∧ lo < hi then m ||| (1#8 <<< t) else m) 0
  match o with
  | .v n => (List.range f).map fun i => (n.val + i, bits i)
  | _ => []

/-- All the landed bits of registers. -/
def wholeBits (regs : List RegName) : List (Nat × BitVec 8) :=
  (regs.filter fun x => x.1 == 1).map fun x => (x.2, 0xFF)

end Sys2Proof.Machine
end

