-- ==== Sys2Proof/Machine/Operands.lean ====
section
/-! DEFINITION. Operand forms: scalar fields and queues (R110, R111, R130), vector registers, groups and predicates (R108,
R116, R117), and the dispatch of instructions to the vector and access streams (R110, R115, R154). -/

namespace Sys2Proof.Machine

/-! ## Scalar fields (R130) -/

/-- A scalar-stream instruction may name the field as a source (R110). -/
def srcOk : SOp → Bool
  | .s _ => true
  | .q k => k.val == 4 || k.val == 5 || k.val == 7

/-- A scalar-stream instruction may name the field as a destination (R110). -/
def dstOk : SOp → Bool
  | .s _ => true
  | .q k => k.val ≤ 3 || k.val == 6

/-- The fields of a scalar-stream instruction name what they may (R110, R130). -/
def legal (srcs dsts : List SOp) : Except Stop PUnit := ensure (srcs.all srcOk && dsts.all dstOk) cIllegal

/-- Pop the head entry of a queue, or wait while it is empty; an instruction that waits at retirement holds what it has popped
(R111). -/
def popQ (k : Fin 8) (s : State) : Except Stop (Word × State) :=
  match s.me.popped.find? fun e => e.1 == k.val with
  | some e => .ok (e.2, modMe s fun h => { h with popped := h.popped.erase e })
  | none =>
    match s.me.r.q[k] with
    | [] => waitFor (.queueEmpty k)
    | v :: rest => .ok (v, modRegs s fun r => { r with q := r.q.set k rest })

/-- Queue k has room for the entry of an instruction that retires, or the instruction waits with its sources popped (R111). -/
def roomQ (k : Fin 8) (s : State) : Except Stop PUnit :=
  if queueDepth k.val ≤ s.me.r.q[k].length then .error (.full k s.me.r.q) else .ok ⟨⟩

/-- Push an entry, or wait while the queue is full (R111). -/
def pushQ (k : Fin 8) (v : Word) (s : State) : Except Stop State := do
  useQ s k
  roomQ k s
  return modRegs s fun r => { r with q := r.q.set k (r.q[k] ++ [v]) }

/-- Read a source field: s0 reads 0, a queue pops (R130). -/
def readSrc (o : SOp) (s : State) : Except Stop (Word × State) :=
  match o with
  | .s n => do
    useX s n
    return (if n.val = 0 then 0 else s.me.r.x[n], s)
  | .q k => popQ k s

/-- Write a destination field: s0 discards, a queue pushes (R130). -/
def writeDst (o : SOp) (v : Word) (s : State) : Except Stop State :=
  match o with
  | .s n => do
    useX s n
    return modRegs s fun r => setX r n.val v
  | .q k => pushQ k v s

/-- The destination of an instruction that may wait has no operation that is still to write it, tested at issue (R87, R282). -/
def dstReady (o : SOp) (s : State) : Except Stop PUnit :=
  match o with
  | .s n => useX s n
  | .q k => useQ s k

/-- An instruction of one source and one destination (R130). -/
def scalar1 (sd sa : SOp) (f : Word → Word) (s : State) : Out :=
  finish s do
    legal [sa] [sd]
    let (a, s1) ← readSrc sa s
    let s2 ← writeDst sd (f a) s1
    return retire s2

/-- An instruction of two sources and one destination (R130, R132). -/
def scalar2 (sd sa sb : SOp) (f : Word → Word → Word) (s : State) : Out :=
  finish s do
    legal [sa, sb] [sd]
    let (a, s1) ← readSrc sa s
    let (b, s2) ← readSrc sb s1
    let s3 ← writeDst sd (f a b) s2
    return retire s3

/-! ## Vector registers (R108) -/

/-- The bits of one v or w register of a hart of L lanes. -/
def regBits (lanes : Nat) : Nat := 4096 * lanes

/-- The value of a v register. -/
def getV (r : Regs) (i : Nat) : VReg := vget r.v i 0

/-- The bits [off + n - 1 : off] of a wide register. -/
def wideGet {w : Nat} (x : BitVec w) (off n : Nat) : Nat := bitsOf x.toNat off n

/-- A wide register with n bits replaced. -/
def widePut {w : Nat} (x : BitVec w) (off n v : Nat) : BitVec w := BitVec.ofNat w (putBits x.toNat off n v)

/-- Element e, of b bits, of the register or register group that a v or w operand names (R108). -/
def getElem (r : Regs) (o : VOp) (lanes b e : Nat) : Nat :=
  let pos := e * b
  match o with
  | .v n => wideGet (getV r (n.val + pos / regBits lanes)) (pos % regBits lanes) b
  | .w n => wideGet (vget r.w n.val 0) (pos % regBits lanes) b
  | _ => 0

/-- Write element e, of b bits; code 127 discards (R108, R109). -/
def setElem (r : Regs) (o : VOp) (lanes b e v : Nat) : Regs :=
  let pos := e * b
  match o with
  | .v n =>
    let i := n.val + pos / regBits lanes
    { r with v := vset r.v i (widePut (getV r i) (pos % regBits lanes) b v) }
  | .w n => { r with w := vset r.w n.val (widePut (vget r.w n.val 0) (pos % regBits lanes) b v) }
  | _ => r

/-- Bit i of the m registers from a number on, laid one after another (R117, R182). -/
def getMask (r : Regs) (m lanes i : Nat) : Bool :=
  ((vget r.m (m + i / (256 * lanes)) 0).toNat).testBit (i % (256 * lanes))

/-- Write bit i of the m registers from a number on (R182). -/
def setMask (r : Regs) (m lanes i : Nat) (v : Bool) : Regs :=
  let k := m + i / (256 * lanes)
  { r with m := vset r.m k (widePut (vget r.m k 0) (i % (256 * lanes)) 1 (bit v)) }

/-- VLMAX of R116, for an element width in bits. -/
def vlmaxBits (lanes f b : Nat) : Nat := f * lanes * 4096 / b

/-- VLMAX of a slot (R116, R147). -/
def vlmax (lanes : Nat) (slot : Word) : Nat := vlmaxBits lanes (slotF slot) (slotEbits slot)

/-- The predicate registers of a slot are aligned and at most eight (R117). -/
def predOk (slot : Word) (f b : Nat) : Bool :=
  !slotPreden slot || (decide (predCount f b ≤ 8) && slotPredreg slot % predCount f b == 0)

/-- Element e passes the predicate of a slot (R117). -/
def passes (r : Regs) (lanes : Nat) (slot : Word) (e : Nat) : Bool :=
  !slotPreden slot || (getMask r (slotPredreg slot) lanes e != slotPneg slot)

/-- The elements from a start to an end that are active (R117). -/
def activeElems (r : Regs) (lanes : Nat) (slot : Word) (lo hi : Nat) : List Nat :=
  ((List.range (hi - lo)).map (lo + ·)).filter (passes r lanes slot)

/-! ## Waits of vector operands -/

/-- The registers an instruction reads or writes are not pending, and the element groups it needs have landed: else it waits,
or takes STRIPSTATE when the operation it waits for itself waits for the PROOF of the open strip (R91, R280, R282). -/
def useParts (s : State) (seq : Nat) (regs : List RegName) (need : List (Nat × BitVec 8)) : Except Stop PUnit :=
  let late := s.me.flights.filter fun f =>
    !f.parked && decide (f.seq < seq) && (vectorDst (lanesOf s.me) f).any regs.contains
  if late.any fun f => (stuck s s.me).contains f.seq then trapOf cStripState
  else if !late.isEmpty then waitFor .pendingReg
  else
    let clear := (need.filter fun x => vget s.me.landed x.1 0xFF &&& x.2 != x.2).map (·.1)
    if clear.isEmpty then .ok ⟨⟩
    else if (ownTransfers s s.me).any fun t => (stuck s s.me).contains t.seq && clear.any t.vregs.contains then
      trapOf cStripState
    else waitFor .landed

/-- `useParts` for an instruction that does not go through the registers one element group at a time: every landed bit (R91). -/
def useRegs (s : State) (seq : Nat) (regs : List RegName) : Except Stop PUnit := useParts s seq regs (wholeBits regs)

/-! ## Dispatch to the vector and access streams -/

/-- A scalar field of a VM or VMX instruction: an s register, captured at dispatch, or q6, which pops as the instruction
starts (R111, R160). -/
def accessSrc (o : SOp) (captured : Word) (s : State) : Except Stop (Word × State) :=
  match o with
  | .s _ => .ok (captured, s)
  | .q k => if k.val = 6 then popQ k s else trapOf cIllegal

/-- The value that dispatch captures for a field. -/
def capture (s : State) : Option SOp → Except Stop Word
  | some (.s n) => do
    useX s n
    return if n.val = 0 then 0 else s.me.r.x[n]
  | _ => .ok 0

/-- What an instruction copies when it is dispatched (R115, R154). -/
def dispatchEnv (s : State) (g : Fin 8) (sa sb : Option SOp) : Except Stop Env := do
  let a ← capture s sa
  let b ← capture s sb
  let r := s.me.r
  let slot := r.g[g]
  return { seq := s.me.nextSeq, slot := slot, slot2 := vget r.g (slotUnfold slot) 0,
           forme := vget r.fm (slotForme slot) 0, vl := r.vl.toNat, vstart := r.vstart.toNat, prog := r.prog.toNat,
           rows := r.rows.toNat, pitch := intOf r.pitch, a := a, b := b, armed := r.armed,
           strong := s.me.strong, pc := r.pc }

/-- The start index of an instruction that has been dispatched is 0 for the next one (R169, R181). -/
def clearStart (tile : Bool) (r : Regs) : Regs := if tile then { r with prog := 0 } else { r with vstart := 0 }

/-- The pc and the stick move past an instruction that has been dispatched. -/
def passBy (tile : Bool) (h : Hart) : Hart :=
  { h with r := clearStart tile { h.r with pc := nextPc h.r.pc, stick := stickNext h.r.stick, armed := false },
           nextSeq := h.nextSeq + 1, wait := none }

/-- What a memory instruction that waits may reach: the whole of the object its captured address names, or anything
(R173). -/
def parkedSpans (env : Env) (mem : Nat) (sa : Option SOp) : List Span :=
  if mem = 0 then []
  else match mem, sa with
  | 3, _ => [{ handle := anyHandle, lo := 0, hi := 1 }]
  | _, some (.s _) => [{ handle := handleOf env.a, lo := 0, hi := 2 ^ 60 }]
  | _, _ => [{ handle := anyHandle, lo := 0, hi := 1 }]

/-- The instruction acts as if STRIPMODE were 0: the atomics and MZERO (R139, R168, R227). -/
def ignoresStrip (i : Instr) : Bool :=
  match i with
  | .vamoadd _ _ _ _ _ => true
  | .vamomax _ _ _ _ _ => true
  | .vamomin _ _ _ _ _ => true
  | .mzero _ _ => true
  | .amoadd _ _ _ _ => true
  | .amoswap _ _ _ _ => true
  | .amocas _ _ _ _ => true
  | .amoand _ _ _ _ => true
  | .amoor _ _ _ _ => true
  | .amoxor _ _ _ _ => true
  | .amomin _ _ _ _ => true
  | .amomax _ _ _ _ => true
  | .amominu _ _ _ _ => true
  | .amomaxu _ _ _ _ => true
  | _ => false

/-- The counts and flags of an instruction under a slot are held to PROOF in an open strip (R314). -/
def heldBy (i : Instr) (slot : Word) : Bool := !ignoresStrip i && slotStrip slot

/-- The slot that a trap of an instruction considers for the loss of a strip (R315). -/
def lossSlot (i : Instr) (slot : Word) : Option Word := if heldBy i slot then some slot else none

/-! ## The window of a core (R297, R298) -/

/-- The entries of the window of a core. -/
def windowEntries : Nat := 256

/-- The reserve of a hart. -/
def windowReserve (nh : Nat) : Nat := Nat.max 1 (windowEntries / (2 * 2 ^ nh))

/-- The fair share of a hart. -/
def windowShare (nh : Nat) : Nat := windowEntries / 2 ^ nh

/-- The entries that the element groups of an instruction take, at most the fair share of its hart, the rest of its groups taking those
that the first give back (R202, R297, log 106). -/
def entriesOf (nh : Nat) (i : Instr) (env : Env) : Nat :=
  let n := match i with
    | .vldt _ _ _ _ => env.rows * env.vl
    | .vstt _ _ _ _ => env.rows * env.vl
    | _ => env.vl
  Nat.min (windowShare nh) (ceilDiv n (groupElems (32 >>> nh) (slotEbits env.slot)))

/-- The entries that a hart holds: those of its instructions that wait to start, and of its vector accesses that have issued and not
performed (R297). -/
def entriesHeld (h : Hart) : Nat := (h.flights.map fun f => entriesOf h.nh f.instr f.env).sum

/-- The shared entries that n more of a hart take, when it holds some already. -/
def sharedTaken (nh held n : Nat) : Nat := n - (windowReserve nh - held)

/-- The hart in focus may dispatch n groups into the window: its reserve has room, or shared entries are free, which a hart leaves to another
that waits for one when it would hold more than its fair share, or when the turn is the other's (R298, log 106). -/
def windowRoom (s : State) (n : Nat) : Bool :=
  let nh := s.me.nh
  let waiting := s.rest.filter fun h => h.core == s.me.core && h.bank == .active && h.live && h.wait == some WaitReason.window
  let others := s.rest.filter fun h => h.core == s.me.core && h.bank == .active && h.live
  let held := entriesHeld s.me
  let shared := (held - windowReserve nh) + (others.map fun h => entriesHeld h - windowReserve nh).sum
  let turn (k : Nat) : Nat := (k + 2 ^ nh - (getCore s s.me.core).served % 2 ^ nh - 1) % 2 ^ nh
  let before (h : Hart) : Bool := decide (turn h.idx < turn s.me.idx) && decide (entriesHeld h < windowShare nh)
  let take := sharedTaken nh held n
  decide (take = 0) || (decide (shared + take ≤ windowEntries / 2) &&
    !(!waiting.isEmpty && decide (windowShare nh < held + n)) && !waiting.any before)

/-- The hart in focus has taken the entries of n groups: one served with a shared entry is the last that was (R298). -/
def serveWindow (s : State) (n : Nat) : State :=
  if sharedTaken s.me.nh (entriesHeld s.me) n = 0 then s
  else modCore s s.me.core fun c => { c with served := s.me.idx }

/-! ## Instructions that wait -/

/-- An instruction that has been dispatched and cannot start yet joins those that wait (R111). -/
def park (i : Instr) (env : Env) (mem : Nat) (sa : Option SOp) (checked tile : Bool) (why : Option WaitReason)
    (s : State) : State :=
  let f : Flight :=
    { seq := env.seq, instr := i, env := env, parked := true, checked := checked, why := why, before := s.me.r,
      stream := slotStream env.slot, pmask := effPmask env.slot env.strong, scope := slotScope env.slot,
      spans := parkedSpans env mem sa, writes := mem == 2, action := .store [], released := false }
  modMe s fun h => { passBy tile h with flights := h.flights ++ [f] }

/-- An instruction of the vector or access stream has retired at once. -/
def retireStream (held tile : Bool) (s : State) : State :=
  settleCounts (modMe s fun h => { passBy tile h with r := countRetired held (passBy tile h).r, pin := none })

/-- A wait in SYNCWAIT goes on when another stream of the hart moves (R253). -/
def syncOnly : Option WaitReason → Option WaitReason
  | some (.sync g) => some (.sync g)
  | _ => none

/-- What is kept of operations that performed early: those that an earlier instruction may still discard (R6). -/
def pruneLate (h : Hart) : Hart :=
  { h with late := h.late.filter fun e => h.flights.any fun x => (x.parked || isMmau x) && decide (x.seq < e.1) }

/-- An instruction that waited has started and retired. -/
def unpark (f : Flight) (held : Bool) (s : State) : State :=
  settleCounts (modMe s fun h =>
    pruneLate { h with flights := h.flights.filter (fun x => !(x.parked && x.seq == f.seq)), r := countRetired held h.r,
                       wait := syncOnly h.wait,
                       pin := h.pin.filter fun p => p.pc != f.env.pc })

/-- An operation that is discarded has not issued after all (R153, R304). -/
def uncount (stream : Nat) (h : Hart) : Hart := { h with issued := vset h.issued stream (vget h.issued stream 0 - 1) }

/-- An operation that had performed is discarded (R6, R153). -/
def unperform (stream : Nat) (h : Hart) : Hart :=
  let h := uncount stream h
  { h with perf := vset h.perf stream (vget h.perf stream 0 - 1) }

/-- The strip to which a hart goes back: the stores of it that have performed, or counted as performed, since then are no
longer in it; those that PROOF has released and that have not performed are in it again (R6, R157). -/
def reopen (h : Hart) (st : StripState) : StripState := { st with stores := st.stores.filter fun x => stillUnperformed h x.seq }

/-- A hart goes back to before an instruction that has not retired: it and everything after it are discarded (R6, R304). -/
def rewind (f : Flight) (h : Hart) : Hart :=
  let gone (seq : Nat) : Bool := decide (f.seq ≤ seq)
  let late := (h.flights.filter fun (x : Flight) => !x.parked && gone x.seq).map (·.stream)
  let lateStores := (h.r.strip.stores.filter fun (x : StripStore) => gone x.seq).map (·.stream)
  let done := (h.late.filter fun (x : Nat × Nat) => gone x.1).map (·.2)
  let strip := reopen h f.before.strip
  let h := done.foldl (fun h k => unperform k h) ((late ++ lateStores).foldl (fun h k => uncount k h) h)
  { h with r := { f.before with strip := strip },
           lent := h.lent.filter fun x => !gone x.seq, late := h.late.filter fun x => !gone x.1, popped := [],
           flights := h.flights.filter fun x => !gone x.seq &&
             !(x.released && strip.stores.any fun y => y.seq == x.seq) }

/-- The oldest instruction of a hart that has not retired. -/
def firstUnsettled (h : Hart) : Option Flight :=
  h.flights.foldl (fun (m : Option Flight) (f : Flight) =>
    if !f.parked && !isMmau f then m
    else match m with
      | none => some f
      | some g => if f.seq < g.seq then some f else some g) none

/-- The oldest instruction that waits to start (R112). -/
def firstParked (h : Hart) : Option Flight := firstUnsettled { h with flights := h.flights.filter (·.parked) }

/-- The hart in focus goes back to before an instruction that waited. -/
def rollback (f : Flight) (s : State) : State := settleCounts (modMe s (rewind f))

/-- An instruction older than f has not retired. -/
def olderParked (s : State) (seq : Nat) : Bool := s.me.flights.any fun x => unsettled (stuck s s.me) x && decide (x.seq < seq)

/-- A store takes its place in program order among those of the strip (R175, R279). -/
def insertStore (l : List StripStore) (x : StripStore) : List StripStore :=
  (l.filter fun y => decide (y.seq < x.seq)) ++ x :: l.filter fun y => !decide (y.seq < x.seq)

/-- Registers of a file that changed from r to t, as they changed, in b. -/
def carryFile {α : Type} [DecidableEq α] {n : Nat} (r t b : Vector α n) : Vector α n :=
  Vector.ofFn fun i => if t[i] = r[i] then b[i] else t[i]

/-- A queue after what turned r into t: entries popped at the head, or pushed at the tail. -/
def carryQueue (r t b : List Word) : List Word :=
  if t.length < r.length then b.drop (r.length - t.length) else b ++ t.drop r.length

/-- What an instruction that has started made of the registers, from r to t with the flags fl, made of the registers b to
which a later instruction would return (R6). -/
def carry (r t : Regs) (fl slotFl : FlagSet) (b : Regs) : Regs :=
  let d (x y : Counts) : Counts :=
    { retired := y.retired - x.retired, nanenc := y.nanenc - x.nanenc, headroom := y.headroom - x.headroom,
      dtskip := y.dtskip - x.dtskip }
  { b with
    v := carryFile r.v t.v b.v, w := carryFile r.w t.w b.w, z := carryFile r.z t.z b.z, m := carryFile r.m t.m b.m,
    q := Vector.ofFn fun i => carryQueue r.q[i] t.q[i] b.q[i],
    dphase := if t.dphase = r.dphase then b.dphase else t.dphase,
    fflags := b.fflags ||| fl, retired := b.retired + (t.retired - r.retired),
    counts := addCounts b.counts (d r.counts t.counts),
    strip := { b.strip with stores := (t.strip.stores.filter fun (x : StripStore) =>
                              !r.strip.stores.any fun y => y.seq == x.seq).foldl insertStore b.strip.stores,
                            flags := b.strip.flags ||| slotFl,
                            counts := addCounts b.strip.counts (d r.strip.counts t.strip.counts) } }

/-- The registers with no flag raised. -/
def noFlags (r : Regs) : Regs := { r with fflags := 0, strip := { r.strip with flags := 0 } }

/-- The instruction f has started and turned s into t: later instructions that wait return to registers that show it. -/
def carryOver (f : Flight) (body : Env → State → Except Stop (State × Option TrapInfo)) (s t : State) : State :=
  if t.me.flights.all fun x => (!x.parked && !isMmau x) || decide (x.seq ≤ f.seq) then t
  else
    let (fl, slotFl) : FlagSet × FlagSet := match body f.env (modRegs s noFlags) with
      | .ok (u, _) => (u.me.r.fflags, u.me.r.strip.flags)
      | .error _ => (0, 0)
    let r := s.me.r
    let r' := t.me.r
    modMe t fun h => { h with flights := h.flights.map fun x =>
      if f.seq < x.seq then { x with before := carry r r' fl slotFl x.before } else x }

/-- What an instruction of a stream comes to: a state, and the trap it takes after it in progress mode (R171). -/
abbrev StreamResult := Except Stop (State × Option TrapInfo)

/-- The queues as they were: a run that traps gives back what it popped (R111). -/
def giveBack (s t : State) : State := modRegs t fun r => { r with q := s.me.r.q }

/-- The instruction may trap on the values of its operands, once everything it waits for is there: on a leading field, an accumulator or a
side operand (R206, R214, R230). -/
def trapsLate (i : Instr) : Bool :=
  match i with
  | .vwmul _ _ _ _ _ => true
  | .vwmac _ _ _ _ _ => true
  | .mma _ _ _ _ _ => true
  | .mmas _ _ _ _ _ => true
  | .mmau _ _ _ _ _ => true
  | .msums _ _ _ _ => true
  | _ => false

/-- Run an instruction of the vector or access stream: at dispatch, when nothing keeps it, or from among those that wait
(`replay`). `mem` is 1 for a vector load, 2 for a vector store or atomic, 3 for MMAU, else 0; `tile` marks one that starts
at PROG. -/
def runStream (i : Instr) (mem : Nat) (tile : Bool) (g : Fin 8) (sa sb : Option SOp) (body : Env → State → StreamResult)
    (s : State) : Out :=
  let late := mem != 0 || trapsLate i
  let arms := mem == 1 || mem == 2
  match s.me.replay with
  | some f =>
    let s := modMe s fun h => { h with replay := none }
    let held := heldBy i f.env.slot
    let slot := lossSlot i f.env.slot
    let stay (r : WaitReason) (checked : Bool) : State :=
      modMe s fun h => { h with flights := h.flights.map fun x =>
        if x.parked ∧ x.seq = f.seq then { x with checked := x.checked || checked, why := some r } else x }
    match body f.env s with
    | .ok (t, none) => .next (carryOver f body s (unpark f held t))
    | .error (.wait r) => .next (stay r (!late))
    | .error (.full q _) => .next (stay (.queueFull q) (!late))
    | .error (.trap t) =>
      if olderParked s f.seq then .next (stay .earlier false)
      else .next (preciseTrap (rollback f s) t slot false arms)
    | .ok (_, some _) =>
      if olderParked s f.seq then .next (stay .earlier false)
      else
        let u := rollback f s
        match body f.env u with
        | .ok (t, some e) => .next (preciseTrap (giveBack u t) e slot true arms)
        | .ok (t, none) => .next (retireStream held tile t)
        | .error st => .next (stopAt u st slot)
  | none =>
    match dispatchEnv s g sa sb with
    | .error st => .next (stopAt s st (lossSlot i s.me.r.g[g]))
    | .ok env =>
      let held := heldBy i env.slot
      let slot := lossSlot i env.slot
      let n := entriesOf s.me.nh i env
      let join (checked : Bool) (why : Option WaitReason) : Out :=
        if windowRoom s n then .next (park i env mem sa checked tile why (serveWindow s n))
        else .next (stopAt s (.wait .window) none)
      if anyParked s then
        join (!late && (match body env s with | .error (.trap _) => false | _ => true)) none
      else if !windowRoom s 1 then .next (stopAt s (.wait .window) none)
      else
        match body env s with
        | .ok (t, none) => .next (retireStream held tile t)
        | .ok (t, some e) => .next (preciseTrap (giveBack s t) e slot true arms)
        | .error (.trap t) => .next (preciseTrap s t slot false arms)
        | .error (.wait r) => join (!late) (some r)
        | .error (.full q _) => join (!late) (some (.queueFull q))

end Sys2Proof.Machine
end

