-- ==== Sys2Proof/Machine/Vector.lean ====
section
/-! DEFINITION. What every instruction of the vector stream is made of: operands, checks, element-wise application, flags and
counts (R178 to R183, R202). -/

namespace Sys2Proof.Machine

/-! ## Operand tiers (R178) -/

/-- The tier of an operand: 0 v, 1 w, 2 z, 3 q0 to q3, 4 m, 5 none, 6 q4 and q5, 7 q6 and q7. -/
def tierOf : VOp → Nat
  | .v _ => 0
  | .w _ => 1
  | .z _ => 2
  | .q k => if k.val ≤ 3 then 3 else if k.val ≤ 5 then 6 else 7
  | .m _ => 4
  | .none => 5

/-- S of R178: a v group, w, q0 to q3 or none. -/
def tS : List Nat := [0, 1, 3, 5]
/-- v group, w. -/
def tVW : List Nat := [0, 1]

/-- An operand names an allowed tier, and a v group starts at a multiple of its size (R109, R116). -/
def operand (o : VOp) (tiers : List Nat) (group : Nat) : Except Stop PUnit :=
  ensure (tiers.contains (tierOf o) && match o with
    | .v n => decide (group ≤ 16) && n.val % group == 0
    | _ => true) cIllegal

/-- An m group starts at a multiple of its size and ends at m7 (R182). -/
def maskOperand (o : VOp) (p : Nat) : Except Stop PUnit :=
  match o with
  | .m n => ensure (decide (p ≤ 8) && n.val % p == 0) cReserved
  | _ => .ok ⟨⟩

/-- The number of an m operand. -/
def maskOf : VOp → Nat
  | .m n => n.val
  | _ => 0

/-! ## What an instruction works under -/

/-- What an instruction of the vector stream copied at dispatch, taken apart. -/
structure VCtx where
  slot : Word
  lanes : Nat
  et : Nat
  b : Nat
  f : Nat
  vl : Nat
  vstart : Nat
  deriving DecidableEq, Repr

/-- The fields of an environment. -/
def vctx (s : State) (env : Env) : VCtx :=
  { slot := env.slot, lanes := lanesOf s.me, et := slotEtype env.slot, b := slotEbits env.slot, f := slotF env.slot,
    vl := env.vl, vstart := env.vstart }

/-- The checks at issue of R115 to R117 and R180: the element type, the start index, VL and the predicate registers. -/
def vcheckVl (c : VCtx) (types : List Nat) (whole : Bool) (limit : Nat) : Except Stop PUnit :=
  ensure (types.contains c.et && !(whole && c.vstart != 0) && decide (c.vl ≤ limit) && predOk c.slot c.f c.b) cReserved

/-- The checks at issue of an instruction whose VL has the limit of its slot (R116). -/
def vcheck (c : VCtx) (types : List Nat) (whole : Bool) : Except Stop PUnit :=
  vcheckVl c types whole (vlmaxBits c.lanes c.f c.b)

/-- A w destination holds eight element groups (R178). -/
def wLimit (c : VCtx) (o : VOp) : Except Stop PUnit :=
  match o with
  | .w _ => ensure (decide (c.vl ≤ vlmaxBits c.lanes 1 c.b)) cReserved
  | _ => .ok ⟨⟩

/-- The active elements from VSTART to VL. -/
def VCtx.active (c : VCtx) (r : Regs) : List Nat := activeElems r c.lanes c.slot c.vstart c.vl

/-- The elements from VSTART to VL of the element groups that issue: under density-time a group with no active element does not
(R202). -/
def VCtx.issued (c : VCtx) (dt : Bool) (r : Regs) : List Nat :=
  let k := groupElems c.lanes c.b
  let group (j : Nat) : List Nat :=
    let lo := Nat.max c.vstart (j * k)
    (List.range (Nat.min c.vl ((j + 1) * k) - lo)).map (lo + ·)
  ((List.range (ceilDiv c.vl k)).filter fun j =>
    !dt || !(activeElems r c.lanes c.slot (j * k) (Nat.min c.vl ((j + 1) * k))).isEmpty).flatMap group

/-- The packed-word elements of the A registers that an MMA-class instruction reads: those of the element groups that issue
(R202, R220). -/
def VCtx.gridIssued (c : VCtx) (dt : Bool) (r : Regs) : List Nat := { c with vl := c.f * 16 * c.lanes }.issued dt r

/-- The registers that hold elements of an operand, each with the landed bit of the element group they lie in (R91, R108, R181). -/
def touches (o : VOp) (lanes b : Nat) (es : List Nat) : List (RegName × BitVec 8) :=
  let js := (es.map (· / groupElems lanes b)).eraseDups
  match o with
  | .v n => js.map fun j => ((1, n.val + j / 8), 1#8 <<< (j % 8))
  | .w n => if js.isEmpty then [] else [((2, n.val), 0)]
  | .z n => if js.isEmpty then [] else [((3, n.val), 0)]
  | _ => []

/-- The registers that an instruction writes elements of, each with every landed bit (R91). -/
def touchesAll (o : VOp) (lanes b : Nat) (es : List Nat) : List (RegName × BitVec 8) :=
  (touches o lanes b es).map fun x => (x.1, 0xFF)

/-- The registers of an operand that is not read or written one element group at a time, with every landed bit, when some element
group issues (R217). -/
def touchesSpan (es : List Nat) (regs : List RegName) : List (RegName × BitVec 8) :=
  if es.isEmpty then [] else regs.map fun x => (x, 0xFF)

/-- The waits for the registers and element groups that the micro-operations of an instruction read and write (R91, R179, R217). -/
def useTouched (s : State) (seq : Nat) (l : List (RegName × BitVec 8)) : Except Stop PUnit :=
  useParts s seq (l.map (·.1)) ((l.filter fun x => x.1.1 == 1).map fun x => (x.1.2, x.2))

/-- The waits of an instruction that goes through its registers one element group at a time: every bit of a v register that it
writes in, and the bits of the groups that it reads, of the element groups that issue (R91, R179, R202). -/
def useMap (c : VCtx) (s : State) (seq : Nat) (dt : Bool) (vd : VOp) (srcs : List VOp) : Except Stop PUnit :=
  let es := c.issued dt s.me.r
  useTouched s seq (touchesAll vd c.lanes c.b es ++ srcs.flatMap fun o => touches o c.lanes c.b es)

/-- A source of elements: registers, or one value for every element. -/
inductive VSrc where
  | reg (o : VOp)
  | const (n : Nat)
  deriving DecidableEq, Repr

/-- Take a source operand: a queue gives its entry (R111, R178). -/
def takeSrc (o : VOp) (b : Nat) (s : State) : Except Stop (VSrc × State) :=
  match o with
  | .q k => do
    let (v, t) ← popQ k s
    return (.const (v.toNat % 2 ^ b), t)
  | .none => .ok (.const 0, s)
  | _ => .ok (.reg o, s)

/-- Element e of a source, of b bits; a w register supplies its eight element groups again and again (R181). -/
def srcElem (r : Regs) (lanes b : Nat) (x : VSrc) (e : Nat) : Nat :=
  match x with
  | .const n => n
  | .reg (.w n) => getElem r (.w n) lanes b (e % (8 * groupElems lanes b))
  | .reg o => getElem r o lanes b e

/-- Write elements, of b bits. -/
def putElems (o : VOp) (lanes b : Nat) (r : Regs) (l : List (Nat × Nat)) : Regs :=
  l.foldl (fun r p => setElem r o lanes b p.1 p.2) r

/-- Write bits of an m group. -/
def putMasks (m lanes : Nat) (r : Regs) (l : List (Nat × Bool)) : Regs :=
  l.foldl (fun r p => setMask r m lanes p.1 p.2) r

/-! ## Flags and counts -/

/-- Element groups that density-time skips: in range and with no active element (R202). -/
def skippedGroups (r : Regs) (c : VCtx) (b : Nat) : Nat :=
  let k := groupElems c.lanes b
  ((List.range (ceilDiv c.vl k)).filter fun j =>
    decide (c.vstart < (j + 1) * k) && (activeElems r c.lanes c.slot (j * k) (Nat.min c.vl ((j + 1) * k))).isEmpty).length

/-- Add counts that commit with the instruction, or with the strip (R264, R314). -/
def addPending (held : Bool) (d : Counts) (r : Regs) : Regs :=
  if held && r.strip.isOpen then { r with strip := { r.strip with counts := addCounts r.strip.counts d } }
  else { r with counts := addCounts r.counts d }

/-- What an instruction leaves beside its results: its flags and its counts (R47, R264). -/
def commit (c : VCtx) (fl : FlagSet) (d : Counts) (r : Regs) : Regs :=
  addPending (slotStrip c.slot) d (raise (slotStrip c.slot) fl r)

/-- The count of skipped groups of an instruction with the density-time bit. -/
def dtCount (dt : Bool) (r : Regs) (c : VCtx) (b : Nat) : Counts :=
  { Counts.zero with dtskip := if dt then skippedGroups r c b else 0 }

/-- A result that needs no trap after it. -/
def vdone (s : State) : StreamResult := .ok (s, none)

/-- The flags of results. -/
def flagsOf (l : List (Nat × FlagSet)) : FlagSet := l.foldl (fun a p => a ||| p.2) 0

/-! ## Element-wise instructions -/

/-- The body of an element-wise instruction: each active element of vd becomes f of the elements of va, vb and, when vd is also
read, vd (R179, R180). -/
def mapBody (dt : Bool) (types : List Nat) (vd va vb : VOp) (reads : Bool)
    (f : VCtx → Nat → Nat → Nat → Nat × FlagSet) (env : Env) (s : State) : StreamResult := do
  let c := vctx s env
  operand vd tVW c.f
  operand va tS c.f
  operand vb tS c.f
  ensure (!(c.et == 7 && (tierOf va == 3 || tierOf vb == 3))) cIllegal
  vcheck c types false
  wLimit c vd
  let (x, s1) ← takeSrc va c.b s
  let (y, s2) ← takeSrc vb c.b s1
  useMap c s2 env.seq dt vd [va, vb]
  let r := s2.me.r
  let es := c.active r
  let res := es.map fun e =>
    f c (srcElem r c.lanes c.b x e) (srcElem r c.lanes c.b y e) (if reads then getElem r vd c.lanes c.b e else 0)
  let r1 := putElems vd c.lanes c.b r (es.zip (res.map (·.1)))
  vdone (modRegs s2 fun _ => commit c (flagsOf res) (dtCount dt r c c.b) r1)

/-- Types F of R183. -/
def tyF : List Nat := [0, 1, 2]
/-- Types I of R183. -/
def tyI : List Nat := [3, 4, 5, 6]
/-- Types F and I. -/
def tyFI : List Nat := tyF ++ tyI
/-- Types F, I and PW. -/
def tyAll : List Nat := tyFI ++ [7]

/-- The rounding of an instruction's slot, RND 5 read as 0 (R40). -/
def VCtx.rm (c : VCtx) : RMode := rmode (slotRnd c.slot)

/-- Round an exact result to ETYPE; an infinity that no finite value has overflowed to stays one (R43, R184). -/
def roundTo (et : Nat) (m : RMode) (sat : Bool) (v : Val) : Nat × FlagSet :=
  match ffmt et with
  | some f =>
    match v with
    | .inf n => (signCode f n (infCode f), 0)
    | w => toFloat et f m sat w
  | none => (0, 0)

/-- A floating-point result with the flags that its operation raised. -/
def rounded (c : VCtx) (v : Val × FlagSet) : Nat × FlagSet :=
  let (n, fl) := roundTo c.et c.rm (slotSat c.slot) v.1
  (n, fl ||| v.2)

/-- ETYPE is a floating-point type. -/
def VCtx.float (c : VCtx) : Bool := tyF.contains c.et

/-- The integer value of an element of an I type. -/
def VCtx.int (c : VCtx) (x : Nat) : Int := (decodeVal c.et x).signed

/-- Fit of R185. -/
def fit (c : VCtx) (i : Int) : Nat × FlagSet :=
  match ifmt c.et with
  | some (sg, w) => fitInt sg w (slotSat c.slot) i
  | none => (0, 0)

/-- VADD and VSUB (R184, R185). -/
def opAdd (sub : Bool) (c : VCtx) (a b _d : Nat) : Nat × FlagSet :=
  if c.float then
    let y := decodeVal c.et b
    rounded c ((decodeVal c.et a).add c.rm.isDown (if sub then y.neg else y))
  else fit c (if sub then c.int a - c.int b else c.int a + c.int b)

/-- VMUL (R184, R185). -/
def opMul (c : VCtx) (a b _d : Nat) : Nat × FlagSet :=
  if c.float then rounded c ((decodeVal c.et a).mul (decodeVal c.et b)) else fit c (c.int a * c.int b)

/-- The exact va x vb + vd, with one set of flags: an invalid product gives NaN whatever vd holds (R184). -/
def fmaVal (down : Bool) (a b d : Val) : Val × FlagSet :=
  let (p, f1) := a.mul b
  if p.isNan then (p, f1 ||| sigFlag [d])
  else
    let (t, f2) := p.add down d
    (t, f1 ||| f2)

/-- VFMA and VFMS (R184, R185). -/
def opFma (sub : Bool) (c : VCtx) (a b d : Nat) : Nat × FlagSet :=
  if c.float then
    let z := decodeVal c.et d
    rounded c (fmaVal c.rm.isDown (decodeVal c.et a) (decodeVal c.et b) (if sub then z.neg else z))
  else fit c (if sub then c.int a * c.int b - c.int d else c.int a * c.int b + c.int d)

/-- VDIV (R184, R185). -/
def opDiv (c : VCtx) (a b _d : Nat) : Nat × FlagSet :=
  if c.float then rounded c ((decodeVal c.et a).div (decodeVal c.et b))
  else if c.int b = 0 then (2 ^ c.b - 1, fDZ)
  else fit c ((c.int a).tdiv (c.int b))

/-- The value whose code orders last, or first: -0 below +0, NaN when either is one (R189). -/
def pickFloat (et : Nat) (mx : Bool) (a b : Nat) : Nat × FlagSet :=
  let x := decodeVal et a
  let y := decodeVal et b
  if x.isNan || y.isNan then (quietNan et, sigFlag [x, y])
  else
    let neg : Val → Bool := fun v => match v with
      | .fin s _ _ => s
      | .inf s => s
      | .nan _ => false
    let less := x.lt y || (x.eq y && neg x && !neg y)
    (if less = mx then b else a, 0)

/-- VMIN and VMAX (R185, R189). -/
def opPick (mx : Bool) (c : VCtx) (a b _d : Nat) : Nat × FlagSet :=
  if c.float then pickFloat c.et mx a b
  else (if decide (c.int a < c.int b) = mx then b else a, 0)

/-- VCLAMP: max(vd, va), then the min of that and vb (R189). -/
def opClamp (c : VCtx) (a b d : Nat) : Nat × FlagSet :=
  let (x, f1) := opPick true c d a 0
  let (y, f2) := opPick false c x b 0
  (y, f1 ||| f2)

/-- VAND, VOR, VXOR (R187). -/
def opBits (f : Nat → Nat → Nat) (_c : VCtx) (a b _d : Nat) : Nat × FlagSet := (f a b, 0)

/-- VSHL (R187). -/
def opShl (c : VCtx) (a b _d : Nat) : Nat × FlagSet := ((a <<< (b % c.b)) % 2 ^ c.b, 0)
/-- VSHR (R187). -/
def opShr (c : VCtx) (a b _d : Nat) : Nat × FlagSet := (a >>> (b % c.b), 0)
/-- VSRA (R187). -/
def opSra (c : VCtx) (a b _d : Nat) : Nat × FlagSet := (lowBits (signedOf a c.b / (2 ^ (b % c.b) : Nat)) c.b, 0)
/-- VNOT (R187). -/
def opNot (c : VCtx) (a _b _d : Nat) : Nat × FlagSet := (2 ^ c.b - 1 - a, 0)

/-- VABS and VNEG (R184, R185). -/
def opSign (neg : Bool) (c : VCtx) (a _b _d : Nat) : Nat × FlagSet :=
  match ffmt c.et with
  | some f =>
    let v := decodeVal c.et a
    if v.isNan then (quietNan c.et, sigFlag [v])
    else
      let s := a.testBit f.magBits
      (signCode f (neg && !s) (a % 2 ^ f.magBits), 0)
  | none =>
    let i := c.int a
    fit c (if neg then -i else i.natAbs)

/-- VSQRT, VRCP, VRSQ, VEXP2 and VLOG2 of an exact value (R186). -/
def unaryVal (fn : Nat) (v : Val) : Val × FlagSet :=
  match v with
  | .nan g => (.nan false, if g then fNV else 0)
  | .inf true =>
    match fn with
    | 1 => (.fin true 0 1, 0)
    | 3 => (.zero, 0)
    | _ => (.nan false, fNV)
  | .inf false =>
    match fn with
    | 1 => (.zero, 0)
    | 2 => (.zero, 0)
    | _ => (.inf false, 0)
  | .fin s n d =>
    if n = 0 then
      match fn with
      | 0 => (.fin s 0 1, 0)
      | 3 => (.ofInt 1, 0)
      | 4 => (.inf true, fDZ)
      | _ => (.inf s, fDZ)
    else
      match fn with
      | 0 => if s then (.nan false, fNV) else let q := sqrtFrac n d; (.fin false q.1 q.2, 0)
      | 1 => (.fin s d n, 0)
      | 2 => if s then (.nan false, fNV) else let q := sqrtFrac d n; (.fin false q.1 q.2, 0)
      | 3 => if decide (s = false ∧ 2 ^ 9 * d ≤ n) then (.fin false (2 ^ 512) 1, 0)
             else if decide (s = true ∧ 2 ^ 9 * d ≤ n) then (.fin false 1 (2 ^ 511 + 1), 0)
             else let q := exp2Frac s n d; (.fin false q.1 q.2, 0)
      | _ => if s then (.nan false, fNV) else (log2Val n d, 0)

/-- The function instructions of R186: 0 VSQRT, 1 VRCP, 2 VRSQ, 3 VEXP2, 4 VLOG2. -/
def opFn (fn : Nat) (c : VCtx) (a _b _d : Nat) : Nat × FlagSet := rounded c (unaryVal fn (decodeVal c.et a))

/-- Run an element-wise instruction of two sources. -/
def map2 (i : Instr) (dt : Bool) (g : Fin 8) (types : List Nat) (vd va vb : VOp) (reads : Bool)
    (f : VCtx → Nat → Nat → Nat → Nat × FlagSet) (s : State) : Out :=
  runStream i 0 false g none none (mapBody dt types vd va vb reads f) s

/-- Run an element-wise instruction of one source. -/
def map1 (i : Instr) (dt : Bool) (g : Fin 8) (types : List Nat) (vd va : VOp)
    (f : VCtx → Nat → Nat → Nat → Nat × FlagSet) (s : State) : Out :=
  map2 i dt g types vd va .none false f s

end Sys2Proof.Machine
end

