-- ==== Sys2Proof/Machine/Compute.lean ====
section
/-! DEFINITION. Vector arithmetic, comparison, selection, conversion, moves, permutation, reductions and masks (R184 to
R201). -/

namespace Sys2Proof.Machine

/-! ## Arithmetic, shifts and bits (R184 to R187, R189) -/

/-- VADD (R184, R185). -/
def execVadd (dt : Bool) (g : Fin 8) (vd va vb : VOp) (s : State) : Out :=
  map2 (.vadd dt g vd va vb) dt g tyFI vd va vb false (opAdd false) s
/-- VSUB (R184, R185). -/
def execVsub (dt : Bool) (g : Fin 8) (vd va vb : VOp) (s : State) : Out :=
  map2 (.vsub dt g vd va vb) dt g tyFI vd va vb false (opAdd true) s
/-- VMUL (R184, R185). -/
def execVmul (dt : Bool) (g : Fin 8) (vd va vb : VOp) (s : State) : Out :=
  map2 (.vmul dt g vd va vb) dt g tyFI vd va vb false opMul s
/-- VFMA (R184, R185). -/
def execVfma (dt : Bool) (g : Fin 8) (vd va vb : VOp) (s : State) : Out :=
  map2 (.vfma dt g vd va vb) dt g tyFI vd va vb true (opFma false) s
/-- VFMS (R184, R185). -/
def execVfms (dt : Bool) (g : Fin 8) (vd va vb : VOp) (s : State) : Out :=
  map2 (.vfms dt g vd va vb) dt g tyFI vd va vb true (opFma true) s
/-- VMIN (R185, R189). -/
def execVmin (dt : Bool) (g : Fin 8) (vd va vb : VOp) (s : State) : Out :=
  map2 (.vmin dt g vd va vb) dt g tyFI vd va vb false (opPick false) s
/-- VMAX (R185, R189). -/
def execVmax (dt : Bool) (g : Fin 8) (vd va vb : VOp) (s : State) : Out :=
  map2 (.vmax dt g vd va vb) dt g tyFI vd va vb false (opPick true) s
/-- VAND (R187). -/
def execVand (dt : Bool) (g : Fin 8) (vd va vb : VOp) (s : State) : Out :=
  map2 (.vand dt g vd va vb) dt g tyAll vd va vb false (opBits fun a b => a &&& b) s
/-- VOR (R187). -/
def execVor (dt : Bool) (g : Fin 8) (vd va vb : VOp) (s : State) : Out :=
  map2 (.vor dt g vd va vb) dt g tyAll vd va vb false (opBits fun a b => a ||| b) s
/-- VXOR (R187). -/
def execVxor (dt : Bool) (g : Fin 8) (vd va vb : VOp) (s : State) : Out :=
  map2 (.vxor dt g vd va vb) dt g tyAll vd va vb false (opBits fun a b => a ^^^ b) s
/-- VSHL (R187). -/
def execVshl (dt : Bool) (g : Fin 8) (vd va vb : VOp) (s : State) : Out :=
  map2 (.vshl dt g vd va vb) dt g tyI vd va vb false opShl s
/-- VSHR (R187). -/
def execVshr (dt : Bool) (g : Fin 8) (vd va vb : VOp) (s : State) : Out :=
  map2 (.vshr dt g vd va vb) dt g tyI vd va vb false opShr s
/-- VSRA (R187). -/
def execVsra (dt : Bool) (g : Fin 8) (vd va vb : VOp) (s : State) : Out :=
  map2 (.vsra dt g vd va vb) dt g tyI vd va vb false opSra s
/-- VDIV (R184, R185). -/
def execVdiv (dt : Bool) (g : Fin 8) (vd va vb : VOp) (s : State) : Out :=
  map2 (.vdiv dt g vd va vb) dt g tyFI vd va vb false opDiv s
/-- VCLAMP (R189). -/
def execVclamp (dt : Bool) (g : Fin 8) (vd va vb : VOp) (s : State) : Out :=
  map2 (.vclamp dt g vd va vb) dt g tyFI vd va vb true opClamp s
/-- VABS (R184, R185). -/
def execVabs (dt : Bool) (g : Fin 8) (vd va : VOp) (s : State) : Out :=
  map1 (.vabs dt g vd va) dt g tyFI vd va (opSign false) s
/-- VNEG (R184, R185). -/
def execVneg (dt : Bool) (g : Fin 8) (vd va : VOp) (s : State) : Out :=
  map1 (.vneg dt g vd va) dt g tyFI vd va (opSign true) s
/-- VNOT (R187). -/
def execVnot (dt : Bool) (g : Fin 8) (vd va : VOp) (s : State) : Out :=
  map1 (.vnot dt g vd va) dt g tyAll vd va opNot s
/-- VSQRT (R186). -/
def execVsqrt (dt : Bool) (g : Fin 8) (vd va : VOp) (s : State) : Out :=
  map1 (.vsqrt dt g vd va) dt g tyF vd va (opFn 0) s
/-- VRCP (R186). -/
def execVrcp (dt : Bool) (g : Fin 8) (vd va : VOp) (s : State) : Out :=
  map1 (.vrcp dt g vd va) dt g tyF vd va (opFn 1) s
/-- VRSQ (R186). -/
def execVrsq (dt : Bool) (g : Fin 8) (vd va : VOp) (s : State) : Out :=
  map1 (.vrsq dt g vd va) dt g tyF vd va (opFn 2) s
/-- VEXP2 (R186). -/
def execVexp2 (dt : Bool) (g : Fin 8) (vd va : VOp) (s : State) : Out :=
  map1 (.vexp2 dt g vd va) dt g tyF vd va (opFn 3) s
/-- VLOG2 (R186). -/
def execVlog2 (dt : Bool) (g : Fin 8) (vd va : VOp) (s : State) : Out :=
  map1 (.vlog2 dt g vd va) dt g tyF vd va (opFn 4) s

/-! ## Comparison and selection (R188, R190) -/

/-- The predicate registers, and the m group, of an instruction (R182). -/
def VCtx.p (c : VCtx) : Nat := predCount c.f c.b

/-- The truth of a comparison, 0 EQ, 1 NE, 2 LT, 3 LE, and its flags (R188). -/
def compareElems (fn : Nat) (c : VCtx) (a b : Nat) : Bool × FlagSet :=
  if c.float then
    let x := decodeVal c.et a
    let y := decodeVal c.et b
    if x.isNan || y.isNan then (fn == 1, if fn ≤ 1 then sigFlag [x, y] else fNV)
    else (match fn with
      | 0 => x.eq y
      | 1 => !x.eq y
      | 2 => x.lt y
      | _ => !y.lt x, 0)
  else (match fn with
    | 0 => a == b
    | 1 => a != b
    | 2 => decide (c.int a < c.int b)
    | _ => decide (c.int a ≤ c.int b), 0)

/-- A comparison into an m group (R188). -/
def compareBody (dt : Bool) (fn : Nat) (vd va vb : VOp) (env : Env) (s : State) : StreamResult := do
  let c := vctx s env
  operand vd [4] 1
  operand va tS c.f
  operand vb tS c.f
  ensure (!(c.et == 7 && (tierOf va == 3 || tierOf vb == 3))) cIllegal
  vcheck c tyFI false
  maskOperand vd c.p
  let (x, s1) ← takeSrc va c.b s
  let (y, s2) ← takeSrc vb c.b s1
  useMap c s2 env.seq dt .none [va, vb]
  let r := s2.me.r
  let es := c.active r
  let res := es.map fun e => compareElems fn c (srcElem r c.lanes c.b x e) (srcElem r c.lanes c.b y e)
  let r1 := putMasks (maskOf vd) c.lanes r (es.zip (res.map (·.1)))
  vdone (modRegs s2 fun _ => commit c (res.foldl (fun a p => a ||| p.2) 0) (dtCount dt r c c.b) r1)

/-- VCMPEQ (R188). -/
def execVcmpeq (dt : Bool) (g : Fin 8) (vd va vb : VOp) (s : State) : Out :=
  runStream (.vcmpeq dt g vd va vb) 0 false g none none (compareBody dt 0 vd va vb) s
/-- VCMPNE (R188). -/
def execVcmpne (dt : Bool) (g : Fin 8) (vd va vb : VOp) (s : State) : Out :=
  runStream (.vcmpne dt g vd va vb) 0 false g none none (compareBody dt 1 vd va vb) s
/-- VCMPLT (R188). -/
def execVcmplt (dt : Bool) (g : Fin 8) (vd va vb : VOp) (s : State) : Out :=
  runStream (.vcmplt dt g vd va vb) 0 false g none none (compareBody dt 2 vd va vb) s
/-- VCMPLE (R188). -/
def execVcmple (dt : Bool) (g : Fin 8) (vd va vb : VOp) (s : State) : Out :=
  runStream (.vcmple dt g vd va vb) 0 false g none none (compareBody dt 3 vd va vb) s

/-- VSEL (R190). -/
def execVsel (g : Fin 8) (vd va vb : VOp) (s : State) : Out :=
  runStream (.vsel g vd va vb) 0 false g none none (fun env s => do
    let c := vctx s env
    operand vd tVW c.f
    operand va tS c.f
    operand vb tS c.f
    ensure (!(c.et == 7 && (tierOf va == 3 || tierOf vb == 3))) cIllegal
    vcheck c tyAll false
    ensure (slotPreden c.slot) cReserved
    wLimit c vd
    let (x, s1) ← takeSrc va c.b s
    let (y, s2) ← takeSrc vb c.b s1
    useMap c s2 env.seq false vd [va, vb]
    let r := s2.me.r
    let res := ((List.range (c.vl - c.vstart)).map (c.vstart + ·)).map fun e =>
      (e, srcElem r c.lanes c.b (if passes r c.lanes c.slot e then x else y) e)
    let r1 := putElems vd c.lanes c.b r res
    vdone (modRegs s2 fun _ => commit c 0 Counts.zero r1)) s

/-! ## Conversion (R191) -/

/-- An element of VCVT: one of the same floating-point type stays as it is, a NaN made canonical (R28, R191). -/
def convertElem (src dst : Nat) (m : RMode) (sat : Bool) (x : Nat) : Nat × FlagSet :=
  let v := decodeVal src x
  if src = dst ∧ ¬ v.isNan then (x, 0) else convert src dst m sat v

/-- VCVT (R191). -/
def execVcvt (dt : Bool) (g : Fin 8) (vd va : VOp) (s : State) : Out :=
  runStream (.vcvt dt g vd va) 0 false g none none (fun env s => do
    let c := vctx s env
    let src := slotEtype env.slot2
    let bs := slotEbits env.slot2
    let fs := Nat.max 1 (c.f * bs / c.b)
    operand vd tVW c.f
    operand va tVW 1
    ensure (tyFI.contains c.et && tyFI.contains src && decide (fs ≤ 16)) cReserved
    operand va tVW fs
    vcheck c tyFI false
    wLimit c vd
    let r := s.me.r
    useTouched s env.seq (touchesAll vd c.lanes c.b (c.issued dt r) ++ touches va c.lanes bs (c.issued dt r))
    let es := c.active r
    let res := es.map fun e =>
      convertElem src c.et c.rm (slotSat c.slot) (srcElem r c.lanes bs (.reg va) e)
    let r1 := putElems vd c.lanes c.b r (es.zip (res.map (·.1)))
    vdone (modRegs s fun _ => commit c (flagsOf res) (dtCount dt r c c.b) r1)) s

/-! ## Moves (R192, R193) -/

/-- The bit at which z element e stands in the register (R192, R219). -/
def zBit (lanes e : Nat) : Nat := e / 16 % lanes * 32768 + (e / (16 * lanes) * 16 + e % 16) * 32

/-- Element e of a z register. -/
def getZ (r : Regs) (n lanes e : Nat) : Nat := wideGet (vget r.z n 0) (zBit lanes e) 32

/-- Write element e of a z register. -/
def setZ (n lanes : Nat) (r : Regs) (p : Nat × Nat) : Regs :=
  { r with z := vset r.z n (widePut (vget r.z n 0) (zBit lanes p.1) 32 p.2) }

/-- The number of a z operand. -/
def zOf : VOp → Nat
  | .z n => n.val
  | _ => 0

/-- The limit of VL of a VMV between tiers d and a: that of its slot, but for a z operand with no v group beside it, which has
the limit of its description alone (R116, R192). -/
def moveLimit (c : VCtx) (d a : Nat) : Nat :=
  if (d == 2 || a == 2) && d != 0 && a != 0 then c.lanes * 1024 else vlmaxBits c.lanes c.f c.b

/-- The predicate bits of VL elements end at m7 (R117, log 65). -/
def predEnds (c : VCtx) : Bool := !slotPreden c.slot || decide (slotPredreg c.slot + ceilDiv c.vl (256 * c.lanes) ≤ 8)

/-- VMV (R192). -/
def vmvBody (dt : Bool) (vd va : VOp) (env : Env) (s : State) : StreamResult := do
  let c := vctx s env
  let d := tierOf vd
  let a := tierOf va
  let vw (t : Nat) : Bool := t == 0 || t == 1
  let string := (d == 0 && a == 4) || (d == 4 && a == 0)
  let zs := d == 2 || a == 2
  ensure ((vw d && (vw a || a == 3)) || ((vw d || d == 2) && a == 2) || (d == 2 && vw a) || (d == 4 && a == 4) || string)
    cIllegal
  let grp := if string then 1 else c.f
  operand vd [d] grp
  operand va [a] grp
  ensure (!(c.et == 7 && a == 3)) cIllegal
  vcheckVl c tyAll false (moveLimit c d a)
  wLimit c vd
  ensure (!zs || (c.et == 3 && decide (c.vl ≤ c.lanes * 1024) && predEnds c)) cReserved
  ensure (!string || (c.et == 6 && decide (c.vl ≤ 16 * c.lanes) && c.f == 1)) cReserved
  if d = 4 ∧ a = 4 then do
    maskOperand vd c.p
    maskOperand va c.p
  let (x, s1) ← takeSrc va c.b s
  useMap c s1 env.seq dt vd [va]
  let r := s1.me.r
  let es := c.active r
  let bits (e : Nat) : List Nat := (List.range 16).map (16 * e + ·)
  let r1 :=
    if d = 4 ∧ a = 4 then
      putMasks (maskOf vd) c.lanes r (es.map fun e => (e, getMask r (maskOf va) c.lanes e))
    else if d = 4 then
      putMasks (maskOf vd) c.lanes r (es.flatMap fun e =>
        (bits e).map fun i => (i, (srcElem r c.lanes 16 x e).testBit (i % 16)))
    else
      let value (e : Nat) : Nat :=
        if a = 4 then ((bits e).map fun i => bit (getMask r (maskOf va) c.lanes i) <<< (i % 16)).sum
        else if a = 2 then getZ r (zOf va) c.lanes e
        else srcElem r c.lanes c.b x e
      let ps := es.map fun e => (e, value e)
      if d = 2 then ps.foldl (setZ (zOf vd) c.lanes) r else putElems vd c.lanes c.b r ps
  vdone (modRegs s1 fun _ => commit c 0 (dtCount dt r c c.b) r1)

/-- VMV (R192). -/
def execVmv (dt : Bool) (g : Fin 8) (vd va : VOp) (s : State) : Out :=
  runStream (.vmv dt g vd va) 0 false g none none (vmvBody dt vd va) s

/-- VBCAST (R193). -/
def execVbcast (dt : Bool) (g : Fin 8) (vd va : VOp) (s : State) : Out :=
  runStream (.vbcast dt g vd va) 0 false g none none (fun env s => do
    let c := vctx s env
    operand vd tVW c.f
    operand va [0, 1, 3] c.f
    ensure (!(c.et == 7 && tierOf va == 3)) cIllegal
    vcheck c tyAll false
    wLimit c vd
    let (x, s1) ← takeSrc va c.b s
    let r := s1.me.r
    useTouched s1 env.seq (touchesAll vd c.lanes c.b (c.issued dt r) ++ touches va c.lanes c.b (((c.issued dt r).map fun _ => 0).take 1))
    let v := srcElem r c.lanes c.b x 0
    let r1 := putElems vd c.lanes c.b r ((c.active r).map fun e => (e, v))
    vdone (modRegs s1 fun _ => commit c 0 (dtCount dt r c c.b) r1)) s

/-- A value extended to a queue entry (R180). -/
def extendTo64 (et b v : Nat) : Word := if et = 3 ∨ et = 5 then wordOfInt (signedOf v b) else wordOfNat v

/-- Push a result into the queue that vd names (R180). -/
def pushResult (vd : VOp) (v : Word) (s : State) : Except Stop State :=
  match vd with
  | .q k => pushQ k v s
  | _ => .ok s

/-- VEXTRACT (R193). -/
def execVextract (g : Fin 8) (vd va : VOp) (s : State) : Out :=
  runStream (.vextract g vd va) 0 false g none none (fun env s => do
    let c := vctx s env
    operand vd [6] 1
    operand va tVW c.f
    ensure (tyFI.contains c.et && c.vstart == 0 && decide (c.vl ≤ vlmaxBits c.lanes c.f c.b)) cReserved
    useTouched s env.seq (touches va c.lanes c.b (List.range (Nat.min 1 c.vl)))
    let v := if c.vl = 0 then 0 else extendTo64 c.et c.b (srcElem s.me.r c.lanes c.b (.reg va) 0)
    let s1 ← pushResult vd v s
    vdone s1) s

/-! ## Permutation (R194 to R198) -/

/-- VSLIDEUP and VSLIDEDN (R194). -/
def slideBody (dt up : Bool) (vd va vb : VOp) (env : Env) (s : State) : StreamResult := do
  let c := vctx s env
  operand vd tVW c.f
  operand va tVW c.f
  operand vb [3] 1
  vcheck c tyAll true
  wLimit c vd
  let (x, s1) ← takeSrc vb 64 s
  let o := match x with
    | .const n => n
    | .reg _ => 0
  let r := s1.me.r
  let source (e : Nat) : Option Nat :=
    if up then (if o ≤ e then some (e - o) else none) else if e + o < c.vl then some (e + o) else none
  useTouched s1 env.seq (touchesAll vd c.lanes c.b (c.issued dt r) ++ touches va c.lanes c.b ((c.active r).filterMap source))
  let value (e : Nat) : Option Nat :=
    match source e with
    | some i => some (srcElem r c.lanes c.b (.reg va) i)
    | none => if up then none else some 0
  let ps := (c.active r).filterMap fun e => (value e).map fun v => (e, v)
  vdone (modRegs s1 fun _ => commit c 0 (dtCount dt r c c.b) (putElems vd c.lanes c.b r ps))

/-- VSLIDEUP (R194). -/
def execVslideup (dt : Bool) (g : Fin 8) (vd va vb : VOp) (s : State) : Out :=
  runStream (.vslideup dt g vd va vb) 0 false g none none (slideBody dt true vd va vb) s
/-- VSLIDEDN (R194). -/
def execVslidedn (dt : Bool) (g : Fin 8) (vd va vb : VOp) (s : State) : Out :=
  runStream (.vslidedn dt g vd va vb) 0 false g none none (slideBody dt false vd va vb) s

/-- VPERM (R195). -/
def execVperm (dt : Bool) (g : Fin 8) (vd va vb : VOp) (s : State) : Out :=
  runStream (.vperm dt g vd va vb) 0 false g none none (fun env s => do
    let c := vctx s env
    let fi := indexRegs c.f c.b
    operand vd tVW c.f
    operand va tVW c.f
    operand vb [0] 1
    ensure (decide (fi ≤ 16)) cReserved
    operand vb [0] fi
    vcheck c tyAll true
    wLimit c vd
    let r := s.me.r
    useTouched s env.seq (touchesAll vd c.lanes c.b (c.issued dt r) ++ touches vb c.lanes 32 (c.issued dt r))
    useTouched s env.seq (touches va c.lanes c.b (((c.active r).map (getElem r vb c.lanes 32)).filter (· < c.vl)))
    let ps := (c.active r).map fun e =>
      let i := getElem r vb c.lanes 32 e
      (e, if c.vl ≤ i then 0 else srcElem r c.lanes c.b (.reg va) i)
    vdone (modRegs s fun _ => commit c 0 (dtCount dt r c c.b) (putElems vd c.lanes c.b r ps))) s

/-- The selected elements of an m group (R196, R197, R201). -/
def selected (r : Regs) (c : VCtx) (m : VOp) : List Nat :=
  (c.active r).filter fun e => match m with
    | .m n => getMask r n.val c.lanes e
    | _ => true

/-- VCOMPRESS and VEXPAND (R196). -/
def compressBody (dt expand : Bool) (vd va vb : VOp) (env : Env) (s : State) : StreamResult := do
  let c := vctx s env
  operand vd tVW c.f
  operand va tVW c.f
  operand vb [4] 1
  vcheck c tyAll true
  maskOperand vb c.p
  wLimit c vd
  let r := s.me.r
  let sel := selected r c vb
  let packed := List.range sel.length
  let (written, read) := if expand then (c.issued dt r, packed) else (packed, c.issued dt r)
  useTouched s env.seq (touchesAll vd c.lanes c.b written ++ touches va c.lanes c.b read)
  let ps := sel.zipIdx.map fun p =>
    if expand then (p.1, srcElem r c.lanes c.b (.reg va) p.2) else (p.2, srcElem r c.lanes c.b (.reg va) p.1)
  let s1 := modRegs s fun _ => commit c 0 (dtCount dt r c c.b) (putElems vd c.lanes c.b r ps)
  if expand then vdone s1
  else do
    let s2 ← pushQ 4 (wordOfNat sel.length) s1
    vdone s2

/-- VEXPAND (R196). -/
def execVexpand (dt : Bool) (g : Fin 8) (vd va vb : VOp) (s : State) : Out :=
  runStream (.vexpand dt g vd va vb) 0 false g none none (compressBody dt true vd va vb) s
/-- VCOMPRESS (R196). -/
def execVcompress (dt : Bool) (g : Fin 8) (vd va vb : VOp) (s : State) : Out :=
  runStream (.vcompress dt g vd va vb) 0 false g none none (compressBody dt false vd va vb) s

/-- VIOTA (R197). -/
def execViota (dt : Bool) (g : Fin 8) (vd va : VOp) (s : State) : Out :=
  runStream (.viota dt g vd va) 0 false g none none (fun env s => do
    let c := vctx s env
    operand vd tVW c.f
    operand va [4, 5] 1
    vcheck c [3, 4] true
    maskOperand va c.p
    wLimit c vd
    useMap c s env.seq dt vd []
    let r := s.me.r
    let sel := selected r c va
    let ps := (c.active r).map fun e => (e, (sel.filter (· < e)).length)
    vdone (modRegs s fun _ => commit c 0 (dtCount dt r c c.b) (putElems vd c.lanes c.b r ps))) s

/-- VCONFLICT (R198). -/
def execVconflict (dt : Bool) (g : Fin 8) (vd va : VOp) (s : State) : Out :=
  runStream (.vconflict dt g vd va) 0 false g none none (fun env s => do
    let c := vctx s env
    operand vd tVW c.f
    operand va tVW c.f
    vcheck c [3, 4] true
    wLimit c vd
    useMap c s env.seq dt vd [va]
    let r := s.me.r
    let es := c.active r
    let k := groupElems c.lanes c.b
    let value (e : Nat) : Nat := srcElem r c.lanes c.b (.reg va) e
    let leader (e : Nat) : Nat := (es.find? fun d => d / k == e / k && value d == value e).getD e
    let ps := es.map fun e => (e, leader e)
    vdone (modRegs s fun _ => commit c 0 (dtCount dt r c c.b) (putElems vd c.lanes c.b r ps))) s

/-! ## Reductions (R199) -/

/-- One level of the tree. -/
def pairUp (op : Nat → Nat → Nat × FlagSet) : List (Option Nat) → List (Option Nat) × FlagSet
  | a :: b :: rest =>
    let (more, fl) := pairUp op rest
    match a, b with
    | some x, some y => (some (op x y).1 :: more, fl ||| (op x y).2)
    | some x, none => (some x :: more, fl)
    | none, y => (y :: more, fl)
  | [a] => ([a], 0)
  | [] => ([], 0)

/-- The tree over a list, level by level (R199). -/
def reduceTree (op : Nat → Nat → Nat × FlagSet) : Nat → List (Option Nat) → FlagSet → Option Nat × FlagSet
  | 0, l, fl => ((l.head?).getD none, fl)
  | n + 1, l, fl =>
    match l with
    | [] => (none, fl)
    | [a] => (a, fl)
    | l =>
      let (m, f) := pairUp op l
      reduceTree op n m (fl ||| f)

/-- The empty value of a reduction, 0 VREDSUM, 1 VREDMAX, 2 VREDMIN (R199). -/
def emptyValue (fn : Nat) (c : VCtx) : Nat :=
  if fn = 0 then 0
  else match ffmt c.et, ifmt c.et with
    | some f, _ => signCode f (fn == 1) (infCode f)
    | none, some (sg, w) => let (lo, hi) := intRange sg w; lowBits (if fn = 1 then lo else hi) w
    | none, none => 0

/-- A reduction (R199). -/
def reduceBody (dt : Bool) (fn : Nat) (vd va : VOp) (env : Env) (s : State) : StreamResult := do
  let c := vctx s env
  operand vd [0, 1, 6] c.f
  operand va tVW c.f
  vcheck c tyFI true
  wLimit c vd
  let r := s.me.r
  let es := c.active r
  useTouched s env.seq (touches va c.lanes c.b (c.issued dt r) ++ touchesAll vd c.lanes c.b ((es.map fun _ => 0).take 1))
  let value (e : Nat) : Nat := srcElem r c.lanes c.b (.reg va) e
  let res : Option Nat × FlagSet :=
    if fn = 0 ∧ c.float = false then
      if es.isEmpty then (none, 0)
      else let (v, fl) := fit c ((es.map fun e => c.int (value e)).sum); (some v, fl)
    else
      let op (a b : Nat) : Nat × FlagSet := if fn = 0 then opAdd false c a b 0 else opPick (fn == 1) c a b 0
      reduceTree op 32 ((List.range c.vl).map fun e => if passes r c.lanes c.slot e then some (value e) else none) 0
  let r1 := match res.1, vd with
    | _, .q _ => r
    | some v, _ => setElem r vd c.lanes c.b 0 v
    | none, _ => r
  let s1 := modRegs s fun _ => commit c res.2 (dtCount dt r c c.b) r1
  let s2 ← pushResult vd (extendTo64 c.et c.b (res.1.getD (emptyValue fn c))) s1
  vdone s2

/-- VREDSUM (R199). -/
def execVredsum (dt : Bool) (g : Fin 8) (vd va : VOp) (s : State) : Out :=
  runStream (.vredsum dt g vd va) 0 false g none none (reduceBody dt 0 vd va) s
/-- VREDMAX (R199). -/
def execVredmax (dt : Bool) (g : Fin 8) (vd va : VOp) (s : State) : Out :=
  runStream (.vredmax dt g vd va) 0 false g none none (reduceBody dt 1 vd va) s
/-- VREDMIN (R199). -/
def execVredmin (dt : Bool) (g : Fin 8) (vd va : VOp) (s : State) : Out :=
  runStream (.vredmin dt g vd va) 0 false g none none (reduceBody dt 2 vd va) s

/-! ## Masks (R200, R201) -/

/-- Mask logic of two m groups (R200). -/
def maskBody (dt : Bool) (vd va vb : VOp) (tiers : List Nat) (f : Bool → Bool → Bool) (env : Env) (s : State) :
    StreamResult := do
  let c := vctx s env
  operand vd [4] 1
  operand va tiers 1
  operand vb tiers 1
  vcheck c tyAll false
  maskOperand vd c.p
  maskOperand va c.p
  maskOperand vb c.p
  let r := s.me.r
  let get (o : VOp) (e : Nat) : Bool := match o with
    | .m n => getMask r n.val c.lanes e
    | _ => false
  let ps := (c.active r).map fun e => (e, f (get va e) (get vb e))
  vdone (modRegs s fun _ => commit c 0 (dtCount dt r c c.b) (putMasks (maskOf vd) c.lanes r ps))

/-- MAND (R200). -/
def execMand (dt : Bool) (g : Fin 8) (vd va vb : VOp) (s : State) : Out :=
  runStream (.mand dt g vd va vb) 0 false g none none (maskBody dt vd va vb [4] fun a b => a && b) s
/-- MOR (R200). -/
def execMor (dt : Bool) (g : Fin 8) (vd va vb : VOp) (s : State) : Out :=
  runStream (.mor dt g vd va vb) 0 false g none none (maskBody dt vd va vb [4] fun a b => a || b) s
/-- MXOR (R200). -/
def execMxor (dt : Bool) (g : Fin 8) (vd va vb : VOp) (s : State) : Out :=
  runStream (.mxor dt g vd va vb) 0 false g none none (maskBody dt vd va vb [4] fun a b => a != b) s
/-- MANDN (R200). -/
def execMandn (dt : Bool) (g : Fin 8) (vd va vb : VOp) (s : State) : Out :=
  runStream (.mandn dt g vd va vb) 0 false g none none (maskBody dt vd va vb [4] fun a b => a && !b) s
/-- MSET (R200). -/
def execMset (dt : Bool) (g : Fin 8) (vd : VOp) (s : State) : Out :=
  runStream (.mset dt g vd) 0 false g none none (maskBody dt vd .none .none [5] fun _ _ => true) s
/-- MCLR (R200). -/
def execMclr (dt : Bool) (g : Fin 8) (vd : VOp) (s : State) : Out :=
  runStream (.mclr dt g vd) 0 false g none none (maskBody dt vd .none .none [5] fun _ _ => false) s

/-- MPOP and MFIRST (R201). -/
def countBody (dt first : Bool) (vd va : VOp) (env : Env) (s : State) : StreamResult := do
  let c := vctx s env
  operand vd [6] 1
  operand va [4] 1
  vcheck c tyAll true
  maskOperand va c.p
  let r := s.me.r
  let sel := selected r c va
  let v : Word := if first then ((sel.head?).map wordOfNat).getD (-1) else wordOfNat sel.length
  let s1 ← pushResult vd v (modRegs s fun _ => commit c 0 (dtCount dt r c c.b) r)
  vdone s1

/-- MPOP (R201). -/
def execMpop (dt : Bool) (g : Fin 8) (vd va : VOp) (s : State) : Out :=
  runStream (.mpop dt g vd va) 0 false g none none (countBody dt false vd va) s
/-- MFIRST (R201). -/
def execMfirst (dt : Bool) (g : Fin 8) (vd va : VOp) (s : State) : Out :=
  runStream (.mfirst dt g vd va) 0 false g none none (countBody dt true vd va) s

end Sys2Proof.Machine
end

