-- ==== Sys2Proof/Machine/Cell.lean ====
section
/-! DEFINITION. The wide cell: packed words, products, the leading check and extraction (R204 to R212, R224, R225), block
alignment (R37), and the place of words and bytes in a lane (R219). -/

namespace Sys2Proof.Machine

/-! ## Fields of packed words -/

/-- The operand fields of operand A, value t of R224 first (R120). -/
def fieldsA (f : Word) : List Nat :=
  if fConv f then List.range (fM f + fK f - 1)
  else (List.range (fM f)).flatMap fun m => (List.range (fK f)).map fun k => k + (2 * fK f - 1) * fN f * m

/-- The operand fields of operand B, value t of R224 first (R120). -/
def fieldsB (f : Word) : List Nat :=
  if fConv f then (List.range (fK f)).map fun k => fK f - 1 - k
  else (List.range (fN f)).flatMap fun n => (List.range (fK f)).map fun k => fK f - 1 - k + (2 * fK f - 1) * n

/-- The width b of the source values of an SFMT: 4, 8 or 16 bits, mb for block-aligned ones (R119, R37). -/
def sfmtBits (f : Word) : Nat :=
  match fSfmt f with
  | 0 => 4
  | 1 => 4
  | 2 => 8
  | 3 => 8
  | 4 => 16
  | 5 => 16
  | 6 => 4
  | 7 => 8
  | _ => 12

/-- SFMT is an unsigned integer format. -/
def sfmtUnsigned (f : Word) : Bool := fSfmt f == 1 || fSfmt f == 3 || fSfmt f == 5
/-- Operands are recentred: an unsigned SFMT with SIGNED = 0 (R204). -/
def recentred (f : Word) : Bool := !fSigned f

/-- The raw field i of a word. -/
def rawField (f : Word) (word i : Nat) : Nat := bitsOf word (fW f * i) (fW f)

/-- The operand value that a raw field reads as (R204). -/
def opvalOf (f : Word) (raw : Nat) : Int :=
  if fSigned f then signedOf raw (fW f) else (raw : Int) - (2 ^ (sfmtBits f - 1) : Nat)

/-- opval of R204. -/
def opval (f : Word) (word i : Nat) : Int := opvalOf f (rawField f word i)

/-- The integer that fields at given places make of values (R204). -/
def fieldSum (f : Word) (l : List (Nat × Int)) : Int :=
  (l.map fun p => (p.2 * ((2 ^ (fW f * p.1) : Nat) : Int) : Int)).sum

/-- Operand A of a word as the multiplier reads it. -/
def operandA (f : Word) (word : Nat) : Int := fieldSum f ((fieldsA f).map fun i => (i, opval f word i))
/-- Operand B of a word as the multiplier reads it. -/
def operandB (f : Word) (word : Nat) : Int := fieldSum f ((fieldsB f).map fun i => (i, opval f word i))
/-- A word of ones in every operand field of A (R210). -/
def onesA (f : Word) : Int := fieldSum f ((fieldsA f).map fun i => (i, 1))
/-- A word of ones in every operand field of B (R210). -/
def onesB (f : Word) : Int := fieldSum f ((fieldsB f).map fun i => (i, 1))

/-- The slot count S (R204). -/
def slotCount (f : Word) : Nat := fFieldsP f

/-! ## The leading check -/

/-- A product with its bias (R206). -/
def biased (f : Word) (p : Int) : Int :=
  p + ((List.range (slotCount f)).map fun s => ((2 ^ (fW f - 1 + fW f * s) : Nat) : Int)).sum

/-- Field s of an integer. -/
def intField (f : Word) (p : Int) (s : Nat) : Nat := lowBits (p / (2 ^ (fW f * s) : Nat)) (fW f)

/-- leading_ok of R206. -/
def leadingOk (f : Word) (x : Nat) : Bool :=
  let top := x >>> (fW f - 2)
  top == 1 || top == 2

/-- The lowest slot that fails the check of a product (R206). -/
def failingSlot (f : Word) (p : Int) : Option Nat :=
  let b := biased f p
  (List.range (slotCount f)).find? fun s => !leadingOk f (intField f b s)

/-- The value of slot s of a product, read from the biased product (R206, R209). -/
def slotValue (f : Word) (p : Int) (s : Nat) : Int := (intField f (biased f p) s : Int) - (2 ^ (fW f - 1) : Nat)

/-- A product that passes the check has a slot outside the declared leading: the headroom counter counts it (R207). -/
def headroomHit (f : Word) (p : Int) : Bool :=
  let b := biased f p
  let lim : Int := (2 ^ (fW f - fG f) : Nat)
  (List.range (slotCount f)).any fun s =>
    let c := (intField f b s : Int) - (2 ^ (fW f - 1) : Nat)
    decide (c < -lim) || decide (lim - 1 < c)

/-- The slot of the useful sum (m, n) (R205). -/
def usefulSlot (f : Word) (m n : Nat) : Nat :=
  if fConv f then fK f - 1 + m else (2 * fK f - 1) * (m * fN f + n) + fK f - 1

/-! ## Extraction (R209) -/

/-- extract_all of R209: windows from j on. -/
def extractFrom (xw xs : Nat) : Nat → Nat → Int → List Int
  | 0, _, _ => []
  | n + 1, j, rem =>
    let x := signedOf (lowBits (rem / (2 ^ (j * xs) : Nat)) xw) xw
    x :: extractFrom xw xs n (j + 1) (rem - x * (2 ^ (j * xs) : Nat))

/-- extract_all of R209. -/
def extractAll (f : Word) (p : Int) (count : Nat) : List Int := extractFrom (fXw f) (fXs f) count 0 p

/-! ## Packing (R224, R225) -/

/-- The range of a field's source values (R224). -/
def packRange (f : Word) : Int × Int :=
  let b := sfmtBits f
  if !fSigned f then (0, (2 ^ b : Nat) - 1)
  else if sfmtUnsigned f then (-(2 ^ b : Nat), (2 ^ b : Nat) - 1)
  else (-(2 ^ (b - 1) : Nat), (2 ^ (b - 1) : Nat) - 1)

/-- A value brought into its field's range: clamped with SX, or reduced modulo the size of the range (R224). -/
def packValue (f : Word) (sat : Bool) (v : Int) : Int × FlagSet :=
  let (lo, hi) := packRange f
  if lo ≤ v ∧ v ≤ hi then (v, 0)
  else if sat then (if v < lo then lo else hi, fSX)
  else
    let b := sfmtBits f
    if !fSigned f then ((lowBits v b : Int), 0)
    else if sfmtUnsigned f then (signedOf (lowBits v (b + 1)) (b + 1), 0)
    else (signedOf (lowBits v b) b, 0)

/-- A word whose fields hold values in two's complement; the rest of it is zero (R33, R224). -/
def packWord (f : Word) (l : List (Nat × Int)) : Nat := (l.map fun p => lowBits p.2 (fW f) <<< (fW f * p.1)).sum

/-- What VUNPACK reads of a field (R225). -/
def unpackField (f : Word) (word i : Nat) : Int :=
  if fSigned f then signedOf (rawField f word i) (fW f) else (rawField f word i : Int)

/-! ## Structured sparsity (R211, R212) -/

/-- The index of field k in the selector of a B word (R211). -/
def selIndex (word k : Nat) : Nat := bitsOf word (224 + 2 * k) 2

/-- d(k) of R211 for a ratio: the dense position that field k stands for. -/
def densePos (ratio word k : Nat) : Nat :=
  if ratio = 1 then k else if ratio = 2 then 4 * (k / 2) + selIndex word k else 4 * k + selIndex word k

/-- The selected operand A′: row m's values at the positions of B's selector, from its constituent words (R211). -/
def operandSel (f : Word) (ratio : Nat) (words : List Nat) (b : Nat) : Int :=
  if ratio = 1 then operandA f (words.headD 0)
  else
    let k := fK f
    fieldSum f ((List.range (fM f)).flatMap fun m => (List.range k).map fun j =>
      let d := densePos ratio b j
      let at_ (x : Nat) : Nat := x + (2 * k - 1) * fN f * m
      (at_ j, opval f (words.getD (d / k) 0) (at_ (d % k))))

/-- A sparse plan is refused (R212). -/
def sparseRefused (f slot : Word) : Bool :=
  slotSparse slot != 0 && (fConv f || (slotSparse slot == 1 && fK f % 2 == 1) || decide (224 < fW f * fFieldsB f))

/-! ## Block alignment (R37) -/

/-- A block exponent that marks a NaN block (R38). -/
def nanBlock : Int := -32768

/-- The value is finite and not zero. -/
def nonZero (v : Val) : Bool := match v with
  | .fin _ n _ => n != 0
  | _ => false

/-- The floor of log2 of the magnitude of a non-zero finite value. -/
def logOf (v : Val) : Int := match v with
  | .fin _ n d => floorLog2 n d
  | _ => 0

/-- The value is a NaN or an infinity. -/
def special (v : Val) : Bool := match v with
  | .fin _ _ _ => false
  | _ => true

/-- align_block of R37: the block exponent, the mantissas and the flags. -/
def alignBlock (mb : Nat) (xs : List Val) : Int × List Int × FlagSet :=
  if xs.any special then (nanBlock, xs.map fun _ => 0, fNV)
  else
    match (xs.filter nonZero).map logOf with
    | [] => (0, xs.map fun _ => 0, 0)
    | e :: es =>
      let x := es.foldl max e - (mb - 2 : Nat)
      (x, xs.map fun v => match v.scale (-x) with
        | .fin s n d => (roundToInt (.rnd 0) s n d).1
        | _ => 0, 0)

/-! ## Places in a lane (R108, R219) -/

/-- Where bit `pos` of the byte string of a lane in a register group lies in the group (R108). -/
def laneBit (lanes lane pos : Nat) : Nat := pos / 512 * (512 * lanes) + 512 * lane + pos % 512

/-- Read n bits of a lane of the v registers from a number on, within one 64-byte piece. -/
def getLane (r : Regs) (reg lanes lane pos n : Nat) : Nat :=
  let p := laneBit lanes lane pos
  wideGet (getV r (reg + p / regBits lanes)) (p % regBits lanes) n

/-- Write n bits of a lane of the v registers from a number on. -/
def setLane (r : Regs) (reg lanes lane pos n v : Nat) : Regs :=
  let p := laneBit lanes lane pos
  let i := reg + p / regBits lanes
  { r with v := vset r.v i (widePut (getV r i) (p % regBits lanes) n v) }

/-- Read n bits of a lane of a w register. -/
def getLaneW (r : Regs) (reg lanes lane pos n : Nat) : Nat := wideGet (vget r.w reg 0) (laneBit lanes lane pos) n

/-- Write n bits of a lane of a w register. -/
def setLaneW (r : Regs) (reg lanes lane pos n v : Nat) : Regs :=
  { r with w := vset r.w reg (widePut (vget r.w reg 0) (laneBit lanes lane pos) n v) }

/-- The lane of a PW element (R219). -/
def pwLane (lanes e : Nat) : Nat := e / 2 % lanes
/-- The lane-local word index of a PW element (R219). -/
def pwIndex (lanes e : Nat) : Nat := e / (16 * lanes) * 16 + 2 * (e % (16 * lanes) / (2 * lanes)) + e % 2
/-- The PW element at a lane-local word index. -/
def pwElem (lanes lane u : Nat) : Nat := u / 16 * (16 * lanes) + u % 16 / 2 * (2 * lanes) + 2 * lane + u % 2

/-- A packed word of an operand, by lane and lane-local index; a w register supplies its sixteen words again (R181). -/
def getWord (r : Regs) (o : VOp) (lanes lane u : Nat) : Nat :=
  match o with
  | .v n => getLane r n.val lanes lane (256 * u) 256
  | .w n => getLaneW r n.val lanes lane (256 * (u % 16)) 256
  | _ => 0

/-- Write a packed word of a v group. -/
def setWord (r : Regs) (reg lanes lane u v : Nat) : Regs := setLane r reg lanes lane (256 * u) 256 v

/-- Write a byte string of n registers into every lane of a run: lane ℓ takes the number `f ℓ` (R234). -/
def putRun (r : Regs) (reg lanes n : Nat) (f : Nat → Nat) : Regs :=
  (List.range lanes).foldl (fun r l =>
    let x := f l
    (List.range (8 * n)).foldl (fun r j => setLane r reg lanes l (512 * j) 512 (x >>> (512 * j))) r) r

end Sys2Proof.Machine
end

