-- ==== Sys2Proof/Machine/Access.lean ====
section
/-! DEFINITION. Vector accesses before anything is written: the object or galley they reach (R161, R162), the addresses of
their elements (R163 to R167), and the words that VLDPK and VSTPK lay out (R166, R226). -/

namespace Sys2Proof.Machine

/-! ## What an access reaches -/

/-- The object or the galley of a vector access, found and admitted. -/
inductive Target where
  | object (h : Nat) (r : Record)
  | galley (id : Nat) (d : Word)
  deriving DecidableEq, Repr

/-- Find the target of a handle for a kind of access (R71, R93, R162). -/
def findTarget (s : State) (h kind : Nat) (matrix : Bool) : Except TStop Target :=
  match galleyOf h with
  | some id =>
    if kind = 2 then .error (.fault { code := cPermission, info := addrInfo h kind 0 0 })
    else do
      let d ← openGalley s id kind matrix
      return .galley id d
  | none => do
    let r ← openRecord s (whoMe s) h kind
    return .object h r

/-- The memory format of a target, for an access of a type (R161, R162). -/
def Target.fmt (t : Target) (et : Nat) : Nat :=
  match t with
  | .object _ r => r.fmt
  | .galley _ _ => et

/-- The element width of a target, for an access of a type. -/
def Target.bits (t : Target) (et : Nat) : Nat := (etypeBits (t.fmt et)).getD 8

/-- The galley is sparse. -/
def Target.sparse (t : Target) : Bool :=
  match t with
  | .object _ _ => false
  | .galley _ d => gKind d == 1 || gKind d == 2

/-- The place of the index of value p of a sparse galley (R99). -/
def indexPlace (core : Nat) (d : Word) (p : Nat) : Place :=
  { core := some core, addr := gBase d + gSplit d + p / 4, bit := p % 4 * 2, bits := 2 }

/-- The position in the value area of a dense element of a sparse galley that was kept (R99). -/
def keptAt (s : State) (core : Nat) (d : Word) (i : Nat) : Option Nat :=
  ((List.range (gKeep d)).map fun j => i / 4 * gKeep d + j).find? fun p => readPlace s (indexPlace core d p) == i % 4

/-- The place of dense element i of a galley of width b: none of its bits where a sparse galley kept nothing (R93, R99). -/
def densePlace (s : State) (core : Nat) (d : Word) (b i : Nat) : Place :=
  if gKind d = 0 then galleyPlace core d b i
  else match keptAt s core d i with
    | some p => galleyPlace core d b p
    | none => { core := some core, addr := gBase d, bit := 0, bits := 0 }

/-- Element i, an index, of a galley of width b (R93). -/
def galleyIndex (s : State) (id kind : Nat) (d : Word) (b i off : Nat) : Except TStop Element :=
  let h := 0xFFF00 + id
  if gCapacity d * gBits d < (i + 1) * b then
    .error (.fault { code := 0x0C, info := addrInfo h kind 0 0, coord := [off] })
  else
    let lo := i * b / 8
    .ok { place := densePlace s s.me.core d b i, handle := h, lo := lo, hi := (i * b + b + 7) / 8, sub := 0, fmt := 0,
          coord := [off] }

/-- The element at an offset of a target (R65, R72, R93, R162). -/
def Target.element (s : State) (t : Target) (kind et : Nat) (off : Nat) : Except TStop Element :=
  let b := t.bits et
  let u := offsetUnit b
  match t with
  | .object h r =>
    if off % u ≠ 0 then .error (.fault (misaligned h kind (off / u) off))
    else translateIndex s (whoMe s) h kind r (off / u)
  | .galley id d =>
    if off % u ≠ 0 then .error (.fault (misaligned (0xFFF00 + id) kind (off / u) off))
    else galleyIndex s id kind d b (off / u) off

/-! ## Probing -/

/-- The fault of the highest priority among those of one element (R73, R163). -/
def worst (l : List TrapInfo) : Option TrapInfo :=
  l.foldl (fun m t => match m with
    | none => some t
    | some x => if t.code < x.code then some t else some x) none

/-- The index words that an element of a sparse galley is found by (R99). -/
def Target.indexWords (s : State) (t : Target) (et off : Nat) : List Place :=
  match t with
  | .object _ _ => []
  | .galley _ d =>
    if t.sparse then (List.range (gKeep d)).map fun j => indexPlace s.me.core d (off / offsetUnit (t.bits et) / 4 * gKeep d + j)
    else []

/-- The outcome of one address of an instruction, with the uncorrectable data that a read finds (R58, R170, R322). -/
def probeOne (s : State) (t : Target) (h kind et : Nat) (reads : Bool) (a : Option Word) : Except TrapInfo Element :=
  match a with
  | none => .error { code := cAddrForm, info := addrInfo h kind 0 0 }
  | some w =>
    match t.element s kind et (offsetOf w) with
    | .ok e =>
      if reads && (placeBad s e.place || (t.indexWords s et (offsetOf w)).any (placeBad s)) then
        .error { code := cUncorrectable, info := addrInfo h kind 0 0, coord := e.coord }
      else .ok e
    | .error (.fault f) => .error f
    | .error .moving => .error { code := cUncorrectable }

/-- The faults of a list of outcomes. -/
def faultsOf (l : List (Except TrapInfo Element)) : List TrapInfo :=
  l.filterMap fun r => match r with
    | .error f => some f
    | .ok _ => none

/-- The elements of a list of outcomes. -/
def elementsOf (l : List (Except TrapInfo Element)) : List Element :=
  l.filterMap fun r => match r with
    | .ok e => some e
    | .error _ => none

/-- Probe elements in order, each with the outcomes of the addresses it names: those below the first that faults, and its
fault of the highest priority (R170). -/
def probeAll (f : Nat → List (Except TrapInfo Element)) : List Nat → List (Nat × List Element) × Option TrapInfo
  | [] => ([], none)
  | e :: rest =>
    let rs := f e
    match worst (faultsOf rs) with
    | some t => ([], some { t with elem := e })
    | none =>
      let (more, t) := probeAll f rest
      ((e, elementsOf rs) :: more, t)

/-- Find the target of an access that touches at least one element, e0 the lowest: a fault of its handle is a fault of that
element, unless the element's own address is out of range (R163, R170). -/
def openAccess (s : State) (h kind : Nat) (matrix : Bool) (e0 : Nat) (a0 : Option Word) : Except Stop Target :=
  match findTarget s h kind matrix with
  | .ok t => .ok t
  | .error .moving => .error (.wait .moving)
  | .error (.fault f) =>
    match a0 with
    | none => .error (.trap { code := cAddrForm, elem := e0, info := addrInfo h kind 0 0 })
    | some _ => .error (.trap { f with elem := e0 })

/-- The reserved combination found at translation, which names the handle (R161, R226). -/
def reservedAt (h e : Nat) : Except Stop PUnit := .error (.trap { code := cReserved, elem := e, info := wordOfNat h })

/-! ## Formats (R161, R162) -/

/-- The pairings of a converting load. -/
def loadPair (et fmt : Nat) : Bool :=
  (et == fmt && decide (et ≤ 7)) || (decide (et ≤ 2) && decide (20 ≤ fmt) && decide (fmt ≤ 24)) ||
    ((decide (et ≤ 3) || et == 5) && decide (16 ≤ fmt) && decide (fmt ≤ 19))

/-- A galley admits an access of a type that is not one of the cells' (R162). -/
def galleyPair (t : Target) (b : Nat) : Bool :=
  match t with
  | .object _ _ => true
  | .galley _ d => decide (8 ≤ gBits d) && decide (8 ≤ b)

/-- A galley admits VLDB of a type under a SPARSE (R162, R226). -/
def vldbPair (t : Target) (et sparse : Nat) : Bool :=
  match t with
  | .object _ r => r.fmt == et
  | .galley _ d =>
    let b := (etypeBits et).getD 0
    let int := (decide (16 ≤ et) && decide (et ≤ 19)) || et == 5 || et == 6
    if gKind d = 0 then (gBits d != 4 || et == 18 || et == 19)
    else gKind d == sparse && int && b == gBits d

/-- A value of a memory format as an element of a register type, exactly (R161). -/
def widen (fmt et v : Nat) : Nat :=
  if fmt = et then v else (convert fmt et (.rnd 0) false (decodeVal fmt v)).1

/-! ## Packed layouts (R166, R226) -/

/-- The packing descriptor: ROLE, KLEN, RSTRIDE (R166). -/
def pkRole (d : Word) : Bool := bitAt d 0
/-- KLEN. -/
def pkLen (d : Word) : Nat := field d 8 20
/-- RSTRIDE. -/
def pkStride (d : Word) : Int := signedOf (field d 28 36) 36

/-- The fields of word j and the element (row, kk) that fills each, in the loop order of R166; none past KLEN. `ratio` is
that of ROLE 1 words formed from a sparse galley, whose kk then stands for the group of four (R226). -/
def pkFields (f : Word) (role : Bool) (klen ratio j : Nat) : List (Nat × Option (Nat × Nat)) :=
  let k := fK f
  let mk (fld row kk : Nat) : Nat × Option (Nat × Nat) := (fld, if kk < klen then some (row, kk) else none)
  if fConv f then
    if !role then
      let c := ceilDiv klen (fM f)
      (List.range (fM f + k - 1)).map fun i => mk i (j / c) (j % c * fM f + i)
    else
      let c := ceilDiv klen k
      (List.range k).map fun x => mk (k - 1 - x) (j / c) (j % c * k + x)
  else
    let c := ceilDiv klen (ratio * k)
    let r := j / c
    let p := j % c
    (List.range (if role then fN f else fM f)).flatMap fun x => (List.range k).map fun i =>
      if !role then mk (i + (2 * k - 1) * fN f * x) (r * fM f + x) (p * k + i)
      else mk (k - 1 - i + (2 * k - 1) * x) (r * fN f + x)
        (if ratio = 1 then p * k + i else if ratio = 2 then p * 2 * k + 4 * (i / 2) else p * 4 * k + 4 * i)

/-- The address of element (row, kk) (R166). -/
def pkAddr (base d : Word) (eu : Nat) (p : Nat × Nat) : Option Word := effAddr? base (p.1 * pkStride d + p.2 * eu)

/-- The memory formats that an SFMT takes (R166). -/
def pkFmtOk (sfmt fmt : Nat) : Bool :=
  match sfmt with
  | 0 => fmt == 18 || fmt == 19
  | 1 => fmt == 18 || fmt == 19
  | 2 => fmt == 16 || fmt == 17
  | 3 => fmt == 16 || fmt == 17
  | 4 => fmt == 5 || fmt == 6
  | 5 => fmt == 5 || fmt == 6
  | 6 => fmt == 24
  | 7 => fmt == 20 || fmt == 21 || fmt == 22 || fmt == 23
  | _ => fmt == 1 || fmt == 2

/-- The integer format of an SFMT (R166). -/
def sfmtType (sfmt : Nat) : Nat :=
  match sfmt with
  | 0 => 18
  | 1 => 19
  | 2 => 16
  | 3 => 17
  | 4 => 5
  | _ => 6

/-- The blocks (row, block) that a word takes fields from, in order (R166). -/
def pkBlocks (fs : List (Nat × Option (Nat × Nat))) : List (Nat × Nat) :=
  (fs.filterMap fun p => p.2.map fun q => (q.1, q.2 / 32)).eraseDups

/-- The number of the companion-plane entry of a coordinate: rows in order, each of its groups (R69). -/
def planeNumber (r : Record) (c : List Nat) : Nat :=
  let row := (((r.dims.filter (1 ≤ ·)).foldl (fun acc d => (acc.1 + c.getD d 0 * acc.2, acc.2 * r.shape d)) (0, 1))).1
  row * ceilDiv (r.shape 0) r.group + c.getD 0 0 / r.group

/-- The companion-plane entry of an element of an object (R69, R72, R77). -/
def planeElement (s : State) (w : Who) (h kind : Nat) (r : Record) (c : List Nat) : Except TStop Element := do
  let off := planeNumber r c * planeEntry r
  let img := planeStart r + off
  let st := imageTiles r + off / 65536
  let pa ← imageByte s w h r kind img st off c
  probe s h kind c pa (planeEntry r)
  return { place := { core := none, addr := pa, bit := 0, bits := 8 * planeEntry r }, handle := h, lo := img,
           hi := img + planeEntry r, sub := st, fmt := 25, coord := c }

/-! ## The side block (R221) -/

/-- The register and lane bit of entry x of side group k (R221). -/
def Tile.entry (t : Tile) (k x : Nat) : Nat × Nat := (t.base + k * t.sr + 8 * x / 512, 8 * (8 * x % 512))

/-- Read n bits at an offset of an entry of a side group in a lane. -/
def Tile.get (t : Tile) (r : Regs) (k lane x off n : Nat) : Nat :=
  let (reg, pos) := t.entry k x
  getLane r reg t.lanes lane (pos + off) n

/-- Write n bits at an offset of an entry of a side group in a lane. -/
def Tile.put (t : Tile) (k lane x off n v : Nat) (r : Regs) : Regs :=
  let (reg, pos) := t.entry k x
  setLane r reg t.lanes lane (pos + off) n v

/-- A side group is usable: it ends at v63 and overlaps no operand (R221). -/
def Tile.sideOk (t : Tile) (k : Nat) (others : List RegName) : Bool :=
  decide (t.base + (k + 1) * t.sr ≤ 64) && !(t.sideRegs k).any others.contains

end Sys2Proof.Machine
end

