-- ==== Sys2Proof/Machine/Grid.lean ====
section
/-! DEFINITION. The grid of cells over a tile: the checks of a tile (R217, R218), its places in z registers (R219), which A′
words take part (R220), and one MMA-class instruction's products, sums and reports (R214, R228 to R230). -/

namespace Sys2Proof.Machine

/-! ## Tiles -/

/-- The shape of a tile suits its instruction: VL within its limits, at most two z registers, a pair at z0 or z2 (R218). -/
def Tile.ok (t : Tile) (vl limit zd : Nat) : Bool :=
  decide (1 ≤ vl) && decide (vl ≤ limit) && decide (t.count ≤ 2048) && (decide (t.count ≤ 1024) || zd % 2 == 0)

/-- The number of a z operand. -/
def zNumber : VOp → Nat
  | .z n => n.val
  | _ => 0

/-- The 1,024 INT32 elements of a lane of a z register, as one number. -/
def laneZ (r : Regs) (z lanes lane : Nat) : Nat := if lane < lanes then wideGet (vget r.z z 0) (32768 * lane) 32768 else 0

/-- INT32 element i of a tile in a lane (R219). -/
def tileAt (r : Regs) (zd lanes lane i : Nat) : Nat := bitsOf (laneZ r (zd + i / 1024) lanes lane) (32 * (i % 1024)) 32

/-- Replace elements of one lane of one z register: local index and value. -/
def putLaneZ (r : Regs) (z lane : Nat) (l : List (Nat × Int)) : Regs :=
  let old := wideGet (vget r.z z 0) (32768 * lane) 32768
  let new := l.foldl (fun x p => putBits x (32 * p.1) 32 (lowBits p.2 32)) old
  { r with z := vset r.z z (widePut (vget r.z z 0) (32768 * lane) 32768 new) }

/-- Write elements of a tile: lane, local index, value. -/
def putTile (r : Regs) (zd lanes : Nat) (l : List (Nat × Nat × Int)) : Regs :=
  (List.range lanes).foldl (fun r lane => (List.range 2).foldl (fun r k =>
    match l.filterMap fun p =>
        if p.1 = lane ∧ p.2.1 / 1024 = k then some (p.2.1 % 1024, p.2.2) else none with
    | [] => r
    | q => putLaneZ r (zd + k) lane q) r) r

/-! ## Which words take part -/

/-- A′ word a of a lane takes part: every packed word it is built from is active (R220). -/
def takesPart (r : Regs) (t : Tile) (slot : Word) (lane a : Nat) : Bool :=
  (List.range t.ratio).all fun i => passes r t.lanes slot (pwElem t.lanes lane (a * t.ratio + i))

/-- The A′ words that take part, by lane and index. -/
def takingPart (r : Regs) (t : Tile) (slot : Word) : List (Nat × Nat) :=
  ((List.range t.lanes).flatMap fun l => (List.range t.rw).map fun a => (l, a)).filter fun p => takesPart r t slot p.1 p.2

/-- The element groups of the A registers that density-time skips (R202, R220). -/
def gridCount (dt : Bool) (r : Regs) (c : VCtx) : Counts := dtCount dt r { c with vl := c.f * 16 * c.lanes } 256

/-! ## Reports (R214, R230) -/

/-- A product that fails its check, or a sum that leaves INT32. -/
structure Trouble where
  group : Nat
  lane  : Nat
  a     : Nat
  b     : Nat
  pos   : Nat
  side  : Bool
  deriving DecidableEq, Repr

/-- The order in which troubles are reported: the lowest element group, lane, A word, B word, slot. -/
def Trouble.key (t : Trouble) : List Nat := [t.group, t.lane, t.a, t.b, t.pos]

/-- The lexicographic order. -/
def lexLt : List Nat → List Nat → Bool
  | x :: xs, y :: ys => decide (x < y) || (x == y && lexLt xs ys)
  | _, _ => false

/-- The trouble that is reported. -/
def firstTrouble (l : List Trouble) : Option Trouble :=
  l.foldl (fun m t => match m with
    | none => some t
    | some x => if lexLt t.key x.key then some t else some x) none

/-- Leading overflow, naming its slot (R306). -/
def leadingTrap (t : Trouble) : TrapInfo :=
  { code := cLeading, elem := t.group, info := wordOfNat (t.lane + t.a <<< 5 + t.b <<< 13 + t.pos <<< 17) }

/-- ACCOVF, naming the tile position or the side entry (R306). -/
def accTrap (t : Trouble) : TrapInfo :=
  { code := cAccOvf, elem := t.group,
    info := wordOfNat (t.lane + t.a <<< 5 + t.b <<< 13 + t.pos <<< 24 + bit t.side <<< 35) }

/-- The trap of an instruction with products that failed and sums that left INT32: leading overflow comes first (R230). -/
def troubles (leads accs : List Trouble) : Except TrapInfo PUnit :=
  match firstTrouble leads with
  | some t => .error (leadingTrap t)
  | none =>
    match firstTrouble accs with
    | some t => .error (accTrap t)
    | none => .ok ⟨⟩

/-- An INT32 value. -/
def inInt32 (i : Int) : Bool := decide (-(2 ^ 31 : Nat) ≤ i) && decide (i < (2 ^ 31 : Nat))

/-! ## Products -/

/-- One multiplication of the grid: where it stands, and its raw product. -/
structure Pairing where
  lane : Nat
  a    : Nat
  b    : Nat
  p    : Int
  deriving DecidableEq, Repr

/-- The element group that feeds A′ word a (R213, R219). -/
def Tile.group (t : Tile) (a : Nat) : Nat := a * t.ratio / 2

/-- The pairings that fail the check (R206). -/
def leadsOf (t : Tile) (ps : List Pairing) : List Trouble :=
  ps.filterMap fun x => (failingSlot t.f x.p).map fun s =>
    { group := t.group x.a, lane := x.lane, a := x.a, b := x.b, pos := s, side := false }

/-- How many multiplications the headroom counter counts (R207). -/
def hitsOf (f : Word) (ps : List Pairing) : Nat := (ps.filter fun x => headroomHit f x.p).length

/-- An addition that a multiplication makes to a tile position or a side entry. -/
structure Gain where
  at_  : Pairing
  pos  : Nat
  val  : Int
  deriving DecidableEq, Repr

/-- The gains of tile positions: the useful sums (R219, R229). -/
def tileGains (t : Tile) (ps : List Pairing) : List Gain :=
  ps.flatMap fun x => (List.range (fM t.f)).flatMap fun m => (List.range (fN t.f)).map fun n =>
    { at_ := x, pos := (x.a * fM t.f + m) * t.tc + x.b * fN t.f + n, val := slotValue t.f x.p (usefulSlot t.f m n) }

/-- The gains of row entries (R228, R229). -/
def rowGains (t : Tile) (ps : List Pairing) : List Gain :=
  ps.flatMap fun x => (List.range (fM t.f)).map fun m =>
    { at_ := x, pos := x.a * fM t.f + m, val := slotValue t.f x.p (usefulSlot t.f m 0) }

/-- The gains of column entries (R228). -/
def colGains (t : Tile) (ps : List Pairing) : List Gain :=
  ps.flatMap fun x => (List.range (fN t.f)).map fun n =>
    { at_ := x, pos := t.tr + x.b * fN t.f + n, val := slotValue t.f x.p (usefulSlot t.f 0 n) }

/-- The new values of gains over old ones, by lane and position. -/
def newValues (old : Nat → Nat → Int) (gs : List Gain) : List (Nat × Nat × Int) :=
  gs.map fun g => (g.at_.lane, g.pos, old g.at_.lane g.pos + g.val)

/-- The gains whose new value leaves INT32. -/
def accsOf (t : Tile) (side : Bool) (old : Nat → Nat → Int) (gs : List Gain) : List Trouble :=
  (gs.filter fun g => !inInt32 (old g.at_.lane g.pos + g.val)).map fun g =>
    { group := t.group g.at_.a, lane := g.at_.lane, a := g.at_.a, b := g.at_.b, pos := g.pos, side := side }

/-- The signed value of a tile position. -/
def oldTile (r : Regs) (zd : Nat) (t : Tile) (lane i : Nat) : Int := signedOf (tileAt r zd t.lanes lane i) 32

/-- The SUM of an entry of side group k (R221). -/
def oldSum (r : Regs) (k : Nat) (t : Tile) (lane x : Nat) : Int := signedOf (t.get r k lane x 32 32) 32

/-- Write SUM fields of side group k. -/
def putSums (t : Tile) (k : Nat) (r : Regs) (l : List (Nat × Nat × Int)) : Regs :=
  l.foldl (fun r p => t.put k p.1 p.2.1 32 32 (lowBits p.2.2 32) r) r

/-! ## MMA -/

/-- What an MMA-class instruction writes: tile positions, SUM fields of the side group, and the headroom count. -/
structure MmaOut where
  tile : List (Nat × Nat × Int)
  sums : List (Nat × Nat × Int)
  hits : Nat
  deriving DecidableEq, Repr

/-- The products of R229 over the A′ words `act`: `opA lane a b` is operand A′ under the selector of word b, `bw lane j` word j
of B, and `ones lane` the word whose selector A′ takes when row sums are formed in column 15 (MMAS). -/
def mmaCompute (t : Tile) (vl zd : Nat) (act : List (Nat × Nat)) (opA : Nat → Nat → Nat → Int) (bw : Nat → Nat → Nat)
    (ones : Option (Nat → Nat)) (r : Regs) : Except TrapInfo MmaOut := do
  let ps : List Pairing := act.flatMap fun p => (List.range vl).map fun j =>
    { lane := p.1, a := p.2, b := j, p := opA p.1 p.2 (bw p.1 j) * operandB t.f (bw p.1 j) }
  let qs : List Pairing := match ones with
    | none => []
    | some w => act.map fun p => { lane := p.1, a := p.2, b := 15, p := opA p.1 p.2 (w p.1) * onesB t.f }
  let gs := tileGains t ps
  let hs := rowGains t qs
  troubles (leadsOf t (ps ++ qs)) (accsOf t false (oldTile r zd t) gs ++ accsOf t true (oldSum r zd t) hs)
  return { tile := newValues (oldTile r zd t) gs, sums := newValues (oldSum r zd t) hs, hits := hitsOf t.f (ps ++ qs) }

/-- The registers with what an MMA-class instruction writes. -/
def MmaOut.write (o : MmaOut) (t : Tile) (zd : Nat) (r : Regs) : Regs :=
  putSums t zd (putTile r zd t.lanes o.tile) o.sums

/-- Counts of a headroom hit and of skipped groups. -/
def hitCounts (hits : Nat) (d : Counts) : Counts := { d with headroom := hits }

/-- The constituent words of A′ word a in a register group (R219). -/
def constituents (r : Regs) (o : VOp) (t : Tile) (lane a : Nat) : List Nat :=
  (List.range t.ratio).map fun i => getWord r o t.lanes lane (a * t.ratio + i)

/-- Operand A′ of a register group (R211). -/
def regOpA (r : Regs) (o : VOp) (t : Tile) (lane a b : Nat) : Int := operandSel t.f t.ratio (constituents r o t lane a) b

/-! ## MMAU (R231, R232) -/

/-- A field of the unfold descriptor of a lane: descriptor, bit position, width. -/
def unfoldField (r : Regs) (lanes lane u lo n : Nat) : Nat := getLaneW r 7 lanes lane (512 * u + lo) n

/-- Where the virtual element (row, kk) lies: nowhere (a constant) or at a galley element (R232). `f lo n` reads a field of
the descriptor. -/
def virtualElement (f : Nat → Nat → Nat) (row kk : Nat) : Nat ⊕ Nat :=
  let ch := f 32 16
  let kh := f 128 8
  let kw := f 136 8
  if kh * kw * ch ≤ kk then .inl 0
  else
    let ci := kk % ch
    let t := kk / ch
    let iy : Int := (row / f 96 16 * f 144 4 + t / kw * f 152 4 : Nat) - (f 160 8 : Int)
    let ix : Int := (row % f 96 16 * f 148 4 + t % kw * f 156 4 : Nat) - (f 168 8 : Int)
    if iy < 0 ∨ (f 64 16 : Int) ≤ iy ∨ ix < 0 ∨ (f 80 16 : Int) ≤ ix then .inl (f 48 16)
    else .inr (f 8 24 + (iy.toNat * f 80 16 + ix.toNat) * ch + ci)

/-- The unfold descriptor breaks a rule of R231, or K0 + off reaches 2^24 (R232). -/
def unfoldBad (f : Nat → Nat → Nat) (off : Nat) : Bool :=
  f 5 3 != 0 || f 176 16 != 0 || f 216 40 != 0 || f 256 256 != 0 || decide (2 ^ 24 ≤ f 192 24 + off) ||
    [f 32 16, f 64 16, f 80 16, f 96 16, f 128 8, f 136 8, f 144 4, f 148 4, f 152 4, f 156 4].any (· == 0)

/-- The dense positions that some word of B selects (R211). -/
def selectedPositions (f : Word) (ratio : Nat) (bs : List Nat) : List Nat :=
  (List.range (ratio * fK f)).filter fun d => ratio == 1 || bs.any fun b => (List.range (fK f)).any fun k => densePos ratio b k == d

/-- The key of the virtual element of row m of A′ word a of a lane at dense position d. -/
def unfoldKey (t : Tile) (lane a m d : Nat) : Nat := ((lane * t.rw + a) * fM t.f + m) * (t.ratio * fK t.f) + d

/-- A value of a key, or 0. -/
def lookupNat (l : List (Nat × Nat)) (k : Nat) : Nat := ((l.find? fun p => p.1 == k).map (·.2)).getD 0

/-- Operand A′ of MMAU, from the values of its virtual elements (R232). -/
def unfoldOpA (t : Tile) (vals : List (Nat × Nat)) (lane a b : Nat) : Int :=
  let k := fK t.f
  let w := sfmtBits t.f
  fieldSum t.f ((List.range (fM t.f)).flatMap fun m => (List.range k).map fun j =>
    let v := lookupNat vals (unfoldKey t lane a m (densePos t.ratio b j))
    let i : Int := if sfmtUnsigned t.f then (bitsOf v 0 w : Int) else signedOf v w
    (j + (2 * k - 1) * fN t.f * m, opvalOf t.f (lowBits i (fW t.f))))

end Sys2Proof.Machine
end

