-- ==== Sys2Proof/Machine/Landing.lean ====
section
/-! DEFINITION. What the registers become when the reads of a vector operation have performed (R161, R165, R166, R226, R232), and
the update of an element by a vector atomic (R168). -/

namespace Sys2Proof.Machine

/-! ## VLDPK -/

/-- A place that holds nothing and reads 0. -/
def nullPlace : Place := { core := none, addr := 0, bit := 0, bits := 0 }

/-- The mantissa width of block alignment of an SFMT (R37). -/
def blockBits (sfmt : Nat) : Nat := if sfmt = 6 then 4 else if sfmt = 7 then 8 else 12

/-- An element of a floating-point source with the code of its E8M0 scale (R32, R34). -/
def scaled (fmt x : Nat) (scale : Option Nat) : Val :=
  let v := decodeVal fmt x
  match scale with
  | none => v
  | some c => if c = 255 then .nan false else v.scale ((c : Int) - 127)

/-- The values of the 32 elements of a block: the elements, then their scales when the object carries them (R166). -/
def blockVals (fmt : Nat) (scales : Bool) (vs : List Nat) : List Val :=
  (List.range 32).map fun i => scaled fmt (vs.getD i 0) (if scales then some (vs.getD (32 + i) 127) else none)

/-- The blocks of a word, aligned (R37). -/
def blocksOf (sfmt fmt : Nat) (bs : List (Nat × Nat)) (vs : List Nat) : List ((Nat × Nat) × (Int × List Int × FlagSet)) :=
  let scales := decide (32 * bs.length < vs.length)
  let n := if scales then 64 else 32
  bs.zipIdx.map fun b => (b.1, alignBlock (blockBits sfmt) (blockVals fmt scales ((vs.drop (b.2 * n)).take n)))

/-- A packed word as VLDPK builds it: the word, the flags, and the exponents of its blocks. -/
structure Packed where
  word   : Nat
  flags  : FlagSet
  blocks : List ((Nat × Nat) × Int)
  deriving DecidableEq, Repr

/-- The word that fields and their values make (R166, R224). -/
def packFields (f : Word) (sat : Bool) (l : List (Nat × Int)) : Nat × FlagSet :=
  let vs := l.map fun p => (p.1, packValue f sat p.2)
  (packWord f (vs.map fun p => (p.1, p.2.1)), vs.foldl (fun a p => a ||| p.2.2) 0)

/-- Word j of VLDPK from what its places read (R166, R226). -/
def packLoaded (f : Word) (sat role : Bool) (klen ratio fmt j : Nat) (vs : List Nat) : Packed :=
  let fs := pkFields f role klen ratio j
  if sfmtInt f then
    let vals := fs.zipIdx.map fun p => (p.1.1, (decodeVal fmt (vs.getD p.2 0)).signed)
    let (w, fl) := packFields f sat vals
    let sel := if ratio = 1 then 0
      else ((List.range (fK f)).map fun k => (vs.getD (fs.length + k) 0 % 4) <<< (224 + 2 * k)).sum
    { word := w + sel, flags := fl, blocks := [] }
  else
    let bs := blocksOf (fSfmt f) fmt (pkBlocks fs) vs
    let vals := fs.map fun p => match p.2 with
      | none => (p.1, (0 : Int))
      | some q =>
        match bs.find? fun b => b.1 == (q.1, q.2 / 32) with
        | some b => (p.1, b.2.2.1.getD (q.2 % 32) 0)
        | none => (p.1, 0)
    let (w, fl) := packFields f sat vals
    { word := w, flags := bs.foldl (fun a b => a ||| b.2.2.2) fl, blocks := bs.map fun b => (b.1, b.2.1) }

/-- How many words a row of a packing takes, and the reduction indices of a word (R166, R226). -/
def pkStep (f : Word) (role : Bool) (ratio : Nat) : Nat := if fConv f && !role then fM f else ratio * fK f

/-- The first reduction index of word j (R166). -/
def pkFirst (f : Word) (role : Bool) (klen ratio j : Nat) : Nat :=
  j % ceilDiv klen (pkStep f role ratio) * pkStep f role ratio

/-- The side entries whose exponents word j gives: index among the rows or columns of the word, and its block (R226). In a
convolution, row m takes that of its first sample (log 24). -/
def pkEntries (f : Word) (role : Bool) (klen j : Nat) : List (Nat × (Nat × Nat)) :=
  let r := j / ceilDiv klen (pkStep f role 1)
  let kk := pkFirst f role klen 1 j
  if fConv f then
    if role then [(0, (r, kk / 32))] else (List.range (fM f)).map fun m => (m, (r, (kk + m) / 32))
  else
    let n := if role then fN f else fM f
    (List.range n).map fun x => (x, (r * n + x, kk / 32))

/-- The exponent that an entry takes: that of its block; in a convolution a later sample of the row from a NaN block makes it
that of a NaN block (R38, log 24). -/
def entryExponent (f : Word) (role : Bool) (klen j : Nat) (p : Packed) (e : Nat × (Nat × Nat)) : Int :=
  let at_ (b : Nat × Nat) : Int := ((p.blocks.find? fun x => x.1 == b).map (·.2)).getD 0
  let last := (pkFirst f role klen 1 j + e.1 + fK f - 1) / 32
  if fConv f && !role && at_ (e.2.1, last) == nanBlock then nanBlock else at_ e.2

/-- The side group into which the exponents of word j go (R226). -/
def pkGroup (f : Word) (role : Bool) (klen eu j : Nat) (base : Word) : Nat :=
  (offsetOf base / eu / 32 + pkFirst f role klen 1 j / 32) % 4

/-- Write the exponents of word j into the side block (R226). -/
def putExponents (t : Tile) (role : Bool) (klen eu j : Nat) (base : Word) (p : Packed) (r : Regs) : Regs :=
  let k := pkGroup t.f role klen eu j base
  (pkEntries t.f role klen j).foldl (fun r e =>
    let x := entryExponent t.f role klen j p e
    let one (lane entry : Nat) (r : Regs) : Regs := t.put k lane entry 16 8 127 (t.put k lane entry 0 16 (lowBits x 16) r)
    if role then (List.range t.lanes).foldl (fun r l => one l (t.tr + j * fN t.f + e.1) r) r
    else one (pwLane t.lanes j) (pwIndex t.lanes j / t.ratio * fM t.f + e.1) r) r

/-- A word reaches a v group, or every lane of a w register (R226). -/
def putPacked (vd : VOp) (lanes j w : Nat) (r : Regs) : Regs :=
  match vd with
  | .w n => (List.range lanes).foldl (fun r l => setLaneW r n.val lanes l (256 * j) 256 w) r
  | o => setElem r o lanes 256 j w

/-- What VLDPK makes of the registers. -/
def landPacked (f : Flight) (lanes fmt : Nat) (vd : VOp) (vals : List (Nat × Nat)) (r : Regs) : Regs :=
  let d := f.env.b
  let forme := f.env.forme
  let role := pkRole d
  let ratio := if role then slotRatio f.env.slot else 1
  let t := tileOf lanes f.env.slot forme f.env.vl
  let eu := offsetUnit ((etypeBits fmt).getD 8)
  let words := ((vals.map (·.1)).eraseDups).map fun j =>
    (j, packLoaded forme (slotSat f.env.slot) role (pkLen d) ratio fmt j
      ((vals.filter fun p => p.1 == j).map (·.2)))
  let r := words.foldl (fun r p => putPacked vd lanes p.1 p.2.word r) r
  let r := if sfmtInt forme then r
    else words.foldl (fun r p => putExponents t role (pkLen d) eu p.1 f.env.a p.2 r) r
  raise (slotStrip f.env.slot) (words.foldl (fun a p => a ||| p.2.flags) 0) r

/-! ## The other loads -/

/-- The registers after the values of a vector load have landed. -/
def landVector (f : Flight) (lanes fmt : Nat) (vals : List (Nat × Nat)) (r : Regs) : Regs :=
  let et := slotEtype f.env.slot
  let b := slotEbits f.env.slot
  let copy (vd : VOp) : Regs := vals.foldl (fun r p => setElem r vd lanes b p.1 (widen fmt et p.2)) r
  match f.instr with
  | .vld _ _ vd _ => copy vd
  | .vlds _ _ vd _ _ => copy vd
  | .vldt _ _ vd _ => copy vd
  | .vldx _ _ vd _ _ => copy vd
  | .vldb _ (.w n) _ =>
    vals.foldl (fun r p => (List.range lanes).foldl (fun r l => setLaneW r n.val lanes l (p.1 * b) b p.2) r) r
  | .vldpk _ _ vd _ _ => landPacked f lanes fmt vd vals r
  | _ => r

/-! ## MMAU -/

/-- The values of the virtual elements of an MMAU: those that its reads gave, and the constants (R232). -/
def unfoldVals (env : Env) (t : Tile) (r : Regs) (act : List (Nat × Nat)) (bw : Nat → Nat → Nat) (reads : List (Nat × Nat)) :
    List (Nat × Nat) :=
  reads ++ act.flatMap fun p => (List.range (fM t.f)).flatMap fun m =>
    (selectedPositions t.f t.ratio ((List.range env.vl).map (bw p.1))).filterMap fun d =>
      let f := unfoldField r t.lanes p.1 (slotUnfold env.slot)
      match virtualElement f (f 112 16 + p.2 * fM t.f + m) (f 192 24 + env.a.toNat + d) with
      | .inl v => some (unfoldKey t p.1 p.2 m d, v)
      | .inr _ => none

/-- What MMAU writes, from the registers that it reads and what its reads gave (R229, R232). -/
def mmauOut (env : Env) (lanes zd wb : Nat) (r : Regs) (reads : List (Nat × Nat)) : Except TrapInfo MmaOut :=
  let t := tileOf lanes env.slot env.forme env.vl
  let act := takingPart r t env.slot
  let bw (l j : Nat) : Nat := getLaneW r wb lanes l (256 * j) 256
  mmaCompute t env.vl zd act (unfoldOpA t (unfoldVals env t r act bw reads)) bw none r

/-- The registers after the values that MMAU reads have landed, or its trap. It reads what stood in the registers before it,
which nothing later has written. -/
def landMmau (f : Flight) (lanes : Nat) (vals : List (Nat × Nat)) : Except TrapInfo (Regs → Regs) :=
  match f.instr with
  | .mmau dt _ (.z zd) _ (.w wb) =>
    let t := tileOf lanes f.env.slot f.env.forme f.env.vl
    let c : VCtx := { slot := f.env.slot, lanes := lanes, et := 7, b := 256, f := slotF f.env.slot, vl := f.env.vl, vstart := 0 }
    match mmauOut f.env lanes zd.val wb.val f.before vals with
    | .error e => .error e
    | .ok o => .ok fun r => commit c 0 (hitCounts o.hits (gridCount dt f.before c)) (o.write t zd.val r)
  | _ => .ok id

/-! ## Vector atomics -/

/-- The operation of a vector atomic on two elements (R168): 0 ADD, 1 MAX, 2 MIN. -/
def vamoFn (fn : Nat) (slot : Word) (x y : Nat) : Nat × FlagSet :=
  let c : VCtx := { slot := slot, lanes := 4, et := slotEtype slot, b := slotEbits slot, f := 1, vl := 0, vstart := 0 }
  match fn with
  | 0 => opAdd false c x y 0
  | 1 => opPick true c x y 0
  | _ => opPick false c x y 0

/-- Which operation an instruction applies. -/
def vamoOf : Instr → Nat
  | .vamoadd _ _ _ _ _ => 0
  | .vamomax _ _ _ _ _ => 1
  | _ => 2

/-- The new value of an element that a vector atomic updates, and the flags (R168). -/
def vamoOp (f : Flight) (old v : Nat) : Nat × FlagSet := vamoFn (vamoOf f.instr) f.env.slot old v

end Sys2Proof.Machine
end

