-- ==== Sys2Proof/Machine/Issue.lean ====
section
/-! DEFINITION. Memory operations of a hart: their order (R173, R270 to R279), their issue and their performing. -/

namespace Sys2Proof.Machine

/-! ## Order -/

/-- The places an operation reaches in main memory. -/
def actionPlaces (a : Action) : List Place :=
  match a with
  | .store ws => ws.map (·.1)
  | .load _ ps _ _ => ps
  | .amo _ _ p _ _ => [p]
  | .vload _ ps => (ps.map (·.2)).filter fun p => p.bits != 0
  | .vamo us => us.map (·.1)
  | .mmau ps => ps.map (·.2)

/-- The places of an operation as they stand after a move. -/
def shiftAction (f : Place → Place) : Action → Action
  | .store ws => .store (ws.map fun w => (f w.1, w.2))
  | .load sd ps n sg => .load sd (ps.map f) n sg
  | .amo fn sd p a e => .amo fn sd (f p) a e
  | .vload fmt ps => .vload fmt (ps.map fun p => (p.1, f p.2))
  | .vamo us => .vamo (us.map fun u => (f u.1, u.2))
  | .mmau ps => .mmau (ps.map fun p => (p.1, f p.2))

/-- A pseudo-channel that an operation needs is in its back-off window (R57). -/
def backoffHolds (s : State) (a : Action) : Bool := backoffAt s (memoryBytes (actionPlaces a))

/-- The elements that an access reads, by their numbers, as a fault of their data names them (R58). -/
def marksOf (es : List (Nat × Element)) : List Mark :=
  es.map fun x => { place := x.2.place, handle := x.2.handle, elem := x.1, coord := x.2.coord }

/-- The kind of access by which an operation reads data (R71). -/
def readKind (f : Flight) : Nat := if f.writes then 2 else 0

/-- The precise trap of an operation that reads data in error, its first such element named (R58, R63). -/
def dataTrap (s : State) (f : Flight) : Option TrapInfo :=
  (f.marks.find? fun m => placeBad s m.place || f.lost.contains m.place).map fun m =>
    { code := cUncorrectable, elem := m.elem, coord := m.coord, info := addrInfo m.handle (readKind f) 0 0 }

/-- An operation may perform, but for a back-off window (R273). An MMAU that still waits when its bank is swapped out waits for the swap
back (R233, R258), as does a trap; a trap waits for every earlier instruction besides (R304). -/
def mayPerform (s : State) (h : Hart) (f : Flight) : Bool :=
  !orderBlocked s h f false && (!isMmau f || h.bank == .active) &&
    ((dataTrap s f).isNone || (h.bank == .active && !h.flights.any fun x => unsettled (stuck s h) x && decide (x.seq < f.seq)))

/-- An operation may perform (R57, R273). -/
def canPerform (s : State) (h : Hart) (f : Flight) : Bool := mayPerform s h f && !backoffHolds s f.action

/-! ## Performing -/

/-- Two places share a byte. -/
def meets (p q : Place) : Bool := p.core == q.core && (placeBytes p).any (placeBytes q).contains

/-- The buffered stores, earlier than an operation, whose values it receives: those it overlaps through the handle of the store, whose
stream it is ordered after, or whose value a load has received that it is ordered after (R138, R175, R277, R279). -/
def ownStores (h : Hart) (f : Flight) : List StripStore :=
  h.r.strip.stores.filter fun x =>
    decide (x.seq < f.seq) && (anyOverlap x.spans f.spans || f.pmask.getLsbD x.stream ||
      h.lent.any fun l => decide (l.seq < f.seq) && f.pmask.getLsbD l.stream && l.sources.contains x.seq)

/-- What a hart reads at a place of a handle: the bytes of its buffered strip stores that are earlier than the operation
stand before memory (R138, R175). -/
def viewPlace (s : State) (h : Hart) (f : Flight) (p : Place) : Nat :=
  let own := ((ownStores h f).flatMap (·.writes)).filter fun w => meets w.1 p
  if own.isEmpty then readPlace s p else readBits (own.foldl (fun m w => writeBits m w.1 w.2) (cellsOf s p.core)) p

/-- The value of a scalar load: its places one after another, extended (R136). -/
def loadValue (s : State) (h : Hart) (f : Flight) (ps : List Place) (n : Nat) (signed : Bool) : Word :=
  let v := ps.foldr (fun p acc => viewPlace s h f p + acc <<< p.bits) 0
  if signed then wordOfInt (signedOf v (8 * n)) else wordOfNat v

/-- The new value of a scalar atomic (R139). -/
def amoValue (fn : Nat) (old b expected : Word) : Word :=
  match fn with
  | 0 => old + b
  | 1 => b
  | 2 => if old = expected then b else old
  | 3 => old &&& b
  | 4 => old ||| b
  | 5 => old ^^^ b
  | 6 => if old.slt b then old else b
  | 7 => if old.slt b then b else old
  | 8 => if old.ult b then old else b
  | _ => if old.ult b then b else old

/-- A result reaches a scalar destination of a hart, and the registers to which a trap of a later instruction returns
(R6, R87). -/
def deliver (s : State) (hid seq : Nat) (sd : SOp) (v : Word) : State :=
  modHart s hid fun h => landRegs h seq fun r =>
    match sd with
    | .s n => setX r n.val v
    | .q k => { r with q := r.q.set k (r.q[k] ++ [v]) }

/-- Bit j of a place, as a place. -/
def bitOf (p : Place) (j : Nat) : Place :=
  let k := (p.bit + j) / 8
  { core := p.core, addr := if k = 0 then p.addr else p.next.getD (p.addr + k), bit := (p.bit + j) % 8, bits := 1 }

/-- The bits of a write that another place does not cover, one write each. -/
def uncovered (q : Place) (w : Place × Nat) : List (Place × Nat) :=
  if !meets w.1 q then [w]
  else
    let covered := (List.range q.bits).map (bitOf q)
    (List.range w.1.bits).filterMap fun j =>
      if covered.contains (bitOf w.1 j) then none else some (bitOf w.1 j, w.2 >>> j % 2)

/-- A store that performs outside the strip comes after the buffered stores before it that it is ordered behind: what it writes
stays when they perform, also once the hart has gone back to a later instruction (R6, R175, R277, R279). -/
def trimStrip (f : Flight) (ws : List (Place × Nat)) (h : Hart) : Hart :=
  let own := (ownStores h f).map (·.seq)
  let trim (x : StripStore) : StripStore :=
    if own.contains x.seq then { x with writes := ws.foldl (fun l w => l.flatMap (uncovered w.1)) x.writes } else x
  landRegs h f.seq fun r => { r with strip := { r.strip with stores := r.strip.stores.map trim } }

/-- What an operation does when it performs (R270). -/
def performAction (s : State) (h : Hart) (f : Flight) : State :=
  let land (g : Regs → Regs) : State := modHart s h.hid fun h => landRegs h f.seq g
  match f.action with
  | .store ws =>
    if f.released || h.r.strip.stores.isEmpty then writePlaces s ws
    else modHart (writePlaces s ws) h.hid (trimStrip f ws)
  | .load sd ps n signed => deliver s h.hid f.seq sd (loadValue s h f ps n signed)
  | .amo fn sd p b expected =>
    let old := wordOfNat (readPlace s p)
    let v := amoValue fn old b expected
    let s := if fn = 2 ∧ old ≠ expected then s else writePlaces s [(p, v.toNat)]
    deliver s h.hid f.seq sd old
  | .vload fmt ps => land (landVector f (lanesOf h) fmt (ps.map fun p => (p.1, viewPlace s h f p.2)))
  | .vamo us =>
    us.foldl (fun s u =>
      let (v, fl) := vamoOp f (readPlace s u.1) u.2
      let s := writePlaces s [(u.1, v)]
      if fl = 0 then s else modHart s h.hid fun h => landRegs h f.seq (raise false fl)) s
  | .mmau ps =>
    match landMmau f (lanesOf h) (ps.map fun p => (p.1, readPlace s p.2)) with
    | .ok g => land g
    | .error _ => s

/-- The precise trap that an MMAU takes when its reads have performed: the hart goes back to before it (R230, R233). -/
def mmauTrap (s : State) (h : Hart) (f : Flight) : Option TrapInfo :=
  match f.action with
  | .mmau ps =>
    match landMmau f (lanesOf h) (ps.map fun p => (p.1, readPlace s p.2)) with
    | .error t => some t
    | .ok _ => none
  | _ => none

/-- The buffered stores of which a load receives bytes (R270). -/
def lentBy (h : Hart) (f : Flight) : List Nat :=
  if !plainAccess f.action || f.writes then []
  else ((ownStores h f).filter fun x => x.writes.any fun w => (actionPlaces f.action).any (meets w.1)).map (·.seq)

/-- What is kept of an operation that performs: that it received buffered values, and that an earlier instruction may still
discard it (R6, R270). -/
def keepPerformed (f : Flight) (sources : List Nat) (h : Hart) : Hart :=
  let e : Lent := { seq := f.seq, stream := f.stream, sources := sources }
  pruneLate { h with lent := (h.lent ++ if sources.isEmpty then [] else [e]).filter fun l => l.sources.any (stillUnperformed h),
                     late := h.late ++ if f.released && f.seq != f.env.seq then [] else [(f.seq, f.stream)] }

/-- Counts of a hart reach its core once no earlier instruction can trap (R264). -/
def settleHart (s : State) (hid : Nat) : State :=
  match hartOf s hid with
  | none => s
  | some h =>
    if h.flights.any unretired ∨ h.r.counts = Counts.zero then s
    else
      modHart (modCore s h.core fun c => addCore c h.r.counts) hid fun h => { h with r := { h.r with counts := Counts.zero } }

/-- What an operation that performs reads of memory is corrected (R58). -/
def correctFor (s : State) (f : Flight) : State :=
  match f.action with
  | .store _ => s
  | a => if s.softMem.isEmpty then s else correctReads s (memoryBytes (actionPlaces a))

/-- The operation is of a vector access that reads what it traps on: its trap arms (R312). -/
def armsLate (f : Flight) : Bool :=
  match f.action with
  | .vload _ _ => true
  | .vamo _ => true
  | _ => false

/-- An operation of a hart that has issued traps on what it reads: the hart goes back to before it, and the trap is taken; one in progress
mode executes again instead, and completes the elements below the one in error as it finds that (R58, R170, R304, R312). -/
def lateTrap (s : State) (f : Flight) (t : TrapInfo) : State :=
  let u := rollback f s
  if f.env.armed && armsLate f && f.lost.isEmpty then u else preciseTrap u t (lossSlot f.instr f.env.slot) false (armsLate f)

/-- An operation of a hart performs: its effect, its count, and it is no longer outstanding (R153, R270). -/
def performFlight (s : State) (hid : Nat) (f : Flight) : State :=
  match hartOf s hid with
  | none => s
  | some h =>
    match (dataTrap s f).or (mmauTrap s h f) with
    | some t => lateTrap (focus s hid) f t
    | none =>
      let t := modHart (performAction (correctFor s f) h f) hid fun g =>
        keepPerformed f (lentBy h f) (countPerf
          { g with flights := g.flights.filter fun x => x.parked || x.seq != f.seq || x.released != f.released } f.stream)
      if isMmau f then settleHart t hid else t

/-! ## Issue -/

/-- Operations of a stream that have issued and not performed (R153). -/
def outstanding (h : Hart) (stream : Nat) : Nat := (vget h.issued stream 0 - vget h.perf stream 0).toNat

/-- Buffered stores of a stream in the open strip. -/
def stripCount (h : Hart) (stream : Nat) : Nat := (h.r.strip.stores.filter fun x => x.stream == stream).length

/-- The stream takes one more operation, or the instruction waits, or takes STRIPFULL when all that is outstanding are
stores in the open strip (R153, R274). -/
def streamRoom (s : State) (stream : Nat) : Except Stop PUnit :=
  let n := outstanding s.me stream
  if n < 1023 then .ok ⟨⟩
  else if stripCount s.me stream = n then trapOf cStripFull
  else waitFor .limit

/-- Entries of the interlock table in use (R173). -/
def tableUsed (s : State) : Nat :=
  (s.me.flights.filter fun f => !f.parked && !f.released).length +
    ((s.transfers.filter fun t => t.owner == some s.me.hid && ordersOthers t).map fun t =>
      (t.spans.filter fun x => decide (x.lo < x.hi)).length).sum

/-- The interlock table can supply n entries (R173). -/
def tableRoom (s : State) (n : Nat) : Except Stop PUnit := holds (decide (tableUsed s + n ≤ 64)) .limit

/-- Count an operation as issued (R153). -/
def countIssued (h : Hart) (stream : Nat) : Hart :=
  { h with issued := vset h.issued stream (vget h.issued stream 0 + 1) }

/-- An operation that has issued waits; its age is taken from the count that names transfers (R57). -/
def keepFlight (s : State) (f : Flight) : State :=
  modMe { s with nextUid := s.nextUid + 1 } fun h => { h with flights := h.flights ++ [{ f with born := s.nextUid }] }

/-- Issue an operation: it performs at once when nothing is before it, and otherwise stays outstanding (R273). -/
def issueOp (s : State) (f : Flight) : Except Stop State := do
  streamRoom s f.stream
  tableRoom s 1
  let s1 := modMe s fun h => countIssued h f.stream
  if canPerform s1 s1.me f && !s1.me.defer then
    return performFlight s1 s1.me.hid f
  else
    return keepFlight s1 f

/-- The registers before the instruction that a step starts, with what it had popped while it waited at the heads of their queues: those of
its dispatch for one that waited to start (R6, R111). -/
def originOf (s : State) (seq : Nat) : Regs :=
  match s.me.flights.find? fun f => f.parked && f.seq == seq with
  | some f => f.before
  | none => (unpopHart s.me).r

/-- The operation of an instruction under an environment, with the elements whose data it reads; `s` is the state in which the instruction
started. -/
def opOf (i : Instr) (env : Env) (s : State) (spans : List Span) (writes : Bool) (action : Action) (marks : List Mark := []) :
    Flight :=
  { seq := env.seq, instr := i, env := env, parked := false, checked := true, why := none, before := originOf s env.seq,
    stream := slotStream env.slot, pmask := effPmask env.slot env.strong, scope := slotScope env.slot, spans := spans,
    writes := writes, action := action, released := false, marks := marks }

/-- The bounding range of elements of one handle (R173). -/
def boundSpan (handle : Nat) (es : List Element) : List Span :=
  match es with
  | [] => []
  | e :: rest =>
    [{ handle := handle, lo := rest.foldl (fun m x => Nat.min m x.lo) e.lo,
       hi := rest.foldl (fun m x => Nat.max m x.hi) e.hi }]

/-! ## The strip buffer -/

/-- The 64-byte lines of a handle that elements cover (R176). -/
def linesOf (handle : Nat) (es : List Element) : List (Nat × Nat) :=
  (es.flatMap fun e => (List.range ((e.hi - 1) / 64 - e.lo / 64 + 1)).map fun i => (handle, e.lo / 64 + i)).eraseDups

/-- The lines the strip of a hart can hold (R176). -/
def stripLines (h : Hart) : Nat := 256 / 2 ^ h.nh

/-- Buffer a store in the open strip, or take STRIPSTATE with none open and STRIPFULL when its lines do not fit (R138,
R175, R176). -/
def bufferStore (s : State) (f : Flight) (handle : Nat) (es : List Element) (ws : List (Place × Nat)) :
    Except Stop State := do
  let st := s.me.r.strip
  ensure st.isOpen cStripState
  streamRoom s f.stream
  let held := (st.stores.flatMap (·.lines)).eraseDups
  let need := (linesOf handle es).filter fun l => !held.contains l
  ensure (decide (held.length + need.length ≤ stripLines s.me)) cStripFull
  holds (!(s.me.flights.any fun y => !y.parked && decide (y.seq < f.seq) && y.released && anyOverlap y.spans f.spans))
    .ordering
  let x : StripStore :=
    { seq := f.seq, stream := f.stream, pmask := f.pmask, scope := f.scope, spans := f.spans, lines := linesOf handle es,
      writes := ws }
  return modMe s fun h =>
    let h := countIssued h f.stream
    { h with r := { h.r with strip := { h.r.strip with stores := insertStore h.r.strip.stores x } } }

/-! ## Scalar accesses -/

/-- What dispatch would capture, for a scalar memory instruction: its slot and its place in program order. No instruction that captures no
more honours the slot's ETYPE, so none refuses a narrow type in it (R26, R115, R136, R243, log 70). -/
def scalarEnv (s : State) (g : Fin 8) : Env :=
  let r := s.me.r
  { seq := s.me.nextSeq, slot := r.g[g], slot2 := 0, forme := 0, vl := 0, vstart := 0, prog := 0, rows := 0, pitch := 0,
    a := 0, b := 0, armed := false, strong := s.me.strong, pc := r.pc }

/-- A scalar memory operation takes its place in program order. -/
def nextSeq (s : State) : State := modMe s fun h => { h with nextSeq := h.nextSeq + 1 }

/-- The elements of a scalar access that reads them: the lowest one that faults, uncorrectable data among the causes, is reported
(R58, R73, R136, R322). -/
def loadElements (s : State) (kind : Nat) (a : Word) (n : Nat) : Except Stop (List Element) :=
  accessElementsIf (placeBad s) s kind a n

/-- What an access leaves in the caches of the core (R74). -/
def touchElements (s : State) (es : List Element) : State :=
  match es with
  | [] => s
  | e :: _ => if (galleyOf e.handle).isSome then s else touchHandle s (whoMe s) e.handle (es.flatMap (·.subs))

end Sys2Proof.Machine
end

