-- ==== Sys2Proof/Machine/Copy.lean ====
section
/-! DEFINITION. Copies: the descriptor (R85, R86, R94), the sides and places of its elements, blocks (R88), the count of bytes
that have arrived (R97), and the end of a copy (R89 to R91, R95). -/

namespace Sys2Proof.Machine

/-! ## The descriptor (R85) -/

/-- A latched copy register. -/
def cw (l : Vector Word 16) (i : Nat) : Word := vget l i 0
/-- Extent of a dimension. -/
def cE (l : Vector Word 16) (d : Nat) : Nat := field (cw l 2) (16 * d) 16
/-- Source stride of a dimension. -/
def cSS (l : Vector Word 16) (d : Nat) : Int := signedOf (field (cw l (3 + d / 2)) (32 * (d % 2)) 32) 32
/-- Destination stride of a dimension. -/
def cDS (l : Vector Word 16) (d : Nat) : Int := signedOf (field (cw l (5 + d / 2)) (32 * (d % 2)) 32) 32
/-- MODE. -/
def cMode_ (l : Vector Word 16) : Nat := field (cw l 7) 0 2
/-- COMP. -/
def cComp (l : Vector Word 16) : Nat := field (cw l 7) 2 3
/-- DKIND: v registers. -/
def cRegs (l : Vector Word 16) : Bool := bitAt (cw l 7) 5
/-- The number of elements. -/
def cCount (l : Vector Word 16) : Nat := cE l 0 * cE l 1 * cE l 2 * cE l 3

/-- The copy index of element k (R85). -/
def copyIndex (l : Vector Word 16) (k : Nat) : List Nat :=
  [k % cE l 0, k / cE l 0 % cE l 1, k / (cE l 0 * cE l 1) % cE l 2, k / (cE l 0 * cE l 1 * cE l 2)]

/-- A displacement of an index under strides. -/
def stridden (st : Nat → Int) (ix : List Nat) : Int := (ix.zipIdx.map fun p => (p.1 : Int) * st p.2).sum

/-- The largest or smallest displacement of a copy under strides, its dimension 3 widened n times (R85, R248). -/
def strideEnd (l : Vector Word 16) (n : Nat) (st : Nat → Int) (pick : Int → Int → Int) : Int :=
  ((List.range 4).map fun d => ((cE l d * (if d = 3 then n else 1) : Nat) - 1 : Int) * pick (st d) 0).sum

/-! ## Sides -/

/-- A side of a copy: an object, a galley of the core, the v registers from a number on, or a handle that does not resolve. -/
inductive Side where
  | object (h : Nat) (r : Record)
  | galley (id : Nat) (d : Word)
  | regs (first : Nat)
  | failed (code : Nat)
  | held
  deriving DecidableEq, Repr

/-- The side that an address names for a kind of access (R71, R93). -/
def sideOf (s : State) (w : Who) (core : Nat) (a : Word) (kind : Nat) : Side :=
  match galleyOf (handleOf a) with
  | some id => .galley id (galley s core id)
  | none =>
    match openRecord s w (handleOf a) kind with
    | .ok r => .object (handleOf a) r
    | .error (.fault t) => .failed t.code
    | .error .moving => .held

/-- The width in bits of the elements of a side; none where it gives none. -/
def Side.bits : Side → Option Nat
  | .object _ r => some r.bits
  | .galley _ d => some (gBits d)
  | _ => none

/-- A failing handle still names a record with a width, when only its permission fails. -/
def widthOf (s : State) (w : Who) (core : Nat) (a : Word) : Option Nat :=
  match galleyOf (handleOf a) with
  | some id => some (gBits (galley s core id))
  | none =>
    match lookupRecord s w (handleOf a) 0 with
    | .ok r => some r.bits
    | .error _ => none

/-- KIND of a galley side, 0 for any other. -/
def Side.kind : Side → Nat
  | .galley _ d => gKind d
  | _ => 0

/-- The place of the element at a logical index of a side, or the cause it fails with (R72, R85, R93). -/
def Side.place (s : State) (w : Who) (core : Nat) (kind : Nat) (a : Word) (disp : Int) : Side → Except Nat (Place × Nat)
  | .object h r =>
    let u := offsetUnit r.bits
    if offsetOf a % u ≠ 0 then .error 0x0B
    else
      let i : Int := (offsetOf a / u : Nat) + disp
      if i < 0 ∨ (2 ^ 44 : Nat) ≤ i * u then .error 0x0C
      else match translateIndex s w h kind r i.toNat with
        | .ok e => .ok (e.place, e.sub)
        | .error (.fault t) => .error t.code
        | .error .moving => .error 0x0C
  | .galley _ d =>
    let u := offsetUnit (gBits d)
    if offsetOf a % u ≠ 0 then .error 0x0B
    else
      let i : Int := (offsetOf a / u : Nat) + disp
      if i < 0 ∨ (gCapacity d : Int) ≤ i then .error 0x0C
      else .ok (galleyPlace core d (gBits d) i.toNat, 0)
  | .regs _ => .ok ({ core := none, addr := 0, bit := 0, bits := 0 }, 0)
  | .failed c => .error c
  | .held => .error 0x0C

/-- The status code of a cause (R90); beside it the word names the element, for a sub-tile that is not resident as for any other cause
(R78, R89, log 74). -/
def statusOf (cause : Nat) : Nat := if cause ≤ 0x08 then 0x10 else cause + 8

/-! ## Checks at issue (R86, R94) -/

/-- COMP fits the kinds of the two sides (R94). -/
def compOk (comp mode src dst : Nat) : Bool :=
  decide (comp ≤ 5) && (if dst = 1 ∨ dst = 2 then comp == dst else if dst = 3 then comp == 4 else !(comp == 1 || comp == 2 || comp == 4)) &&
    (if src = 1 ∨ src = 2 then comp == 3 else if src = 3 then comp == 5 else !(comp == 3 || comp == 5)) &&
    !(mode == 1 && (comp == 3 || comp == 5))

/-- GMASK of the context for which a transfer acts (R92). -/
def gmaskOf (s : State) (t : Transfer) : BitVec 32 := ((t.owner.bind (hartOf s)).map (·.gmask)).getD (ctxGmask s t.ctx)

/-- Where byte i of a code table lies (R102): in an object of whole bytes, or in a plain galley of bytes that the context may use
(R92). DESIGN CHOICE (log 98): the spec does not say which galleys and objects CODET may name; the model takes a plain galley of 8-bit
elements in any declared state, and refuses an object of elements narrower than 8 bits. -/
def codeByte (s : State) (w : Who) (core : Nat) (gmask : BitVec 32) (a : Word) (i : Nat) : Except TStop Place :=
  let h := handleOf a
  let off := offsetOf a + i
  match galleyOf h with
  | some id =>
    let d := galley s core id
    if !galleyUsable s w.ctx core gmask id || gKind d != 0 || gBits d != 8 then .error (.fault { code := 0x08 })
    else if gSize d ≤ off then .error (.fault { code := 0x0C })
    else .ok (galleyPlace core d 8 off)
  | none => do
    let r ← openRecord s w h 4
    let es := r.bits / 8
    if r.bits < 8 ∨ offsetOf a % es ≠ 0 then .error (.fault { code := 0x0B })
    else
      let e ← translateIndex s w h 4 r (off / es)
      return { e.place with addr := e.place.addr + off % es, bits := 8 }

/-- Where the 128 bytes of a code table lie, or why CODET does not resolve (R102). -/
def codePlaces (s : State) (w : Who) (core : Nat) (gmask : BitVec 32) (a : Word) : Except TStop (List Place) :=
  (List.range 128).mapM (codeByte s w core gmask a)

/-- CODET does not resolve (R86). A table that is being moved resolves, and its read waits (R79). -/
def codeBad (s : State) (w : Who) (core : Nat) (gmask : BitVec 32) (a : Word) : Bool :=
  match codePlaces s w core gmask a with
  | .error (.fault _) => true
  | _ => false

/-- The element width of a copy: that of its source, of its destination, or of the ETYPE of its slot (R85). DESIGN CHOICE (log 100):
where none of them gives one, as for a copy into v registers whose source does not resolve, the checks of size and span take 32 bits. -/
def copyWidth (l : Vector Word 16) (slot : Word) (src dst : Option Nat) : Nat :=
  let own := if cMode_ l = 1 then (if cRegs l then etypeBits (slotEtype slot) else dst) else src
  (own.or dst).getD 32

/-- The number of v registers that a copy into them spans, its dimension 3 widened n times (R85). -/
def wideSpan (l : Vector Word 16) (n lanes b : Nat) : Nat :=
  (strideEnd l n (cDS l) max).toNat * b / 8 / (512 * lanes) + 1

/-- The number of v registers that a copy spans (R85). -/
def regSpan (l : Vector Word 16) (lanes b : Nat) : Nat := wideSpan l 1 lanes b

/-- The first v register of a copy. -/
def cFirst (l : Vector Word 16) : Nat := field (cw l 1) 0 6

/-- The registers a copy into v registers spans. -/
def copyRegs (l : Vector Word 16) (lanes b : Nat) : List RegName := runRegs (cFirst l) (regSpan l lanes b)

/-- The v registers from DST on cannot be a destination of elements of b bits, dimension 3 widened n times (R85, R86). -/
def badRegs (l : Vector Word 16) (n lanes b : Nat) : Bool :=
  field (cw l 1) 6 58 != 0 || decide (strideEnd l n (cDS l) min < 0) || b == 6 || b == 256 || decide (16 < wideSpan l n lanes b) ||
    decide (64 < cFirst l + wideSpan l n lanes b)

/-- The latched descriptor is bad (R86). `owned` is false for a node of the graph, which names no hart's registers (R287). -/
def badCopy (s : State) (w : Who) (gmask : BitVec 32) (core lanes : Nat) (l : Vector Word 16) (slot : Word) (owned : Bool) : Bool :=
  let mode := cMode_ l
  let src := if mode = 0 then widthOf s w core (cw l 0) else none
  let dst := if cRegs l then none else widthOf s w core (cw l 1)
  let kind (a : Word) : Nat := match galleyOf (handleOf a) with
    | some id => gKind (galley s core id)
    | none => 0
  let b := copyWidth l slot src dst
  let comp := cComp l
  decide (2 ≤ mode) || field (cw l 7) 6 58 != 0 || ((List.range 6).any fun i => cw l (10 + i) != 0) ||
    ((List.range 4).any fun d => cE l d == 0) || decide (2 ^ 39 < cCount l * b) ||
    (match src, dst with
     | some x, some y => x != y
     | _, _ => false) ||
    !compOk comp mode (if mode = 0 then kind (cw l 0) else 0) (if cRegs l then 0 else kind (cw l 1)) ||
    ((comp == 4 || comp == 5) && codeBad s w core gmask (cw l 9)) ||
    (cRegs l && (!owned || badRegs l 1 lanes b || (mode == 1 && (etypeBits (slotEtype slot)).isNone)))

/-- The bounding range of image bytes of the elements of a side at displacements from an address: the whole of a sparse or coded
galley, nothing where no element lies (R173). -/
def boundSide (s : State) (w : Who) (core : Nat) (a : Word) (disps : List Int) : Span :=
  let h := handleOf a
  let join (m : Option (Nat × Nat)) (y : Nat × Nat) : Option (Nat × Nat) :=
    match m with
    | some x => some (Nat.min x.1 y.1, Nat.max x.2 y.2)
    | none => some y
  let close (m : Option (Nat × Nat)) : Span := { handle := h, lo := (m.getD (0, 0)).1, hi := (m.getD (0, 0)).2 }
  match galleyOf h with
  | some id =>
    let d := galley s core id
    if gKind d ≠ 0 then { handle := h, lo := 0, hi := 2 ^ 60 }
    else
      let b := gBits d
      close (disps.foldl (fun m x =>
        let i : Int := (offsetOf a / offsetUnit b : Nat) + x
        if i < 0 then m else join m (i.toNat * b / 8, ceilDiv ((i.toNat + 1) * b) 8)) none)
  | none =>
    match lookupRecord s w h 0 with
    | .error _ => close none
    | .ok r =>
      close (disps.foldl (fun m x =>
        let i : Int := (offsetOf a / offsetUnit r.bits : Nat) + x
        if i < 0 ∨ (r.count : Int) ≤ i then m
        else
          let o := imageOffset r (coordOf (r.dims.map r.shape) i.toNat) * r.bits
          join m (o / 8, ceilDiv (o + r.bits) 8)) none)

/-- The entries of the interlock table of a transfer of two sides: one for each, or one bounding range when both name one handle; the
last entry is the one it writes, empty where it writes none (R83, R173). -/
def twoSpans (src dst : Option Span) : List Span :=
  match src, dst with
  | none, none => [{ handle := 0, lo := 0, hi := 0 }]
  | none, some d => [d]
  | some a, none => [a, { handle := 0, lo := 0, hi := 0 }]
  | some a, some d =>
    if a.handle ≠ d.handle then [a, d]
    else if d.hi = 0 then [a] else if a.hi = 0 then [d]
    else [{ handle := d.handle, lo := Nat.min a.lo d.lo, hi := Nat.max a.hi d.hi }]

/-- The displacements of a copy under strides, by element index. -/
def copyDisps (l : Vector Word 16) (st : Nat → Int) : List Int :=
  (List.range (cCount l)).map fun k => stridden st (copyIndex l k)

/-- The entries of the interlock table that a copy takes (R83, R173). -/
def copySpans (s : State) (w : Who) (core : Nat) (l : Vector Word 16) : List Span :=
  twoSpans (if cMode_ l = 1 then none else some (boundSide s w core (cw l 0) (copyDisps l (cSS l))))
    (if cRegs l then none else some (boundSide s w core (cw l 1) (copyDisps l (cDS l))))

/-! ## Transfers -/

/-- A transfer by its name. -/
def findTransfer (s : State) (x : Nat) : Option Transfer := s.transfers.find? fun t => t.uid == x

/-- Replace a transfer. -/
def setTransfer (s : State) (t : Transfer) : State :=
  { s with transfers := s.transfers.map fun u => if u.uid = t.uid then t else u }

/-- Who translates for a transfer. -/
def whoTransfer (t : Transfer) : Who := { ctx := t.ctx, otb := t.otb, core := some t.core, pin := none }

/-! ## Synchronisation words (R97) -/

/-- Add bytes to a synchronisation word: the new word, and whether a generation advanced. -/
def syncAdd (w : Word) (n : Nat) : Word × Bool :=
  let target := field w 0 24
  let total := field w 24 24 + n
  if target = 0 then (putField w 24 24 (Nat.min (2 ^ 24 - 1) total), false)
  else (putField (putField w 24 24 (total % target)) 48 16 (field w 48 16 + total / target), decide (target ≤ total))

/-- Count bytes toward a galley: the word, and full when a generation advances and no copy into it is in flight, else once the
last one has ended (R95, R97). -/
def countBytes (s : State) (core id n : Nat) : State :=
  let (w, adv) := syncAdd (vget (getCore s core).sync id 0) n
  let s := modCore s core fun c => { c with sync := vset c.sync id w }
  if adv ∧ gState (galley s core id) = 2 then
    if galleyBusy s core id true then modCore s core fun c => { c with pendingFull := c.pendingFull ||| (1#32 <<< id) }
    else setGState s core id 3
  else s

/-! ## Blocks (R88) -/

/-- The elements of one block, for an element width. -/
def blockElems (b : Nat) : Nat := if b = 6 then 5460 else 32768 / b

/-- The number of blocks. -/
def blockCount (l : Vector Word 16) (b : Nat) : Nat := ceilDiv (cCount l) (blockElems b)

/-- What becomes of a block that is written: performed, or failed alone with a code. -/
inductive BlockEnd where
  | performed (s : State)
  | alone (code : Nat)
  deriving Repr

/-- The element width of a transfer as its sides stand. -/
def transferWidth (s : State) (t : Transfer) : Nat :=
  let w := whoTransfer t
  copyWidth t.latch t.slot (if cMode_ t.latch = 0 then widthOf s w t.core (cw t.latch 0) else none)
    (if cRegs t.latch then none else widthOf s w t.core (cw t.latch 1))

/-- The source of an element of a block: a value that needs no memory, or where it lies: a place, or a dense index of a sparse or a
coded galley. -/
inductive Source where
  | value (v : Nat)
  | place (p : Place)
  | dense (id i : Nat)
  deriving DecidableEq, Repr

/-- The logical index of a displacement of a side. -/
def sideIndex (a : Word) (b : Nat) (disp : Int) : Nat := ((offsetOf a / offsetUnit b : Nat) + disp).toNat

/-- The value of a fill: the low bits of FILLV; above its 64 bits the spec gives none (R85, log 77). -/
def fillValue (c8 : Word) (b : Nat) : Nat :=
  field c8 0 (Nat.min 64 b) + (if b = 256 then (Config.fillHigh c8).toNat <<< 64 else 0)

/-- The dense element at an index of a galley needs a scratchpad word that holds an uncorrectable error: one of its group, or of its
coded block (R88, R322). -/
def denseBad (s : State) (core id i : Nat) : Bool :=
  let c := getCore s core
  if c.badWords.isEmpty then false
  else
    let d := galley s core id
    if gKind d = 3 then
      let b := i / 4096
      let head := (List.range 64).map (slotAddr d b + ·)
      (head ++ dataAddrs d b (blockChunks c.scratch d b)).any fun a => c.badWords.contains (a / 8)
    else (List.range (gKeep d)).any fun j =>
      let q := groupPlaces core d (i / 4) j
      placeBad s q.1 || placeBad s q.2

/-- The source of element k, with the map entry it used, or the cause it fails with. -/
def sourceOf (s : State) (t : Transfer) (src : Side) (b k : Nat) : Except Nat (Source × Nat) :=
  let l := t.latch
  if cMode_ l = 1 then .ok (.value (fillValue (cw l 8) b), 0)
  else
    let disp := stridden (cSS l) (copyIndex l k)
    match src.place s (whoTransfer t) t.core 4 (cw l 0) disp with
    | .error c => .error c
    | .ok (p, sub) =>
      match src with
      | .galley id d =>
        let i := sideIndex (cw l 0) b disp
        if gKind d = 0 then (if placeBad s p then .error 0x0F else .ok (.place p, sub))
        else if denseBad s t.core id i then .error 0x0F
        else .ok (.dense id i, sub)
      | _ => if placeBad s p then .error 0x0F else .ok (.place p, sub)

/-- The dense elements that sources name: from a sparse galley's groups, or from the decoded blocks of a coded one; none for a
corrupt block (R100, R104). -/
def denseValues (s : State) (core : Nat) (lens : List Nat) (is : List (Nat × Nat)) : List ((Nat × Nat) × Option (List Nat)) :=
  let unit (q : Nat × Nat) : Nat × Nat := (q.1, if gKind (galley s core q.1) = 3 then q.2 / 4096 else q.2 / 4)
  ((is.map unit).eraseDups).map fun q =>
    let d := galley s core q.1
    (q, if gKind d = 3 then loadBlock (getCore s core).scratch d lens q.2 else some (denseGroup s core d q.2))

/-- The value of a source. -/
def sourceValue (s : State) (core : Nat) (dense : List ((Nat × Nat) × Option (List Nat))) : Source → Option Nat
  | .value v => some v
  | .place p => some (readPlace s p)
  | .dense id i =>
    let coded := gKind (galley s core id) = 3
    let q := (id, if coded then i / 4096 else i / 4)
    match dense.find? fun e => e.1 == q with
    | some (_, some l) => some (l.getD (if coded then i % 4096 else i % 4) 0)
    | _ => none

/-- Write elements of a sparse galley: the groups they touch are packed again (R100); none when one keeps too many. -/
def writeSparse (s : State) (core : Nat) (d : Word) (float : Bool) (l : List (Nat × Nat)) : Option State :=
  let groups := (l.map fun p => p.1 / 4).eraseDups
  let new := groups.mapM fun g =>
    packGroup core d float g (l.foldl (fun vs p => if p.1 / 4 = g then vs.set (p.1 % 4) p.2 else vs) (denseGroup s core d g))
  new.map fun ws => writePlaces s ws.flatten

/-- Every byte of logical block b is among the elements. -/
def coversBlock (l : List (Nat × Nat)) (b : Nat) : Bool :=
  l.foldl (fun m p => if p.1 / 4096 = b then m ||| 1 <<< (p.1 % 4096) else m) 0 == 2 ^ 4096 - 1

/-- Write elements of a coded galley: the blocks they touch are coded again, with their other bytes as they were (R103); none when the
chunks do not suffice. DESIGN CHOICE (log 26): the other bytes are zero where the block was not valid, and where it is valid and does not
decode under the table of this copy. -/
def writeCoded (s : State) (core : Nat) (d : Word) (lens : List Nat) (l : List (Nat × Nat)) : Option State :=
  let blocks := (l.map fun p => p.1 / 4096).eraseDups
  let step (m : Option Cells) (b : Nat) : Option Cells := m.bind fun m =>
    let zeros := List.replicate 4096 0
    let old := if coversBlock l b then zeros else (loadBlock m d lens b).getD zeros
    storeBlock m d lens b (l.foldl (fun vs p => if p.1 / 4096 = b then vs.set (p.1 % 4096) p.2 else vs) old)
  (blocks.foldl step (some (getCore s core).scratch)).map fun m => modCore s core fun c => { c with scratch := m }

/-- Write elements into the v registers of the hart of a transfer (R85, R108). -/
def writeRegs (s : State) (t : Transfer) (b : Nat) (l : List (Nat × Nat)) : State :=
  let first : VOp := .v ⟨cFirst t.latch % 64, Nat.mod_lt _ (by decide)⟩
  match t.owner with
  | none => s
  | some hid => modHart s hid fun h => landRegs h t.seq fun r =>
      l.foldl (fun r p => setElem r first t.lanes b p.1 p.2) r

/-- The landed bits of a copy that has written the elements `xs` of its registers: a whole group has landed (R91). -/
def landGroups (s : State) (t : Transfer) (b : Nat) (xs : List Nat) : State :=
  let k := groupElems t.lanes b
  let mask := xs.foldl (fun m x => m ||| 1 <<< x) 0
  let full := (List.range (8 * regSpan t.latch t.lanes b)).filter fun j => bitsOf mask (j * k) k == 2 ^ k - 1
  match t.owner with
  | none => s
  | some hid => modHart s hid fun h =>
      { h with landed := full.foldl (fun v j =>
          let reg := cFirst t.latch + j / 8
          vset v reg (vget v reg 0 ||| (1#8 <<< (j % 8)))) h.landed }

/-- The destination index of element k. -/
def destDisp (t : Transfer) (k : Nat) : Int := stridden (cDS t.latch) (copyIndex t.latch k)

/-- The source object of a transfer has a floating-point format; a galley and a fill have no format (R100, log 80). -/
def Side.float : Side → Bool
  | .object _ r => fmtIsFloat r.fmt
  | _ => false

/-- The two sides of a copy as they stand. -/
def copySides (s : State) (t : Transfer) : Side × Side :=
  let w := whoTransfer t
  (if cMode_ t.latch = 1 then .failed 0 else sideOf s w t.core (cw t.latch 0) 4,
    if cRegs t.latch then .regs (cFirst t.latch) else sideOf s w t.core (cw t.latch 1) 5)

/-- The elements of block k. -/
def blockElements (t : Transfer) (b k : Nat) : List Nat :=
  let lo := k * blockElems b
  (List.range (Nat.min (blockElems b) (cCount t.latch - lo))).map (lo + ·)

/-- What an element of a copy reads and writes: its source, its place, and the sub-tiles of the two. -/
abbrev Moved := (Source × Nat) × (Place × Nat)

/-- What element e of a copy reads and writes, or the cause it fails with: of two, that of its source (R88, log 78). A value that the copy
has read ahead stands (R283). -/
def elementOf (s : State) (t : Transfer) (src dst : Side) (b e : Nat) : Except Nat Moved := do
  let x ← match t.ahead.find? fun a => a.1 == e with
    | some a => .ok (.value a.2, 0)
    | none => sourceOf s t src b e
  let y ← dst.place s (whoTransfer t) t.core 5 (cw t.latch 1) (destDisp t e)
  return (x, y)

/-- The elements of block k translated, checked and probed, before any of it is written: all of them, or the lowest that fails and its
cause (R88). -/
def checkBlock (s : State) (t : Transfer) (src dst : Side) (b k : Nat) : Except (Nat × Nat) (List (Nat × Moved)) :=
  (blockElements t b k).mapM fun e =>
    match elementOf s t src dst b e with
    | .ok q => .ok (e, q)
    | .error c => .error (c, e)

/-- Block k would not end the copy as it stands. -/
def cleanBlock (s : State) (t : Transfer) (src dst : Side) (b k : Nat) : Bool :=
  match checkBlock s t src dst b k with
  | .ok _ => true
  | .error _ => false

/-- COMP codes or decodes. -/
def usesCode (t : Transfer) : Bool := cComp t.latch == 4 || cComp t.latch == 5

/-- The code lengths of a copy, read once, before any write and after the checks of its first block; or the status and index with which
the copy ends (R102, log 79). -/
def takeLens (s : State) (t : Transfer) (lo : Nat) : Except (Nat × Nat) (List Nat) :=
  if !usesCode t then .ok []
  else match t.lens with
    | some l => .ok l
    | none =>
      match codePlaces s (whoTransfer t) t.core (gmaskOf s t) (cw t.latch 9) with
      | .error (.fault f) => .error (statusOf f.code, lo)
      | .error .moving => .error (statusOf 0x08, lo)
      | .ok ps =>
        if ps.any (placeBad s) then .error (0x17, lo)
        else
          let lens := codeLengths (ps.map (readPlace s))
          if oversubscribed lens then .error (0x1A, 0) else .ok lens

/-- What tells the destination of an element from that of another: where it lies, or its number among those of registers (R88). -/
def destKey (t : Transfer) (g : Nat × Place × Nat) : Nat × Nat :=
  if cRegs t.latch then ((destDisp t g.1).toNat, 0) else (g.2.1.addr, g.2.1.bit)

/-- The blocks that have still to be written, after one is: of two elements that share a place the higher stays (R88). -/
def dropShadowed (t : Transfer) (k : Nat) (l : List (Nat × Place × Nat)) :
    List (Nat × Option (List (Nat × Place × Nat))) :=
  let above := l.map (destKey t)
  (t.prepared.filter fun q => q.1 != k).map fun q =>
    if q.1 < k then (q.1, q.2.map fun x => x.filter fun g => !above.contains (destKey t g)) else q

/-- What the elements of a block leave in the caches of the core (R74). -/
def touchBlock (s : State) (t : Transfer) (src dst : Side) (l : List (Nat × Moved)) : State :=
  let w := whoTransfer t
  let side (x : Side) (subs : List Nat) (s : State) : State :=
    match x with
    | .object h _ => if subs.isEmpty then s else touchHandle s w h subs
    | _ => s
  side dst (l.map (·.2.2.2)) (side src (l.filterMap fun g => match g.2.1.1 with
    | .place _ => some g.2.1.2
    | _ => none) s)

/-- The places that the sources of a block read, of those that are places. -/
def sourcePlaces (l : List (Nat × Moved)) : List Place :=
  l.filterMap fun g => match g.2.1.1 with
    | .place p => some p
    | _ => none

/-- Write the elements of block k, each with its place and its value (R88, R100, R103). -/
def writeBlock (s : State) (t : Transfer) (src dst : Side) (b k : Nat) (lens : List Nat) (vs : List (Nat × Place × Nat)) :
    BlockEnd :=
  let indexed := vs.map fun g => (sideIndex (cw t.latch 1) b (destDisp t g.1), g.2.2)
  match dst with
  | .regs _ =>
    let s1 := writeRegs s t b (vs.map fun g => ((destDisp t g.1).toNat, g.2.2))
    .performed (landGroups s1 t b (((t.done ++ [k]).flatMap (blockElements t b)).map fun e => (destDisp t e).toNat))
  | .galley _ d =>
    if gKind d = 0 then .performed (writePlaces s (vs.map (·.2)))
    else if gKind d = 3 then
      match writeCoded s t.core d lens indexed with
      | some s1 => .performed s1
      | none => .alone 1
    else
      match writeSparse s t.core d src.float indexed with
      | some s1 => .performed s1
      | none => .alone 2
  | _ => .performed (writePlaces s (vs.map (·.2)))

/-- Read a block, all of whose elements are good: each with the place and the value it is to write, none where the block is corrupt
(R88, R104). -/
def readBlock (s : State) (t : Transfer) (src dst : Side) (lens : List Nat) (good : List (Nat × Moved)) :
    State × Option (List (Nat × Place × Nat)) :=
  let dense := denseValues s t.core lens (good.filterMap fun g => match g.2.1.1 with
    | .dense id i => some (id, i)
    | _ => none)
  match good.mapM fun g => (sourceValue s t.core dense g.2.1.1).map fun v => (g.1, g.2.2.1, v) with
  | none => (s, none)
  | some vs => (touchBlock (correctReads s (memoryBytes (sourcePlaces good))) t src dst good, some vs)

/-- Block k has performed or failed. -/
def blockTaken (t : Transfer) (k : Nat) : Bool := t.done.contains k || t.failed.any fun f => f.1 == k

/-- The next block of a copy: the lowest that has neither performed nor failed. -/
def nextBlock (t : Transfer) : Nat :=
  let n := t.done.length + t.failed.length
  ((List.range n).find? fun k => !blockTaken t k).getD n

/-- The copy has not ended, and what comes before it has performed. -/
def copyRuns (s : State) (t : Transfer) : Bool :=
  t.kind == .copy && clusterActive s t.cluster && t.ended.isNone && !t.cancelled && !transferBlocked s t

/-- The copy goes on, and no move holds either side. -/
def copyGoes (s : State) (t : Transfer) : Bool :=
  copyRuns s t && (copySides s t).1 != .held && (copySides s t).2 != .held

/-- What the engine holds of block k, when it has read it and has still to write it (R88). -/
def preparedBlock (t : Transfer) (k : Nat) : Option (Option (List (Nat × Place × Nat))) :=
  (t.prepared.find? fun q => q.1 == k).map (·.2)

/-- A block that a higher one passes can be read now and written later, whatever fails between: it is clean as things stand, and writes
nothing behind a port, whose loss would end the copy there (R88, log 110). -/
def passable (s : State) (t : Transfer) (src dst : Side) (b k : Nat) : Bool :=
  match checkBlock s t src dst b k with
  | .ok l => cRegs t.latch || l.all fun g => g.2.2.1.core.isSome || decide (g.2.2.1.addr < 0x40000000000)
  | .error _ => false

/-- The read of the code table waits for a move (R79). -/
def codeHeld (s : State) (t : Transfer) : Bool :=
  usesCode t && t.lens.isNone && match codePlaces s (whoTransfer t) t.core (gmaskOf s t) (cw t.latch 9) with
    | .error .moving => true
    | _ => false

/-- Block k may be taken, but for a back-off window: it has been read; or it is the next one; or it does not fail as things stand, every
lower block has been taken or can be read before it, and it takes no chunk before a lower one (R88, R103). -/
def blockReady (s : State) (t : Transfer) (k : Nat) : Bool :=
  let b := transferWidth s t
  let (src, dst) := copySides s t
  let ready (j : Nat) : Bool := blockTaken t j || (preparedBlock t j).isSome || passable s t src dst b j
  copyRuns s t && decide (k < blockCount t.latch b) && !blockTaken t k &&
    ((preparedBlock t k).isSome || (copyGoes s t && !codeHeld s t &&
      (k == nextBlock t || (cComp t.latch != 4 && (cComp t.latch != 5 || t.lens.isSome) && cleanBlock s t src dst b k &&
        (List.range k).all ready))))

/-- The addresses of main memory that block k reads and writes, as far as its elements translate. -/
def blockBytes (s : State) (t : Transfer) (k : Nat) : List Nat :=
  let b := transferWidth s t
  let (src, dst) := copySides s t
  match preparedBlock t k, checkBlock s t src dst b k with
  | some l, _ => if cRegs t.latch then [] else memoryBytes ((l.getD []).map (·.2.1))
  | none, .ok l => memoryBytes (sourcePlaces l ++ if cRegs t.latch then [] else l.map (·.2.2.1))
  | none, .error _ => []

/-- Block k of a transfer may be taken (R57, R88). -/
def blockDue (s : State) (t : Transfer) (k : Nat) : Bool :=
  blockReady s t k && (noWindows s || !backoffAt s (blockBytes s t k))

/-- Block k has been read: it is written and counted, or fails alone (R88, R97). DESIGN CHOICE (log 101): an odd number of 4-bit elements
counts its last half byte as a byte. -/
def finishBlock (s : State) (t : Transfer) (src dst : Side) (b k : Nat) (vs : Option (List (Nat × Place × Nat))) : State :=
  let alone (c : Nat) : State :=
    setTransfer s { t with failed := t.failed ++ [(k, c)], prepared := t.prepared.filter fun q => q.1 != k }
  match vs with
  | none => alone 3
  | some l =>
    match writeBlock s t src dst b k (t.lens.getD []) l with
    | .alone c => alone c
    | .performed s1 =>
      let s2 := setTransfer s1 { t with done := t.done ++ [k], prepared := dropShadowed t k l }
      match t.gdst with
      | some g => countBytes s2 t.core g (ceilDiv ((blockElements t b k).length * b) 8)
      | none => s2

/-- A block is read before a higher one is written (R88). -/
def prepareBlock (src dst : Side) (b : Nat) (q : State × Transfer) (j : Nat) : State × Transfer :=
  let (s, t) := q
  match checkBlock s t src dst b j with
  | .error _ => q
  | .ok good =>
    let (s1, vs) := readBlock s t src dst (t.lens.getD []) good
    (s1, { t with prepared := t.prepared ++ [(j, vs)] })

/-- The code table is read: its correctable errors are corrected (R58, R102). -/
def correctLens (s : State) (t : Transfer) : State :=
  if !usesCode t || t.lens.isSome then s
  else match codePlaces s (whoTransfer t) t.core (gmaskOf s t) (cw t.latch 9) with
    | .ok ps => correctReads s (memoryBytes ps)
    | .error _ => s

/-- Block k of a transfer is taken: it performs and is counted, fails alone, or ends the copy; the blocks below it that are still to be
taken have been read before (R88, R97). -/
def performBlock (s : State) (t : Transfer) (k : Nat) : State :=
  let b := transferWidth s t
  let (src, dst) := copySides s t
  let end_ (e : Nat × Nat) : State := setTransfer s { t with ended := some e }
  match preparedBlock t k with
  | some vs => finishBlock s t src dst b k vs
  | none =>
    match checkBlock s t src dst b k with
    | .error (c, e) => end_ (statusOf c, e)
    | .ok good =>
      match takeLens s t (k * blockElems b) with
      | .error e => end_ e
      | .ok lens =>
        let t0 := if usesCode t then { t with lens := some lens } else t
        let lower := (List.range k).filter fun j => !blockTaken t j && (preparedBlock t j).isNone
        let (s1, t1) := lower.foldl (prepareBlock src dst b) (correctLens s t, t0)
        let (s2, vs) := readBlock s1 t1 src dst lens good
        finishBlock s2 t1 src dst b k vs

/-- COPY_BLOCK: block k of transfer x is translated, probed and written (R88). -/
def execCopyBlock (x k : Nat) (s : State) : Out :=
  eventOut s <| match findTransfer s x with
  | none => none
  | some t => if blockDue s t k then some (performBlock s t k) else none

/-- A copy reads element e before it performs the block of e, as its reads are not ordered (R283). -/
def readAhead (s : State) (x e : Nat) : State :=
  match findTransfer s x with
  | none => s
  | some t =>
    let b := transferWidth s t
    if !copyGoes s t || cMode_ t.latch != 0 || decide (cCount t.latch ≤ e) || blockTaken t (e / blockElems b) ||
        (preparedBlock t (e / blockElems b)).isSome || (t.ahead.any fun a => a.1 == e) || (cComp t.latch == 5 && t.lens.isNone) then s
    else match sourceOf s t (copySides s t).1 b e with
      | .error _ => s
      | .ok (x, _) =>
        let ps := match x with
          | .place p => [p]
          | _ => []
        if backoffAt s (memoryBytes ps) then s
        else
          let dense := denseValues s t.core (t.lens.getD []) (match x with
            | .dense id i => [(id, i)]
            | _ => [])
          match sourceValue s t.core dense x with
          | none => s
          | some v => setTransfer (correctReads s (memoryBytes ps)) { t with ahead := (e, v) :: t.ahead }

/-! ## The end of a copy (R89 to R91) -/

/-- The code and index with which a copy ends, when it ends. -/
def copyOutcome (s : State) (t : Transfer) : Option (Nat × Nat) :=
  let all := t.done.length + t.failed.length = blockCount t.latch (transferWidth s t)
  let lowest := (t.failed.map (·.1)).foldl Nat.min (nextBlock t)
  match t.ended with
  | some e => some e
  | none =>
    if t.cancelled ∧ !all then some (4, lowest)
    else if all then
      match t.failed.find? fun f => f.1 == lowest with
      | none => some (0, 0)
      | some f => some (f.2, f.1)
    else none

/-- The landed bits of the registers of a copy set when it ends (R91). -/
def landAll (s : State) (t : Transfer) : State :=
  if cRegs t.latch then
    match t.owner with
    | none => s
    | some hid => modHart s hid fun h =>
        { h with landed := t.vregs.foldl (fun v q => vset v q 0xFF) h.landed }
  else s

/-- COPY_END: a copy ends, and its status word reaches its register (R89, R95). -/
def execCopyEnd (x : Nat) (s : State) : Out :=
  match findTransfer s x with
  | none => eventOut s none
  | some t =>
    if t.kind != .copy then eventOut s none
    else match copyOutcome s t with
      | none => eventOut s none
      | some (c, i) =>
        .next (endTransfer (landAll s t) t (statusWord c t.tid.toNat t.failed.length i) true)

end Sys2Proof.Machine
end

