-- ==== Sys2Proof/Machine/Galley.lean ====
section
/-! DEFINITION. Copy registers and launches (R84 to R87, R245 to R247), galley declarations and states (R92, R95, R96, R249 to
R251), and synchronisation words (R97, R98, R252, R253). -/

namespace Sys2Proof.Machine

/-! ## Copy registers (R245) -/

/-- CSET (R245). -/
def execCset (sa : SOp) (n : BitVec 4) (s : State) : Out :=
  finish s do
    legal [sa] []
    let (a, s1) ← readSrc sa s
    return retire (modRegs s1 fun r => { r with c := vset r.c n.toNat a })

/-- CGET (R245). -/
def execCget (sd : SOp) (n : BitVec 4) (s : State) : Out :=
  finish s do
    legal [] [sd]
    let s1 ← writeDst sd (vget s.me.r.c n.toNat 0) s
    return retire s1

/-! ## Transfer ids and pending registers (R87, R243) -/

/-- The id after an id (R87). -/
def idAfter (t : BitVec 16) : BitVec 16 := if t = 0xFFFF#16 then 1 else t + 1

/-- The next id from one on that no pending transfer of a hart holds (R87). -/
def freeId (held : List (BitVec 16)) : Nat → BitVec 16 → BitVec 16
  | 0, t => t
  | n + 1, t => if held.contains t then freeId held n (idAfter t) else t

/-- The next transfer id of the hart in focus (R87). -/
def nextTid (s : State) : BitVec 16 :=
  freeId ((pendingTransfers s s.me.hid).map (·.tid)) 65 (idAfter s.me.lastTid)

/-- A pending register is s1 to s23, and not sd (R243, R244). -/
def pendingReg (o sd : SOp) : Except Stop (Fin 24) :=
  match o with
  | .q _ => trapOf cIllegal
  | .s n => if n.val = 0 ∨ (sd = .s n) then trapOf cIllegal else .ok n

/-- Fewer than 64 copies, COLLs and moves of the hart are pending (R87). -/
def transferRoom (s : State) : Except Stop PUnit :=
  holds (decide ((pendingTransfers s s.me.hid).length < 64)) .limit

/-- A transfer of the hart in focus under an environment. -/
def newTransfer (s : State) (kind : TransferKind) (env : Env) (se : Fin 24) (l : Vector Word 16) (spans : List Span)
    (gsrc gdst : Option Nat) : Transfer :=
  { uid := s.nextUid, kind := kind, owner := some s.me.hid, ctx := s.me.ctx, node := none, core := s.me.core,
    cluster := clusterOf s.me.core, lanes := lanesOf s.me, otb := s.me.otb, tid := nextTid s, se := se, latch := l,
    slot := env.slot, seq := env.seq, stream := slotStream env.slot, pmask := effPmask env.slot env.strong,
    scope := slotScope env.slot, spans := spans, gsrc := gsrc, gdst := gdst, vregs := [], lens := none, ahead := [], prepared := [],
    moved := none, done := [], failed := [], ended := none, cancelled := false, flags := 0, draining := false, copying := false, index := 0, staged := false, dests := [] }

/-- The transfer begins: it is pending and counts as one operation of its stream (R83, R87, R274). -/
def addTransfer (s : State) (t : Transfer) (counted : Bool) : State :=
  let s := nextSeq { s with transfers := s.transfers ++ [t], nextUid := s.nextUid + 1 }
  if counted then modMe s fun h => countIssued { h with lastTid := t.tid } t.stream else s

/-- A launch that ends at once: its id is taken and its register holds its status (R86, R246). -/
def endAtOnce (s : State) (tid : BitVec 16) (se : Fin 24) (code : Nat) : State :=
  modMe (nextSeq s) fun h => { h with lastTid := tid, r := setX h.r se.val (statusWord code tid.toNat 0 0) }

/-! ## CLAUNCH (R246) -/

/-- The precise checks of CLAUNCH and COLL on a galley that an address names, as source or destination (R93, R95, R96). -/
def launchGalley (s : State) (a : Word) (into : Bool) : Except Stop (Option Nat) :=
  match galleyOf (handleOf a) with
  | none => .ok none
  | some id =>
    let kind := if into then 5 else 4
    let st := gState (galley s s.me.core id)
    if !galleyUsable s s.me.ctx s.me.core s.me.gmask id then
      trapOf cHandle (addrInfo (handleOf a) kind 0 0)
    else if (if into then st == 1 || st == 2 else st == 3 || st == 4) then .ok (some id)
    else trapOf cGalley (galleyInfo id st kind)

/-- A launch into a galley makes it filling (R95). -/
def fillGalley (s : State) (g : Option Nat) : State :=
  match g with
  | some id => setGState s s.me.core id 2
  | none => s

/-- The registers a copy will write have no earlier reader or writer that waits, and no load is to write them (R91). -/
def targetsFree (s : State) (seq : Nat) (regs : List RegName) : Except Stop PUnit := do
  holds (!(s.me.flights.any fun f => f.parked && (footprint (lanesOf s.me) f.instr f.env).any regs.contains)) .earlier
  useRegs s seq regs

/-- The landed bits of registers clear (R91). -/
def clearLanded (s : State) (regs : List RegName) : State :=
  modMe s fun h => { h with landed := regs.foldl (fun v q => vset v q.2 0) h.landed }

/-- CLAUNCH (R246). -/
def execClaunch (sd se : SOp) (g : Fin 8) (s : State) : Out :=
  let env := scalarEnv s g
  finishSlot s env.slot do
    legal [] [sd]
    let p ← pendingReg se sd
    transferRoom s
    streamRoom s (slotStream env.slot)
    useX s p
    let l := s.me.r.c
    let gsrc ← if cMode_ l = 1 then .ok none else launchGalley s (cw l 0) false
    let gdst ← if cRegs l then .ok none else launchGalley s (cw l 1) true
    let s ← firm s
    let w := whoMe s
    let tid := nextTid s
    let s1 ← writeDst sd (wordOfNat tid.toNat) (fillGalley s gdst)
    if badCopy s w s.me.gmask s.me.core (lanesOf s.me) l env.slot true then
      return retire (endAtOnce s1 tid p 0x19)
    else
      let spans := copySpans s w s.me.core l
      tableRoom s (spans.filter fun x => decide (x.lo < x.hi)).length
      let t := newTransfer s .copy env p l spans gsrc gdst
      let regs := if cRegs l then copyRegs l (lanesOf s.me) (transferWidth s t) else []
      targetsFree s env.seq regs
      return retire (addTransfer (clearLanded s1 regs) { t with vregs := regs.map (·.2) } true)

/-! ## CCANCEL (R247) -/

/-- A participant asks that its collective abort (R105, R247, R321). -/
def cancelColl (s : State) (t : Transfer) : State :=
  match collOf s t with
  | some c => abortColl s c
  | none => s

/-- What CCANCEL does to a pending transfer, and what it returns (R247). -/
def cancelTransfer (s : State) (t : Transfer) : Nat × State :=
  match t.kind with
  | .copy => (1, setTransfer s { t with cancelled := true })
  | .coll => (1, cancelColl (setTransfer s { t with cancelled := true }) t)
  | .move =>
    if t.copying then (0, s)
    else
      (1, endTransfer (if t.draining then cancelMove s t else s) t (statusWord 4 t.tid.toNat 0 0) true)
  | _ => (0, s)

/-- CCANCEL (R247). -/
def execCcancel (sd sa : SOp) (s : State) : Out :=
  finish s do
    legal [sa] [sd]
    let (a, s1) ← readSrc sa s
    ensure (decide (a.toNat < 2 ^ 16)) cMode
    let s1 ← firm s1
    match (pendingTransfers s1 s.me.hid).find? fun t => t.tid.toNat == a.toNat with
    | none =>
      let s2 ← writeDst sd 0 s1
      return retire s2
    | some t =>
      let s2 ← writeDst sd (wordOfNat (cancelTransfer s1 t).1) s1
      return retire (cancelTransfer s2 t).2

/-! ## Galleys (R249 to R251) -/

/-- The galley that a register names: an id below 32 whose GMASK bit is set (R92, R243). -/
def galleyId (s : State) (a : Word) : Except Stop Nat :=
  if a.toNat < 32 ∧ s.me.gmask.getLsbD a.toNat then .ok a.toNat
  else trapOf cHandle (addrInfo (0xFFF00 + a.toNat) 0 0 0)

/-- The declared galley of the context that a register names (R92, R243). -/
def ownGalley (s : State) (a : Word) : Except Stop Nat := do
  let id ← galleyId s a
  if galleyUsable s s.me.ctx s.me.core s.me.gmask id then return id
  else trapOf cHandle (addrInfo (0xFFF00 + id) 0 0 0)

/-- The galley overlaps another declared galley of the core (R92). -/
def galleyOverlaps (s : State) (core id : Nat) (d : Word) : Bool :=
  (List.range 32).any fun j =>
    let e := galley s core j
    j != id && gState e != 0 && decide (gBase e < gBase d + gSize d) && decide (gBase d < gBase e + gSize e)

/-- The descriptor that a GDECL asks for may not be declared (R92, R249). -/
def badGalley (s : State) (core id : Nat) (d : Word) : Bool :=
  let kind := gKind d
  gState (galley s core id) != 0 || gSize d == 0 || decide (327680 < gBase d + gSize d) || galleyOverlaps s core id d ||
    decide (4 ≤ kind) || field d 59 5 != 0 || gState d != 0 || (kind != 3 && field d 27 2 != 0) ||
    (kind == 0 && gSplit d != 0) || (kind != 0 && (gSplit d == 0 || decide (gSize d ≤ gSplit d))) ||
    ((kind == 1 || kind == 2) && gBits d == 32) || (kind == 3 && gBits d != 8)

/-- GDECL (R249). -/
def execGdecl (sa sb : SOp) (s : State) : Out :=
  finish s do
    legal [sa, sb] []
    let (a, s1) ← readSrc sa s
    let (d, s2) ← readSrc sb s1
    let id ← galleyId s2 a
    let core := s.me.core
    if badGalley s2 core id d then trapOf cDeclare (galleyInfo id (gState (galley s2 core id)) 0)
    else
      let s2 ← firm s2
      let e := putField (putField d 29 3 1) 43 16 s.me.ctx
      return retire (modCore (setGalley s2 core id e) core fun c =>
        { c with sync := vset c.sync id 0, pendingFull := c.pendingFull &&& ~~~(1#32 <<< id) })

/-- A hart of a core has an access to a galley that has been probed and has not performed (R250). -/
def accessTo (id : Nat) (h : Hart) : Bool :=
  (h.flights.any fun f => !f.parked && f.spans.any fun x => x.handle == 0xFFF00 + id) ||
    h.r.strip.stores.any fun x => x.spans.any fun y => y.handle == 0xFFF00 + id

/-- The hart in focus has an access to a galley that its own open strip holds, or that waits for the PROOF of it (R250, R280). -/
def stripTo (id : Nat) (s : State) : Bool :=
  let names (l : List Span) : Bool := l.any fun y => y.handle == 0xFFF00 + id
  (s.me.r.strip.stores.any fun x => names x.spans) || anyStuck s fun f => names f.spans

/-- GSTATE and GFREE take effect after every access to the galley that a hart of the core has probed (R250, R251). -/
def galleySettled (s : State) (id : Nat) : Except Stop PUnit := do
  ensure (!stripTo id s) cStripState
  holds (!((allHarts s).any fun h => h.core == s.me.core && accessTo id h)) .galley

/-- The request for a state n of a galley in state st is granted (R95); `into` and `out` say that copies into it and from it are in
flight. -/
def stateGranted (st n : Nat) (into out : Bool) : Bool :=
  match n with
  | 0 => true
  | 1 => st == 1 || (st == 2 && !into) || ((st == 3 || st == 4) && !out)
  | 2 => st == 1 || st == 2
  | 3 => st == 3 || (st == 2 && !into)
  | _ => st == 3 || st == 4

/-- A galley becomes empty: COUNT clears, and the blocks of a coded one are invalid (R95). -/
def emptyGalley (s : State) (core id : Nat) : State :=
  let s := setGState s core id 1
  let d := galley s core id
  modCore s core fun c =>
    { c with sync := vset c.sync id (putField (vget c.sync id 0) 24 24 0),
             scratch := if gKind d = 3 then invalidateBlocks c.scratch d else c.scratch }

/-- GSTATE (R250). -/
def execGstate (sd sa sb : SOp) (s : State) : Out :=
  finish s do
    legal [sa, sb] [sd]
    let (a, s1) ← readSrc sa s
    let (n, s2) ← readSrc sb s1
    ensure (decide (n.toNat ≤ 4)) cMode
    let id ← ownGalley s2 a
    let s2 ← firm s2
    galleySettled s2 id
    let core := s.me.core
    let st := gState (galley s2 core id)
    if !stateGranted st n.toNat (galleyBusy s2 core id true) (galleyBusy s2 core id false) then
      trapOf cGalley (galleyInfo id st 0)
    else
      let s3 := if n.toNat = 0 then s2 else if n.toNat = 1 then emptyGalley s2 core id else setGState s2 core id n.toNat
      let s4 ← writeDst sd (galley s3 core id) s3
      return retire s4

/-- GFREE (R251). -/
def execGfree (sa : SOp) (s : State) : Out :=
  finish s do
    legal [sa] []
    let (a, s1) ← readSrc sa s
    let id ← ownGalley s1 a
    let s1 ← firm s1
    galleySettled s1 id
    let core := s.me.core
    if galleyBusy s1 core id true ∨ galleyBusy s1 core id false then
      trapOf cGalley (galleyInfo id (gState (galley s1 core id)) 0)
    else return retire (undeclare s1 core id)

/-! ## Synchronisation words (R252, R253) -/

/-- SYNCINIT (R252). -/
def execSyncinit (sa sb : SOp) (s : State) : Out :=
  finish s do
    legal [sa, sb] []
    let (a, s1) ← readSrc sa s
    let (w, s2) ← readSrc sb s1
    let id ← ownGalley s2 a
    let s2 ← firm s2
    return retire (modCore s2 s.me.core fun c => { c with sync := vset c.sync id w })

/-- SYNCWAIT (R98, R253). -/
def execSyncwait (sd sa sb : SOp) (g : Fin 8) (s : State) : Out :=
  finishSlot s (slotOf s g) do
    legal [sa, sb] [sd]
    let (a, s1) ← readSrc sa s
    let (x, s2) ← readSrc sb s1
    ensure (decide (x.toNat < 2 ^ 16)) cMode
    dstReady sd s2
    let waited := s.me.wait == some (WaitReason.sync a.toNat)
    if waited ∧ a.toNat < 32 ∧ gState (galley s2 s.me.core a.toNat) = 0 then
      trapOf cGalley (galleyInfo a.toNat 0 0)
    else
      let id ← ownGalley s2 a
      let w := vget (getCore s2 s.me.core).sync id 0
      holds (decide ((field w 48 16 + 2 ^ 16 - x.toNat) % 2 ^ 16 < 2 ^ 15)) (WaitReason.sync id)
      let s3 ← writeDst sd w s2
      return retire s3

end Sys2Proof.Machine
end

