-- ==== Sys2Proof/Machine/Matrix.lean ====
section
/-! DEFINITION. Packed-word and matrix instructions (R216 to R242). -/

namespace Sys2Proof.Machine

/-! ## Checks -/

/-- The v group of an operand has room for its registers: it starts at a multiple of its size (R116). -/
def matOperand (o : VOp) (tiers : List Nat) (group : Nat) : Except Stop PUnit := operand o tiers group

/-- The checks at issue of R217: ETYPE, VSTART, a forme, the predicate registers. -/
def matChecks (c : VCtx) (env : Env) (types : List Nat) : Except Stop PUnit :=
  ensure (types.contains c.et && env.vstart == 0 && !formeNull env.forme && predOk c.slot c.f 256) cReserved

/-- Registers from a number on end at v63. -/
def runOk (reg count : Nat) : Bool := decide (reg + count ≤ 64)

/-- The number of a v operand. -/
def vNumber : VOp → Nat
  | .v n => n.val
  | _ => 0

/-- One more than the largest lane-local word index among PW elements. -/
def spanOf (lanes : Nat) (ps : List Nat) : Nat := ps.foldl (fun m p => Nat.max m (pwIndex lanes p + 1)) 0

/-- A trap of a body. -/
def liftTrap {α : Type} (r : Except TrapInfo α) : Except Stop α :=
  match r with
  | .ok a => .ok a
  | .error t => .error (.trap t)

/-- Read the packed word of PW element p of an operand. -/
def wordAt (r : Regs) (o : VOp) (lanes p : Nat) : Nat := getWord r o lanes (pwLane lanes p) (pwIndex lanes p)

/-! ## Products of single words (R222, R223) -/

/-- The 512-bit pair of PW element p in a group. -/
def pairAt (r : Regs) (reg lanes p : Nat) : Nat := getLane r reg lanes (pwLane lanes p) (512 * pwIndex lanes p) 512

/-- Write the pair of PW element p. -/
def setPair (r : Regs) (reg lanes p v : Nat) : Regs := setLane r reg lanes (pwLane lanes p) (512 * pwIndex lanes p) 512 v

/-- VWMUL, and VWMAC when `acc`. -/
def wideBody (dt acc : Bool) (vd va vb : VOp) (env : Env) (s : State) : StreamResult := do
  let c := vctx s env
  matOperand vd [0] (2 * c.f)
  matOperand va tVW c.f
  matOperand vb tVW c.f
  matChecks c env [7]
  ensure (decide (c.vl ≤ vlmaxBits c.lanes c.f 256)) cReserved
  let r := s.me.r
  let issued := c.issued dt r
  useTouched s env.seq (touchesSpan issued (regsOf vd (2 * c.f)) ++ touches va c.lanes 256 issued ++ touches vb c.lanes 256 issued)
  let f := env.forme
  let reg := vNumber vd
  let ps := (c.active r).map fun p =>
    let x := operandA f (wordAt r va c.lanes p) * operandB f (wordAt r vb c.lanes p)
    (p, if acc then x + signedOf (pairAt r reg c.lanes p) 512 else x)
  let leads := ps.filterMap fun p => (failingSlot f p.2).map fun sl =>
    ({ group := p.1 / (2 * c.lanes), lane := pwLane c.lanes p.1, a := pwIndex c.lanes p.1, b := 0, pos := sl, side := false } : Trouble)
  let _ ← liftTrap (troubles leads [])
  let hits := (ps.filter fun p => headroomHit f p.2).length
  let r1 := ps.foldl (fun r p => setPair r reg c.lanes p.1 (lowBits p.2 512)) r
  vdone (modRegs s fun _ => commit c 0 (hitCounts hits (dtCount dt r c 256)) r1)

/-- VEXTF. -/
def extractBody (dt : Bool) (vd va : VOp) (env : Env) (s : State) : StreamResult := do
  let c := vctx s env
  matOperand vd [0] 1
  matOperand va [0] (2 * c.f)
  matChecks c env [7]
  let f := env.forme
  let nx := ceilDiv (fW f * fFieldsP f) (fXs f)
  let n := ceilDiv (spanOf c.lanes (List.range c.vl) * nx * 4) 512
  ensure (decide (c.vl ≤ vlmaxBits c.lanes c.f 256) && runOk (vNumber vd) n) cReserved
  let r := s.me.r
  useTouched s env.seq (touchesSpan (c.issued dt r) (runRegs (vNumber vd) n ++ regsOf va (2 * c.f)))
  let r1 := (c.active r).foldl (fun t p =>
    let x := signedOf (pairAt r (vNumber va) c.lanes p) 512
    (extractAll f x nx).zipIdx.foldl (fun t w =>
      setLane t (vNumber vd) c.lanes (pwLane c.lanes p) (32 * (pwIndex c.lanes p * nx + w.2)) 32 (lowBits w.1 32)) t) r
  vdone (modRegs s fun _ => commit c 0 (dtCount dt r c 256) r1)

/-! ## Packing (R224, R225) -/

/-- INT32 element i of a lane of the v registers from a number on. -/
def laneInt (r : Regs) (reg lanes lane i : Nat) : Int := signedOf (getLane r reg lanes lane (32 * i) 32) 32

/-- The word that VPACK builds from elements u × nf + t of a lane. -/
def packFrom (r : Regs) (f : Word) (sat : Bool) (fields : List Nat) (reg lanes lane u : Nat) : Nat × FlagSet :=
  packFields f sat (fields.zipIdx.map fun p => (p.1, laneInt r reg lanes lane (u * fields.length + p.2)))

/-- VPACK. -/
def vpackBody (dt : Bool) (vd va : VOp) (env : Env) (s : State) : StreamResult := do
  let c := vctx s env
  matOperand vd tVW c.f
  matOperand va [0] c.f
  matChecks c env [7]
  let f := env.forme
  let intoW := tierOf vd == 1
  let fields := if intoW then fieldsB f else fieldsA f
  ensure (sfmtInt f && (if intoW then slotSparse c.slot == 0 && decide (c.vl ≤ 16)
    else decide (c.vl ≤ vlmaxBits c.lanes c.f 256))) cReserved
  let r := s.me.r
  let ps := if intoW then List.range c.vl else c.active r
  let n := ceilDiv ((if intoW then c.vl else spanOf c.lanes (List.range c.vl)) * fields.length * 4) 512
  ensure (runOk (vNumber va) n) cReserved
  let issued := if intoW then List.range c.vl else c.issued dt r
  useTouched s env.seq (touchesAll vd c.lanes 256 issued ++ touchesSpan issued (runRegs (vNumber va) n))
  let sat := slotSat c.slot
  let out := ps.map fun p =>
    (p, if intoW then packFrom r f sat fields (vNumber va) c.lanes 0 p
        else packFrom r f sat fields (vNumber va) c.lanes (pwLane c.lanes p) (pwIndex c.lanes p))
  let r1 := out.foldl (fun t o => putPacked vd c.lanes o.1 o.2.1 t) r
  let d := if intoW then Counts.zero else dtCount dt r c 256
  vdone (modRegs s fun _ => commit c (flagsOf (out.map (·.2))) d r1)

/-- The elements that VUNPACK writes of a word: its fields, at u × nf + t of a lane. -/
def putFields (f : Word) (fields : List Nat) (reg lanes lane u word : Nat) (r : Regs) : Regs :=
  fields.zipIdx.foldl (fun t p =>
    setLane t reg lanes lane (32 * (u * fields.length + p.2)) 32 (lowBits (unpackField f word p.1) 32)) r

/-- VUNPACK, its runs checked over every word below VL (R225, log 90). -/
def vunpackBody (dt : Bool) (vd va : VOp) (env : Env) (s : State) : StreamResult := do
  let c := vctx s env
  matOperand vd [0] 1
  matOperand va tVW c.f
  matChecks c env [7]
  let f := env.forme
  let fromW := tierOf va == 1
  let fields := if fromW then fieldsB f else fieldsA f
  ensure (sfmtInt f && (if fromW then decide (c.vl ≤ 16) else decide (c.vl ≤ vlmaxBits c.lanes c.f 256))) cReserved
  let r := s.me.r
  let ps := c.active r
  let n := ceilDiv ((if fromW then c.vl else spanOf c.lanes (List.range c.vl)) * fields.length * 4) 512
  ensure (runOk (vNumber vd) n) cReserved
  let issued := if fromW then List.range c.vl else c.issued dt r
  useTouched s env.seq (touchesSpan issued (runRegs (vNumber vd) n) ++ touches va c.lanes 256 issued)
  let r1 := if fromW then
      (List.range c.lanes).foldl (fun t l => (List.range c.vl).foldl (fun t j =>
        putFields f fields (vNumber vd) c.lanes l j (getWord r va c.lanes l j) t) t) r
    else ps.foldl (fun t p =>
      putFields f fields (vNumber vd) c.lanes (pwLane c.lanes p) (pwIndex c.lanes p) (wordAt r va c.lanes p) t) r
  let d := if fromW then Counts.zero else dtCount dt r c 256
  vdone (modRegs s fun _ => commit c 0 d r1)

/-! ## Filling a tile (R227 to R230) -/

/-- MZERO. -/
def mzeroBody (vd : VOp) (env : Env) (s : State) : StreamResult := do
  matOperand vd [2] 1
  ensure (env.vstart == 0) cReserved
  useRegs s env.seq (regsOf vd 1)
  vdone (modRegs s fun r => { r with z := vset r.z (zNumber vd) 0 })

/-- The word of ones that sums A′: under SPARSE no B word gives its selector, which is a free value (log 6). -/
def onesWord (s : State) (ratio : Nat) : Nat × State :=
  if ratio = 1 then (0, s)
  else ((Config.freeSelector s.drawn).toNat <<< 224, { s with drawn := s.drawn + 1 })

/-- The words of ones that sum A′ in MMAS, by lane: under SPARSE A′ is that of the selector that the B words of the lane share
(R211, R229); where they share none, the selector is a free value (log 6). -/
def rowOnes (s : State) (t : Tile) (vl : Nat) (bw : Nat → Nat → Nat) : (Nat → Nat) × State :=
  let shared (l : Nat) : Bool := (List.range vl).all fun j =>
    (List.range (fK t.f)).all fun k => selIndex (bw l j) k == selIndex (bw l 0) k
  if t.ratio == 1 || (List.range t.lanes).all shared then (fun l => bw l 0, s)
  else
    let (free, s1) := onesWord s t.ratio
    (fun l => if shared l then bw l 0 else free, s1)

/-- The checks of a tile at issue (R212, R218). -/
def tileChecks (t : Tile) (env : Env) (limit zd : Nat) : Except Stop PUnit :=
  ensure (t.ok env.vl limit zd && !sparseRefused env.forme env.slot) cReserved

/-- MMA, and MMAS when `sums`. -/
def mmaBody (dt sums : Bool) (vd va vb : VOp) (env : Env) (s : State) : StreamResult := do
  let c := vctx s env
  matOperand vd [2] 1
  matOperand va [0] c.f
  matOperand vb [1] 1
  matChecks c env [7]
  let zd := zNumber vd
  let t := tileOf c.lanes c.slot env.forme env.vl
  tileChecks t env (if sums then 15 else 16) zd
  ensure (!sums || (t.base != 0 && t.sideOk zd (regsOf va c.f))) cReserved
  let r := s.me.r
  let issued := c.gridIssued dt r
  useTouched s env.seq (touchesSpan issued (t.zregs zd ++ regsOf vb 1 ++ (if sums then t.sideRegs zd else [])) ++
    touches va c.lanes 256 issued)
  let act := takingPart r t c.slot
  let bw (l j : Nat) : Nat := getWord r vb c.lanes l j
  let (ones, s1) := if sums then rowOnes s t env.vl bw else (fun _ => 0, s)
  let o ← liftTrap (mmaCompute t env.vl zd act (regOpA r va t) bw (if sums then some ones else none) r)
  vdone (modRegs s1 fun _ => commit c 0 (hitCounts o.hits (gridCount dt r c)) (o.write t zd r))

/-- MSUMS. -/
def msumsBody (dt : Bool) (vd va : VOp) (env : Env) (s : State) : StreamResult := do
  let c := vctx s env
  matOperand vd [2] 1
  matOperand va tVW c.f
  matChecks c env [7]
  let k := zNumber vd
  let t := tileOf c.lanes c.slot env.forme env.vl
  tileChecks t env 16 k
  ensure (t.base != 0 && t.sideOk k (regsOf va c.f)) cReserved
  let r := s.me.r
  let fromW := tierOf va == 1
  let issued := if fromW then List.range env.vl else c.gridIssued dt r
  useTouched s env.seq (touches va c.lanes 256 issued ++ touchesSpan issued (t.sideRegs k))
  let (ones, s1) := if fromW then (0, s) else onesWord s t.ratio
  let ps : List Pairing :=
    if fromW then (List.range c.lanes).flatMap fun l => (List.range env.vl).map fun j =>
      { lane := l, a := 0, b := j, p := onesA t.f * operandB t.f (getWord r va c.lanes l j) }
    else (takingPart r t c.slot).map fun p =>
      { lane := p.1, a := p.2, b := 0, p := regOpA r va t p.1 p.2 ones * onesB t.f }
  let gs := if fromW then colGains t ps else rowGains t ps
  let _ ← liftTrap (troubles (leadsOf t ps) (accsOf t true (oldSum r k t) gs))
  let d := if fromW then Counts.zero else gridCount dt r c
  vdone (modRegs s1 fun _ => commit c 0 (hitCounts (hitsOf t.f ps) d) (putSums t k r (newValues (oldSum r k t) gs)))

/-! ## Unfolding (R231 to R233) -/

/-- The virtual elements that an MMAU reads: key, row, reduction index and galley element, in the order of the words and the
fields (R232). -/
def unfoldReads (t : Tile) (env : Env) (off : Nat) (r : Regs) (act : List (Nat × Nat)) (bw : Nat → Nat → Nat) :
    List (Nat × (Nat × Nat × Nat × Nat)) :=
  act.flatMap fun p =>
    let f := unfoldField r t.lanes p.1 (slotUnfold env.slot)
    (List.range (fM t.f)).flatMap fun m =>
      (selectedPositions t.f t.ratio ((List.range env.vl).map (bw p.1))).filterMap fun d =>
        let row := f 112 16 + p.2 * fM t.f + m
        let kk := f 192 24 + off + d
        match virtualElement f row kk with
        | .inl _ => none
        | .inr i => some (unfoldKey t p.1 p.2 m d, (f 0 5, row, kk, i))

/-- The packed-word element at which A′ word a of a lane begins. -/
def firstElement (t : Tile) (p : Nat × Nat) : Nat := pwElem t.lanes p.1 (p.2 * t.ratio)

/-- A galley suits an MMAU: plain, or sparse of the kind of SPARSE, and of the width of SFMT (R232). -/
def unfoldGalleyOk (forme slot d : Word) : Bool :=
  gBits d == sfmtBits forme && (gKind d == 0 || (gKind d == slotSparse slot && slotSparse slot != 0))

/-- Translate and probe a virtual element (R233). -/
def unfoldElement (s : State) (forme : Word) (e : Nat) (q : Nat × Nat × Nat × Nat) : Except Stop Element := do
  let (id, row, kk, i) := q
  let trap {α : Type} (r : Except TStop α) : Except Stop α := match r with
    | .ok a => .ok a
    | .error (.fault t) => .error (.trap { t with elem := e })
    | .error .moving => .error (.wait .moving)
  let d ← trap (openGalley s id 0 true)
  let x ← trap (match galleyIndex s id 0 d (sfmtBits forme) i 0 with
    | .error (.fault t) => .error (.fault { t with coord := [row, kk] })
    | o => o)
  if placeBad s x.place then
    .error (.trap { code := cUncorrectable, elem := e, coord := [row, kk], info := addrInfo (0xFFF00 + id) 0 0 0 })
  else return { x with coord := [row, kk] }

/-- MMAU. It waits outside the registers until its reads may perform; then it takes its traps or writes its tile. -/
def mmauBody (i : Instr) (vd va vb : VOp) (env : Env) (s : State) : StreamResult := do
  let c := vctx s env
  matOperand vd [2] 1
  matOperand va [3, 5] 1
  matOperand vb [1] 1
  ensure (match vb with
    | .w n => n.val != 7
    | _ => true) cIllegal
  matChecks c env [7]
  let zd := zNumber vd
  let t := tileOf c.lanes c.slot env.forme env.vl
  tileChecks t env 16 zd
  ensure (!fConv env.forme && sfmtInt env.forme) cReserved
  let (off, s1) ← match va with
    | .q k => popQ k s
    | _ => pure (0, s)
  useRegs s1 env.seq (t.zregs zd ++ regsOf vb 1 ++ [(2, 7)])
  let r := s1.me.r
  let act := takingPart r t c.slot
  let lanesUsed := (act.map (·.1)).eraseDups
  ensure (lanesUsed.all fun l => !unfoldBad (unfoldField r c.lanes l (slotUnfold c.slot)) off.toNat) cReserved
  ensure (lanesUsed.all fun l =>
    let id := unfoldField r c.lanes l (slotUnfold c.slot) 0 5
    !galleyUsable s1 s1.me.ctx s1.me.core s1.me.gmask id || unfoldGalleyOk env.forme c.slot (galley s1 s1.me.core id)) cReserved
  let bw (l j : Nat) : Nat := getLaneW r (match vb with
    | .w n => n.val
    | _ => 0) c.lanes l (256 * j) 256
  let ordered := act.mergeSort fun p q => decide (firstElement t p ≤ firstElement t q)
  let xs ← ordered.flatMapM fun p => do
    (unfoldReads t env off.toNat r [p] bw).mapM fun q => do
      let e ← unfoldElement s1 env.forme (firstElement t p) q.2
      return (firstElement t p, q.1, e)
  let spans := ((xs.map fun x => x.2.2.handle).eraseDups).flatMap fun h =>
    boundSpan h ((xs.map (·.2.2)).filter fun (e : Element) => e.handle == h)
  let f : Flight := { opOf i { env with a := off, b := 0 } s spans false
    (.mmau (xs.map fun x => (x.2.1, x.2.2.place))) (marksOf (xs.map fun x => (x.1, x.2.2))) with checked := false }
  streamRoom s1 f.stream
  tableRoom s1 1
  let s2 := modMe s1 fun h => countIssued h f.stream
  if canPerform s2 s2.me f && !s2.me.defer then
    let g ← liftTrap (landMmau { f with before := r } c.lanes (xs.map fun x => (x.2.1, readPlace s2 x.2.2.place)))
    vdone (modMe s2 fun h => countPerf { h with r := g h.r } f.stream)
  else vdone (keepFlight s2 f)

/-! ## Draining: the value of a position (R234, R235) -/

/-- The zero point of a record: ZE extended by the signedness of SFMT, less 2^(b-1) under a recentred plan (R221, R235). -/
def zeroPoint (f : Word) (ze : Nat) : Int :=
  if !sfmtInt f then 0
  else
    let n := if sfmtBits f = 4 then 4 else 8
    let z : Int := if sfmtUnsigned f then (bitsOf ze 0 n : Int) else signedOf ze n
    if recentred f then z - (2 ^ (sfmtBits f - 1) : Nat) else z

/-- A factor of R235: the group scale of an integer SFMT, or block exponent and scale of a float one. -/
def scaleFactor (f : Word) (sc ze : Nat) : Val :=
  if sfmtInt f then decodeVal 1 sc
  else if sc = 0x8000 ∨ ze = 0xFF then .nan false
  else (Val.ofInt 1).scale (signedOf sc 16 + ze - 127)

/-- The record of an entry: SC, ZE, KCM1, SUM (R221). -/
structure SideRecord where
  sc   : Nat
  ze   : Nat
  kcm1 : Nat
  sum  : Int
  deriving DecidableEq, Repr

/-- An entry of a side group, or what every record reads as with no side block; its KCM1 is then a free value (log 6). -/
def sideRecord (t : Tile) (r : Regs) (k lane x kcm1 : Nat) : SideRecord :=
  if t.base = 0 then { sc := if sfmtInt t.f then 0x3C00 else 0, ze := if sfmtInt t.f then 0 else 127, kcm1 := kcm1, sum := 0 }
  else { sc := t.get r k lane x 0 16, ze := t.get r k lane x 16 8, kcm1 := t.get r k lane x 24 8, sum := oldSum r k t lane x }

/-- Bring a corrected partial into INT32, raising OF (R235). -/
def intoInt32 (p : Int) : Int × FlagSet :=
  if p < -(2 ^ 31 : Nat) then (-(2 ^ 31 : Nat), fOF)
  else if (2 ^ 31 : Nat) ≤ p then ((2 ^ 31 : Nat) - 1, fOF)
  else (p, 0)

/-- P × SA × SB, exact, with the special values of R35, R38 and R49. A signalling NaN scale raises NV (R28); an infinite
scale gives the infinity of the sign that the rest has, whatever its own sign (R35, log 64). -/
def scaledPartial (p : Int) (sa sb : Val) : Val × FlagSet :=
  if sa.isNan || sb.isNan then (.nan false, sigFlag [sa, sb])
  else
    let isInf (v : Val) : Bool := match v with
      | .inf _ => true
      | _ => false
    let neg (v : Val) : Bool := match v with
      | .fin n _ _ => n
      | _ => false
    let sign := (decide (p < 0) != neg sa) != neg sb
    if isInf sa || isInf sb then (if p = 0 then (.nan false, fNV) else (.inf sign, 0))
    else (((Val.ofInt p).mul sa).1.mul sb |>.1, 0)

/-- The value of tile position i of a lane, of the tile at zk with side group k (R235). -/
def tileValue (t : Tile) (r : Regs) (kcm1 k lane i : Nat) : Val × FlagSet :=
  let row := sideRecord t r k lane (i / t.tc) kcm1
  let col := sideRecord t r k lane (t.tr + i % t.tc) kcm1
  let za := zeroPoint t.f row.ze
  let zb := zeroPoint t.f col.ze
  let (p, f1) := intoInt32 (oldTile r k t lane i - zb * row.sum - za * col.sum + (row.kcm1 + 1 : Nat) * za * zb)
  let (v, f2) := scaledPartial p (scaleFactor t.f row.sc row.ze) (scaleFactor t.f col.sc col.ze)
  (v, f1 ||| f2)

/-- The free KCM1 of a drain without a side block; only a recentred plan reads it (log 6). -/
def drainKcm1 (s : State) (t : Tile) : Nat × State :=
  if t.base = 0 ∧ recentred t.f then ((Config.freeKcm1 s.drawn).toNat, { s with drawn := s.drawn + 1 }) else (0, s)

/-! ## Rounding of the drains (R40, R41) -/

/-- The reversal of five bits. -/
def bitrev5 (p : Nat) : Nat := (List.range 5).foldl (fun a i => a + bit (p.testBit i) <<< (4 - i)) 0

/-- The dither phase of a source: z0 to z3, or 4 for drain-through (R41). -/
def phaseOf (r : Regs) (k : Nat) : Nat := field r.dphase (5 * k) 5

/-- One phase advances by one (R41). -/
def advancePhase (k : Nat) (r : Regs) : Regs := { r with dphase := putField r.dphase (5 * k) 5 (phaseOf r k + 1) }

/-- The rounding of an element at position p of its block (R40). -/
def drainMode (rnd phase p : Nat) : RMode :=
  if rnd = 5 then .dither ((bitrev5 (p % 32) + 7 * phase) % 32) else .rnd rnd

/-! ## DRAIN and DRAINA (R236, R237) -/

/-- The bit string of results, result i in its order (R234). -/
def bitString (b : Nat) (l : List Nat) : Nat := l.foldr (fun x acc => x + acc <<< b) 0

/-- The checks of a drain (R217, R234). -/
def drainChecks (c : VCtx) (env : Env) (t : Tile) (types : List Nat) (za : Nat) : Except Stop PUnit := do
  matChecks c env types
  ensure (!slotPreden c.slot) cReserved
  tileChecks t env 16 za

/-- The side groups of a drain are usable beside its run (R221, R234). -/
def drainSides (t : Tile) (ks : List Nat) (run : List RegName) : Bool := t.base == 0 || ks.all fun k => t.sideOk k run

/-- Write the results of every lane into the run from a register on. -/
def putResults (r : Regs) (reg lanes n b : Nat) (res : Nat → List (Nat × FlagSet)) : Regs :=
  putRun r reg lanes n fun l => bitString b ((res l).map (·.1))

/-- The flags of the results of every lane. -/
def laneFlags (lanes : Nat) (res : Nat → List (Nat × FlagSet)) : FlagSet :=
  (List.range lanes).foldl (fun a l => a ||| flagsOf (res l)) 0

/-- One result of DRAIN. -/
def drainOne (c : VCtx) (t : Tile) (r : Regs) (kcm1 k lane i : Nat) : Nat × FlagSet :=
  let (v, f1) := tileValue t r kcm1 k lane i
  let (x, f2) := convert 0 c.et (drainMode (slotRnd c.slot) (phaseOf r k) i) (slotSat c.slot) v
  (x, f1 ||| f2)

/-- A fold of DRAINA: acc + t rounded to FP32 (R49). -/
def foldOne (m : RMode) (acc : Nat × FlagSet) (v : Val × FlagSet) : Nat × FlagSet :=
  let (x, f1) := (decodeVal 0 acc.1).add m.isDown v.1
  let (y, f2) := convert 0 0 m false x
  (y, acc.2 ||| v.2 ||| f1 ||| f2)

/-- One result of DRAINA over the tiles at ks. -/
def foldedOne (c : VCtx) (t : Tile) (r : Regs) (kcm1 k : Nat) (ks : List Nat) (lane i : Nat) : Nat × FlagSet :=
  let acc := ks.foldl (fun a q => foldOne c.rm a (tileValue t r kcm1 q lane i)) (0, 0)
  let (x, f2) := convert 0 c.et (drainMode (slotRnd c.slot) (phaseOf r k) i) (slotSat c.slot) (decodeVal 0 acc.1)
  (x, acc.2 ||| f2)

/-- DRAIN, and DRAINA when `folds`. -/
def drainBody (folds : Bool) (vd va : VOp) (env : Env) (s : State) : StreamResult := do
  let c := vctx s env
  matOperand vd [0] 1
  matOperand va [2] 1
  let k := zNumber va
  let t := tileOf c.lanes c.slot env.forme env.vl
  drainChecks c env t (if folds then [0, 1, 2, 20, 21] else [0, 1, 2, 3, 4, 5, 6, 16, 17, 18, 19, 20, 21]) k
  let n := ceilDiv (t.count * c.b) 4096
  let run := runRegs (vNumber vd) n
  let step := if t.count ≤ 1024 then 1 else 2
  let ks := if folds then (List.range 4).filter fun q => decide (k ≤ q) && (q - k) % step == 0 else [k]
  ensure (runOk (vNumber vd) n && drainSides t ks run) cReserved
  useRegs s env.seq (run ++ ks.flatMap t.zregs ++ drainSideRegs t ks)
  let r := s.me.r
  let (kcm1, s1) := drainKcm1 s t
  let res (l : Nat) : List (Nat × FlagSet) := (List.range t.count).map fun i =>
    if folds then foldedOne c t r kcm1 k ks l i else drainOne c t r kcm1 k l i
  let out := (List.range c.lanes).map res
  let at_ (l : Nat) : List (Nat × FlagSet) := out.getD l []
  vdone (modRegs s1 fun _ => commit c (laneFlags c.lanes at_) Counts.zero (putResults r (vNumber vd) c.lanes n c.b at_))

/-! ## DRAINQ and DRAINRC (R46, R238, R239) -/

/-- The exponent of the largest binade of a format (R31). -/
def emaxOf (et : Nat) : Int :=
  match et with
  | 20 => 8
  | 21 => 15
  | 22 => 2
  | 23 => 4
  | _ => 2

/-- The largest magnitude among finite values, as a fraction. -/
def amaxOf (vs : List Val) : Nat × Nat :=
  vs.foldl (fun m v => match v with
    | .fin _ n d => if m.1 * d < n * m.2 then (n, d) else m
    | _ => m) (0, 1)

/-- The scale of a group: its code, its value as a fraction, and the flags of its clamp (R46). -/
structure GroupScale where
  code  : Nat
  num   : Nat
  den   : Nat
  flags : FlagSet
  deriving DecidableEq, Repr

/-- The largest magnitude of an integer target (R46). -/
def qmaxOf (et : Nat) : Nat := if et = 16 then 127 else 7

/-- The target is an integer one. -/
def intTarget (et : Nat) : Bool := et == 16 || et == 18

/-- The scale of a group of values (R46). -/
def groupScale (et : Nat) (vs : List Val) : GroupScale :=
  let a := amaxOf vs
  if intTarget et then
    if a.1 = 0 then { code := 0x3C00, num := 1, den := 1, flags := 0 }
    else
      let (c, _) := toFloat 1 { e := 5, m := 10, bias := 15, maxCode := 0x7BFF } (.rnd 0) false (.fin false a.1 (a.2 * qmaxOf et))
      let d := if c = 0 then 1 else if c = 0x7C00 then 0x7BFF else c
      match decodeVal 1 d with
      | .fin _ n m => { code := d, num := n, den := m, flags := if d = c then 0 else fOF }
      | _ => { code := d, num := 1, den := 1, flags := 0 }
  else
    let s : Int := if a.1 = 0 then 0 else max (-127) (min 127 (floorLog2 a.1 a.2 - emaxOf et))
    let p := pow2 s
    { code := (s + 127).toNat, num := p.1, den := p.2, flags := 0 }

/-- The code of an element of a group (R44, R46). -/
def groupCode (et : Nat) (m : RMode) (g : GroupScale) (v : Val) : Nat × FlagSet :=
  match v with
  | .nan sg =>
    if intTarget et then (0, fNV)
    else convert 0 et m true (.nan sg)
  | .inf n =>
    if intTarget et then (lowBits (if n then -(qmaxOf et : Int) else qmaxOf et) ((etypeBits et).getD 8), fSX)
    else convert 0 et m true (.inf n)
  | .fin n x d =>
    let num := x * g.den
    let den := d * g.num
    if intTarget et then
      let (i, inexact) := roundToInt m n num den
      let q : Int := qmaxOf et
      let j := if i < -q then -q else if q < i then q else i
      (lowBits j ((etypeBits et).getD 8), if inexact || i != j then fNX else 0)
    else
      let (c, fl) := convert 0 et m true (.fin n num den)
      (c, if fl &&& fOF = fOF then fNX else fl)

/-- The codes of a group, with its scale: an FP6 or FP4 group that holds a NaN has the scale 0xFF (R44). -/
structure QGroup where
  codes : List (Nat × FlagSet)
  scale : Nat
  flags : FlagSet
  nans  : Nat
  deriving DecidableEq, Repr

/-- Quantise a group: its values in order, each with its position for dither (R44, R46). -/
def quantise (et rnd phase : Nat) (vs : List Val) : QGroup :=
  let g := groupScale et vs
  let codes := vs.zipIdx.map fun p => groupCode et (drainMode rnd phase p.2) g p.1
  let nans := if noSpecials et then (vs.filter Val.isNan).length else 0
  { codes := codes, scale := if nans = 0 then g.code else 0xFF, flags := g.flags ||| flagsOf codes, nans := nans }

/-- The groups of a tile, each the list of its local indices: along rows, or down columns (R238, R239). -/
def groupsOf (t : Tile) (cols : Bool) : List (List Nat) :=
  if cols then
    (List.range (ceilDiv t.tr 32)).flatMap fun q => (List.range t.tc).map fun k =>
      (List.range (Nat.min 32 (t.tr - 32 * q))).map fun i => (32 * q + i) * t.tc + k
  else
    (List.range t.tr).flatMap fun ρ => (List.range (ceilDiv t.tc 32)).map fun q =>
      (List.range (Nat.min 32 (t.tc - 32 * q))).map fun i => ρ * t.tc + 32 * q + i

/-- Where the code of a local index goes: in tile order, or in column order (R239). -/
def codeIndex (t : Tile) (cols : Bool) (i : Nat) : Nat := if cols then i % t.tc * t.tr + i / t.tc else i

/-- The code run and the scale run of a lane as bit strings, with flags and NaN count. -/
structure QLane where
  codes  : Nat
  scales : Nat
  flags  : FlagSet
  nans   : Nat
  deriving DecidableEq, Repr

/-- The bits of a scale in its run (R238). -/
def scaleBits (et : Nat) : Nat := if intTarget et then 16 else 8

/-- Quantise a lane in groups. -/
def quantiseLane (t : Tile) (cols : Bool) (et rnd phase : Nat) (vs : List Val) : QLane :=
  let b := (etypeBits et).getD 8
  let gs := groupsOf t cols
  let qs := gs.map fun g => quantise et rnd phase (g.map fun i => vs.getD i .zero)
  let placed := (gs.zip qs).flatMap fun p => (p.1.zip p.2.codes).map fun q => (codeIndex t cols q.1, q.2.1)
  { codes := (placed.map fun p => p.2 <<< (b * p.1)).sum,
    scales := bitString (scaleBits et) (qs.map (·.scale)),
    flags := qs.foldl (fun a q => a ||| q.flags) 0,
    nans := (qs.map (·.nans)).sum }

/-- The registers of the code run and of the scale run (R238, R239). -/
def quantRegs (t : Tile) (cols : Bool) (et : Nat) : Nat × Nat :=
  (ceilDiv (t.count * (etypeBits et).getD 8) 4096, ceilDiv ((groupsOf t cols).length * scaleBits et) 4096)

/-- DRAINQ, and DRAINRC when `both`. -/
def quantBody (both : Bool) (vd va : VOp) (env : Env) (s : State) : StreamResult := do
  let c := vctx s env
  matOperand vd [0] 1
  matOperand va [2, 0] c.f
  let through := tierOf va == 0
  let k := zNumber va
  let t := tileOf c.lanes c.slot env.forme env.vl
  drainChecks c env t [16, 18, 20, 21, 22, 23, 24] k
  let (n1, n2) := quantRegs t false c.et
  let (n3, n4) := if both then quantRegs t true c.et else (0, 0)
  let reg := vNumber vd
  let n := n1 + n2 + n3 + n4
  let run := runRegs reg n
  let srcN := if through then ceilDiv (t.count * 32) 4096 else 0
  let src := runRegs (vNumber va) srcN
  ensure (runOk reg n && (if through then t.base == 0 && runOk (vNumber va) srcN && !run.any src.contains
    else drainSides t [k] run)) cReserved
  useRegs s env.seq (run ++ (if through then src else t.zregs k ++ drainSideRegs t [k]))
  let r := s.me.r
  let (kcm1, s1) := if through then (0, s) else drainKcm1 s t
  let phaseIdx := if through then 4 else k
  let vals (l : Nat) : List (Val × FlagSet) := (List.range t.count).map fun i =>
    if through then (decodeVal 0 (getLane r (vNumber va) c.lanes l (32 * i) 32), 0) else tileValue t r kcm1 k l i
  let lanes := (List.range c.lanes).map fun l =>
    let vs := vals l
    let q (cols : Bool) : QLane := quantiseLane t cols c.et (slotRnd c.slot) (phaseOf r phaseIdx) (vs.map (·.1))
    (q false, if both then q true else { codes := 0, scales := 0, flags := 0, nans := 0 },
      vs.foldl (fun (a : FlagSet) v => a ||| v.2) 0)
  let at_ (g : QLane × QLane × FlagSet → Nat) (l : Nat) : Nat := (lanes[l]?.map g).getD 0
  let r1 := putRun r reg c.lanes n1 (at_ (·.1.codes))
  let r2 := putRun r1 (reg + n1) c.lanes n2 (at_ (·.1.scales))
  let r3 := putRun r2 (reg + n1 + n2) c.lanes n3 (at_ (·.2.1.codes))
  let r4 := putRun r3 (reg + n1 + n2 + n3) c.lanes n4 (at_ (·.2.1.scales))
  let fl : FlagSet := lanes.foldl (fun a q => a ||| q.1.flags ||| q.2.1.flags ||| q.2.2) 0
  let nans := (lanes.map fun q => q.1.nans + q.2.1.nans).sum
  vdone (modRegs s1 fun _ => commit c fl { Counts.zero with nanenc := nans } (advancePhase phaseIdx r4))

/-! ## Meanings -/

/-- MMA (R229). -/
def execMma (dt : Bool) (g : Fin 8) (vd va vb : VOp) (s : State) : Out :=
  runStream (.mma dt g vd va vb) 0 false g none none (mmaBody dt false vd va vb) s
/-- MMAS (R229). -/
def execMmas (dt : Bool) (g : Fin 8) (vd va vb : VOp) (s : State) : Out :=
  runStream (.mmas dt g vd va vb) 0 false g none none (mmaBody dt true vd va vb) s
/-- MMAU (R232). -/
def execMmau (dt : Bool) (g : Fin 8) (vd va vb : VOp) (s : State) : Out :=
  runStream (.mmau dt g vd va vb) 3 false g none none (mmauBody (.mmau dt g vd va vb) vd va vb) s
/-- VWMUL (R222). -/
def execVwmul (dt : Bool) (g : Fin 8) (vd va vb : VOp) (s : State) : Out :=
  runStream (.vwmul dt g vd va vb) 0 false g none none (wideBody dt false vd va vb) s
/-- VWMAC (R222). -/
def execVwmac (dt : Bool) (g : Fin 8) (vd va vb : VOp) (s : State) : Out :=
  runStream (.vwmac dt g vd va vb) 0 false g none none (wideBody dt true vd va vb) s
/-- VEXTF (R223). -/
def execVextf (dt : Bool) (g : Fin 8) (vd va : VOp) (s : State) : Out :=
  runStream (.vextf dt g vd va) 0 false g none none (extractBody dt vd va) s
/-- VPACK (R224). -/
def execVpack (dt : Bool) (g : Fin 8) (vd va : VOp) (s : State) : Out :=
  runStream (.vpack dt g vd va) 0 false g none none (vpackBody dt vd va) s
/-- VUNPACK (R225). -/
def execVunpack (dt : Bool) (g : Fin 8) (vd va : VOp) (s : State) : Out :=
  runStream (.vunpack dt g vd va) 0 false g none none (vunpackBody dt vd va) s
/-- MZERO (R227). -/
def execMzero (g : Fin 8) (vd : VOp) (s : State) : Out :=
  runStream (.mzero g vd) 0 false g none none (mzeroBody vd) s
/-- MSUMS (R228). -/
def execMsums (dt : Bool) (g : Fin 8) (vd va : VOp) (s : State) : Out :=
  runStream (.msums dt g vd va) 0 false g none none (msumsBody dt vd va) s
/-- DRAIN (R236). -/
def execDrain (g : Fin 8) (vd va : VOp) (s : State) : Out :=
  runStream (.drain g vd va) 0 false g none none (drainBody false vd va) s
/-- DRAINA (R237). -/
def execDraina (g : Fin 8) (vd va : VOp) (s : State) : Out :=
  runStream (.draina g vd va) 0 false g none none (drainBody true vd va) s
/-- DRAINQ (R238). -/
def execDrainq (g : Fin 8) (vd va : VOp) (s : State) : Out :=
  runStream (.drainq g vd va) 0 false g none none (quantBody false vd va) s
/-- DRAINRC (R239). -/
def execDrainrc (g : Fin 8) (vd va : VOp) (s : State) : Out :=
  runStream (.drainrc g vd va) 0 false g none none (quantBody true vd va) s

end Sys2Proof.Machine
end

