-- ==== Sys2Proof/Machine/Coll.lean ====
section
/-! DEFINITION. Collectives: COLL (R105, R248), communicators (R372), the exact reduction (R106), and READY, ABORT and the decision
(R321, R373, R374). -/

namespace Sys2Proof.Machine

/-! ## The fields of a COLL (R85) -/

/-- CKIND. -/
def ckind (l : Vector Word 16) : Nat := field (cw l 10) 0 3
/-- COP: 0 sum, 1 max, 2 min. -/
def cop (l : Vector Word 16) : Nat := field (cw l 10) 3 2
/-- ROOT. -/
def croot (l : Vector Word 16) : Nat := field (cw l 10) 5 16
/-- NRANKS. -/
def cranks (l : Vector Word 16) : Nat := field (cw l 10) 21 16
/-- RANK. -/
def crank (l : Vector Word 16) : Nat := field (cw l 10) 37 16
/-- COMM. -/
def ccomm (l : Vector Word 16) : Nat := (cw l 11).toNat

/-- This participant reads its source (R248). -/
def readsSource (l : Vector Word 16) : Bool := ckind l != 3 || crank l == croot l

/-- This participant writes its destination (R248). -/
def writesDest (l : Vector Word 16) : Bool := ckind l != 4 || crank l == croot l

/-- The number of source elements: a reduce-scatter reads the shares of all ranks (R248). -/
def sourceCount (l : Vector Word 16) : Nat := cCount l * (if ckind l = 1 then cranks l else 1)

/-- The number of destination elements: an all-gather writes the shares of all ranks (R248). -/
def destCount (l : Vector Word 16) : Nat := cCount l * (if ckind l = 2 then cranks l else 1)

/-- The result is a reduction. -/
def reduces (l : Vector Word 16) : Bool := ckind l == 0 || ckind l == 1 || ckind l == 4

/-! ## Formats (R248) -/

/-- What a side says of its elements: their width, and for an object the format and GSZ. -/
def sideFormat (s : State) (w : Who) (core : Nat) (a : Word) : Option (Nat × Option (Nat × Nat)) :=
  match galleyOf (handleOf a) with
  | some id => some (gBits (galley s core id), none)
  | none =>
    match lookupRecord s w (handleOf a) 0 with
    | .ok r => some (r.bits, some (r.fmt, r.gsz))
    | .error _ => none

/-- An E8M0-scaled format (R106). -/
def scaledFmt (f : Nat) : Bool := decide (20 ≤ f) && decide (f ≤ 24)

/-- The formats that a reduction takes, for one side. -/
def reduceFmt (x : Nat × Option (Nat × Nat)) : Bool :=
  match x.2 with
  | some (f, g) => decide (f ≤ 6) || (scaledFmt f && g == 1)
  | none => true

/-- The sides that a COLL uses agree (R248): a galley has the format of the other side (log 21). -/
def formatsOk (l : Vector Word 16) (src dst : Option (Nat × Option (Nat × Nat))) : Bool :=
  match src, dst with
  | some x, some y =>
    x.1 == y.1 && (!reduces l ||
      (reduceFmt x && reduceFmt y && match x.2, y.2 with
        | some p, some q => p.1 == q.1
        | some p, none => !scaledFmt p.1
        | none, some q => !scaledFmt q.1
        | none, none => false))
  | some x, none => !reduces l || (reduceFmt x && x.2.isSome)
  | none, some y => !reduces l || (reduceFmt y && y.2.isSome)
  | none, none => true

/-- The width of the elements of a collective: that of the source where it is read, else of the destination. DESIGN CHOICE (log 96): with
neither, as where a rank that reads nothing writes v registers, it is the width of what SRC names, else 32. -/
def collWidth (s : State) (w : Who) (core : Nat) (l : Vector Word 16) : Nat :=
  let width (a : Word) : Option Nat := (sideFormat s w core a).map (·.1)
  let src := if readsSource l then width (cw l 0) else none
  (src.or (width (cw l (if cRegs l then 0 else 1)))).getD 32

/-- What the sides of a collective that this participant uses say of its elements; v registers say a width alone, as a galley does
(R248). -/
def collSideFormats (s : State) (w : Who) (core : Nat) (l : Vector Word 16) :
    Option (Nat × Option (Nat × Nat)) × Option (Nat × Option (Nat × Nat)) :=
  (if readsSource l then sideFormat s w core (cw l 0) else none,
    if !writesDest l then none else if cRegs l then some (collWidth s w core l, none) else sideFormat s w core (cw l 1))

/-- The format of a collective: that of the source where it is read, else of the destination; 32 and more for a width alone. -/
def collFormat (s : State) (w : Who) (core : Nat) (l : Vector Word 16) : Nat :=
  let (src, dst) := collSideFormats s w core l
  match src.bind (·.2), dst.bind (·.2) with
  | some p, _ => p.1
  | none, some q => q.1
  | none, none => 32 + ((src.or dst).map (·.1)).getD 0

/-- How often dimension 3 of the destination of a collective is widened (R248). -/
def destWiden (l : Vector Word 16) : Nat := if ckind l = 2 then cranks l else 1

/-- The registers that a collective writes of its hart (R85, R248). -/
def collRegs (l : Vector Word 16) (lanes b : Nat) : List RegName :=
  if cRegs l && writesDest l then runRegs (cFirst l) (wideSpan l (destWiden l) lanes b) else []

/-- The latched descriptor of a COLL is bad (R86, R105, R248, R372). DESIGN CHOICE (log 96): the spec does not say what MODE and COMP mean
in a COLL, and the model takes a COLL in which one of them is not 0 as bad; DKIND = 1 names v registers as its destination, as in a
copy. -/
def badColl (s : State) (w : Who) (core lanes : Nat) (l : Vector Word 16) : Bool :=
  let (src, dst) := collSideFormats s w core l
  let sparse (a : Word) : Bool := match galleyOf (handleOf a) with
    | some id => gKind (galley s core id) != 0
    | none => false
  let b := collWidth s w core l
  let bytes := ceilDiv (destCount l * b) 8
  decide (5 ≤ ckind l) || cop l == 3 || field (cw l 10) 53 11 != 0 || cranks l == 0 || decide (cranks l ≤ crank l) ||
    ((ckind l == 3 || ckind l == 4) && decide (cranks l ≤ croot l)) || field (cw l 7) 0 5 != 0 ||
    field (cw l 7) 6 58 != 0 || (cRegs l && writesDest l && badRegs l (destWiden l) lanes b) ||
    ((List.range 4).any fun i => cw l (12 + i) != 0) || ((List.range 4).any fun d => cE l d == 0) ||
    decide (2 ^ 24 < bytes) || !formatsOk l src dst ||
    (readsSource l && sparse (cw l 0)) || (writesDest l && !cRegs l && sparse (cw l 1)) ||
    (match commEntry s (ccomm l) with
     | some (n, map) => n != cranks l || rankEntry s map (crank l) != (field s.stlNode 0 16, dieOf core)
     | none => true)

/-! ## Issue -/

/-- COLLs under way on a die. -/
def collsOnDie (s : State) (d : Nat) : Nat := (s.transfers.filter fun t => t.kind == .coll && dieOf t.core == d).length

/-- How many COLLs a participant has issued on a communicator. -/
def collCount (s : State) (comm rank : Nat) : Nat :=
  ((s.unit.colls.find? fun e => e.1 == comm && e.2.1 == rank).map (·.2.2)).getD 0

/-- A participant has issued one more COLL. -/
def bumpColl (s : State) (comm rank : Nat) : State :=
  modUnit s fun u =>
    { u with colls := (comm, rank, collCount s comm rank + 1) :: u.colls.filter fun e => !(e.1 == comm && e.2.1 == rank) }

/-- What every participant of a collective must agree on, the format first (R248). -/
def collTerms (s : State) (w : Who) (core : Nat) (l : Vector Word 16) : List Nat :=
  [collFormat s w core l, ckind l, cop l, cranks l, croot l, cCount l]

/-- Two formats agree: they are equal, or one is the width of a galley, which has no format, and the other is of that width (R248). -/
def formatsAgree (f g : Nat) : Bool :=
  let width (x : Nat) : Nat := if 32 ≤ x then x - 32 else (etypeBits x).getD 0
  f == g || ((decide (32 ≤ f) || decide (32 ≤ g)) && width f == width g)

/-- Terms agree; those of a participant whose ABORT has come before any are none. -/
def termsAgree : List Nat → List Nat → Bool
  | f :: x, g :: y => formatsAgree f g && x == y
  | _, _ => true

/-- The terms of a collective once a participant has joined: the format of an object stands before the width of a galley. -/
def joinTerms : List Nat → List Nat → List Nat
  | f :: x, g :: _ => (if 32 ≤ f then g else f) :: x
  | [], l => l
  | l, [] => l

/-- A participant joins its collective, the first of them opening it; a disagreement aborts it (R248). -/
def joinColl (s : State) (comm index nranks : Nat) (terms : List Nat) : State :=
  match s.colls.find? fun c => c.comm == comm && c.index == index with
  | none =>
    let c : Coll :=
      { comm := comm, index := index, nranks := nranks, terms := terms, shares := [], ready := [], decided := none,
        home := rankHere s comm 0, barred := false, left := [] }
    { s with colls := s.colls ++ [c] }
  | some c =>
    if termsAgree c.terms terms then setColl s { c with terms := joinTerms c.terms terms } else abortColl s c

/-- The entries of the interlock table that a COLL takes (R83, R173). -/
def collSpans (s : State) (w : Who) (core : Nat) (l : Vector Word 16) : List Span :=
  let side (a : Word) (n : Nat) (st : Nat → Int) : Span :=
    boundSide s w core a ((List.range n).map fun k => stridden st (copyIndex l k))
  twoSpans (if readsSource l then some (side (cw l 0) (sourceCount l) (cSS l)) else none)
    (if writesDest l && !cRegs l then some (side (cw l 1) (destCount l) (cDS l)) else none)

/-- Two transfers are not of one participant: they act for different harts or nodes. -/
def otherIssuer (t u : Transfer) : Bool := t.uid != u.uid && (t.ctx != u.ctx || t.owner != u.owner || t.node != u.node)

/-- Another participant has issued a COLL with the same rank on the same communicator, and it is not decided: the collective whose ranks are
not distinct (R248, log 83). -/
def sameRank (s : State) (t : Transfer) : Option Coll :=
  s.transfers.findSome? fun u =>
    if u.kind == .coll && ccomm u.latch == ccomm t.latch && crank u.latch == crank t.latch && otherIssuer t u then
      (collOf s u).filter fun c => c.decided.isNone
    else none

/-- A COLL takes its place in the collectives of its communicator; one whose rank another participant has taken aborts the collective of
that one (R248). -/
def enterColl (s : State) (w : Who) (t : Transfer) : State :=
  let l := t.latch
  let put (i : Nat) : State := { s with transfers := s.transfers.map fun x => if x.uid = t.uid then { t with index := i } else x }
  match sameRank s t with
  | some c => abortColl (put c.index) c
  | none =>
    let i := collCount s (ccomm l) (crank l)
    joinColl (bumpColl (put i) (ccomm l) (crank l)) (ccomm l) i (cranks l) (collTerms s w t.core l)

/-- COLL (R248). -/
def execColl (sd se : SOp) (g : Fin 8) (s : State) : Out :=
  let env := scalarEnv s g
  finishSlot s env.slot do
    legal [] [sd]
    let p ← pendingReg se sd
    transferRoom s
    streamRoom s (slotStream env.slot)
    useX s p
    let l := s.me.r.c
    let gsrc ← if readsSource l then launchGalley s (cw l 0) false else .ok none
    let gdst ← if writesDest l && !cRegs l then launchGalley s (cw l 1) true else .ok none
    let s ← firm s
    let w := whoMe s
    let tid := nextTid s
    let s1 ← writeDst sd (wordOfNat tid.toNat) (fillGalley s gdst)
    if badColl s w s.me.core (lanesOf s.me) l then return retire (endAtOnce s1 tid p 0x19)
    else
      holds (decide (collsOnDie s (dieOf s.me.core) < 4)) .limit
      let spans := collSpans s w s.me.core l
      tableRoom s (spans.filter fun x => decide (x.lo < x.hi)).length
      let regs := collRegs l (lanesOf s.me) (collWidth s w s.me.core l)
      let t := { newTransfer s .coll env p l spans gsrc gdst with vregs := regs.map (·.2) }
      targetsFree s env.seq regs
      return retire (enterColl (addTransfer (clearLanded s1 regs) t true) w t)

/-! ## The exact reduction (R106) -/

/-- A staged element: its code, with the E8M0 scale of its group above bit 8 for a scaled format. -/
def stagedVal (fmt x : Nat) : Val :=
  if scaledFmt fmt then
    let e := x / 256
    if e = 255 then .nan false else (decodeVal fmt (x % 256)).scale ((e : Int) - 127)
  else decodeVal fmt x

/-- The exact sum of values: bit 0 of the accumulator weighs 2^-200, which loses nothing (R106). -/
def reduceSum (vs : List Val) : Val × FlagSet :=
  let pinf := vs.any (· == .inf false)
  let ninf := vs.any (· == .inf true)
  let sig := vs.any Val.isSignalling
  if vs.any Val.isNan ∨ (pinf ∧ ninf) then (.nan false, if sig ∨ (pinf ∧ ninf) then fNV else 0)
  else if pinf then (.inf false, 0)
  else if ninf then (.inf true, 0)
  else
    let a : Int := (vs.map fun v => match v with
      | .fin s n d => (if s then -1 else 1) * ((n * 2 ^ 200 / d : Nat) : Int)
      | _ => 0).sum
    (if a.natAbs % 2 ^ 200 = 0 then .fin (decide (a < 0)) (a.natAbs / 2 ^ 200) 1 else .fin (decide (a < 0)) a.natAbs (2 ^ 200), 0)

/-- The larger or the smaller of values, +0 over -0, a NaN when any is one (R106). -/
def reducePick (max : Bool) (vs : List Val) : Val × FlagSet :=
  if vs.any Val.isNan then (.nan false, sigFlag vs)
  else
    match vs with
    | [] => (Val.zero, 0)
    | v :: rest =>
      (rest.foldl (fun m x =>
        if m.isZero ∧ x.isZero then (if m = .fin true 0 m.den then x else m)
        else if (if max then m.lt x else x.lt m) then x else m) v, 0)

/-- The reduction of the elements of all ranks, exact (R106). -/
def reduceVals (op : Nat) (vs : List Val) : Val × FlagSet :=
  if op = 0 then reduceSum vs else reducePick (op == 1) vs

/-- The result of a reduction as an element of a format without scales: converted, but an infinity, which stays one (R42 to R45, R106). -/
def reducedCode (fmt : Nat) (slot : Word) (v : Val × FlagSet) : Nat × FlagSet :=
  let infinite := match v.1 with
    | .inf _ => true
    | _ => false
  let (c, f) := convert fmt fmt (rmode (slotRnd slot)) (slotSat slot && !infinite) v.1
  (c, f ||| v.2)

/-! ## Staging (R105, R373) -/

/-- The staged code of the element of a source place, with the scale of its group (R69, R106). -/
def stageElement (s : State) (t : Transfer) (src : Side) (fmt k : Nat) : Except Nat Nat := do
  let l := t.latch
  let w := whoTransfer t
  let disp := stridden (cSS l) (copyIndex l k)
  let (p, _) ← src.place s w t.core 4 (cw l 0) disp
  if placeBad s p then .error 0x0F
  else
    let v := readPlace s p
    match src with
    | .object h r =>
      if scaledFmt fmt ∧ reduces l then
        match planeElement s w h 4 r (coordOf (r.dims.map r.shape) (sideIndex (cw l 0) r.bits disp)) with
        | .error (.fault e) => .error e.code
        | .error .moving => .error 0x0C
        | .ok e => if placeBad s e.place then .error 0x0F else return v + 256 * readPlace s e.place
      else return v
    | _ => return v

/-- The check of the destination of element k, before any write (R248): its place, and that of its scale. -/
def destPlaces (s : State) (t : Transfer) (dst : Side) (fmt k : Nat) : Except Nat (Place × Option Place) := do
  let l := t.latch
  let w := whoTransfer t
  let disp := stridden (cDS l) (copyIndex l k)
  let (p, _) ← dst.place s w t.core 5 (cw l 1) disp
  match dst with
  | .object h r =>
    if scaledFmt fmt ∧ reduces l then
      match planeElement s w h 5 r (coordOf (r.dims.map r.shape) (sideIndex (cw l 1) r.bits disp)) with
      | .error (.fault e) => .error e.code
      | .error .moving => .error 0x0C
      | .ok e => return (p, some e.place)
    else return (p, none)
  | _ => return (p, none)

/-- The first fault of a list of attempts, with its element. -/
def firstFault {α : Type} (f : Nat → Except Nat α) (n : Nat) : Except (Nat × Nat) (List α) :=
  (List.range n).mapM fun k =>
    match f k with
    | .ok x => .ok x
    | .error c => .error (statusOf c, k)

/-- The two sides of a COLL, where used. -/
def collSides (s : State) (t : Transfer) : Side × Side :=
  let w := whoTransfer t
  (if readsSource t.latch then sideOf s w t.core (cw t.latch 0) 4 else .regs 0,
    if writesDest t.latch && !cRegs t.latch then sideOf s w t.core (cw t.latch 1) 5 else .regs (cFirst t.latch))

/-- The share of a participant, and the places of its results, all checked; of the elements of both sides that fault it reports the lowest
(R88, R248). DEDUCED (log 97): of two of one index it reports the source. -/
def stageShare (s : State) (t : Transfer) : Except (Nat × Nat) (List Nat × List (Place × Option Place)) :=
  let l := t.latch
  let fmt := collFormat s (whoTransfer t) t.core l
  let (src, dst) := collSides s t
  let share := if readsSource l then firstFault (stageElement s t src fmt) (sourceCount l) else .ok []
  let dests := if writesDest l then firstFault (destPlaces s t dst fmt) (destCount l) else .ok []
  match share, dests with
  | .ok x, .ok y => .ok (x, y)
  | .error x, .error y => .error (if y.2 < x.2 then y else x)
  | .error x, .ok _ => .error x
  | .ok _, .error y => .error y

/-- A share is staged and its READY received: when every rank has acknowledged, the coordinator of this package decides COMMIT (R373). -/
def readyColl (s : State) (c : Coll) (rank : Nat) (share : List Nat) : State :=
  let c := { c with shares := c.shares ++ [(rank, share)], ready := rank :: c.ready }
  if c.home && c.decided.isNone && (List.range c.nranks).all c.ready.contains then decideAs s c true else setColl s c

/-- The flits that carry the elements of a share, of a width in bits (R367). -/
def shareFlits (b : Nat) (share : List Nat) : Nat := ceilDiv (ceilDiv (share.length * b) 8) 240

/-- The places that a COLL reads, as far as they translate. -/
def stagePlaces (s : State) (t : Transfer) : List Place :=
  if readsSource t.latch then
    let src := (collSides s t).1
    (List.range (sourceCount t.latch)).filterMap fun k =>
      match src.place s (whoTransfer t) t.core 4 (cw t.latch 0) (stridden (cSS t.latch) (copyIndex t.latch k)) with
      | .ok p => some p.1
      | .error _ => none
  else []

/-- The COLL of a rank of this package that takes part in a collective. -/
def participant (s : State) (comm index rank : Nat) : Option Transfer :=
  s.transfers.find? fun t => t.kind == .coll && ccomm t.latch == comm && t.index == index && crank t.latch == rank

/-- A COLL may stage: what comes before it has performed, and no side is held by a move or a back-off window (R57, R79, R248). -/
def stageDue (s : State) (t : Transfer) : Bool :=
  t.kind == .coll && clusterActive s t.cluster && !t.staged && !transferBlocked s t && (collSides s t).1 != .held &&
    (collSides s t).2 != .held && (noWindows s || !backoffAt s (memoryBytes (stagePlaces s t)))

/-- A rank has received the decision; a collective that has no more participant of this package to tell is gone. -/
def leaveColl (s : State) (c : Coll) (rank : Nat) : State :=
  let left := rank :: c.left
  let more := s.transfers.any fun t => t.kind == .coll && ccomm t.latch == c.comm && t.index == c.index
  if !more && (List.range c.nranks).all fun r => left.contains r || !rankHere s c.comm r then
    { s with colls := s.colls.filter fun d => !(d.comm == c.comm && d.index == c.index) }
  else setColl s { c with left := left }

/-- The participant does not commit: it reports its own fault, or ABORTED, or PORT_LOSS (R90, R248, R374). -/
def abortAt (s : State) (t : Transfer) (c : Coll) (portLoss : Bool) : State :=
  let e := if portLoss then (0x18, 0) else t.ended.getD (5, 0)
  leaveColl (endTransfer (landAll s t) t (statusWord e.1 t.tid.toNat 0 e.2) true) c (crank t.latch)

/-- A participant stages: its share and its READY go to the coordinator, its share to the engines of the other packages; one that has no route
to the coordinator is cut off, and one whose own sides fault sends ABORT (R105, R248, R371, R373, R374). A coordinator whose flits to a rank
are dropped decides ABORT, and a participant whose share to another one is dropped sends ABORT (DEDUCED, log 109). -/
def stageColl (s : State) (t : Transfer) (c : Coll) : State :=
  let rank := crank t.latch
  match stageShare s t with
  | .error e => abortColl (setTransfer s { t with staged := true, ended := some e }) c
  | .ok (share, dests) =>
    let s0 := if s.softMem.isEmpty then s else correctReads s (memoryBytes (stagePlaces s t))
    let t1 := { t with staged := true, dests := dests }
    let cut := rankCut s c
    let toShare (s1 : State) : State :=
      sendToAll s1 (otherNodes s1 c) false (shareFlits (collWidth s (whoTransfer t) t.core t.latch) share)
    let s1 := setTransfer s0 t1
    let ready (s2 : State) : State := readyColl s2 ((collOf s2 t1).getD c) rank share
    if c.home then toShare (ready (if cut then abortColl s1 c else s1))
    else if !rankReached s c.comm 0 then
      let s2 := toShare (ready s1)
      match collOf s2 t1 with
      | some d => abortAt s2 t1 d true
      | none => s2
    else if cut then abortColl (toShare s1) c
    else sendToAll (toShare (ready s1)) (rankNode s c.comm 0).toList true 1

/-- COLL_READY: a participant of this package stages its share, and its READY reaches the coordinator; or the share and the READY of a
rank of another package arrive (R105, R373). -/
def execCollReady (comm idx rank : Nat) (staged : List Nat × List Nat) (s : State) : Out :=
  let find (s : State) : Option Coll := s.colls.find? fun c => c.comm == comm && c.index == idx
  eventOut s <| match participant s comm idx rank with
  | some t =>
    if !stageDue s t then none else (collOf s t).map (stageColl s t)
  | none =>
    match rankHere s comm rank, commEntry s comm with
    | false, some (n, _) =>
      let s1 := joinColl s comm idx n staged.1
      match find s1 with
      | some c =>
        if n ≤ rank ∨ c.ready.contains rank ∨ ((find s).bind (·.decided)).isSome then none
        else some (if c.decided.isSome || c.barred then s1 else readyColl s1 c rank staged.2)
      | none => none
    | _, _ => none

/-- COLL_ABORT: the ABORT of a rank reaches the coordinator (R373). -/
def execCollAbort (comm idx rank : Nat) (s : State) : Out :=
  eventOut s <| match commEntry s comm with
  | none => none
  | some (n, _) =>
    if n ≤ rank || rankHere s comm rank then none
    else
      let s1 := joinColl s comm idx n []
      (s1.colls.find? fun c => c.comm == comm && c.index == idx).map (abortColl s1)

/-! ## The decision -/

/-- The staged share of a rank. -/
def shareOf (c : Coll) (rank : Nat) : List Nat := ((c.shares.find? fun e => e.1 == rank).map (·.2)).getD []

/-- The exact results of a reduction, by destination element (R248). -/
def reduced (l : Vector Word 16) (c : Coll) (fmt : Nat) : List (Val × FlagSet) :=
  let base := if ckind l = 1 then crank l * cCount l else 0
  (List.range (cCount l)).map fun x =>
    reduceVals (cop l) ((List.range c.nranks).map fun r => stagedVal fmt ((shareOf c r).getD (base + x) 0))

/-- The elements that a data movement writes, bits unchanged (R248). -/
def gathered (l : Vector Word 16) (c : Coll) : List Nat :=
  if ckind l = 2 then
    (List.range c.nranks).flatMap fun r => (List.range (cCount l)).map fun x => (shareOf c r).getD x 0
  else (List.range (cCount l)).map fun x => (shareOf c (croot l)).getD x 0

/-- What a commit writes, with the flags of its conversions and the NaNs among elements of FP6 and FP4 (R44, R106). -/
structure Commit where
  writes : List (Place × Nat)
  flags  : FlagSet
  nans   : Nat
  deriving DecidableEq, Repr

/-- The writes of scaled results: the elements that share a group of the companion plane are quantised together (R46, R106). -/
def scaledWrites (fmt : Nat) (slot : Word) (rs : List ((Place × Option Place) × (Val × FlagSet))) : Commit :=
  let rnd := if slotRnd slot = 5 then 0 else slotRnd slot
  let keys := (rs.filterMap fun x => x.1.2).eraseDups
  keys.foldl (fun acc k =>
    let mine := rs.filter fun x => x.1.2 == some k
    let q := quantise fmt rnd 0 (mine.map fun x => x.2.1)
    { writes := acc.writes ++ (mine.zip q.codes).map (fun y => (y.1.1.1, y.2.1)) ++ [(k, q.scale)],
      flags := acc.flags ||| q.flags ||| mine.foldl (fun f x => f ||| x.2.2) 0,
      nans := acc.nans + q.nans }) { writes := [], flags := 0, nans := 0 }

/-- What a commit writes at a participant (R106, R248). -/
def commitWrites (fmt : Nat) (t : Transfer) (c : Coll) : Commit :=
  if reduces t.latch then
    let vs := reduced t.latch c fmt
    if scaledFmt fmt then scaledWrites fmt t.slot (t.dests.zip vs)
    else
      let codes := vs.map (reducedCode fmt t.slot)
      { writes := (t.dests.zip codes).map fun x => (x.1.1, x.2.1), flags := flagsOf codes, nans := 0 }
  else { writes := (t.dests.zip (gathered t.latch c)).map fun x => (x.1.1, x.2), flags := 0, nans := 0 }

/-- The bytes of the blocks of a destination are counted toward a galley, block by block (R88, R105). -/
def countBlocks (s : State) (core id b n : Nat) : State :=
  let k := blockElems b
  (List.range (ceilDiv n k)).foldl (fun s i => countBytes s core id (ceilDiv (Nat.min k (n - i * k) * b) 8)) s

/-- The format of a collective, as its participants have agreed (R248). -/
def agreedFmt (c : Coll) : Nat := c.terms.headD 0

/-- The participant commits: the places it checked when it staged are written, its blocks and its NaNs are counted, its status is OK (R44,
R80, R105, R248, R373). -/
def commitAt (s : State) (t : Transfer) (c : Coll) : State :=
  let l := t.latch
  let b := collWidth s (whoTransfer t) t.core l
  let k := commitWrites (agreedFmt c) t c
  let s1 := if cRegs l then
      landAll (writeRegs s t b (k.writes.zipIdx.map fun x => ((destDisp t x.2).toNat, x.1.2))) t
    else writePlaces s k.writes
  let s2 := if k.nans = 0 then s1 else modCore s1 t.core fun q => { q with nanenc := q.nanenc + wordOfNat k.nans }
  let s3 := match t.gdst with
    | some g => countBlocks s2 t.core g b (destCount l)
    | none => s2
  leaveColl (endTransfer s3 { t with flags := k.flags } (statusWord 0 t.tid.toNat 0 0) true) c (crank l)

/-- The commit waits for a back-off window (R57). -/
def commitWaits (s : State) (t : Transfer) : Bool := !noWindows s && backoffAt s (memoryBytes (t.dests.map (·.1)))

/-- COLL_DECISION: a participant receives the decision of the coordinator (R321, R373), or is cut off (R374). A decision that comes from
another package commits only what this package has staged. -/
def execCollDecision (x verdict : Nat) (s : State) : Out :=
  eventOut s <| match findTransfer s x with
  | none => none
  | some t =>
    if t.kind != .coll then none
    else match collOf s t with
      | none => none
      | some c =>
        let have_ := t.staged && t.ended.isNone && (List.range c.nranks).all fun r =>
          c.ready.contains r || (ckind t.latch == 3 && r != croot t.latch && !rankHere s c.comm r)
        match verdict with
        | 0 =>
          match c.decided with
          | some true => if c.home && !commitWaits s t then some (commitAt s t c) else none
          | some false => if c.home then some (abortAt s t c false) else none
          | none => none
        | 1 => if !c.home && have_ && !c.barred && !commitWaits s t then some (commitAt s t c) else none
        | 2 => if !c.home then some (abortAt s t c false) else none
        | 3 => if !c.home then some (abortAt s t c true) else none
        | _ => none

end Sys2Proof.Machine
end

