-- ==== Sys2Proof/Machine/Memory.lean ====
section
/-! DEFINITION. Scalar loads and stores (R136 to R138) and atomics (R139). -/

namespace Sys2Proof.Machine

/-- The misaligned fault of a scalar access at an address, with the element that the offset falls into (R73, R136). -/
def misalignedAt (s : State) (a : Word) (kind : Nat) : TrapInfo :=
  misaligned (handleOf a) kind (elementNo s (whoMe s) a) (offsetOf a)

/-- The offset of an address is a multiple of n, or the instruction takes the misaligned fault (R136, R139). -/
def aligned (s : State) (a : Word) (n kind : Nat) : Except Stop PUnit :=
  if offsetOf a % n = 0 then .ok ⟨⟩ else .error (.trap (misalignedAt s a kind))

/-- The elements of a scalar access that reads them, by their numbers in their object or galley (R58, R73). -/
def scalarMarks (s : State) (a : Word) (es : List Element) : List Mark :=
  marksOf (es.zipIdx.map fun x => (elementNo s (whoMe s) a + x.2, x.1))

/-- A destination to which an operation delivers later is free: no pending register, no full queue (R87, R111). -/
def dstFree (o : SOp) (s : State) : Except Stop PUnit :=
  match o with
  | .s n => useX s n
  | .q k => do
    useQ s k
    roomQ k s

/-- An instruction under a slot retires; under STRIPMODE in an open strip it is counted at PROOF (R314). -/
def retireHeld (held : Bool) (s : State) : State :=
  let h := s.me
  { s with me := { h with r := countRetired held { h.r with pc := nextPc h.r.pc, stick := stickNext h.r.stick,
                                                            armed := false },
                          wait := none } }

/-- A scalar load of n bytes (R136). -/
def scalarLoad (i : Instr) (sd sa : SOp) (g : Fin 8) (imm : BitVec 12) (n : Nat) (signed : Bool) (s : State) : Out :=
  let env := scalarEnv s g
  finishSlot s env.slot do
    legal [sa] [sd]
    let (base, s1) ← readSrc sa s
    let ea ← effAddr base imm.toInt
    aligned s1 ea n 0
    let es ← loadElements s1 0 ea n
    dstFree sd s1
    let s2 := nextSeq (touchElements s1 es)
    let f := opOf i env s (boundSpan (handleOf ea) es) false (.load sd (es.map (·.place)) n signed) (scalarMarks s1 ea es)
    let s3 ← issueOp s2 f
    return retire s3

/-- A scalar store of n bytes, into memory or into the open strip (R136, R138). -/
def scalarStore (i : Instr) (sb sa : SOp) (imm : BitVec 12) (g : Fin 8) (n : Nat) (s : State) : Out :=
  let env := scalarEnv s g
  finishSlot s env.slot do
    legal [sb, sa] []
    let (base, s1) ← readSrc sa s
    let (v, s2) ← readSrc sb s1
    let ea ← effAddr base imm.toInt 1
    aligned s2 ea n 1
    let es ← accessElements s2 1 ea n
    let ws := spread (es.map (·.place)) v.toNat
    let s3 := nextSeq (touchElements s2 es)
    let f := opOf i env s (boundSpan (handleOf ea) es) true (.store ws)
    let s4 ← if slotStrip env.slot then bufferStore s3 f (handleOf ea) es ws else issueOp s3 f
    return retireHeld (slotStrip env.slot) s4

/-- A scalar atomic, which acts as if STRIPMODE were 0 (R139). Once it performs nothing can take it back, so it waits until no earlier
instruction can trap (R6). Through a galley id it is the permission fault, also where the id is not declared or not of the context, for which
R92 and R93 name the invalid-handle fault: the model's choice between the two (log 103). -/
def scalarAmo (i : Instr) (fn : Nat) (sd sa sb : SOp) (g : Fin 8) (s : State) : Out :=
  let env := scalarEnv s g
  finish s do
    legal [sa, sb] [sd]
    ensure (match sd with | .q _ => fn != 2 | .s _ => true) cIllegal
    let (a, s1) ← readSrc sa s
    let (b, s2) ← readSrc sb s1
    let (expected, _) ← if fn = 2 then readSrc sd s2 else pure (0, s2)
    if (galleyOf (handleOf a)).isSome then
      .error (.trap { code := cPermission, info := addrInfo (handleOf a) 2 0 0 })
    else
      let es ← accessElements s2 2 a 8
      if !contiguous es then .error (.trap (misalignedAt s2 a 2))
      else
        let _ ← loadElements s2 2 a 8
        dstFree sd s2
        let s2 ← firm s2
        let s3 := nextSeq (touchElements s2 es)
        let p : Place :=
          { core := none, addr := (es.map (·.place.addr)).headD 0, bit := 0, bits := 64 }
        let f := opOf i env s (boundSpan (handleOf a) es) true (.amo fn sd p b expected) (scalarMarks s2 a es)
        let s4 ← issueOp s3 f
        return retire s4

/-- LDB (R136). -/
def execLdb (sd sa : SOp) (g : Fin 8) (imm : BitVec 12) (s : State) : Out :=
  scalarLoad (.ldb sd sa g imm) sd sa g imm 1 true s
/-- LDH (R136). -/
def execLdh (sd sa : SOp) (g : Fin 8) (imm : BitVec 12) (s : State) : Out :=
  scalarLoad (.ldh sd sa g imm) sd sa g imm 2 true s
/-- LDW (R136). -/
def execLdw (sd sa : SOp) (g : Fin 8) (imm : BitVec 12) (s : State) : Out :=
  scalarLoad (.ldw sd sa g imm) sd sa g imm 4 true s
/-- LDD (R136). -/
def execLdd (sd sa : SOp) (g : Fin 8) (imm : BitVec 12) (s : State) : Out :=
  scalarLoad (.ldd sd sa g imm) sd sa g imm 8 true s
/-- LDBU (R136). -/
def execLdbu (sd sa : SOp) (g : Fin 8) (imm : BitVec 12) (s : State) : Out :=
  scalarLoad (.ldbu sd sa g imm) sd sa g imm 1 false s
/-- LDHU (R136). -/
def execLdhu (sd sa : SOp) (g : Fin 8) (imm : BitVec 12) (s : State) : Out :=
  scalarLoad (.ldhu sd sa g imm) sd sa g imm 2 false s
/-- LDWU (R136). -/
def execLdwu (sd sa : SOp) (g : Fin 8) (imm : BitVec 12) (s : State) : Out :=
  scalarLoad (.ldwu sd sa g imm) sd sa g imm 4 false s
/-- STB (R136, R138). -/
def execStb (sb sa : SOp) (imm : BitVec 12) (g : Fin 8) (s : State) : Out :=
  scalarStore (.stb sb sa imm g) sb sa imm g 1 s
/-- STH (R136, R138). -/
def execSth (sb sa : SOp) (imm : BitVec 12) (g : Fin 8) (s : State) : Out :=
  scalarStore (.sth sb sa imm g) sb sa imm g 2 s
/-- STW (R136, R138). -/
def execStw (sb sa : SOp) (imm : BitVec 12) (g : Fin 8) (s : State) : Out :=
  scalarStore (.stw sb sa imm g) sb sa imm g 4 s
/-- STD (R136, R138). -/
def execStd (sb sa : SOp) (imm : BitVec 12) (g : Fin 8) (s : State) : Out :=
  scalarStore (.std sb sa imm g) sb sa imm g 8 s
/-- AMOADD (R139). -/
def execAmoadd (sd sa sb : SOp) (g : Fin 8) (s : State) : Out := scalarAmo (.amoadd sd sa sb g) 0 sd sa sb g s
/-- AMOSWAP (R139). -/
def execAmoswap (sd sa sb : SOp) (g : Fin 8) (s : State) : Out := scalarAmo (.amoswap sd sa sb g) 1 sd sa sb g s
/-- AMOCAS (R139). -/
def execAmocas (sd sa sb : SOp) (g : Fin 8) (s : State) : Out := scalarAmo (.amocas sd sa sb g) 2 sd sa sb g s
/-- AMOAND (R139). -/
def execAmoand (sd sa sb : SOp) (g : Fin 8) (s : State) : Out := scalarAmo (.amoand sd sa sb g) 3 sd sa sb g s
/-- AMOOR (R139). -/
def execAmoor (sd sa sb : SOp) (g : Fin 8) (s : State) : Out := scalarAmo (.amoor sd sa sb g) 4 sd sa sb g s
/-- AMOXOR (R139). -/
def execAmoxor (sd sa sb : SOp) (g : Fin 8) (s : State) : Out := scalarAmo (.amoxor sd sa sb g) 5 sd sa sb g s
/-- AMOMIN (R139). -/
def execAmomin (sd sa sb : SOp) (g : Fin 8) (s : State) : Out := scalarAmo (.amomin sd sa sb g) 6 sd sa sb g s
/-- AMOMAX (R139). -/
def execAmomax (sd sa sb : SOp) (g : Fin 8) (s : State) : Out := scalarAmo (.amomax sd sa sb g) 7 sd sa sb g s
/-- AMOMINU (R139). -/
def execAmominu (sd sa sb : SOp) (g : Fin 8) (s : State) : Out := scalarAmo (.amominu sd sa sb g) 8 sd sa sb g s
/-- AMOMAXU (R139). -/
def execAmomaxu (sd sa sb : SOp) (g : Fin 8) (s : State) : Out := scalarAmo (.amomaxu sd sa sb g) 9 sd sa sb g s

/-- MEMORY_OP_PERFORM: an operation that has issued performs, once what it is ordered after has (R270, R273). -/
def execMemoryOpPerform (hid seq : Nat) (s : State) : Out :=
  eventOut s <| match hartOf s hid with
  | none => none
  | some h =>
    match h.flights.find? fun f => !f.parked && f.seq == seq with
    | some f => if canPerform s h f then some (performFlight s hid f) else none
    | none => none

end Sys2Proof.Machine
end

