-- ==== Sys2Proof/Machine/Tier.lean ====
section
/-! DEFINITION. The memory control blocks: retirement and migration (R53 to R55), row disturbance (R56), activation alerts (R57),
the patrol scrub (R59); and the second tier: windows (R60, R61) and ports (R63, R366). -/

namespace Sys2Proof.Machine

/-! ## Retirement and migration -/

/-- A memory control block of a die. -/
def mcbOf (s : State) (die : Nat) : Mcb := ((s.dies[die]?).map (·.mcb)).getD Mcb.reset

/-- The cuts made hold the die's range with one more channel retired (R53). -/
def domainHolds (m : Mcb) : Bool := decide ((768 - m.cuts) * 256 ≤ (768 - (m.retired.length + 1)) * 260)

/-- A migration starts; `held` are the retirements still held (R53, R54). -/
def startMigration (m : Mcb) (pch : Nat) (held : List Nat) : Mcb :=
  { m with migrating := some pch, rpch := pch, bound := 0, esc := !held.isEmpty, heldPch := held }

/-- The scrub period of a channel is halved (R53). -/
def halve (m : Mcb) (pch : Nat) : Mcb := { m with halved := pch :: m.halved.filter (· != pch) }

/-- A request to retire a live channel is taken while nothing migrates: migration starts, or the request is held until more cuts are
made (R53). -/
def takeRetire (m : Mcb) (pch : Nat) : Mcb :=
  if m.heldPch.isEmpty && domainHolds m then startMigration m pch []
  else { halve m pch with esc := true, heldPch := m.heldPch ++ [pch] }

/-- The cuts made let the oldest retirement that is held start, when nothing migrates (R53). -/
def takeHeld (m : Mcb) : Mcb :=
  match m.migrating, m.heldPch with
  | none, pch :: rest => if domainHolds m then startMigration m pch rest else m
  | _, _ => m

/-- A request past the 64 channels that a die retires is ignored, and reported (R53). -/
def overLimit (s : State) (die pch : Nat) : State := logService (modMcb s die fun m => { halve m pch with esc := true })

/-- MCB_RETIRE_PCH (R53, R55). -/
def execMcbRetirePch (die pch : Nat) (s : State) : Out :=
  let m := mcbOf s die
  .next (
    if 768 ≤ pch ∨ m.retired.contains pch ∨ m.migrating = some pch ∨ m.heldPch.contains pch ∨ m.waiting.contains pch then s
    else if 64 ≤ m.retired.length then overLimit s die pch
    else if m.migrating.isSome then modMcb s die fun m => { m with waiting := m.waiting ++ [pch] }
    else modMcb s die fun m => takeRetire m pch)

/-- TOPCUT: one more cut, while a retirement is held (R53). -/
def execTopcut (die : Nat) (s : State) : Out :=
  eventOut s (if (mcbOf s die).heldPch.isEmpty then none
    else some (modMcb s die fun m => takeHeld { m with cuts := Nat.min 53 (m.cuts + 1) }))

/-- MIGRATION_START: nothing migrates any more, and a retirement that is held, or one that waited, is taken (R53, R54). -/
def execMigrationStart (die : Nat) (s : State) : Out :=
  let m := mcbOf s die
  eventOut s (
    if m.migrating.isSome then none
    else if (takeHeld m).migrating.isSome then some (modMcb s die takeHeld)
    else match m.waiting with
      | [] => none
      | pch :: rest =>
        let s1 := modMcb s die fun m => { m with waiting := rest }
        some (if 64 ≤ m.retired.length then overLimit s1 die pch else modMcb s1 die fun m => takeRetire m pch))

/-- The units of the domain of a die. -/
def unitCount (m : Mcb) : Nat := (768 - m.cuts) * 2 ^ 20

/-- A pseudo-channel is in its back-off window. -/
def inWindow (m : Mcb) (pch : Nat) : Bool := m.windows.any fun w => w.1 == pch && decide (0 < w.2.1)

/-- The addresses of a unit of a die. -/
def unitBytes (die unit : Nat) : List Nat := (List.range 4).map fun i => die * 0x3000000000 + 256 * unit + 64 * i

/-- MIGRATE_UNIT: the sweep moves one more unit, whose correctable errors its read corrects, once neither the channel that it leaves nor the
one that it reaches is in a back-off window (R54, R57, R58). -/
def execMigrateUnit (die : Nat) (s : State) : Out :=
  let m := mcbOf s die
  eventOut s (
    if m.migrating.isSome && decide (m.bound < unitCount m) && !inWindow m (channelOf m m.bound) &&
        !inWindow m (channelOf { m with bound := m.bound + 1 } m.bound) then
      some (modMcb (correctReads s (unitBytes die m.bound)) die fun m => { m with bound := m.bound + 1 })
    else none)

/-- MIGRATION_END: N falls by one, and the event is logged (R54). BOUND is 0 again, and RPCH stays (log 72). -/
def execMigrationEnd (die : Nat) (s : State) : Out :=
  let m := mcbOf s die
  eventOut s <| match m.migrating with
  | none => none
  | some pch =>
    if m.bound < unitCount m then none
    else some (logService (modMcb s die fun m => { m with retired := m.retired ++ [pch], migrating := none, bound := 0 }))

/-! ## Row disturbance (R56) -/

/-- The seeded generator of each channel (R56). -/
def seededGens (seed : Word) : List (BitVec 32) :=
  (List.range 768).map fun i =>
    let x := BitVec.ofNat 32 seed.toNat ^^^ BitVec.ofNat 32 i
    if x = 0 then 1 else x

/-- One step of a Fibonacci register with feedback x^32 + x^22 + x^2 + x + 1 (R56, log 27). -/
def lfsrStep (x : BitVec 32) : BitVec 32 :=
  (x <<< 1) ||| (0#31 ++ BitVec.ofBool (x.getLsbD 31 ^^ x.getLsbD 21 ^^ x.getLsbD 1 ^^ x.getLsbD 0))

/-- Sixteen steps. -/
def lfsrDraw (x : BitVec 32) : BitVec 32 := (List.range 16).foldl (fun y _ => lfsrStep y) x

/-- TEST (R56). -/
def nrpTest (m : Mcb) : Bool := bitAt m.nrp 16

/-- MCB_NRP_WRITE (R56). -/
def execMcbNrpWrite (die : Nat) (val : Word) (s : State) : Out :=
  .next (modMcb s die fun m =>
    let w := wordOfNat (field val 0 17)
    { m with nrp := w, gens := if !nrpTest m && bitAt w 16 then seededGens m.seed else m.gens })

/-- MCB_SEED_WRITE (R56). -/
def execMcbSeedWrite (die : Nat) (val : Word) (s : State) : Out :=
  .next (modMcb s die fun m =>
    let w := wordOfNat (field val 0 32)
    { m with seed := w, gens := if nrpTest m then seededGens w else m.gens })

/-- ACTIVATE: a row of a channel is activated, outside a back-off window, and refreshes its neighbours when the draw is less than NRP
(R56, R57). -/
def execActivate (die pch : Nat) (draw : BitVec 16) (s : State) : Out :=
  let m := mcbOf s die
  let nrp := field m.nrp 0 16
  eventOut s (
    if inWindow m pch then none
    else if nrpTest m then
      let x := lfsrDraw (m.gens.getD pch 1)
      some (modMcb s die fun m =>
        { m with gens := m.gens.set pch x, refreshes := if x.toNat % 65536 < nrp then m.refreshes + 1 else m.refreshes })
    else
      some (modMcb s die fun m =>
        { m with refreshes := if draw.toNat < Nat.max 16 nrp then m.refreshes + 1 else m.refreshes }))

/-! ## Activation alerts (R57) -/

/-- A channel of a die has an address among some. -/
def onChannel (s : State) (die pch : Nat) (as : List Nat) : Bool :=
  as.any fun a => match hbmUnit a with
    | some (d, u) => d == die && channelOf (mcbOf s d) u == pch
    | none => false

/-- A request that only a back-off window holds: an operation of a hart, or the next block of a copy. -/
inductive ChannelRequest where
  | op (hid : Nat) (f : Flight)
  | block (t : Transfer)
  deriving DecidableEq, Repr

/-- How old a request is: the lower the older. -/
def ChannelRequest.age : ChannelRequest → Nat
  | .op _ f => f.born
  | .block t => t.uid

/-- The addresses of main memory that a request needs. -/
def requestBytes (s : State) : ChannelRequest → List Nat
  | .op _ f => memoryBytes (actionPlaces f.action)
  | .block t => blockBytes s t (nextBlock t)

/-- The requests that wait for nothing but a back-off window, if for any. -/
def openRequests (s : State) : List ChannelRequest :=
  ((allHarts s).flatMap fun h => (h.flights.filter fun f => !f.parked && mayPerform s h f).map (ChannelRequest.op h.hid)) ++
  (s.transfers.filter fun t => blockReady s t (nextBlock t)).map .block

/-- The requests to a channel that only its window holds (R57). -/
def waitingFor (s : State) (die pch : Nat) : List ChannelRequest :=
  (openRequests s).filter fun q => onChannel s die pch (requestBytes s q)

/-- No older request to an address of a request waits in a back-off window (R57). -/
def passesNone (s : State) (q : ChannelRequest) : Bool :=
  let mine := requestBytes s q
  !(openRequests s).any fun x => decide (x.age < q.age) && backoffAt s (requestBytes s x) && (requestBytes s x).any mine.contains

/-- A request that still waits performs, if no other window holds it. -/
def performRequest (s : State) : ChannelRequest → State
  | .op hid f =>
    match hartOf s hid with
    | none => s
    | some h =>
      match h.flights.find? fun x => !x.parked && x.seq == f.seq with
      | some x => if canPerform s h x then performFlight s hid x else s
      | none => s
  | .block t =>
    match findTransfer s t.uid with
    | some u => if blockDue s u (nextBlock u) then performBlock s u (nextBlock u) else s
    | none => s

/-- The requests that issue as a window ends, the oldest first: the oldest of all, and those that have waited through four windows; all of
them when no window follows, so that none goes past an older one to its address (R57, log 52). `stamps` holds the count of requests at the
start of the window and of those before it. -/
def issueAtEnd (left : Nat) (stamps : List Nat) (l : List ChannelRequest) : List ChannelRequest :=
  let sorted := l.mergeSort fun x y => decide (x.age ≤ y.age)
  if left ≤ 1 then sorted
  else sorted.take 1 ++ (sorted.drop 1).filter fun q => match stamps[3]? with
    | some n => decide (q.age < n)
    | none => false

/-- The windows of a die after an alert of a channel: one begins, or one more is to follow (R57). `now` is the count of requests. -/
def alertWindows (m : Mcb) (pch now : Nat) : List (Nat × Nat × List Nat) :=
  let others := m.windows.filter fun w => w.1 != pch
  match m.windows.find? fun w => w.1 == pch with
  | none => (pch, 1, [now]) :: others
  | some (_, left, stamps) => (pch, left + 1, stamps) :: others

/-- ACTIVATION_ALERT (R57). -/
def execActivationAlert (die pch : Nat) (s : State) : Out :=
  .next (modMcb s die fun m => { m with alerts := m.alerts + 1, windows := alertWindows m pch s.nextUid })

/-- BACKOFF_WINDOW_END: a window ends and the oldest waiting request issues, before a further window that follows (R57). -/
def execBackoffWindowEnd (die pch : Nat) (s : State) : Out :=
  let m := mcbOf s die
  eventOut s <| match m.windows.find? fun w => w.1 == pch && decide (0 < w.2.1) with
  | none => none
  | some (_, left, stamps) =>
    let others := m.windows.filter fun w => w.1 != pch
    let s1 := modMcb s die fun m => { m with windows := others }
    let s2 := (issueAtEnd left stamps (waitingFor s1 die pch)).foldl performRequest s1
    some (if left ≤ 1 then s2
      else modMcb s2 die fun m => { m with windows := (pch, left - 1, (s2.nextUid :: stamps).take 4) :: others })

/-- PATROL_SCRUB: outside a back-off window of its channel a unit is read, its corrected lines are written back and counted; 5 to 8 stand for
an uncorrectable error in one of its four lines, which stays (R57 to R59). -/
def execPatrolScrub (die unit errs : Nat) (s : State) : Out :=
  let m := mcbOf s die
  eventOut s (
    if field m.scrub 0 8 = 0 ∨ unitCount m ≤ unit ∨ inWindow m (channelOf m unit) then none
    else
      let s1 := correctReads s (unitBytes die unit)
      if 4 < errs then
        let w := die * 0x3000000000 / 64 + 4 * unit + (errs - 5) % 4
        some (if s1.badMem.contains w then s1 else { s1 with badMem := w :: s1.badMem })
      else some (countCorrected s1 die (channelOf m unit) errs))

/-! ## Windows of the second tier (R60, R61) -/

/-- The ports of a window, from bit 28 upward. -/
def windowPorts (w : Word) : List Nat := (List.range 8).filter fun p => bitAt w (28 + p)

/-- BASE and the end of a window, in units of 256 MiB. -/
def windowRange (w : Word) : Nat × Nat := (field w 0 14, field w 0 14 + field w 14 14 + 1)

/-- A write with EN = 1 is refused (R61). -/
def windowRefused (s : State) (n : Nat) (w : Word) : Bool :=
  let ports := windowPorts w
  let (lo, hi) := windowRange w
  !([1, 2, 4, 8].contains ports.length) || (ports.any fun p => !bitAt (vget s.cxp p 0) 0) || field w 36 3 == 7 ||
    decide (16384 < hi) ||
    ((List.range 16).any fun k =>
      let v := vget s.cxw k 0
      let (a, b) := windowRange v
      k != n && bitAt v 39 && decide (a < hi) && decide (lo < b))

/-- CXW_WRITE (R60, R61). A refused write stores its other fields (log 71). -/
def execCxwWrite (n : Nat) (val : Word) (s : State) : Out :=
  let old := vget s.cxw n 0
  let w := wordOfNat (field val 0 40)
  let v :=
    if bitAt w 39 then (if windowRefused s n w then putField (putField w 39 1 0) 40 1 1 else w)
    else putField w 40 1 (field old 40 1)
  .next { s with cxw := vset s.cxw n v }

/-! ## Ports (R63, R366) -/

/-- The port that an address of the second tier goes to (R61). An access in flight to a window that is no longer enabled is still on its
way to the port (R63). -/
def portOf (s : State) (a : Nat) : Option Nat :=
  let u := (a - 0x40000000000) / 2 ^ 28
  let holds (w : Word) : Bool := decide ((windowRange w).1 ≤ u) && decide (u < (windowRange w).2)
  if a < 0x40000000000 then none
  else
    ((s.cxw.toList.find? fun w => bitAt w 39 && holds w).or (s.cxw.toList.find? holds)).bind fun w =>
      let ports := windowPorts w
      let j := (a - 0x40000000000 - (windowRange w).1 * 2 ^ 28) / (256 * 2 ^ field w 36 3)
      ports[j % ports.length]?

/-- A place lies behind a port. -/
def behindPort (s : State) (port : Nat) (p : Place) : Bool :=
  p.core.isNone && (placeBytes p).any fun a => portOf s a == some port

/-- A link state change is logged (R364, R366). -/
def logLink (s : State) (port : Nat) : State := logEntry s 5 0 0 0 (wordOfNat port) 0 0

/-- The bytes that a lost write may or may not have changed hold free values (R63, log 6). -/
def scramble (s : State) (ps : List Place) : State :=
  (ps.flatMap placeBytes).foldl (fun s a =>
    writePhys { s with drawn := s.drawn + 1 } a 1 (Config.freeByte s.drawn).toNat) s

/-- A hart is told of an asynchronous cause (R309, R310). -/
def tellAsync (s : State) (hid : Nat) (a : Async) : State := modHart s hid fun h => { h with asyncs := h.asyncs ++ [a] }

/-- Lines of 64 bytes that places cover, each place with the handle it was stored through (R176). -/
def linesUnder (ps : List (Nat × Place)) : Nat :=
  (ps.flatMap fun p => (placeBytes p.2).map fun a => (p.1, p.2.core, a / 64)).eraseDups.length

/-- Operations that are lost no longer count as outstanding. -/
def dropFlights (s : State) (hid : Nat) (p : Flight → Bool) : State :=
  modHart s hid fun h =>
    (h.flights.filter p).foldl (fun h f => countPerf h f.stream) { h with flights := h.flights.filter fun f => !p f }

/-- The handle of the first line that a store covers. -/
def firstHandle (f : Flight) : Nat := (f.spans.map (·.handle)).headD 0

/-- Stores of one strip that PROOF has released meet a port loss: the first line that does and all later ones of the strip are lost, and the
watermark with them (R315). -/
def loseStripOf (s : State) (port : Nat) (h : Hart) (strip : Nat) : State :=
  let rel := h.flights.filter fun f => f.released && f.env.seq == strip
  match rel.find? fun f => (actionPlaces f.action).any (behindPort s port) with
  | none => s
  | some f =>
    let ws := match f.action with
      | .store ws => ws
      | _ => []
    let early := ws.takeWhile fun w => !behindPort s port w.1
    let cut := (ws.drop early.length).map (·.1)
    let later (x : Flight) : Bool := x.released && x.env.seq == f.env.seq && decide (f.seq ≤ x.seq)
    let rest := (rel.filter fun x => later x && x.seq != f.seq && x.seq != x.env.seq).flatMap fun x =>
      (actionPlaces x.action).map fun p => (firstHandle x, p)
    let done := f.env.a.toNat - linesUnder (cut.map (fun p => (firstHandle f, p)) ++ rest)
    let s1 := scramble (dropFlights (writePlaces s early) h.hid later) (cut.filter (behindPort s port))
    tellAsync s1 h.hid { code := 0x21, info := wordOfNat (firstHandle f + done <<< 20), elem := f.env.b.toNat }

/-- The same for every strip of a hart that PROOF has released. -/
def loseReleased (s : State) (port : Nat) (h : Hart) : State :=
  (((h.flights.filter (·.released)).map (·.env.seq)).eraseDups).foldl (fun s k => match hartOf s h.hid with
    | some g => loseStripOf s port g k
    | none => s) s

/-- An operation that only stores. -/
def onlyStores (f : Flight) : Bool :=
  match f.action with
  | .store _ => true
  | _ => false

/-- Writes of a hart that are under way to a port are lost, each with an asynchronous port-loss fault (R63). -/
def loseWrites (s : State) (port : Nat) (h : Hart) : State :=
  let hit (f : Flight) : Bool :=
    !f.parked && !f.released && f.writes && (actionPlaces f.action).any (behindPort s port)
  (h.flights.filter hit).foldl (fun s f =>
    let s1 := scramble (dropFlights s h.hid fun x => hit x && x.seq == f.seq && onlyStores x)
      ((actionPlaces f.action).filter (behindPort s port))
    tellAsync s1 h.hid { code := 0x20, info := wordOfNat port, elem := 0 }) s

/-- Reads of a hart that are under way to a port, those of atomics among them, complete as uncorrectable: each takes its fault once it may
perform (R58, R63). -/
def failReads (s : State) (port : Nat) : State :=
  modHarts s fun h =>
    { h with flights := h.flights.map fun f =>
        if f.parked || onlyStores f then f
        else { f with lost := f.lost ++ (f.marks.map (·.place)).filter (behindPort s port) } }

/-- A copy whose next block reaches a port when the port is lost ends, a read of it as uncorrectable, a write with PORT_LOSS; what a lost
write has changed is not known, and its hart is told of it (R58, R63, R88, R90). A block that has been read and is still to be written
reaches no port (log 110). -/
def failCopy (s : State) (port : Nat) (t : Transfer) : State :=
  if t.kind != .copy || t.ended.isSome || transferBlocked s t || (preparedBlock t (nextBlock t)).isSome then s
  else
    let (src, dst) := copySides s t
    let b := transferWidth s t
    let behind (r : Except Nat (Place × Nat)) : Bool :=
      match r with
      | .ok p => behindPort s port p.1
      | .error _ => false
    let w := whoTransfer t
    let reads (e : Nat) : Bool := cMode_ t.latch != 1 && (!t.ahead.any fun a => a.1 == e) &&
      behind (src.place s w t.core 4 (cw t.latch 0) (stridden (cSS t.latch) (copyIndex t.latch e)))
    let target (e : Nat) : Except Nat (Place × Nat) := dst.place s w t.core 5 (cw t.latch 1) (destDisp t e)
    let writes (e : Nat) : Bool := behind (target e)
    let es := blockElements t b (nextBlock t)
    match es.find? fun e => reads e || writes e with
    | none => s
    | some e =>
      let lost := es.filterMap fun x => match target x with
        | .ok p => if behindPort s port p.1 then some p.1 else none
        | .error _ => none
      let s0 := if es.any reads then s else scramble s lost
      let s1 := setTransfer s0 { t with ended := some (if reads e then 0x17 else 0x18, e) }
      match t.owner with
      | some hid =>
        if writes e && !reads e then
          tellAsync s1 hid { code := 0x20, info := wordOfNat (port + t.tid.toNat <<< 16 + 1 <<< 32), elem := 0 }
        else s1
      | none => s1

/-- The link of a port goes down: requests under way meet R63, TRAINED clears and DOWNS counts (R63, R366). -/
def linkDown (s : State) (port : Nat) : State :=
  let s1 := s.transfers.foldl (fun s t => failCopy s port t) s
  let s2 := (allHarts s1).foldl (fun s h => loseReleased s port h) s1
  let s3 := (allHarts s2).foldl (fun s h => loseWrites s port h) s2
  let s4 := failReads s3 port
  let c := vget s4.cxp port 0
  let c := putField (putField c 0 1 0) 16 16 (Nat.min 65535 (field c 16 16 + 1))
  logLink { s4 with cxp := vset s4.cxp port c } port

/-- CXL_LINK_DOWN (R63, R366). -/
def execCxlLinkDown (port : Nat) (s : State) : Out :=
  eventOut s (if bitAt (vget s.cxp port 0) 0 then some (linkDown s port) else none)

/-- The rate, in GT/s, to which a port trains: 32 with a device of CXL 2.0, and with a later one 128 where it supports that, else 64 (R24,
R60). -/
def trainedRate (gen most : Nat) : Nat := if gen = 0 then 32 else if 128 ≤ most then 128 else 64

/-- CXL_PORT_TRAINED: the port trains to the highest rate that both ends support; a device without that rate is none of R24's, and
nothing happens (R24, R60, R366). -/
def execCxlPortTrained (port gen most width : Nat) (s : State) : Out :=
  let c := vget s.cxp port 0
  let rate := trainedRate gen most
  let v := putField (putField (putField (putField c 0 1 1) 1 1 (Nat.min 1 gen)) 2 8 rate) 10 5 width
  let s1 := { s with cxp := vset s.cxp port v }
  eventOut s (if width = 0 ∨ 16 < width ∨ most < rate then none else some (if bitAt c 0 then s1 else logLink s1 port))

/-- RETRAIN: the port goes down, with R63, and trains again by CXL_PORT_TRAINED (R366). -/
def execRetrain (port : Nat) (s : State) : Out :=
  eventOut s (if bitAt (vget s.cxp port 0) 0 then some (linkDown s port) else none)

end Sys2Proof.Machine
end

