-- ==== Sys2Proof/Machine/Links.lean ====
section
/-! DEFINITION. Stolier ports: flits, replay, lane repair and what a port that goes down does to collectives (R367 to R371,
R374). -/

namespace Sys2Proof.Machine

/-! ## Ports -/

/-- LTHR as it acts (R370). -/
def portLthr (p : Port) : Nat := Nat.max 1 (field p.ctl 2 8)

/-- Flits up to a sequence number are acknowledged; a replay is complete when the newest flit it covers is (R368). -/
def ackUpTo (p : Port) (a : BitVec 12) : Port :=
  let n := (a - p.acked).toNat
  if p.buffer.length < n then p
  else
    let p := { p with buffer := p.buffer.drop n, acked := a }
    match p.replay with
    | some r => if p.buffer.any fun f => flitSeq f == r.1 then p else { p with replay := none, st := 2 }
    | none => p

/-- Lanes in which two copies of a flit differ (R369). -/
def lanesDiffering (width : Nat) (f g : BitVec 2048) : List Nat :=
  (List.range width).filter fun l => laneShare width l f != laneShare width l g

/-- Charge lanes, and find those that have come due: LTHR charges within the last 2^20 flits (R369). -/
def chargeLanes (p : Port) (ls : List Nat) : Port :=
  let charges := (ls.map fun l => (l, p.flits)) ++ p.charges.filter fun c => decide (p.flits < c.2 + 2 ^ 20)
  let due := (List.range p.width).filter fun l =>
    !p.due.contains l && decide (portLthr p ≤ (charges.filter fun c => c.1 == l).length)
  { p with charges := charges, due := p.due ++ due }

/-- A lane is repaired: the spare takes its place, or it is dropped; none when fewer than four lanes would remain (R369). -/
def repairedPort (p : Port) (lane : Nat) : Option Port :=
  let p := { p with repairs := Nat.min 255 (p.repairs + 1), st := 4, due := p.due.erase lane,
                    charges := p.charges.filter fun c => c.1 != lane }
  if !p.spare then some { p with spare := true }
  else if p.lanes ≤ 4 then none
  else
    let down (l : Nat) : Nat := if lane < l then l - 1 else l
    some { p with lanes := p.lanes - 1, width := p.width - 1, due := p.due.map down,
                  charges := p.charges.map fun c => (down c.1, c.2) }

/-- A rank is reached through a port. -/
def viaPort (s : State) (port comm rank : Nat) : Bool := (rankNode s comm rank).bind (routeOf s) == some port

/-- A participant of this package that is cut off from a coordinator in another reads PORT_LOSS (R374). -/
def cutParticipant (s : State) (port uid : Nat) : State :=
  match (findTransfer s uid).bind fun t => (collOf s t).map fun c => (t, c) with
  | some (t, c) => if !c.home && viaPort s port c.comm 0 then abortAt s t c true else s
  | none => s

/-- A coordinator of this package that is cut off from a participant in another before its decision decides ABORT (R374). -/
def cutCoordinator (s : State) (port : Nat) (c : Coll) : State :=
  if c.home && (List.range c.nranks).any fun r => !rankHere s c.comm r && viaPort s port c.comm r then abortColl s c else s

/-- A port goes down: unacknowledged flits are lost, with those that wait to be sent, and its collectives meet R374 (R369). -/
def portDown (s : State) (port : Nat) : State :=
  let p := portAt s port
  let s1 := setPort s port
    { p with st := 0, width := 0, buffer := [], replay := none, asked := none, out := [], failed := [], due := [], charges := [], control := [], data := [] }
  let s2 := ((s1.transfers.filter fun t => t.kind == .coll).map (·.uid)).foldl (fun s u => cutParticipant s port u) s1
  logLink (s1.colls.foldl (fun s c => cutCoordinator s port ((s.colls.find? fun d => d.comm == c.comm && d.index == c.index).getD c)) s2)
    port

/-- The repair of a lane begins, logged as a repair and as a retirement; or the port goes down (R369, R385). -/
def beginRepair (s : State) (port lane : Nat) : State :=
  match repairedPort (portAt s port) lane with
  | some p => logService (logLink (setPort s port p) port)
  | none => portDown s port

/-! ## Receiving (R368, R369) -/

/-- The newest flit that the other end sends again after a NAK, once another that it had sent is known (R368, R369). -/
def askedTo (p : Port) (seq : BitVec 12) : BitVec 12 :=
  let far (x : BitVec 12) : Nat := (x - p.expect).toNat
  match p.asked with
  | none => if far seq < 256 then seq else p.expect
  | some n => if far n < far seq ∧ far seq < 256 then seq else n

/-- A flit has failed its CRC: it is stored and counted, and the expected SEQ is named in a NAK. The first to fail is taken for the flit that
is expected, one that fails while that is outstanding for the flit that its SEQ says (R368, R369, log 30). -/
def failedFlit (p : Port) (f : BitVec 2048) : Port :=
  let seq := if p.failed.any fun x => x.1 == p.expect then flitSeq f else p.expect
  { p with crcerr := Nat.min 65535 (p.crcerr + 1), failed := p.failed ++ [(seq, f)],
           asked := some (askedTo p seq), out := [makeFlit p.expect (p.expect - 1) 2 0] }

/-- The expected flit has passed its CRC: it is accepted once and acknowledged, and the failed copies of it charge the lanes in which they
differ; those of later flits that may be replayed are kept (R368, R369). -/
def acceptFlit (p : Port) (f : BitVec 2048) : Port :=
  let copies := (p.failed.filter fun x => x.1 == p.expect).map (·.2)
  let later := p.failed.filter fun x => x.1 != p.expect && decide ((x.1 - p.expect).toNat < 256)
  let q := chargeLanes p (copies.flatMap (lanesDiffering p.width f))
  let q := { q with expect := p.expect + 1, last := some f, failed := later, asked := p.asked.filter (· != p.expect),
                    out := [makeFlit p.nextSeq p.expect 0 0] }
  ackUpTo q (flitAck f)

/-- An accepted payload of a data or a control flit goes on, unless its node is this package: by the port of its route, or it is dropped
(R371). -/
def forwardFlit (s : State) (f : BitVec 2048) : State :=
  let x := f.extractLsb' 64 1920
  let node := Config.flitNode x
  if node = field s.stlNode 0 16 then s else sendPayload s node (flitType f == 3) x

/-- A flit that carries a payload arrives: it is accepted when it is the one expected, and discarded otherwise; one that follows a flit that
has failed comes again with the replay of that one (R368, R369). -/
def takeFlit (s : State) (port : Nat) (p : Port) (f : BitVec 2048) : State :=
  if flitSeq f = p.expect then forwardFlit (setPort s port (acceptFlit p f)) f
  else setPort s port { p with asked := p.asked.map fun _ => askedTo p (flitSeq f) }

/-- The sender replays from the first flit that is not acknowledged; each further NAK is a retry, and the one after three retries ends the
replay on these lanes (R368, R369). The second part of the answer asks for the retrain. -/
def nakedPort (p : Port) : Port × Bool :=
  if p.buffer.isEmpty then (p, false)
  else
    match p.replay with
    | none => ({ p with replay := some (newestSent p, 0), replays := Nat.min 65535 (p.replays + 1), st := 3, out := p.buffer }, false)
    | some (n, k) =>
      if 3 ≤ k then ({ p with replay := some (newestSent p, 0) }, true)
      else ({ p with replay := some (n, k + 1), out := p.buffer }, false)

/-- A port retrains on its lanes, with the repair that is due (R368, R369). -/
def retrainPort (s : State) (port : Nat) : State :=
  match (portAt s port).due with
  | lane :: _ => beginRepair s port lane
  | [] => setPort s port { portAt s port with st := 1 }

/-- FLIT_RECEIVE (R368, R369); the port then sends what has waited for an acknowledgement. -/
def execFlitReceive (port : Nat) (flit : BitVec 2048) (s : State) : Out :=
  let p0 := portAt s port
  let p := { p0 with flits := p0.flits + 1, out := [] }
  eventOut s (
    if p.st ≠ 2 ∧ p.st ≠ 3 then none
    else if !crcOk flit then some (setPort s port (failedFlit p flit))
    else match flitType flit with
    | 0 => some (sendQueued (setPort s port (ackUpTo p (flitAck flit))) port)
    | 2 =>
      let (q, retrain) := nakedPort (ackUpTo p (flitSeq flit - 1))
      let t := setPort s port q
      some (if retrain then retrainPort t port else t)
    | 1 => some (sendQueued (takeFlit s port p flit) port)
    | 3 => some (sendQueued (takeFlit s port p flit) port)
    | _ => some (setPort s port p))

/-! ## Repair and training -/

/-- The lane whose repair may proceed: no replay is outstanding, neither one of this port nor one that its NAK has asked for (R369). -/
def repairLane (p : Port) : Option Nat := if p.st = 2 ∧ p.replay.isNone ∧ p.asked.isNone then p.due.head? else none

/-- LANE_REPAIR: the repair of a due lane proceeds while no replay is outstanding (R369). -/
def execLaneRepair (port : Nat) (s : State) : Out :=
  eventOut s ((repairLane (portAt s port)).map (beginRepair s port))

/-- STOLIER_RETRAIN_END: the port is up again at the lower rate of its two ends, and a replay that was not complete starts anew; or the
training has failed (R24, R368, R369). -/
def execStolierRetrainEnd (port : Nat) (ok partner : Bool) (s : State) : Out :=
  let p := portAt s port
  eventOut s (
    if p.st ≠ 1 ∧ p.st ≠ 4 then none
    else if !ok then some (portDown s port)
    else
      let q := { p with rate := bitAt p.ctl 1 && partner, width := p.lanes, st := if p.replay.isSome then 3 else 2,
                        out := if p.replay.isSome then p.buffer else [] }
      let t := sendQueued (setPort s port q) port
      some (if p.width = 0 then logLink t port else t))

/-- FORCE: a lane is made due (R370). -/
def execForce (port lane : Nat) (s : State) : Out :=
  let p := portAt s port
  .next (if lane < p.width ∧ !p.due.contains lane then setPort s port { p with due := p.due ++ [lane] } else s)

/-- Enable a port, which then trains, or take it down (R370). -/
def enablePort (s : State) (port : Nat) (en : Bool) : State :=
  let p := portAt s port
  if bitAt p.ctl 0 = en then s
  else
    let q := { p with ctl := putField p.ctl 0 1 (bit en) }
    if en then
      setPort s port { q with st := 1, nextSeq := 0, acked := 0xFFF, expect := 0, asked := none }
    else if p.st = 0 then setPort s port q
    else portDown (setPort s port q) port

/-- STLCTL_EN (R370). -/
def execStlctlEn (port : Nat) (en : Bool) (s : State) : Out := .next (enablePort s port en)

/-- STOLIER_LINK_LOSS (R369, R374). -/
def execStolierLinkLoss (port : Nat) (s : State) : Out :=
  eventOut s (if (portAt s port).st = 0 then none else some (portDown s port))

end Sys2Proof.Machine
end

