-- ==== Sys2Proof/Machine/Fetch.lean ====
section
/-! DEFINITION. Instruction fetch (R122, R346): translation, registration and the instruction cache (R74, R260). -/

namespace Sys2Proof.Machine

/-- The entries of the instruction cache: 64 KiB of words (R12, log 10). -/
def icacheWords : Nat := 16384

/-- A word of an object lies in registered text of the context (R346). -/
def registered (s : State) (pc : Word) : Bool :=
  s.rot.ranges.any fun t => t.ctx == s.me.ctx && t.handle == handleOf pc && decide (t.lo ≤ offsetOf pc) &&
    decide (offsetOf pc + 4 ≤ t.lo + t.len)

/-- The fetch fails for a cause that says only where the word does not lie, or is not: such a byte is not registered (R72, R77, R346,
log 88). -/
def placeless (t : TrapInfo) : Bool :=
  t.code == 0x0C || t.code == 0x0D || t.code == 0x0E || (t.code == 0x09 && field t.info 23 5 == 10)

/-- Fetch the word at an address: the word and the machine with its caches as the fetch leaves them, or the precise fault
of the fetch (R122, R346). -/
def fetchWord (s : State) (pc : Word) : Except Stop (BitVec 32 × State) :=
  let h := handleOf pc
  let perm : TrapInfo := { code := cPermission, info := addrInfo h 3 0 0 }
  match galleyOf h with
  | some id =>
    .error (.trap (if galleyUsable s s.me.ctx s.me.core s.me.gmask id then perm else { code := cHandle, info := addrInfo h 3 0 0 }))
  | none =>
  match scalarElements s (whoMe s) 3 pc 4 with
  | .error (.fault t) => .error (.trap (if placeless t && !registered s pc then perm else t))
  | .error .moving => .error (.wait .moving)
  | .ok es =>
    let ps := es.map (·.place)
    let owned (p : Place) : Bool :=
      match textRangeOf s s.me.ctx p.addr with
      | some t => decide (p.addr + p.bits / 8 ≤ t.phys + t.len)
      | none => false
    if !ps.all owned then .error (.trap perm)
    else
      let a := (ps.map (·.addr)).headD 0
      match (getCore s s.me.core).icache.find? fun e => e.ctx == s.me.ctx && e.pc == pc && e.addr == a with
      | some e => .ok (e.word, s)
      | none =>
        if backoffAt s (memoryBytes ps) then .error (.wait .backoff)
        else
          match es.zipIdx.find? fun x => placeBad s x.1.place with
          | some x => .error (.trap { code := cUncorrectable, info := addrInfo h 3 0 0, elem := elementNo s (whoMe s) pc + x.2, coord := x.1.coord })
          | none =>
          let w := BitVec.ofNat 32 (readPlaces s ps)
          let e : CachedWord := { ctx := s.me.ctx, pc := pc, addr := a, word := w }
          let t := correctTable (correctReads s (memoryBytes ps)) (whoMe s) h (es.map (·.sub))
          .ok (w, modCore t s.me.core fun c => { c with icache := (e :: c.icache).take icacheWords })

/-- The instruction in hand runs with ordering strength, or not (R344). -/
def withStrong (b : Bool) (s : State) : State := modMe s fun h => { h with strong := b }

/-- The word that the pc of the hart in focus stands at: the captured word of an open stick body, with the strength of the text it was
fetched from, or a fetched one, which an open body captures (R143, R146, R344). -/
def nextWord (s : State) : Except Stop (BitVec 32 × State) :=
  let k := s.me.r.stick
  let fetched : Except Stop (BitVec 32 × State) :=
    match fetchWord s s.me.r.pc with
    | .error e => .error e
    | .ok (w, t) => .ok (w, withStrong (strongAt s s.me.r.pc) t)
  if k.active then
    match k.buf.find? fun e => e.1 == k.pos.toNat with
    | some e => .ok (e.2.1, withStrong e.2.2 s)
    | none =>
      match fetched with
      | .error e => .error e
      | .ok (w, t) =>
        .ok (w, modRegs t fun r => { r with stick := { r.stick with buf := (k.pos.toNat, w, t.me.strong) :: r.stick.buf } })
  else fetched

/-- A fetch that fails takes its precise fault at the pc (R122): the meaning of the step FETCH_FAULT. -/
def execFetchFault (s : State) : Out :=
  match nextWord s with
  | .ok _ => .next s
  | .error st => .next (stopAt s st none)

/-- A word that does not decode takes the precise illegal-instruction trap (R126, R128). -/
def execIllegalInstruction (w : BitVec 32) (s : State) : Out :=
  match decode w with
  | .ok _ => .next s
  | .error _ => .next (stopAt s (.trap { code := cIllegal }) none)

end Sys2Proof.Machine
end

