-- ==== Sys2Proof/Machine/Control.lean ====
section
/-! DEFINITION. Branches and jumps (R140, R141), the composing stick (R142 to R146), vector length, mode slots, formes and
tiles (R147 to R150), state registers (R151 to R154), strips (R155 to R157) and END (R158). -/

namespace Sys2Proof.Machine

/-- The instruction may not stand in an open stick body (R145). -/
def noBody (s : State) : Except Stop PUnit := ensure (!s.me.r.stick.active) cStick

/-! ## Branches and jumps -/

/-- A conditional branch (R140). -/
def branch (sa sb : SOp) (off : BitVec 12) (taken : Word → Word → Bool) (s : State) : Out :=
  finish s do
    legal [sa, sb] []
    noBody s
    let (a, s1) ← readSrc sa s
    let (b, s2) ← readSrc sb s1
    if taken a b then
      let t ← effAddr s.me.r.pc (4 * off.toInt)
      return retireTo s2 t
    else return retire s2

/-- BEQ (R140). -/
def execBeq (sa sb : SOp) (off : BitVec 12) (s : State) : Out := branch sa sb off (fun a b => a == b) s
/-- BNE (R140). -/
def execBne (sa sb : SOp) (off : BitVec 12) (s : State) : Out := branch sa sb off (fun a b => a != b) s
/-- BLT (R140). -/
def execBlt (sa sb : SOp) (off : BitVec 12) (s : State) : Out := branch sa sb off (fun a b => a.slt b) s
/-- BGE (R140). -/
def execBge (sa sb : SOp) (off : BitVec 12) (s : State) : Out := branch sa sb off (fun a b => !a.slt b) s
/-- BLTU (R140). -/
def execBltu (sa sb : SOp) (off : BitVec 12) (s : State) : Out := branch sa sb off (fun a b => a.ult b) s
/-- BGEU (R140). -/
def execBgeu (sa sb : SOp) (off : BitVec 12) (s : State) : Out := branch sa sb off (fun a b => !a.ult b) s

/-- JAL (R141). -/
def execJal (sd : SOp) (off : BitVec 20) (s : State) : Out :=
  finish s do
    legal [] [sd]
    noBody s
    let t ← effAddr s.me.r.pc (4 * off.toInt)
    let s1 ← writeDst sd (nextPc s.me.r.pc) s
    return retireTo s1 t

/-- JALR (R141). -/
def execJalr (sd sa : SOp) (imm : BitVec 12) (s : State) : Out :=
  finish s do
    legal [sa] [sd]
    noBody s
    let (a, s1) ← readSrc sa s
    let t ← effAddr a imm.toInt
    let s2 ← writeDst sd (nextPc s.me.r.pc) s1
    return retireTo s2 t

/-! ## The composing stick -/

/-- Change the stick of the hart in focus. -/
def modStick (s : State) (f : Stick → Stick) : State := modRegs s fun r => { r with stick := f r.stick }

/-- The scalar register that a field names, for a walker: no queue (R142). -/
def walkerOf (o : SOp) : Except Stop (Fin 24) :=
  match o with
  | .s n => .ok n
  | .q _ => trapOf cIllegal

/-- The COUNT of a level. -/
def Stick.countOf (k : Stick) (l : Nat) : Nat := (vget k.count l 0).toNat

/-- The index of a level. -/
def Stick.indexOf (k : Stick) (l : Nat) : Nat := (vget k.index l 0).toNat

/-- Discard words up to and including the next STICKEND, of which the first stands at the pc: the state after it, or the
trap and where it is taken: the fault of a fetch, or the stick fault at the last of n + 1 words (R143). -/
def discardBody : Nat → State → Except Stop State × State
  | n, s =>
    match fetchWord s s.me.r.pc with
    | .error st => (.error st, s)
    | .ok (w, t) =>
      let u := modRegs t fun r => { r with pc := nextPc r.pc }
      if w = 0x36000001#32 then (.ok u, u)
      else match n with
        | 0 => (trapOf cStick, t)
        | n + 1 => discardBody n u

/-- STICK (R142, R143). -/
def execStick (sa : SOp) (fx : BitVec 5) (s : State) : Out :=
  let opened : Except Stop (State × Fin 24 × Word) := do
    let walk ← walkerOf sa
    ensure (decide (fx.toNat ≤ 5)) cIllegal
    noBody s
    let (base, s1) ← readSrc sa s
    return (s1, walk, base)
  match opened with
  | .error st => .next (stopAt s st none)
  | .ok (s1, walk, base) =>
    let k := fx.toNat + 1
    let st := s1.me.r.stick
    if (List.range k).any fun l => st.countOf l == 0 then
      match discardBody 64 (modRegs s1 fun r => { r with pc := nextPc r.pc }) with
      | (.ok t, _) => .next (retireTo t t.me.r.pc)
      | (.error (.trap e), t) =>
        if anyParked s then .next (stopAt s (.wait .earlier) none) else .next (stopAt t (.trap e) none)
      | (.error st, _) => .next (stopAt s st none)
    else
      finish s do
        ensure (decide (st.flagLvl.toNat < k)) cStick
        let s2 := retire s1
        return modStick s2 fun x =>
          { x with base := base, index := Vector.replicate 6 0, active := true, pos := 0, len := 0,
                   lvm1 := BitVec.ofNat 3 fx.toNat, walk := BitVec.ofNat 5 walk.val, pc := s2.me.r.pc, buf := [],
                   capture := Nat.max x.capture x.held + 1 }

/-- The displacement of the walker from its base: the sum of index times stride (R143). -/
def walkSum (k : Stick) (index : Nat → Nat) : Int :=
  ((List.range (k.lvm1.toNat + 1)).map fun l => (index l : Int) * intOf (vget k.stride l 0)).sum

/-- The level that STICKEND advances: the lowest one that has iterations left (R143). -/
def advances (k : Stick) : Option Nat :=
  (List.range (k.lvm1.toNat + 1)).find? fun l => decide (k.indexOf l + 1 < k.countOf l)

/-- STICKEND (R143). A body with no walker forms no address, so it takes no ADDRFORM, though the pseudocode of R143 forms one without
exception: the model's reading of R142 (log 104). -/
def execStickend (s : State) : Out :=
  finish s do
    let k := s.me.r.stick
    ensure k.active cStick
    match advances k with
    | none => return retire (modStick s fun x => { x with active := false, len := x.pos })
    | some l =>
      let index (j : Nat) : Nat := if j < l then 0 else if j = l then k.indexOf l + 1 else k.indexOf j
      let step (x : Stick) : Stick :=
        { x with index := Vector.ofFn fun j => BitVec.ofNat 32 (index j.val), len := x.pos, pos := 0 }
      if k.walk = 0 then return retireTo (modStick s step) k.pc
      else
        let a ← effAddr k.base (walkSum k index)
        let w : Fin 24 := ⟨k.walk.toNat % 24, Nat.mod_lt _ (by decide)⟩
        let s1 ← writeDst (.s w) a s
        return retireTo (modStick s1 step) k.pc

/-- LOOP (R142). -/
def execLoop (sa sb : SOp) (fx : BitVec 5) (s : State) : Out :=
  finish s do
    legal [sa, sb] []
    let l := fx.toNat
    ensure (decide (l ≤ 7) && (l != 7 || sb == .s 0)) cIllegal
    noBody s
    let (a, s1) ← readSrc sa s
    let (b, s2) ← readSrc sb s1
    if l ≤ 5 then
      ensure (decide (a.toNat < 2 ^ 32)) cStick
      return retire (modStick s2 fun k =>
        { k with count := vset k.count l (BitVec.ofNat 32 a.toNat), stride := vset k.stride l b })
    else if l = 6 then
      ensure (decide (b.toNat < 8)) cStick
      return retire (modStick s2 fun k => { k with firsts := a, flagLvl := BitVec.ofNat 3 b.toNat })
    else return retire (modStick s2 fun k => { k with lasts := a })

/-! ## Vector length -/

/-- The field that SETVL and SETVLW write: VL, with VSTART at 0 (R147). -/
def withVl (s : State) (n : Nat) : State := modRegs s fun r => { r with vl := wordOfNat n, vstart := 0 }

/-- SETVL (R147). -/
def execSetvl (sd sa : SOp) (g : Fin 8) (s : State) : Out :=
  finish s do
    legal [sa] [sd]
    let (a, s1) ← readSrc sa s
    let n := Nat.min a.toNat (vlmax (lanesOf s.me) (slotOf s g))
    let s2 ← writeDst sd (wordOfNat n) s1
    return retire (withVl s2 n)

/-- SETVLX (R147). -/
def execSetvlx (sd sa : SOp) (g : Fin 8) (imm : BitVec 12) (s : State) : Out :=
  finish s do
    legal [sa] [sd]
    noBody s
    let (a, s1) ← readSrc sa s
    if a = 0 then
      let t ← effAddr s.me.r.pc (4 * imm.toInt)
      let s2 ← writeDst sd 0 s1
      return retireTo (withVl s2 0) t
    else
      let n := Nat.min a.toNat (vlmax (lanesOf s.me) (slotOf s g))
      let s2 ← writeDst sd (wordOfNat n) s1
      return retire (withVl s2 n)

/-- SETVLW (R148, R279). -/
def execSetvlw (sd sa sb : SOp) (g : Fin 8) (s : State) : Out :=
  let env := scalarEnv s g
  finishSlot s env.slot do
    legal [sa, sb] [sd]
    let (a, s1) ← readSrc sa s
    let (w, s2) ← readSrc sb s1
    if a = 0 then
      let s3 ← writeDst sd 0 s2
      return retire (withVl s3 0)
    else
      let n := Nat.min a.toNat (vlmax (lanesOf s.me) env.slot)
      let stream := slotStream env.slot
      aligned s1 w 8 0
      let es ← accessElements s2 0 w 8
      if !contiguous es then .error (.trap (misalignedAt s1 w 0))
      else
        let _ ← loadElements s2 0 w 8
        dstReady sd s2
        let ps := es.map (·.place)
        let f := opOf (.setvlw sd sa sb g) env s (boundSpan (handleOf w) es) false (.load (.s 0) ps 8 false)
        ensure (!waitsForProof s2 s2.me f (decide (slotScope env.slot = 0))) cStripState
        streamRoom s2 stream
        tableRoom s2 1
        holds (!orderBlocked s2 s2.me f (decide (slotScope env.slot = 0)) && !backoffHolds s2 f.action) .ordering
        holds (decide (s.me.r.wpos.toNat + n ≤ (loadValue s2 s2.me f ps 8 false).toNat)) WaitReason.watermark
        let s3 ← writeDst sd (wordOfNat n) (nextSeq (touchElements (correctFor s2 f) es))
        let s4 := modMe (withVl s3 n) fun h =>
          keepPerformed f (lentBy s.me f) (countPerf (countIssued h stream) stream)
        return retire (modRegs s4 fun r => { r with wpos := r.wpos + wordOfNat n })

/-- WATERMARK_REREAD: a hart that waits in SETVLW reads the word again, unless a cause or a swap comes first (R258, R299, R310). -/
def execWatermarkReread (hid : Nat) (s : State) : Out :=
  match (hartOf s hid).map (·.wait) with
  | some (some WaitReason.watermark) =>
    let t := focus s hid
    if boundaryDue t t.me then eventOut s none
    else match nextWord t with
    | .ok (w, u) =>
      match decode w with
      | .ok (.setvlw sd sa sb g) => execSetvlw sd sa sb g u
      | _ => eventOut s none
    | .error _ => eventOut s none
  | _ => eventOut s none

/-! ## Mode slots, formes and tiles -/

/-- SETMODE (R115, R149). -/
def execSetmode (sa : SOp) (g : Fin 8) (s : State) : Out :=
  finish s do
    legal [sa] []
    let (a, s1) ← readSrc sa s
    ensure (slotOk a) cMode
    return retire (modRegs s1 fun r => { r with g := r.g.set g a })

/-- GETMODE (R149). -/
def execGetmode (sd : SOp) (g : Fin 8) (s : State) : Out :=
  finish s do
    legal [] [sd]
    let s1 ← writeDst sd (slotOf s g) s
    return retire s1

/-- SETFORME (R121, R149). -/
def execSetforme (sa : SOp) (f : Fin 8) (s : State) : Out :=
  finish s do
    legal [sa] []
    let (a, s1) ← readSrc sa s
    ensure (formeOk a) cForme
    return retire (modRegs s1 fun r => { r with fm := r.fm.set f a })

/-- ROWS lies in its range (R150). -/
def rowsOk (a : Word) : Bool := decide (1 ≤ a.toNat) && decide (a.toNat ≤ 65535)

/-- PITCH lies in its range (R150). -/
def pitchOk (a : Word) : Bool := decide (-(2 ^ 43 : Nat) ≤ intOf a) && decide (intOf a < (2 ^ 43 : Nat))

/-- SETTILE (R150). -/
def execSettile (sa sb : SOp) (s : State) : Out :=
  finish s do
    legal [sa, sb] []
    let (a, s1) ← readSrc sa s
    let (b, s2) ← readSrc sb s1
    ensure (rowsOk a && pitchOk b) cMode
    return retire (modRegs s2 fun r => { r with rows := a, pitch := b, prog := 0 })

/-! ## State registers -/

/-- The frame registers that exist, counted from 0x100 (R305). -/
def frameAssigned (i : Nat) : Bool :=
  decide (i ≤ 0x14) || (decide (0x18 ≤ i) && decide (i ≤ 0x9C)) || (decide (0xA0 ≤ i) && decide (i ≤ 0xB0))

/-- The value of a state register, or none where the number is not assigned (R152). -/
def stateReg (s : State) (n : Nat) : Option Word :=
  let h := s.me
  let r := h.r
  if n = 0x000 then some r.vl
  else if n = 0x001 then some r.vstart
  else if n = 0x002 then some r.prog
  else if n = 0x003 then some r.rows
  else if n = 0x004 then some r.pitch
  else if n = 0x005 then some r.wpos
  else if n = 0x006 then some (0#57 ++ r.fflags : Word)
  else if n = 0x007 then some r.dphase
  else if n = 0x008 then some (hartId h)
  else if n = 0x009 then some h.otb
  else if n = 0x00A then some (0#32 ++ h.gmask : Word)
  else if 0x010 ≤ n ∧ n ≤ 0x017 then some (vget r.fm (n - 0x010) 0)
  else if 0x020 ≤ n ∧ n ≤ 0x02F then some (stcnt h (n - 0x020))
  else if 0x030 ≤ n ∧ n ≤ 0x040 then some ((stickWords r.stick).getD (n - 0x030) 0)
  else if n = 0x041 then some r.strip.w
  else if n = 0x042 then some r.strip.b
  else if 0x100 ≤ n ∧ n < 0x200 ∧ frameAssigned (n - 0x100) then some (vget r.frame (n - 0x100) 0)
  else none

/-- An earlier drain of the hart has not retired (R154). -/
def drainWaits (s : State) : Bool :=
  s.me.flights.any fun f => f.parked && match f.instr with
    | .drain _ _ _ => true
    | .draina _ _ _ => true
    | .drainq _ _ _ => true
    | .drainrc _ _ _ => true
    | _ => false

/-- GETS (R151, R154). -/
def execGets (sd : SOp) (n : BitVec 12) (s : State) : Out :=
  finish s do
    legal [] [sd]
    match stateReg s n.toNat with
    | none => trapOf cIllegal
    | some v =>
      if n = 6 then flagsSettled s
      holds (!(n == 7 && drainWaits s)) .earlier
      let s1 ← writeDst sd v s
      return retire s1

/-- A state register is read only (R152, R305). -/
def readOnly (n : Nat) : Bool :=
  n == 8 || n == 9 || n == 0xA || (decide (0x10 ≤ n) && decide (n ≤ 0x42)) ||
    (decide (0x138 ≤ n) && decide (n ≤ 0x167))

/-- The bits of a frame register that its table assigns (R306). -/
def frameMask (i : Nat) : Nat :=
  if i = 0x00 then 13 else if i = 0x0C ∨ i = 0x0D then 20 else if i = 0x0E then 32 else if i = 0x0F then 16
  else if i = 0x12 ∨ i = 0x13 then 25 else if i = 0x14 then 2 else if i = 0x9C then 32 else if i = 0xAE then 26 else 64

/-- Write a frame register by its access code (R305, R307). -/
def putFrameReg (i : Nat) (v : Word) (r : Regs) : Except Stop Regs := do
  ensure (!(decide (0xA0 ≤ i) && decide (i ≤ 0xB0) && r.stick.active)) cStick
  ensure (!(decide (0x18 ≤ i) && decide (i ≤ 0x1F)) || slotOk v) cMode
  ensure (!(decide (0x20 ≤ i) && decide (i ≤ 0x27)) || formeOk v || formeNull v) cForme
  let f := vset r.frame i (wordOfNat (field v 0 (frameMask i)))
  let f := if i = 0x02 ∨ i = 0x0D ∨ i = 0x0E then vset f 0x14 (putField (vget f 0x14 0) 1 1 0) else f
  return { r with frame := f }

/-- Write a state register (R151, R152). -/
def putReg (n : Nat) (v : Word) (r : Regs) : Except Stop Regs :=
  if n = 0 then (if v.toNat ≤ 2 ^ 19 then .ok { r with vl := v } else trapOf cMode)
  else if n = 1 then (if v.toNat ≤ 2 ^ 19 then .ok { r with vstart := v } else trapOf cMode)
  else if n = 2 then .ok { r with prog := wordOfNat (field v 0 32) }
  else if n = 3 then (if rowsOk v then .ok { r with rows := v } else trapOf cMode)
  else if n = 4 then (if pitchOk v then .ok { r with pitch := v } else trapOf cMode)
  else if n = 5 then .ok { r with wpos := v }
  else if n = 6 then .ok { r with fflags := r.fflags &&& ~~~(BitVec.ofNat 7 v.toNat) }
  else if n = 7 then .ok { r with dphase := wordOfNat (field v 0 25) }
  else putFrameReg (n - 0x100) v r

/-- PUTS (R151, R154). -/
def execPuts (sa : SOp) (n : BitVec 12) (s : State) : Out :=
  finish s do
    legal [sa] []
    ensure (stateReg s n.toNat).isSome cIllegal
    ensure (!readOnly n.toNat) cPrivilege
    let (a, s1) ← readSrc sa s
    let r ← putReg n.toNat a s1.me.r
    holds (!(n == 7 && drainWaits s)) .earlier
    return retire (modRegs s1 fun _ => r)

/-! ## Strips -/

/-- The watermark word lies contiguously in one image and one sub-tile and may be accessed (R156, R157). -/
def watermarkElements (s : State) (kind : Nat) (w : Word) : Except Stop (List Element) := do
  aligned s w 8 kind
  let es ← accessElements s kind w 8
  if contiguous es then return es
  else .error (.trap (misalignedAt s w kind))

/-- STRIP (R156). It waits for no instruction that was dispatched before it: a STRIPMODE store among them that has not started yet joins the
strip, the model's choice (log 105). -/
def execStrip (sa sb : SOp) (s : State) : Out :=
  finish s do
    legal [sa, sb] []
    ensure (!s.me.r.strip.isOpen) cStripState
    let (a, s1) ← readSrc sa s
    let (b, s2) ← readSrc sb s1
    let s3 ← if a = 0 then pure s2 else do
      let es ← watermarkElements s2 0 a
      let _ ← watermarkElements s2 1 a
      pure (touchElements s2 es)
    return retire (modRegs s3 fun r =>
      { r with strip := { StripState.reset with isOpen := true, w := a, b := b, pc := r.pc } })

/-- A word of memory under a partly covered line of the strip holds an uncorrectable error (R315). -/
def stripBad (s : State) (st : StripState) : Bool :=
  let ws := st.stores.flatMap (·.writes)
  let bytes (c : Option Nat) : List Nat := (ws.filter fun w => w.1.core == c).flatMap fun w => placeBytes w.1
  ws.any fun w => placeBad s w.1 &&
    let k := if w.1.core.isNone then 64 else 8
    !((List.range k).all fun i => (bytes w.1.core).contains (w.1.addr / k * k + i))

/-- Perform in order what may perform of the operations that a PROOF has released. -/
def performReleased (hid seq : Nat) : Nat → State → State
  | 0, s => s
  | n + 1, s =>
    match s.me.flights.find? fun f => f.released && f.env.seq == seq with
    | none => s
    | some f => if canPerform s s.me f then performReleased hid seq n (performFlight s hid f) else s

/-- An instruction that waits will put a store into the strip. -/
def joinsStrip (f : Flight) : Bool := f.parked && f.writes && slotStrip f.env.slot

/-- PROOF has something to wait for: an earlier instruction, but for one that waits on a queue and puts nothing into the strip (R6, R111,
R157). -/
def proofWaits (s : State) : Bool :=
  let k := stuck s s.me
  s.me.flights.any fun f => unsettled k f && !(f.parked && queueWaits f && !joinsStrip f)

/-- PROOF (R157, R315). -/
def execProof (sa : SOp) (g : Fin 8) (s : State) : Out :=
  let env := scalarEnv s g
  finishSlot s env.slot do
    legal [sa] []
    let st := s.me.r.strip
    ensure st.isOpen cStripState
    let (a, s1) ← readSrc sa s
    let es ← if st.w = 0 then pure [] else watermarkElements s1 1 st.w
    if stripBad s1 st then
      .error (.trap { code := cStripLost, elem := st.b.toNat,
                      info := wordOfNat (((st.stores.flatMap (·.lines)).map (·.1)).headD 0) })
    else
      holds (!proofWaits s1) .earlier
      let s1 := passOn s1
      if st.w ≠ 0 then streamRoom s1 (slotStream env.slot)
      let held := (st.stores.flatMap (·.lines)).eraseDups.length
      let base : Flight := opOf (.proof sa g) { env with a := wordOfNat held, b := st.b } s [] true (.store [])
      let freed := st.stores.map fun x =>
        { base with seq := x.seq, stream := x.stream, pmask := x.pmask, scope := x.scope, spans := x.spans,
                    action := .store x.writes, released := true, born := s1.nextUid }
      let mark : List Flight :=
        if st.w = 0 then []
        else [{ base with spans := boundSpan (handleOf st.w) es, released := true, born := s1.nextUid,
                          action := .store (spread (es.map (·.place)) a.toNat) }]
      let s2 := modMe { nextSeq (touchElements s1 es) with nextUid := s1.nextUid + 1 } fun h : Hart =>
        let h := if st.w = 0 then h else countIssued h (slotStream env.slot)
        let r := h.r
        { h with flights := h.flights ++ freed ++ mark,
                 r := { r with fflags := r.fflags ||| st.flags, strip := StripState.reset,
                               retired := r.retired + wordOfNat st.counts.retired,
                               counts := addCounts r.counts { st.counts with retired := 0 } } }
      let s3 := settleCounts (retire s2)
      return if s.me.defer then s3 else performReleased s.me.hid env.seq (st.stores.length + 1) s3

/-! ## END -/

/-- The queue that a reason to wait names. -/
def waitQueue : Option WaitReason → Option (Fin 8)
  | some (.queueEmpty q) => some q
  | some (.queueFull q) => some q
  | _ => none

/-- The queues that instructions which wait to start wait on. -/
def queuesWaited (s : State) : List (Fin 8) := (s.me.flights.filter (·.parked)).filterMap fun f => waitQueue f.why

/-- The oldest instruction that waits to start, and the queues that those which wait wait on, when there is one (R112). -/
def queueWaiter (s : State) : Option (Flight × List (Fin 8)) :=
  match firstParked s.me, queuesWaited s with
  | some f, q :: qs => some (f, q :: qs)
  | _, _ => none

/-- The queues blocked on as TINFO gives them, one bit each (R306). -/
def queueBits (qs : List (Fin 8)) : Nat := qs.foldl (fun m q => m ||| 2 ^ q.val) 0

/-- QDEADLOCK is taken by the oldest waiting instruction; it and everything after it are discarded (R112, R306,
log 89). -/
def deadlock (s : State) (f : Flight) (queues : Nat) : State :=
  preciseTrap (rollback f s) { code := cDeadlock, info := wordOfNat queues } none false false

/-- END has nothing more to wait for (R158). -/
def drained (s : State) : Bool :=
  s.me.flights.isEmpty &&
    !(s.transfers.any fun t => t.owner == some s.me.hid && (t.kind == .copy || t.kind == .coll || t.kind == .move))

/-- The hart stops: its group memberships end, its colophon takes its flags, and the unit counts it (R158, R255, R300). -/
def endHart (s : State) : State :=
  let h := s.me
  let s := match findNode s h.ctx h.node with
    | none => s
    | some n =>
      let add (old : Nat) : Nat :=
        let flags := bitsOf old 8 7 ||| h.r.fflags.toNat
        putBits (putBits old 8 7 flags) 32 12 (bitsOf old 32 12 + 1)
      let s := (unitStore s h.ctx (nodeColo n.record) add).getD s
      setNode s { n with ended := n.ended + 1, groups := n.groups.map fun (g : Nat × Group) => (g.1, endIn h.launch g.2) }
  { s with me := { s.me with live := false, wait := none, popped := [],
                             r := countRetired false { s.me.r with q := Vector.replicate 8 [] } } }

/-- END (R112, R158). -/
def execEndHart (s : State) : Out :=
  match (do ensure (!s.me.r.strip.isOpen) cStripState; noBody s : Except Stop PUnit) with
  | .error st => .next (stopAt s st none)
  | .ok _ =>
    match queueWaiter s with
    | some (f, qs) => .next (deadlock s f (queueBits qs))
    | none => finish s do
        holds (drained s) .drain
        holds (!((findNode s s.me.ctx s.me.node).any (coloMoving s))) .moving
        return endHart s

/-- QDEADLOCK: the scalar stream and another wait on each other's queues, and have done so for 2^20 cycles; a cause or a swap that is to come
at the boundary comes first (R112, R310, R318). -/
def execQdeadlock (s : State) : Out :=
  match waitQueue s.me.wait, queueWaiter s with
  | some a, some (f, qs) =>
    let access (q : Fin 8) : Bool := 6 ≤ q.val
    if s.me.live ∧ !boundaryDue s s.me ∧ qs.any fun b => access a == access b then .next (deadlock s f (queueBits (a :: qs)))
    else eventOut s none
  | _, _ => eventOut s none

end Sys2Proof.Machine
end

