-- ==== Sys2Proof/Machine/VMem.lean ====
section
/-! DEFINITION. Vector loads, stores and atomics (R159 to R177). -/

namespace Sys2Proof.Machine

/-! ## Operands (R160) -/

/-- The scalar fields name s registers or q6. -/
def accessOk (os : List SOp) : Except Stop PUnit :=
  ensure (os.all fun (o : SOp) => match o with
    | .s _ => true
    | .q k => k.val == 6) cIllegal

/-- The registers of an index group (R160). -/
def indexCount (c : VCtx) : Nat := Nat.max 1 (c.f * 32 / c.b)

/-- The index operand is a v register aligned to its group (R160). -/
def indexOk (c : VCtx) (vi : VOp) : Except Stop PUnit :=
  ensure (match vi with
    | .v n => n.val % indexCount c == 0
    | _ => false) cIllegal

/-- Index e of an index group (R160). -/
def indexOf (r : Regs) (c : VCtx) (vi : VOp) (e : Nat) : Int := signedOf (getElem r vi c.lanes 32 e) 32

/-! ## Start, progress and end (R169 to R171) -/

/-- The start index: VSTART, or PROG for a tile (R164, R169). -/
def startOf (tile : Bool) (env : Env) : Nat := if tile then env.prog else env.vstart

/-- The number of elements (R169). -/
def countOf (tile : Bool) (env : Env) : Nat := if tile then env.rows * env.vl else env.vl

/-- The start index is left at an element (R171). -/
def leaveAt (tile : Bool) (f : Nat) (r : Regs) : Regs :=
  if tile then { r with prog := wordOfNat f } else { r with vstart := wordOfNat f }

/-- What a probe found: the target of an access that touches an element, the elements it completes, and the fault it takes
after them in progress mode. -/
structure Probed where
  target : Option Target
  good   : List (Nat × List Element)
  fault  : Option TrapInfo
  deriving Repr

/-- The fault of a probe from a start index on: taken at once, or after the elements below it in progress mode, which moves the start
index there (R170, R171, R313, log 91). -/
def settleProbe (env : Env) (start : Nat) (t : Option Target) (good : List (Nat × List Element)) (fault : Option TrapInfo) :
    Except Stop Probed :=
  match fault with
  | none => .ok { target := t, good := good, fault := none }
  | some f =>
    if env.armed ∧ start < f.elem then .ok { target := t, good := good, fault := some f } else .error (.trap f)

/-- Find the target of an access whose first active element is e0 and check the pairing of its format (R161, R162, R170). -/
def openTarget (s : State) (h kind : Nat) (matrix : Bool) (e0 : Nat) (a0 : Option Word) (ok : Target → Bool) :
    Except Stop Target := do
  let t ← openAccess s h kind matrix e0 a0
  if ok t then return t
  else .error (.trap { code := cReserved, elem := e0, info := wordOfNat h })

/-- Probe an access whose target is found, or that faults there, on its first active element, with none completed (R170, R171). -/
def probeFrom (env : Env) (start : Nat) (t : Except Stop Target) (probe : Target → Except Stop Probed) : Except Stop Probed :=
  match t with
  | .ok t => probe t
  | .error (.trap f) => settleProbe env start none [] (some f)
  | .error e => .error e

/-- Probe one address for each active element from a start index on (R170). -/
def probeEach (s : State) (env : Env) (start : Nat) (base : Word) (kind et : Nat) (reads : Bool) (es : List Nat)
    (ok : Target → Bool) (addr : Nat → Nat → Option Word) (matrix : Bool) : Except Stop Probed :=
  match es with
  | [] => .ok { target := none, good := [], fault := none }
  | e0 :: _ =>
    let h := handleOf base
    probeFrom env start (openTarget s h kind matrix e0 (addr (offsetUnit ((etypeBits et).getD 8)) e0) ok) fun t =>
      let u := offsetUnit (t.bits et)
      let (good, fault) := probeAll (fun e => [probeOne s t h kind et reads (addr u e)]) es
      settleProbe env start (some t) good fault

/-- What an access leaves beside its effect: its counts, held for PROOF or not, and in progress mode its start index and its trap
(R168, R169, R171, R314). -/
def accessDone (dt tile held : Bool) (c : VCtx) (start n : Nat) (p : Probed) (s : State) : StreamResult :=
  let r := s.me.r
  let count (stop : Nat) : Counts := dtCount dt r { c with vstart := start, vl := stop } c.b
  match p.fault with
  | none => .ok (modRegs s (addPending held (if n ≤ start then Counts.zero else count n)), none)
  | some f =>
    let k := groupElems c.lanes c.b
    .ok (modRegs (nextSeq s) fun r => leaveAt tile f.elem (addPending held (count (f.elem / k * k)) r), some f)

/-- The elements of a probe. -/
def Probed.elements (p : Probed) : List Element := p.good.flatMap (·.2)

/-- The elements of a probe with their numbers. -/
def Probed.numbered (p : Probed) : List (Nat × Element) := p.good.flatMap fun g => g.2.map fun e => (g.1, e)

/-- Issue the operation of an access; one that traps with no element completed is none (R170, R171). -/
def issueProbed (s : State) (f : Flight) (p : Probed) : Except Stop State :=
  if p.fault.isSome && p.good.isEmpty then .ok s else issueOp s f

/-! ## Addresses (R163, R164) -/

/-- How an instruction addresses its elements. -/
structure Addressing where
  tile    : Bool
  strided : Bool
  index   : Option VOp
  deriving DecidableEq, Repr

/-- The address of element e, for an element unit. -/
def elemAddr (m : Addressing) (r : Regs) (c : VCtx) (env : Env) (base stride : Word) (u e : Nat) : Option Word :=
  effAddr? base
    (match m.index with
     | some vi => indexOf r c vi e
     | none =>
       if m.strided then e * intOf stride
       else if m.tile then (e / env.vl : Nat) * env.pitch + (e % env.vl * u : Nat)
       else (e * u : Nat))

/-- The checks at issue of the plain accesses, illegal ones first (R159, R160, R164, R177). -/
def accessChecks (m : Addressing) (c : VCtx) (env : Env) (vd : VOp) (tiers types : List Nat) (load : Bool)
    (os : List SOp) : Except Stop PUnit := do
  accessOk os
  operand vd tiers c.f
  match m.index with
  | some vi => do
    indexOk c vi
    ensure (decide (indexCount c ≤ 16)) cReserved
  | none => pure ⟨⟩
  vcheck c types false
  let n := countOf m.tile env
  ensure (decide (n ≤ vlmaxBits c.lanes c.f c.b)) cReserved
  ensure (!(load && tierOf vd == 1) || decide (n ≤ vlmaxBits c.lanes 1 c.b)) cReserved

/-- The registers of the index group. -/
def Addressing.regs (m : Addressing) (c : VCtx) : List RegName :=
  match m.index with
  | some (.v n) => runRegs n.val (indexCount c)
  | _ => []

/-- The waits of an access that goes through vd and its index group one element group at a time, from a start index to an end: every
bit of a v register that a load writes into, and the bits of the groups that are read (R91, R169). -/
def useAccess (c : VCtx) (m : Addressing) (s : State) (seq : Nat) (vd : VOp) (loads : Bool) (start n : Nat) :
    Except Stop PUnit :=
  let data := groupBits vd c.lanes c.f c.b start n
  let index := match m.index with
    | some vi => groupBits vi c.lanes (indexCount c) 32 start n
    | none => []
  useParts s seq (regsOf vd c.f ++ m.regs c)
    ((if loads then data.map fun x => (x.1, if x.2 = 0 then 0 else 0xFF) else data) ++ index)

/-- The environment of an operation that has taken its scalar operands. -/
def taken (env : Env) (base second : Word) : Env := { env with a := base, b := second }

/-- A plain load: VLD, VLDS, VLDT, VLDX. -/
def loadBody (i : Instr) (dt : Bool) (m : Addressing) (vd : VOp) (sa : SOp) (sb : Option SOp) (env : Env) (s : State) :
    StreamResult := do
  let c := vctx s env
  accessChecks m c env vd [0, 1, 5] (List.range 8) true (sa :: sb.toList)
  let (base, s1) ← accessSrc sa env.a s
  let (stride, s2) ← match sb with
    | some o => accessSrc o env.b s1
    | none => pure (0, s1)
  let start := startOf m.tile env
  let n := countOf m.tile env
  useAccess c m s2 env.seq vd true start n
  let r := s2.me.r
  let es := if env.vl = 0 then [] else activeElems r c.lanes c.slot start n
  let p ← probeEach s2 env start base 0 c.et true es (fun t => loadPair c.et (t.fmt c.et) && galleyPair t c.b)
    (elemAddr m r c env base stride) false
  let fmt := (p.target.map fun (t : Target) => t.fmt c.et).getD c.et
  let f := opOf i (taken env base stride) s (boundSpan (handleOf base) p.elements) false
    (.vload fmt (p.numbered.map fun x => (x.1, x.2.place))) (marksOf p.numbered)
  let s3 ← issueProbed (touchElements s2 p.elements) f p
  accessDone dt m.tile (slotStrip c.slot) c start n p s3

/-- The writes of a store: its elements in ascending order, each with its value (R172). -/
def storeWrites (r : Regs) (c : VCtx) (vd : VOp) (good : List (Nat × List Element)) : List (Place × Nat) :=
  good.flatMap fun g => g.2.map fun (e : Element) => (e.place, srcElem r c.lanes c.b (.reg vd) g.1)

/-- Issue a store, or buffer it in the open strip (R172, R175); `live` says that it has elements from its start index on (R169). -/
def issueStore (s : State) (f : Flight) (p : Probed) (live : Bool) (h : Nat) (ws : List (Place × Nat)) : Except Stop State :=
  let s1 := touchElements s p.elements
  if slotStrip f.env.slot && live && !(p.fault.isSome && p.good.isEmpty) then bufferStore s1 f h p.elements ws
  else issueProbed s1 f p

/-- A plain store: VST, VSTU, VSTS, VSTT, VSTX. -/
def storeBody (i : Instr) (dt : Bool) (m : Addressing) (vd : VOp) (sa : SOp) (sb : Option SOp) (env : Env) (s : State) :
    StreamResult := do
  let c := vctx s env
  accessChecks m c env vd [0, 1] (List.range 8) false (sa :: sb.toList)
  let (base, s1) ← accessSrc sa env.a s
  let (stride, s2) ← match sb with
    | some o => accessSrc o env.b s1
    | none => pure (0, s1)
  let start := startOf m.tile env
  let n := countOf m.tile env
  useAccess c m s2 env.seq vd false start n
  let r := s2.me.r
  let es := if env.vl = 0 then [] else activeElems r c.lanes c.slot start n
  let p ← probeEach s2 env start base 1 c.et false es (fun t => t.fmt c.et == c.et && galleyPair t c.b)
    (elemAddr m r c env base stride) false
  let ws := storeWrites r c vd p.good
  let f := opOf i (taken env base stride) s (boundSpan (handleOf base) p.elements) true (.store ws)
  let s3 ← issueStore s2 f p (decide (start < n)) (handleOf base) ws
  accessDone dt m.tile (slotStrip c.slot) c start n p s3

/-! ## Vector atomics (R168) -/

/-- The combined update of a place by values in ascending element order, with its flags. -/
def combine (fn : Nat) (slot : Word) : List Nat → Nat × FlagSet
  | [] => (0, 0)
  | u :: us => us.foldl (fun c x => let (v, fl) := vamoFn fn slot c.1 x; (v, c.2 ||| fl)) (u, 0)

/-- The combining sets of an access: element group and offset, in ascending order of the sets' first elements. -/
def combiningSets (k : Nat) (good : List (Nat × Nat × Place × Nat)) : List (Place × List Nat) :=
  let key (g : Nat × Nat × Place × Nat) : Nat × Nat := (g.1 / k, g.2.1)
  ((good.map key).eraseDups).map fun q =>
    let set := good.filter fun g => key g == q
    ((set.map fun g => g.2.2.1).headD nullPlace, set.map fun g => g.2.2.2)

/-- A vector atomic. It is never buffered in a strip. -/
def atomicBody (i : Instr) (dt : Bool) (vd : VOp) (sa : SOp) (vi : VOp) (env : Env) (s : State) : StreamResult := do
  let c := vctx s env
  let m : Addressing := { tile := false, strided := false, index := some vi }
  accessChecks m c env vd [0] (List.range 7) false [sa]
  let (base, s1) ← accessSrc sa env.a s
  useAccess c m s1 env.seq vd false env.vstart env.vl
  let r := s1.me.r
  let es := activeElems r c.lanes c.slot env.vstart env.vl
  let p ← probeEach s1 env env.vstart base 2 c.et true es (fun t => t.fmt c.et == c.et) (elemAddr m r c env base 0) false
  let good := p.good.flatMap fun g => g.2.map fun (e : Element) =>
    (g.1, ((elemAddr m r c env base 0 1 g.1).map offsetOf).getD 0, e.place, getElem r vd c.lanes c.b g.1)
  let sets := (combiningSets (groupElems c.lanes c.b) good).map fun q => (q.1, combine (vamoOf i) c.slot q.2)
  let fl : FlagSet := sets.foldl (fun a q => a ||| q.2.2) 0
  let f := opOf i (taken env base 0) s (boundSpan (handleOf base) p.elements) true (.vamo (sets.map fun q => (q.1, q.2.1)))
    (marksOf p.numbered)
  let s2 ← issueProbed (touchElements s1 p.elements) f p
  accessDone dt false false c env.vstart env.vl p (modRegs s2 (raise false fl))

/-! ## VLDB (R165) -/

/-- VLDB. -/
def bcastBody (i : Instr) (vd : VOp) (sa : SOp) (env : Env) (s : State) : StreamResult := do
  let c := { vctx s env with f := 1 }
  accessOk [sa]
  operand vd [1] 1
  ensure (([0, 1, 2, 3, 4, 5, 6, 7, 16, 17, 18, 19] : List Nat).contains c.et && decide (c.vl ≤ 4096 / c.b) &&
    predOk c.slot 1 c.b) cReserved
  let (base, s1) ← accessSrc sa env.a s
  useRegs s1 env.seq (regsOf vd 1)
  let es := activeElems s1.me.r c.lanes c.slot env.vstart env.vl
  let p ← probeEach s1 env env.vstart base 0 c.et true es (fun t => vldbPair t c.et (slotSparse c.slot))
    (fun u e => effAddr? base (e * u : Nat)) true
  let f := opOf i (taken env base 0) s (boundSpan (handleOf base) p.elements) false
    (.vload c.et (p.numbered.map fun x => (x.1, x.2.place))) (marksOf p.numbered)
  let s2 ← issueProbed (touchElements s1 p.elements) f p
  accessDone false false (slotStrip c.slot) c env.vstart env.vl p s2

/-! ## VLDPK (R166, R226) -/

/-- The words that a packed access works on: into w the predicate is ignored (R226). -/
def packWords (r : Regs) (c : VCtx) (env : Env) (whole : Bool) : List Nat :=
  if whole then (List.range (env.vl - env.vstart)).map (env.vstart + ·)
  else activeElems r c.lanes c.slot env.vstart env.vl

/-- The descriptor of R166 keeps its rules; so do the further limits of R226 on a floating-point SFMT and on sparse words. -/
def descriptorOk (forme d : Word) (ratio : Nat) : Bool :=
  field d 1 7 == 0 && pkLen d != 0 && (ratio == 1 || pkLen d % 4 == 0) &&
    (sfmtInt forme ||
      (pkLen d % 32 == 0 && decide (pkLen d ≤ 128) && (32 % fK forme == 0 || pkLen d == 32)))

/-- The target of VLDPK suits the SFMT and SPARSE of its slot (R162, R166, R226). -/
def packTargetOk (forme : Word) (role : Bool) (sparse : Nat) (t : Target) : Bool :=
  match t with
  | .object _ r => pkFmtOk (fSfmt forme) r.fmt && !(role && sparse != 0)
  | .galley _ d =>
    sfmtInt forme && gBits d == sfmtBits forme && (if gKind d = 0 then !(role && sparse != 0) else gKind d == sparse)

/-- The elements whose values a word takes: its fields, or every element of its blocks for a floating-point source. -/
def packElements (forme : Word) (role : Bool) (klen ratio j : Nat) : List (Nat × Nat) :=
  let fs := pkFields forme role klen ratio j
  if sfmtInt forme then fs.filterMap (·.2)
  else (pkBlocks fs).flatMap fun b => (List.range 32).map fun i => (b.1, b.2 * 32 + i)

/-- The outcomes of the plane entries of the elements of a word, for an object with scales (R34, R69). -/
def probePlane (s : State) (t : Target) (h : Nat) (es : List (Except TrapInfo Element)) : List (Except TrapInfo Element) :=
  match t with
  | .object _ r =>
    if r.gsz = 0 then []
    else (elementsOf es).map fun e =>
      match planeElement s (whoMe s) h 0 r e.coord with
      | .ok x => if placeBad s x.place then .error { code := cUncorrectable, info := addrInfo h 0 0 0, coord := x.coord } else .ok x
      | .error (.fault f) => .error f
      | .error .moving => .error { code := cUncorrectable }
  | .galley _ _ => []

/-- The place of a kept value of a sparse galley, and that of its index: value k of a group of four (R99, R226). -/
def keptPlaces (core : Nat) (d : Word) (b off k : Nat) : Place × Place :=
  let p := off / offsetUnit b / 4 * gKeep d + k % gKeep d
  (galleyPlace core d b p, indexPlace core d p)

/-- The outcomes of the fields of a word formed from a sparse galley: each reads a kept value and its index (R226, R322). -/
def probeKept (s : State) (t : Target) (h et : Nat) (base d forme : Word) (ratio j : Nat) : List (Except TrapInfo Element) :=
  let b := t.bits et
  (pkFields forme (pkRole d) (pkLen d) ratio j).zipIdx.filterMap fun x => x.1.2.map fun q =>
    match t, probeOne s t h 0 et false (pkAddr base d (offsetUnit b) q) with
    | .galley _ g, .ok e =>
      let k := keptPlaces s.me.core g b (e.coord.headD 0) (x.2 % fK forme)
      if placeBad s k.1 || placeBad s k.2 then .error { code := cUncorrectable, info := addrInfo h 0 0 0, coord := e.coord }
      else .ok e
    | _, r => r

/-- The outcomes of what word j of VLDPK reads: per block its elements, then their scales. -/
def probeWord (s : State) (t : Target) (h et : Nat) (base d forme : Word) (ratio j : Nat) : List (Except TrapInfo Element) :=
  let u := offsetUnit (t.bits et)
  let one (p : Nat × Nat) : Except TrapInfo Element := probeOne s t h 0 et true (pkAddr base d u p)
  let es := packElements forme (pkRole d) (pkLen d) ratio j
  if ratio ≠ 1 then probeKept s t h et base d forme ratio j
  else if sfmtInt forme ∨ fSfmt forme = 8 then es.map one
  else (List.range (es.length / 32)).flatMap fun b =>
    let block := ((es.drop (32 * b)).take 32).map one
    block ++ probePlane s t h block

/-- Elements back in the places of the fields that named them; a field past KLEN has none. -/
def weave : List (Nat × Option (Nat × Nat)) → List Element → List (Option Element)
  | [], _ => []
  | (_, none) :: fs, es => none :: weave fs es
  | (_, some _) :: fs, e :: es => some e :: weave fs es
  | (_, some _) :: fs, [] => none :: weave fs []

/-- The value and index places of the fields of a word formed from a sparse galley, in the order of the fields (R226). -/
def sparsePlaces (core : Nat) (d forme : Word) (es : List (Option Element)) : List (Place × Place) :=
  es.zipIdx.map fun p => match p.1 with
    | none => (nullPlace, nullPlace)
    | some e => keptPlaces core d (sfmtBits forme) (e.coord.headD 0) (p.2 % fK forme)

/-- What word j reads of a sparse galley: the kept values of its fields and their indices (R226). -/
def keptMarks (core : Nat) (d forme : Word) (j : Nat) (es : List (Option Element)) : List Mark :=
  (es.zip (sparsePlaces core d forme es)).flatMap fun x => match x.1 with
    | none => []
    | some e => [x.2.1, x.2.2].map fun p => { place := p, handle := e.handle, elem := j, coord := e.coord }

/-- Every column of a sparse word keeps the positions of column 0 (R226). -/
def columnsAgree (s : State) (k : Nat) (ps : List (Place × Place)) : Bool :=
  let idx := ps.map fun p => readPlace s p.2 % 4
  idx.zipIdx.all fun p => p.1 == idx.getD (p.2 % k) 0

/-- The places that word j of VLDPK reads, in the order in which it is built. -/
def wordPlaces (s : State) (t : Target) (forme d : Word) (ratio j : Nat) (es : List Element) : List Place :=
  if !sfmtInt forme then es.map (·.place)
  else
    let ws := weave (pkFields forme (pkRole d) (pkLen d) ratio j) es
    match ratio, t with
    | 1, _ => ws.map fun w => (w.map (·.place)).getD nullPlace
    | _, .galley _ g =>
      let ps := sparsePlaces s.me.core g forme ws
      ps.map (·.1) ++ (ps.take (fK forme)).map (·.2)
    | _, .object _ _ => []

/-- A sparse word whose columns differ (R226). -/
def badColumns (s : State) (t : Target) (forme d : Word) (ratio j : Nat) (es : List Element) : Bool :=
  match ratio, t with
  | 1, _ => false
  | _, .galley _ g => !columnsAgree s (fK forme)
      (sparsePlaces s.me.core g forme (weave (pkFields forme (pkRole d) (pkLen d) ratio j) es))
  | _, .object _ _ => false

/-- The side groups that the words of a floating-point VLDPK write are usable (R221, R226). -/
def packSides (t : Tile) (d base : Word) (eu : Nat) (vd : List RegName) (js : List Nat) : Bool :=
  t.base != 0 && ((js.map fun j => pkGroup t.f (pkRole d) (pkLen d) eu j base).eraseDups).all fun k => t.sideOk k vd

/-- Every address of the elements of a word is formed: the base, or none (R131, R163). -/
def formed (forme base d : Word) (es : List (Nat × Nat)) : Option Word :=
  let u := if fSfmt forme = 8 then 2 else offsetUnit (sfmtBits forme)
  if es.all fun q => (pkAddr base d u q).isSome then some base else none

/-- VLDPK. -/
def packBody (i : Instr) (dt : Bool) (vd : VOp) (sa sb : SOp) (env : Env) (s : State) : StreamResult := do
  let c := vctx s env
  accessOk [sa, sb]
  operand vd tVW c.f
  let whole := tierOf vd == 1
  ensure (c.et == 7 && !formeNull env.forme && predOk c.slot c.f c.b &&
    (if whole then decide (env.vl ≤ 16) else decide (c.vl ≤ vlmaxBits c.lanes c.f c.b))) cReserved
  let (base, s1) ← accessSrc sa env.a s
  let (d, s2) ← accessSrc sb env.b s1
  let role := pkRole d
  let ratio := if role then slotRatio c.slot else 1
  let tile := tileOf c.lanes c.slot env.forme env.vl
  ensure (descriptorOk env.forme d ratio && (!whole || role) && !sparseRefused env.forme c.slot) cReserved
  let dst := regsOf vd c.f
  let r := s2.me.r
  let js := packWords r c env whole
  ensure (sfmtInt env.forme || packSides tile d base (if fSfmt env.forme = 8 then 2 else 1) dst js) cReserved
  let side := packSideRegs tile env.forme
  useParts s2 env.seq (dst ++ side)
    ((groupBits vd c.lanes c.f 256 env.vstart env.vl).map (fun x => (x.1, if x.2 = 0 then 0 else 0xFF)) ++ wholeBits side)
  let et := sfmtType (fSfmt env.forme)
  let h := handleOf base
  let p ← match js with
    | [] => pure { target := none, good := [], fault := none }
    | j0 :: _ =>
      probeFrom env env.vstart
        (openTarget s2 h 0 true j0 (formed env.forme base d (packElements env.forme role (pkLen d) ratio j0))
          (packTargetOk env.forme role (slotSparse c.slot))) fun t =>
        let (good, fault) := probeAll (fun j => probeWord s2 t h et base d env.forme ratio j) js
        match good.find? fun g => badColumns s2 t env.forme d ratio g.1 g.2 with
        | some g => .error (.trap { code := cReserved, elem := g.1, info := wordOfNat h })
        | none => settleProbe env env.vstart (some t) good fault
  let fmt := (p.target.map fun (t : Target) => t.fmt et).getD et
  let ps := match p.target with
    | none => []
    | some t => p.good.flatMap fun g =>
        let l := wordPlaces s2 t env.forme d ratio g.1 g.2
        (if l.isEmpty then [nullPlace] else l).map fun (x : Place) => (g.1, x)
  let marks := match p.target with
    | some (.galley _ g) => if ratio = 1 then marksOf p.numbered else p.good.flatMap fun x =>
        keptMarks s2.me.core g env.forme x.1 (weave (pkFields env.forme role (pkLen d) ratio x.1) x.2)
    | _ => marksOf p.numbered
  let f := opOf i (taken env base d) s (boundSpan h p.elements) false (.vload fmt ps) marks
  let s3 ← issueProbed (touchElements s2 p.elements) f p
  accessDone (dt && !whole) false (slotStrip c.slot) c env.vstart env.vl p s3

/-! ## VSTPK (R167) -/

/-- The words that VSTPK stores: those of a v group, or those of lane 0 of a w register (log 25). -/
def packedSource (r : Regs) (c : VCtx) (vd : VOp) (j : Nat) : Nat :=
  match vd with
  | .w n => getLaneW r n.val c.lanes 0 (256 * j) 256
  | o => getElem r o c.lanes 256 j

/-- A value of a field in the memory format, with the flags of its conversion (R45, R167). -/
def unpackTo (fmt : Nat) (sat : Bool) (v : Int) : Nat × FlagSet :=
  match ifmt fmt with
  | some (sg, w) => fitInt sg w sat v
  | none => (0, 0)

/-- VSTPK. -/
def unpackBody (i : Instr) (dt : Bool) (vd : VOp) (sa sb : SOp) (env : Env) (s : State) : StreamResult := do
  let c := vctx s env
  accessOk [sa, sb]
  operand vd tVW c.f
  ensure (c.et == 7 && !formeNull env.forme && sfmtInt env.forme && predOk c.slot c.f c.b &&
    (if tierOf vd == 1 then decide (env.vl ≤ 16) else decide (c.vl ≤ vlmaxBits c.lanes c.f c.b))) cReserved
  let (base, s1) ← accessSrc sa env.a s
  let (d, s2) ← accessSrc sb env.b s1
  let role := pkRole d
  ensure (field d 1 7 == 0 && pkLen d != 0 && !sparseRefused env.forme c.slot) cReserved
  useParts s2 env.seq (regsOf vd c.f) (groupBits vd c.lanes c.f 256 env.vstart env.vl)
  let r := s2.me.r
  let js := activeElems r c.lanes c.slot env.vstart env.vl
  let et := sfmtType (fSfmt env.forme)
  let h := handleOf base
  let places (j : Nat) : List (Nat × (Nat × Nat)) :=
    (pkFields env.forme role (pkLen d) 1 j).filterMap fun q => q.2.map fun x => (q.1, x)
  let p ← match js with
    | [] => pure { target := none, good := [], fault := none }
    | j0 :: _ =>
      probeFrom env env.vstart (openTarget s2 h 1 false j0 (formed env.forme base d ((places j0).map (·.2)))
        (packTargetOk env.forme false (slotSparse c.slot))) fun t =>
        let u := offsetUnit (t.bits et)
        let (good, fault) := probeAll (fun j => (places j).map fun q => probeOne s2 t h 1 et false (pkAddr base d u q.2)) js
        settleProbe env env.vstart (some t) good fault
  let fmt := (p.target.map fun (t : Target) => t.fmt et).getD et
  let out := p.good.flatMap fun g =>
    let w := packedSource r c vd g.1
    ((places g.1).zip g.2).map fun q => (q.2.place, unpackTo fmt (slotSat c.slot) (unpackField env.forme w q.1.1))
  let ws := out.map fun q => (q.1, q.2.1)
  let fl : FlagSet := out.foldl (fun a q => a ||| q.2.2) 0
  let f := opOf i (taken env base d) s (boundSpan h p.elements) true (.store ws)
  let s3 ← issueStore s2 f p (decide (env.vstart < env.vl)) h ws
  accessDone dt false (slotStrip c.slot) c env.vstart env.vl p (modRegs s3 (raise (slotStrip c.slot) fl))

/-! ## The pin (R76, R313) -/

/-- Consecutive elements. -/
def unitStride : Addressing := { tile := false, strided := false, index := none }
/-- Elements at a stride. -/
def strideMode : Addressing := { tile := false, strided := true, index := none }
/-- A tile. -/
def tileMode : Addressing := { tile := true, strided := false, index := none }
/-- Indexed elements. -/
def indexMode (vi : VOp) : Addressing := { tile := false, strided := false, index := some vi }

/-- The translation that an armed access pins: that of the sub-tile at an address, for an element at a start index. -/
def pinAt (s : State) (pc base : Word) (start : Nat) (addr : Nat → Option Word) : Option Pin :=
  let h := handleOf base
  let w := { whoMe s with pin := none }
  if (galleyOf h).isSome then none
  else match lookupRecord s w h 0 with
    | .error _ => none
    | .ok r =>
      let u := offsetUnit r.bits
      match addr u with
      | none => none
      | some a =>
        let sub := imageOffset r (coordOf (r.dims.map r.shape) (offsetOf a / u)) * r.bits / 8 / 65536
        some { pc := pc, start := start, handle := h, sub := sub, frame := mapEntry s w h r sub, words := r }

/-- The pin of the element at the start index of a plain access. -/
def pinPlain (s : State) (env : Env) (m : Addressing) (base second : Word) : Option Pin :=
  let start := startOf m.tile env
  pinAt s env.pc base start fun u => elemAddr m s.me.r (vctx s env) env base second u start

/-- The words of a packed access stand for the dense positions of a sparse slot: those of VLDPK in role 1 (R167, R226). -/
def packRatio (i : Instr) (env : Env) (d : Word) : Nat :=
  match i with
  | .vldpk _ _ _ _ _ => if pkRole d then slotRatio env.slot else 1
  | _ => 1

/-- The pin of the word at the start index of a packed access: its first address. -/
def pinPacked (s : State) (i : Instr) (env : Env) (base d : Word) : Option Pin :=
  let ratio := packRatio i env d
  pinAt s env.pc base env.vstart fun u =>
    ((pkFields env.forme (pkRole d) (pkLen d) ratio env.vstart).filterMap (·.2)).head?.bind (pkAddr base d u)

/-- The slot and the scalar fields of a vector access. -/
def accessFields : Instr → Option (Fin 8 × SOp × Option SOp)
  | .vld _ g _ sa => some (g, sa, none)
  | .vlds _ g _ sa sb => some (g, sa, some sb)
  | .vldt _ g _ sa => some (g, sa, none)
  | .vldx _ g _ sa _ => some (g, sa, none)
  | .vldb g _ sa => some (g, sa, none)
  | .vldpk _ g _ sa sb => some (g, sa, some sb)
  | .vst _ g _ sa => some (g, sa, none)
  | .vstu _ g _ sa => some (g, sa, none)
  | .vsts _ g _ sa sb => some (g, sa, some sb)
  | .vstt _ g _ sa => some (g, sa, none)
  | .vstx _ g _ sa _ => some (g, sa, none)
  | .vstpk _ g _ sa sb => some (g, sa, some sb)
  | .vamoadd _ g _ sa _ => some (g, sa, none)
  | .vamomax _ g _ sa _ => some (g, sa, none)
  | .vamomin _ g _ sa _ => some (g, sa, none)
  | _ => none

/-- How a plain access addresses its elements; none for a packed one. -/
def addressing : Instr → Option Addressing
  | .vlds _ _ _ _ _ => some strideMode
  | .vsts _ _ _ _ _ => some strideMode
  | .vldt _ _ _ _ => some tileMode
  | .vstt _ _ _ _ => some tileMode
  | .vldx _ _ _ _ vi => some (indexMode vi)
  | .vstx _ _ _ _ vi => some (indexMode vi)
  | .vamoadd _ _ _ _ vi => some (indexMode vi)
  | .vamomax _ _ _ _ vi => some (indexMode vi)
  | .vamomin _ _ _ _ vi => some (indexMode vi)
  | .vldpk _ _ _ _ _ => none
  | .vstpk _ _ _ _ _ => none
  | _ => some unitStride

/-- The pin of an armed access, under what it captures; its queue entries are those that it will pop (R111). -/
def pinFor (s : State) (i : Instr) (env : Env) : Option Pin :=
  match accessFields i with
  | none => none
  | some (_, sa, sb) =>
    match (do
      let (base, s1) ← accessSrc sa env.a s
      let (second, _) ← match sb with
        | some o => accessSrc o env.b s1
        | none => pure (0, s1)
      return (base, second) : Except Stop (Word × Word)) with
    | .error _ => none
    | .ok (base, second) =>
      match addressing i with
      | some m => pinPlain s env m base second
      | none => pinPacked s i env base second

/-- Run a vector memory instruction. An armed one that has to wait pins the element at its start index, unless it does already. -/
def runAccess (i : Instr) (mem : Nat) (tile : Bool) (g : Fin 8) (sa : SOp) (sb : Option SOp)
    (body : Env → State → StreamResult) (s : State) : Out :=
  match runStream i mem tile g (some sa) sb body s with
  | .next t =>
    match t.me.flights.find? fun f => f.parked && f.seq == s.me.nextSeq && f.env.armed && s.me.replay.isNone with
    | some f => .next (modMe t fun h => { h with pin := h.pin.or (pinFor s i f.env) })
    | none => .next t
  | o => o

/-- Run a plain load. -/
def runLoad (i : Instr) (dt : Bool) (g : Fin 8) (m : Addressing) (vd : VOp) (sa : SOp) (sb : Option SOp) (s : State) : Out :=
  runAccess i 1 m.tile g sa sb (loadBody i dt m vd sa sb) s

/-- Run a plain store. -/
def runStore (i : Instr) (dt : Bool) (g : Fin 8) (m : Addressing) (vd : VOp) (sa : SOp) (sb : Option SOp) (s : State) : Out :=
  runAccess i 2 m.tile g sa sb (storeBody i dt m vd sa sb) s

/-- Run a vector atomic. -/
def runAtomic (i : Instr) (dt : Bool) (g : Fin 8) (vd : VOp) (sa : SOp) (vi : VOp) (s : State) : Out :=
  runAccess i 2 false g sa none (atomicBody i dt vd sa vi) s

/-- VLD (R163). -/
def execVld (dt : Bool) (g : Fin 8) (vd : VOp) (sa : SOp) (s : State) : Out :=
  runLoad (.vld dt g vd sa) dt g unitStride vd sa none s
/-- VLDS (R163). -/
def execVlds (dt : Bool) (g : Fin 8) (vd : VOp) (sa sb : SOp) (s : State) : Out :=
  runLoad (.vlds dt g vd sa sb) dt g strideMode vd sa (some sb) s
/-- VLDT (R164). -/
def execVldt (dt : Bool) (g : Fin 8) (vd : VOp) (sa : SOp) (s : State) : Out :=
  runLoad (.vldt dt g vd sa) dt g tileMode vd sa none s
/-- VLDX (R163). -/
def execVldx (dt : Bool) (g : Fin 8) (vd : VOp) (sa : SOp) (vi : VOp) (s : State) : Out :=
  runLoad (.vldx dt g vd sa vi) dt g (indexMode vi) vd sa none s
/-- VLDB (R165). -/
def execVldb (g : Fin 8) (vd : VOp) (sa : SOp) (s : State) : Out :=
  runAccess (.vldb g vd sa) 1 false g sa none (bcastBody (.vldb g vd sa) vd sa) s
/-- VLDPK (R166, R226). -/
def execVldpk (dt : Bool) (g : Fin 8) (vd : VOp) (sa sb : SOp) (s : State) : Out :=
  runAccess (.vldpk dt g vd sa sb) 1 false g sa (some sb) (packBody (.vldpk dt g vd sa sb) dt vd sa sb) s
/-- VST (R172). -/
def execVst (dt : Bool) (g : Fin 8) (vd : VOp) (sa : SOp) (s : State) : Out :=
  runStore (.vst dt g vd sa) dt g unitStride vd sa none s
/-- VSTU (R172): its elements perform in no fixed order; the model performs them in ascending order (log 2). -/
def execVstu (dt : Bool) (g : Fin 8) (vd : VOp) (sa : SOp) (s : State) : Out :=
  runStore (.vstu dt g vd sa) dt g unitStride vd sa none s
/-- VSTS (R163). -/
def execVsts (dt : Bool) (g : Fin 8) (vd : VOp) (sa sb : SOp) (s : State) : Out :=
  runStore (.vsts dt g vd sa sb) dt g strideMode vd sa (some sb) s
/-- VSTT (R164). -/
def execVstt (dt : Bool) (g : Fin 8) (vd : VOp) (sa : SOp) (s : State) : Out :=
  runStore (.vstt dt g vd sa) dt g tileMode vd sa none s
/-- VSTX (R163). -/
def execVstx (dt : Bool) (g : Fin 8) (vd : VOp) (sa : SOp) (vi : VOp) (s : State) : Out :=
  runStore (.vstx dt g vd sa vi) dt g (indexMode vi) vd sa none s
/-- VSTPK (R167). -/
def execVstpk (dt : Bool) (g : Fin 8) (vd : VOp) (sa sb : SOp) (s : State) : Out :=
  runAccess (.vstpk dt g vd sa sb) 2 false g sa (some sb) (unpackBody (.vstpk dt g vd sa sb) dt vd sa sb) s
/-- VAMOADD (R168). -/
def execVamoadd (dt : Bool) (g : Fin 8) (vd : VOp) (sa : SOp) (vi : VOp) (s : State) : Out :=
  runAtomic (.vamoadd dt g vd sa vi) dt g vd sa vi s
/-- VAMOMAX (R168). -/
def execVamomax (dt : Bool) (g : Fin 8) (vd : VOp) (sa : SOp) (vi : VOp) (s : State) : Out :=
  runAtomic (.vamomax dt g vd sa vi) dt g vd sa vi s
/-- VAMOMIN (R168). -/
def execVamomin (dt : Bool) (g : Fin 8) (vd : VOp) (sa : SOp) (vi : VOp) (s : State) : Out :=
  runAtomic (.vamomin dt g vd sa vi) dt g vd sa vi s

end Sys2Proof.Machine
end

