-- ==== Sys2Proof/Machine/System.lean ====
section
/-! DEFINITION. Traps that a program asks for, the return from a trap, asynchronous causes, flags and counters, the bank swap
and NOP (R128, R256 to R259, R263, R264, R308 to R310, R316). -/

namespace Sys2Proof.Machine

/-- TRAP (R256). -/
def execTrap (n : BitVec 5) (s : State) : Out :=
  .next (stopAt s (.trap { code := cSoftware, info := wordOfNat n.toNat }) none)

/-- BREAK (R256). -/
def execBrk (s : State) : Out := .next (stopAt s (.trap { code := cBreak }) none)

/-- The vector access that the hart in focus is to execute again in progress mode, with what it captures: one that waits to start, or
the instruction at the pc (R308, R312). -/
def armedAccess (s : State) : Option (Instr × Env) :=
  match s.me.flights.find? fun f => f.parked && f.env.armed with
  | some f => some (f.instr, f.env)
  | none =>
    if !s.me.r.armed then none
    else match nextWord s with
      | .error _ => none
      | .ok (w, t) =>
        match decode w with
        | .error _ => none
        | .ok i =>
          match accessFields i with
          | none => none
          | some (g, sa, sb) =>
            match dispatchEnv t g (some sa) sb with
            | .ok env => some (i, env)
            | .error _ => none

/-- The hart in focus takes the pin of the access that it is to execute again (R76, R313). -/
def takePin (s : State) : State :=
  match armedAccess s with
  | none => s
  | some (i, env) => modMe s fun h => { h with pin := pinFor s i env }

/-- ERET (R257, R308). -/
def execEret (s : State) : Out :=
  finish s do
    noBody s
    ensure (bitAt (vget s.me.r.frame 0x14 0) 0) cPrivilege
    holds (!anyParked s) .earlier
    return takePin (returnFromTrap s)

/-- The held cause of the lowest code (R310). -/
def lowestAsync (l : List Async) : Option Async :=
  l.foldl (fun m a => match m with
    | none => some a
    | some b => if a.code < b.code then some a else some b) none

/-- ASYNC_TRAP: the lowest held cause is taken at the boundary at which the hart in focus stands; instructions that wait to
start are discarded and execute again (R304, R309, R310). -/
def execAsyncTrap (s : State) : Out :=
  match lowestAsync s.me.asyncs with
  | none => eventOut s none
  | some a =>
    if !asyncReady s.me then eventOut s none
    else if vectorMoving s a.code then .next (modMe s fun h => { h with wait := some .moving })
    else
      let s1 := match firstUnsettled s.me with
        | some f => rollback f s
        | none => s
      let s2 := modMe s1 fun h => { h with asyncs := h.asyncs.erase a }
      .next (takeTrap s2 { code := a.code, elem := a.elem, info := a.info } true false false)

/-- FLAGCLR (R263). -/
def execFlagclr (sd sa : SOp) (s : State) : Out :=
  finish s do
    legal [sa] [sd]
    let (a, s1) ← readSrc sa s
    flagsSettled s1
    let s2 ← writeDst sd (0#57 ++ s.me.r.fflags : Word) s1
    return retire (modRegs s2 fun r => { r with fflags := r.fflags &&& ~~~(BitVec.ofNat 7 a.toNat) })

/-- A counter that counts at commit (R264). -/
def atCommit (n : Nat) : Bool := n == 1 || n == 2 || n == 3 || n == 7

/-- Read a counter (R264). -/
def readCounter (n : Nat) (s : State) : Except Stop (Word × State) :=
  let h := s.me
  let c := getCore s h.core
  let die (f : Mcb → Nat) : Word := ((s.dies[dieOf h.core]?).map fun d => wordOfNat (f d.mcb)).getD 0
  match n with
  | 0 => .ok (readCycles s (clusterOf h.core))
  | 1 => .ok (h.r.retired, s)
  | 2 => .ok (c.nanenc, s)
  | 3 => .ok (c.headroom, s)
  | 4 => .ok (die fun m => m.alerts.toNat, s)
  | 5 => .ok (die fun m => m.refreshes.toNat, s)
  | 6 => .ok (c.sramce, s)
  | 7 => .ok (c.dtskip, s)
  | 8 => .ok (c.swaps, s)
  | _ => trapOf cMode

/-- CTRRD (R264). A counter that counts at commit waits for what is earlier in the hart; behind an MMAU that waits for a PROOF after both it
takes STRIPSTATE (log 67). -/
def execCtrrd (sd sa : SOp) (s : State) : Out :=
  finish s do
    legal [sa] [sd]
    let (a, s1) ← readSrc sa s
    let (v, s2) ← readCounter a.toNat s1
    ensure (!(atCommit a.toNat && anyStuck s1 isMmau)) cStripState
    holds (!(atCommit a.toNat && anyParked s1)) .earlier
    let s3 ← writeDst sd v s2
    return retire s3

/-- NOP: the words of opcode 0 with all fields, and the hints (R128). -/
def execNop (_bits : BitVec 27) (s : State) : Out := .next (retire s)

/-! ## The banks of a core -/

/-- The queue from which an MMAU takes its offset (R231). -/
def offsetQueue : Instr → Option (Fin 8)
  | .mmau _ _ _ (.q k) _ => some k
  | _ => none

/-- An MMAU that has issued and waits for its predecessors is abandoned with nothing done: it waits to start again, and what it had popped
stands at the head of its queue (R111, R233). -/
def abandonMmau (h : Hart) (f : Flight) : Hart :=
  let g : Flight :=
    { f with env := { f.env with a := 0 }, parked := true, checked := false, why := none, action := .store [], marks := [], lost := [] }
  let h := uncount f.stream { h with flights := h.flights.map fun x => if x.seq = f.seq then g else x }
  match offsetQueue f.instr with
  | none => h
  | some k => landRegs h f.seq fun r => { r with q := r.q.set k (f.env.a :: r.q[k]) }

/-- A hart stops at a boundary: a wait is abandoned, with what it has popped returned, and its pin is released; an MMAU that waits for its
predecessors is abandoned, the youngest first, and instructions that wait to start travel with the bank and try again when it is back
(R111, R233, R243, R258, R313). -/
def abandon (h : Hart) : Hart :=
  let h := { unpopHart h with wait := none, replay := none, pin := none }
  ((h.flights.filter fun f => !f.parked && isMmau f).mergeSort fun x y => decide (y.seq ≤ x.seq)).foldl abandonMmau h

/-- A hart that leaves has an MMAU in flight past its ordering predecessors: the exchange waits for its boundary (R215, R233,
R258). -/
def mmaInFlight (s : State) (core : Nat) : Bool :=
  (allHarts s).any fun h => h.core == core && h.bank == .active && h.flights.any fun f =>
    !f.parked && isMmau f && canPerform s h f

/-- A bank loads the descriptor of its context (R285). -/
def loadDescriptor (s : State) (h : Hart) : Hart :=
  let w1 := descWord s h.ctx 1
  { h with otb := ctxOtb s h.ctx, gmask := ctxGmask s h.ctx, rswap := bitAt w1 32, rtable := bitAt w1 33, trapv := descWord s h.ctx 2 }

/-- The descriptors of the contexts of the shadow bank of a core are read: a correctable error in them is corrected (R58, R285). -/
def correctDescriptors (s : State) (core : Nat) : State :=
  let ctxs := (((allHarts s).filter fun h => h.core == core && h.bank == .shadow && h.hid != 0).map (·.ctx)).eraseDups
  ctxs.foldl (fun s c => correctRange s (descAddr s c) 24) s

/-- The harts in the active bank of a core pin what the instruction needs at which they go on, where progress has been made (R313). -/
def takePins (s : State) (core : Nat) : State :=
  modHarts s fun h => if h.core = core ∧ h.bank = .active ∧ h.hid ≠ 0 then (takePin { s with me := h }).me else h

/-- The banks of a core are exchanged: its harts stop at their boundaries, and those of the shadow bank load their descriptor
and go on at theirs (R258, R285, R316). A bank that nothing has left is free; one that becomes clean without an image is kept (R317). -/
def exchange (s : State) (core : Nat) : State :=
  let swap (h : Hart) : Hart :=
    if h.core ≠ core ∨ h.hid = 0 then h
    else match h.bank with
      | .active => { abandon h with bank := .shadow }
      | .shadow => { loadDescriptor s h with bank := .active }
      | .image => h
  let out := (allHarts s).any fun h => h.core == core && h.bank == .active
  let e := ((s.dies[dieOf core]?).map (·.evals)).getD 0
  let area := bitAt s.unit.spill 39
  let t := modCore (modHarts (wakeCluster (correctDescriptors s core) (clusterOf core)) swap) core fun c =>
    { c with shadow := if !out then .free else if area then .spilling else .clean, kept := out && !area, swapAsked := none,
             swaps := c.swaps + 1, arrived := e + 1 }
  startFill (takePins t core) core

/-- SWAPCTX (R258). -/
def execSwapctx (s : State) : Out :=
  finish s do
    noBody s
    ensure s.me.rswap cPrivilege
    let c := getCore s s.me.core
    ensure (c.shadow != .free) cNoContext
    holds (c.shadow == .clean) .bank
    let s ← firm s
    holds (!mmaInFlight s s.me.core) .bank
    return exchange (retire s) s.me.core

/-- SPILLWAIT (R259). -/
def execSpillwait (s : State) : Out :=
  finish s do
    holds ((getCore s s.me.core).shadow != .spilling) .bank
    return retire s

/-- BANK_EXCHANGE: a swap that the unit has asked for takes place once no spill or fill of the shadow bank is under way and no MMAU is
in flight (R215, R294, R316). -/
def execBankExchange (core : Nat) (s : State) : Out :=
  eventOut s (if swapPending s core && !mmaInFlight s core then some (exchange s core) else none)

/-- SPILL_DONE (R316). -/
def execSpillDone (core : Nat) (s : State) : Out :=
  eventOut s (if (getCore s core).shadow = .spilling then some (modCore s core fun c => { c with shadow := .clean })
    else none)

/-- BANK_FILL_DONE: the image of a context of the core, or what the unit launches onto it, is loaded into the shadow bank (R294,
R316, R317). -/
def execBankFillDone (core ctx : Nat) (s : State) : Out :=
  let here (h : Hart) : Bool := h.core == core && h.ctx == ctx && h.bank == .shadow
  eventOut s (
    if (getCore s core).shadow == .filling && (allHarts s).any here then
      some (resumeShadow (modCore s core fun c => { c with shadow := .clean, kept := false }) core)
    else none)

end Sys2Proof.Machine
end

