-- ==== Sys2Proof/Machine/Imposition.lean ====
section
/-! DEFINITION. The imposition unit: doorbells, slots and intake (R290, R293, R361 to R363), dependency counting (R288, R289),
conditional, transform and collective nodes (R287, R291, R292), and the placement of kernels (R294, R295, R301). -/

namespace Sys2Proof.Machine

/-! ## Software queues (R361) -/

/-- The number of queues. -/
def queueCount (s : State) : Nat := Nat.min 4096 (field s.unit.qtab 39 13)

/-- The address of the descriptor of a queue. -/
def queueAddr (s : State) (q : Nat) : Nat := field s.unit.qtab 0 39 * 256 + 32 * q

/-- A word of the descriptor of a queue; one that is known bad reads as zero (R59, R361, log 22). -/
def queueWord (s : State) (q k : Nat) : Word :=
  let a := queueAddr s q + 8 * k
  if rangeBad s a 8 then 0 else wordOfNat (readPhys s a 8)

/-- What the unit keeps of a queue. -/
def findQueue (s : State) (q : Nat) : Option QueueInfo := s.unit.queues.find? fun i => i.queue == q

/-- Forget a queue. -/
def dropQueue (s : State) (q : Nat) : State := modUnit s fun u => { u with queues := u.queues.filter fun i => i.queue != q }

/-- Keep something of a queue, in its place among those that wait, or at the end of the line. -/
def keepQueue (s : State) (i : QueueInfo) : State :=
  modUnit s fun u =>
    if u.queues.any fun j => j.queue == i.queue then
      { u with queues := u.queues.map fun j => if j.queue = i.queue then i else j }
    else { u with queues := u.queues ++ [i] }

/-- A doorbell or a record is logged; word 1 of a doorbell's entry is not given (R364, log 6). -/
def logDoorbell (s : State) (q : Nat) : State :=
  let (w, s) := openWord s
  logEntry s 1 0 0 q w 0 0

/-- IU_DOORBELL (R362). It comes once the descriptor waits for no back-off window (R57); a word of it in registered text stays as it is
(R346, log 93). -/
def execIuDoorbell (val : Word) (s : State) : Out :=
  let q := field val 0 12
  let tail := field val 12 32
  let a := queueAddr s q
  let w0 := queueWord s q 0
  let w1 := queueWord s q 1
  let head := field w1 0 32
  let empty := head == field w1 32 32
  let bare := putField w0 45 1 0
  let n := field w0 39 5
  let copy := if empty then bare else ((findQueue s q).map (·.word0)).getD bare
  eventOut s (if queueCount s ≤ q then some (logDoorbell s q) else if rangeHeld s a 16 then none else
    let s := correctRange s a 16
    some <|
    if !bitAt w0 44 then logDoorbell s q
    else if bitAt w0 45 then
      (if tail = head then dropQueue (writeOpen (writeOpen s a 8 bare.toNat) (a + 12) 4 tail) q else s)
    else if n = 0 ∨ 16 < n ∨ bare ≠ copy ∨ 2 ^ n < (tail + 2 ^ 32 - head) % 2 ^ 32 then
      logDoorbell (dropQueue (writeOpen s a 8 (putField w0 45 1 1).toNat) q) q
    else
      let s1 := writeOpen s (a + 12) 4 tail
      if tail = head then dropQueue s1 q
      else keepQueue s1 (((findQueue s q).map fun i => { i with word0 := copy }).getD
        { queue := q, word0 := copy, work := true, slot := false, whole := false }))

/-- Hardware slots in use (R293). -/
def slotsUsed (s : State) : Nat := (s.unit.queues.filter (·.slot)).length

/-- QUEUE_SLOT_GRANT: the queue that has waited longest takes a free slot (R293). -/
def execQueueSlotGrant (queue : Nat) (s : State) : Out :=
  eventOut s <| match s.unit.queues.find? fun i => i.work && !i.slot with
  | some i => if i.queue = queue ∧ slotsUsed s < 64 then some (keepQueue s { i with slot := true, whole := false }) else none
  | none => none

/-- TIMESLICE_END: while queues wait, those that held their slots for a whole timeslice give them up to the longest-waiting; kernels that
wait for cores have waited through its end (R293, R294). -/
def execTimesliceEnd (s : State) : Out :=
  let qs := s.unit.queues
  let waits := qs.any fun i => i.work && !i.slot
  let gone (i : QueueInfo) : Bool := waits && i.slot && i.whole
  let line := (qs.filter fun i => !gone i) ++ (qs.filter gone).map fun i => { i with slot := false, whole := false }
  let fill (acc : Nat × List QueueInfo) (i : QueueInfo) : Nat × List QueueInfo :=
    if i.slot then (acc.1, acc.2 ++ [{ i with whole := true }])
    else if i.work && decide (0 < acc.1) && !(qs.any fun j => j.queue == i.queue && gone j) then
      (acc.1 - 1, acc.2 ++ [{ i with slot := true, whole := true }])
    else (acc.1, acc.2 ++ [i])
  let free := 64 - (line.filter (·.slot)).length
  let qs' := if waits then (line.foldl fill (free, [])).2 else qs.map fun i => { i with whole := i.slot }
  .next (modUnit s fun u =>
    { u with queues := qs', nodes := u.nodes.map fun n => if n.st = .ready then { n with slices := n.slices + 1 } else n })

/-! ## Nodes that run on a copy engine (R287) -/

/-- The slot under which a transform or a collective node runs. -/
def nodeSlot : Word := wordOfNat (1 <<< 18 + 6 <<< 34)

/-- The copy registers of a node (R286). -/
def nodeLatch (r : Vector Word 16) : Vector Word 16 := Vector.ofFn fun i => if i.val < 12 then recWord r (4 + i.val) else 0

/-- A transform or a collective node ends with a status before it launches anything; the node completes by NODE_COMPLETE. -/
def nodeStatus (s : State) (n : Node) (code : Nat) : State :=
  setNode s { n with st := .ending 1, status := statusWord code 0 0 0, flags := 0 }

/-- The status with which a galley that a node names refuses the launch (R287). -/
def nodeGalley (s : State) (ctx core : Nat) (a : Word) (into : Bool) : Except Nat (Option Nat) :=
  match galleyOf (handleOf a) with
  | none => .ok none
  | some id =>
    let st := gState (galley s core id)
    if !galleyUsable s ctx core (ctxGmask s ctx) id then .error 0x10
    else if (if into then st == 1 || st == 2 else st == 3 || st == 4) then .ok (some id)
    else .error 0x1B

/-- The transfer of a node. -/
def nodeTransfer (s : State) (n : Node) (kind : TransferKind) (gsrc gdst : Option Nat) : Transfer :=
  let cl := nodeClu n.record
  { uid := s.nextUid, kind := kind, owner := none, ctx := n.ctx, node := some n.id, core := 16 * cl, cluster := cl, lanes := 32,
    otb := ctxOtb s n.ctx, tid := 0, se := 0, latch := nodeLatch n.record, slot := nodeSlot, seq := 0, stream := 0, pmask := 1,
    scope := 6, spans := [], gsrc := gsrc, gdst := gdst, done := [], failed := [], ended := none, cancelled := false, flags := 0,
    draining := false, copying := false, index := 0, staged := false, vregs := [], lens := none, ahead := [], prepared := [], moved := none,
    dests := [] }

/-- Launch a transform node, or a collective one where the die may run one more COLL (R105, R287); the cluster is woken (R381). -/
def launchNode (s : State) (n : Node) : State :=
  let coll := nodeKind n.record == 2
  let l := nodeLatch n.record
  let cl := nodeClu n.record
  let core := 16 * cl
  let s := wakeCluster s cl
  let w : Who := { ctx := n.ctx, otb := ctxOtb s n.ctx, core := some core, pin := none }
  let reads := if coll then readsSource l else cMode_ l != 1
  let writes := if coll then writesDest l else !cRegs l
  if coll ∧ 4 ≤ collsOnDie s (dieOf core) then setNode s { n with st := .ready }
  else
    match (do
      let a ← if reads then nodeGalley s n.ctx core (cw l 0) false else .ok none
      let b ← if writes then nodeGalley s n.ctx core (cw l 1) true else .ok none
      return (a, b) : Except Nat (Option Nat × Option Nat)) with
    | .error c => nodeStatus s n c
    | .ok (gsrc, gdst) =>
      let bad := if coll then badColl s w core 32 l || cRegs l else badCopy s w (ctxGmask s n.ctx) core 32 l nodeSlot false
      if bad then nodeStatus s n 0x19
      else
        let t := nodeTransfer s n (if coll then .coll else .copy) gsrc gdst
        let s := match gdst with
          | some g => setGState s core g 2
          | none => s
        let s := setNode { s with transfers := s.transfers ++ [t], nextUid := s.nextUid + 1 } { n with st := .running }
        if coll then enterColl s w t else s

/-! ## Dependency counting (R288) -/

/-- The counter of a node has reached 0: it is ready, and a transform or collective node starts; or it is skipped (R288). -/
def reachZero (s : State) (n : Node) : State :=
  if !n.anyReal then refuseNode s n 2
  else
    let n := { n with st := .ready }
    if nodeKind n.record = 1 ∨ nodeKind n.record = 2 then launchNode s n else setNode s n

/-- A fresh entry of the node table. -/
def newNode (ctx id : Nat) (r : Vector Word 16) (st : NodeState) : Node :=
  { ctx := ctx, id := id, record := r, counter := 0, anyReal := false, st := st, ended := 0, groups := [], branch := false,
    status := 0, flags := 0, slices := 0 }

/-- The node table has room (R284). -/
def tableFree (s : State) : Bool := decide (s.unit.nodes.length < 16384)

/-- DECREMENT: a decrement that has been sent reaches its node; the one that brings the counter to 0 waits while the colophon's object
moves (R79, R288). -/
def execDecrement (ctx node : Nat) (real : Bool) (s : State) : Out :=
  eventOut s <|
    if !s.unit.decs.contains (ctx, node, real) then none
    else
      let s1 := modUnit s fun u => { u with decs := u.decs.erase (ctx, node, real) }
      match findNode s1 ctx node with
      | none =>
        if tableFree s1 then
          some (modUnit s1 fun u =>
            { u with nodes := u.nodes ++ [{ newNode ctx node (Vector.replicate 16 0) .credit with counter := 1, anyReal := real }] })
        else none
      | some n =>
        let moving := coloMoving s1 n
        let n := { n with anyReal := n.anyReal || real }
        match n.st with
        | .credit => some (setNode s1 { n with counter := n.counter + 1 })
        | .waiting =>
          let n := { n with counter := n.counter - 1 }
          if n.counter = 0 then (if moving then none else some (reachZero (setNode s1 n) n)) else some (setNode s1 n)
        | _ => some (setNode s1 { n with counter := (n.counter + 65535) % 65536 })

/-! ## Intake (R290) -/

/-- The checks of a record (R290). -/
def badRecord (r : Vector Word 16) : Bool :=
  let k := nodeKind r
  let w (i : Nat) : Word := recWord r i
  let zero (lo : Nat) : Bool := (List.range (16 - lo)).all fun i => w (lo + i) == 0
  decide (4 ≤ k) || field (w 0) 62 2 != 0 || decide (8 < nodeNsucc r) || decide (nodeNsucc r < nodeNtrue r) ||
    (k != 3 && nodeNtrue r != 0) || (if k = 1 ∨ k = 2 then decide (20 ≤ nodeClu r) else nodeClu r != 0) ||
    ((List.range 8).any fun i => decide (16384 ≤ nodeSucc r i) || (decide (nodeNsucc r ≤ i) && nodeSucc r i != 0)) ||
    (k == 0 && (nodeHarts r == 0 || decide (2560 < nodeHarts r) || field (w 10) 14 20 == 0 || field (w 10) 34 30 != 0 ||
      !zero 11)) ||
    (k == 3 && !zero 5)

/-- COLO translates with write permission as an aligned doubleword (R286, R290). -/
def colophonOk (s : State) (r : Vector Word 16) : Bool :=
  match scalarElements s (whoUnit s (nodeCtx r)) 1 (nodeColo r) 8 with
  | .ok _ => true
  | .error _ => false

/-- A record is taken: dropped, refused, or entered in the node table (R288, R290). -/
def takeRecord (s : State) (queue index : Nat) (r : Vector Word 16) : State :=
  let ctx := nodeCtx r
  let id := nodeId r
  let n := newNode ctx id r .waiting
  if field s.unit.ctxt 39 16 ≤ ctx ∨ !colophonOk s r then logEntry s 2 0 ctx queue (wordOfNat index) 0 0
  else if badRecord r then reportNode s n 3 false (some fun _ => false)
  else
    let enter (s : State) (c : Nat) (anyReal : Bool) : State :=
      let n := { n with counter := nodeDeps r - c, anyReal := anyReal || nodeDeps r == 0 }
      let s := setNode s n
      if nodeDeps r < c then refuseNode s n 5 else if n.counter = 0 then reachZero s n else s
    match findNode s ctx id with
    | none => enter (modUnit s fun u => { u with nodes := u.nodes ++ [n] }) 0 false
    | some m =>
      match m.st with
      | .credit => enter s m.counter m.anyReal
      | _ => reportNode s n 3 false (some fun _ => false)

/-- Where the next record of a queue lies: the one at HEAD (R361, R363). -/
def recordBase (s : State) (i : QueueInfo) : Nat :=
  field i.word0 0 39 * 256 + field (queueWord s i.queue 1) 0 32 % 2 ^ field i.word0 39 5 * 128

/-- The next record of a queue: the one at HEAD (R363). -/
def nextRecord (s : State) (i : QueueInfo) : Vector Word 16 :=
  Vector.ofFn fun k => wordOfNat (readPhys s (recordBase s i + 8 * k.val) 8)

/-- A record is taken of which a half cannot be read: with the first its colophon is unknown, and it is dropped; with the second it is a bad
record (R58, R59, R290, log 22). -/
def takeUnreadable (s : State) (queue index : Nat) (r : Vector Word 16) (first : Bool) : State :=
  let ctx := nodeCtx r
  if first then logEntry s 2 0 0 queue (wordOfNat index) 0 0
  else if field s.unit.ctxt 39 16 ≤ ctx ∨ !colophonOk s r then logEntry s 2 0 ctx queue (wordOfNat index) 0 0
  else reportNode s (newNode ctx (nodeId r) r .waiting) 3 false (some fun _ => false)

/-- The colophon of a record lies in an object that is being moved, or waits for a back-off window (R57, R79). -/
def recordWaits (s : State) (r : Vector Word 16) : Bool :=
  decide (nodeCtx r < field s.unit.ctxt 39 16) && unitWaits s (nodeCtx r) 1 (nodeColo r) 8

/-- The intake of a record waits for an object that moves or for a back-off window (R57, R79). -/
def intakeWaits (s : State) (i : QueueInfo) : Bool :=
  rangeHeld s (queueAddr s i.queue) 16 || rangeHeld s (recordBase s i) 128 || recordWaits s (nextRecord s i)

/-- RECORD_INTAKE: the next record of a queue that holds a slot and has work is read whole, and HEAD advances (R290, R293, R363); it waits
while the colophon's object moves (R79). A HEAD in registered text stays as it is (R346, log 93). -/
def execRecordIntake (queue : Nat) (s : State) : Out :=
  eventOut s <| match findQueue s queue with
  | none => none
  | some i =>
    if !i.slot || !i.work || !tableFree s then none
    else
      let a := queueAddr s queue
      let w1 := queueWord s queue 1
      let head := field w1 0 32
      let base := recordBase s i
      let r := nextRecord s i
      let s1 := writeOpen (correctRange (correctRange s a 16) base 128) (a + 8) 4 (head + 1)
      if intakeWaits s i then none else
      let s2 := if (head + 1) % 2 ^ 32 = field w1 32 32 then dropQueue s1 queue else s1
      some (if rangeBad s base 128 then takeUnreadable s2 queue head r (rangeBad s base 64) else takeRecord s2 queue head r)

/-! ## Conditional nodes (R291, R292) -/

/-- A conditional node waits for an object that moves, or for a back-off window (R57, R79). -/
def condWaits (s : State) (n : Node) : Bool := unitWaits s n.ctx 0 (recWord n.record 4) 4 || coloMoving s n

/-- CONDITIONAL_READ: the predicate is read once, and the node completes (R291, R292). -/
def execConditionalRead (ctx node : Nat) (s : State) : Out :=
  eventOut s <| match findNode s ctx node with
  | none => none
  | some n =>
    if n.st != .ready || nodeKind n.record != 3 || condWaits s n then none
    else
      match scalarElements s (whoUnit s ctx) 0 (recWord n.record 4) 4 with
      | .error .moving => none
      | .error (.fault _) => some (refuseNode s n 6)
      | .ok es =>
        if es.any fun e => placeBad s e.place then some (refuseNode s n 6)
        else
          let taken := readPlaces s (es.map (·.place)) != 0
          let t := correctTable (correctReads s (memoryBytes (es.map (·.place)))) (whoUnit s ctx) (handleOf (recWord n.record 4))
            (es.map (·.sub))
          some (completeNode t { n with branch := taken } 1 false
            (some fun i => decide (i < nodeNtrue n.record) == taken))

/-! ## Placement (R294, R295) -/

/-- The cores a kernel needs. -/
def coresNeeded (r : Vector Word 16) : Nat := ceilDiv (nodeHarts r) (2 ^ nodeSplit r)

/-- s2 and s4 of a launch hart (R294). -/
def launchSums (r : Vector Word 16) (i : Nat) : Option (Word × Word) := do
  let s2 ← effAddr? (recWord r 7) ((i + 1) * field (recWord r 6) 32 32)
  let s4 ← effAddr? (recWord r 5) (i * field (recWord r 6) 0 32)
  return (s2, s4)

/-- The places of the group table, by elements of its object; none where it does not translate with read permission, or holds an
uncorrectable error (R58, R295, log 22). -/
def groupTable (s : State) (w : Who) (a : Word) : Option (List (List Place)) :=
  match lookupRecord s w (handleOf a) 0 with
  | .error _ => none
  | .ok r =>
    if r.bits < 8 then none
    else
      let es := r.bits / 8
      let part (k : Nat) : Option (List Place) := do
        let x ← effAddr? a (k * es)
        match scalarElements s w 0 x es with
        | .ok l => if l.any fun e => placeBad s e.place then none else some (l.map (·.place))
        | .error _ => none
      (List.range (81920 / es)).mapM part

/-- The bytes of a group table. -/
def groupBytes (s : State) (table : List (List Place)) : List Nat :=
  table.flatMap fun ps => (bytesOf ((ps.map (·.bits)).sum / 8) (readPlaces s ps)).map fun b => b.toNat

/-- The groups of a table: the members of entry k (R295). -/
def groupMembers (bytes : List Nat) (k : Nat) : List Nat :=
  let entry := (bytes.drop (320 * k)).take 320
  (entry.zipIdx).flatMap fun p => ((List.range 8).filter fun i => p.1.testBit i).map fun i => 8 * p.2 + i

/-- The groups of a launch, or none where the table is refused (R295). -/
def launchGroups (s : State) (w : Who) (r : Vector Word 16) : Option (List (Nat × Group)) :=
  if recWord r 9 = 0 then some []
  else
    match groupTable s w (recWord r 9) with
    | none => none
    | some table =>
      let bytes := groupBytes s table
      let gs := ((List.range 256).map fun k => (k, groupMembers bytes k)).filter fun g => !g.2.isEmpty
      if gs.any fun g => g.2.any fun i => decide (nodeHarts r ≤ i) then none
      else if (List.range (nodeHarts r)).any fun i => decide (4 < (gs.filter fun g => g.2.contains i).length) then none
      else some (gs.map fun g => (g.1, { members := g.2, arrived := [], ended := [], phase := 0 }))

/-- The cores that CLMASK allows and that are present, in ascending order. -/
def allowedCores (s : State) (r : Vector Word 16) : List Nat :=
  (List.range 320).filter fun c => nodeAllows r (clusterOf c) && (getCore s c).present

/-- A core whose active bank is free for a launch. -/
def coreFree (s : State) (c : Nat) : Bool :=
  activeFree s c && (getCore s c).swapAsked.isNone && !(getCore s c).leaving

/-- A core that may be pre-empted: its shadow bank is free, or holds a context that lives in its image, not one that became clean without
(R294, R316, R317). -/
def preemptible (s : State) (c : Nat) : Bool :=
  let k := getCore s c
  !activeFree s c && k.swapAsked.isNone && !k.leaving &&
    (k.shadow == .free || (k.shadow == .clean && bitAt s.unit.spill 39 && !k.kept))

/-- The registers of a launch hart (R107, R294). -/
def launchRegs (r : Vector Word 16) (sums : Word × Word) : Regs :=
  let x := vset (vset (vset (Vector.replicate 24 0) 2 sums.1) 3 (recWord r 8)) 4 sums.2
  { Regs.launch with pc := recWord r 4, x := x }

/-- A launch hart. -/
def launchHart (s : State) (n : Node) (core i : Nat) (bank : Bank) (sums : Word × Word) : Hart :=
  let r := n.record
  loadDescriptor s
    { Hart.idle with hid := s.nextHid + i, live := true, core := core, idx := i % 2 ^ nodeSplit r, nh := nodeSplit r, ctx := n.ctx,
                     node := n.id, launch := i, bank := bank, r := launchRegs r sums }

/-- Harts join the package; one of them comes into focus when none is. -/
def addHarts (s : State) (hs : List Hart) : State :=
  let s := { s with nextHid := s.nextHid + hs.length }
  match hs with
  | [] => s
  | h :: t => if s.me.hid = 0 then { s with me := h, rest := s.rest ++ t } else { s with rest := s.rest ++ hs }

/-- A core takes a context into its active bank, or into its shadow bank with a swap asked for (R294, R316). -/
def takeCore (s : State) (c : Nat) (shadow : Bool) : State :=
  let e := ((s.dies[dieOf c]?).map (·.evals)).getD 0
  let s := wakeCluster s (clusterOf c)
  modCore s c fun k =>
    let k := if activeFree s c then { k with arrived := e + 1 } else k
    if shadow then { k with shadow := .filling, swapAsked := some none } else k

/-- Start a kernel on cores, in ascending order; on those of `pre` through the shadow bank (R294). -/
def startKernel (s : State) (n : Node) (groups : List (Nat × Group)) (cores pre : List Nat) : State :=
  let r := n.record
  let per := 2 ^ nodeSplit r
  let hs := (List.range (nodeHarts r)).filterMap fun i =>
    let c := cores.getD (i / per) 0
    (launchSums r i).map (launchHart s n c i (if pre.contains c then .shadow else .active))
  let s := cores.foldl (fun s c => takeCore s c (pre.contains c)) s
  setNode (addHarts s hs) { n with st := .running, groups := groups }

/-- What the checks of a ready kernel come to: the status that ends it, or its groups (R294, R295). -/
def placementChecks (s : State) (n : Node) : Except Nat (List (Nat × Group)) :=
  let r := n.record
  if (List.range (nodeHarts r)).any fun i => (launchSums r i).isNone then .error 3
  else
    match launchGroups s (whoUnit s n.ctx) r with
    | none => .error 3
    | some gs => if (allowedCores s r).length < coresNeeded r then .error 4 else .ok gs

/-- The group table of a kernel has been read: a correctable error in it is corrected (R58). -/
def correctGroups (s : State) (n : Node) : State :=
  let a := recWord n.record 9
  if s.softMem.isEmpty || a == 0 then s
  else match groupTable s (whoUnit s n.ctx) a with
    | some l => correctReads s (memoryBytes l.flatten)
    | none => s

/-- A ready kernel waits for an object that moves, or for a back-off window: that of its group table or of its colophon (R57, R79). -/
def kernelWaits (s : State) (n : Node) : Bool :=
  let a := recWord n.record 9
  let table : Bool := a != 0 && (match openRecord s (whoUnit s n.ctx) (handleOf a) 0 with
    | .error .moving => true
    | .error (.fault _) => false
    | .ok r => !noWindows s && ((List.range (81920 * 8 / r.bits)).any fun k =>
        ((effAddr? a (k * r.bits / 8)).map fun x => unitWaits s n.ctx 0 x (r.bits / 8)).getD false))
  table || coloMoving s n

/-- KERNEL_PLACEMENT: a ready kernel is checked and starts when all its cores can be taken at once (R294); a ready collective node
starts when its die runs fewer than four COLLs (R105). -/
def execKernelPlacement (ctx node : Nat) (s : State) : Out :=
  eventOut s <| match findNode s ctx node with
  | none => none
  | some n =>
    if n.st != .ready then none
    else if nodeKind n.record = 2 then
      (if collsOnDie s (dieOf (16 * nodeClu n.record)) < 4 then some (launchNode s n) else none)
    else if nodeKind n.record ≠ 0 ∨ kernelWaits s n then none
    else
      match placementChecks s n with
      | .error c => some (refuseNode s n c)
      | .ok gs =>
        let free := (allowedCores s n.record).filter (coreFree s)
        let c := coresNeeded n.record
        if c ≤ free.length then some (startKernel (correctGroups s n) n gs (free.take c) []) else none

/-- The unit frees a clean shadow bank: its context lives in its image (R316). -/
def freeShadow (s : State) (c : Nat) : State :=
  if (getCore s c).shadow = .clean ∧ (getCore s c).kept = false then
    modCore (modHarts s fun h => if h.core = c ∧ h.bank = .shadow ∧ h.hid ≠ 0 then { h with bank := .image } else h) c
      fun k => { k with shadow := .free }
  else s

/-- Insert into an ascending list. -/
def insertAsc (x : Nat) : List Nat → List Nat
  | [] => [x]
  | y :: ys => if x ≤ y then x :: y :: ys else y :: insertAsc x ys

/-- PREEMPT_CORES: a kernel that has waited longer than a timeslice keeps every free core and takes as many more as it lacks by a shadow
swap (R294). -/
def execPreemptCores (ctx node : Nat) (s : State) : Out :=
  eventOut s <| match findNode s ctx node with
  | none => none
  | some n =>
    if n.st != .ready || nodeKind n.record != 0 || decide (n.slices < 2) || kernelWaits s n then none
    else
      match placementChecks s n with
      | .error c => some (refuseNode s n c)
      | .ok gs =>
        let allowed := allowedCores s n.record
        let free := allowed.filter (coreFree s)
        let need := coresNeeded n.record - free.length
        let pre := (allowed.filter (preemptible s)).take need
        if need = 0 ∨ pre.length < need then none
        else some (startKernel (pre.foldl freeShadow (correctGroups s n)) n gs (pre.foldl (fun l c => insertAsc c l) free) pre)

/-! ## Completion (R289, R301) -/

/-- The harts of a node leave the package. -/
def removeHarts (s : State) (p : Hart → Bool) : State :=
  let rest := s.rest.filter fun h => !p h
  if s.me.hid ≠ 0 ∧ p s.me then
    match rest with
    | [] => { s with me := Hart.idle, rest := [] }
    | h :: t => { s with me := h, rest := t }
  else { s with rest := rest }

/-- NODE_COMPLETE: a kernel all of whose harts have executed END, or a transform or collective node whose status word has been formed,
completes with OK; the banks of a kernel become free (R289, R301). It waits while the colophon's object moves (R79). -/
def execNodeComplete (ctx node : Nat) (s : State) : Out :=
  eventOut s <| match findNode s ctx node with
  | none => none
  | some n =>
    match n.st with
    | .running =>
      if nodeKind n.record != 0 || n.ended != nodeHarts n.record || coloMoving s n then none
      else
        let mine (h : Hart) : Bool := h.hid != 0 && h.ctx == ctx && h.node == node
        let cores := (((allHarts s).filter mine).map (·.core)).eraseDups
        let shadows := (((allHarts s).filter fun h => mine h && h.bank == .shadow).map (·.core)).eraseDups
        let s1 := removeHarts (completeNode s n 1 true (some fun _ => true)) mine
        let s2 := shadows.foldl (fun s c => modCore s c fun k => { k with shadow := .free }) s1
        some (cores.foldl resumeShadow s2)
    | .ending c => if coloMoving s n then none else some (completeNode s n c false (some fun _ => true))
    | _ => none

end Sys2Proof.Machine
end

