-- ==== Sys2Proof/Machine/Power.lean ====
section
/-! DEFINITION. Clocks, power, heat, gating and the SRAM rail (R375 to R384), the retirement of a core and the move of its harts
(R10, R296, R385). The measurements that these rules compare come with the step as arguments (log 13). -/

namespace Sys2Proof.Machine

/-! ## Levels (R376, R377, R379) -/

/-- A die of the package. -/
def dieAt (s : State) (d : Nat) : Die := vget s.dies d Die.reset

/-- A cluster of the package. -/
def clusterAt (s : State) (cl : Nat) : Cluster := vget s.clusters cl Cluster.reset

/-- A requested level as it acts (R377). -/
def actLevel (n : Nat) : Nat := Nat.max 4 (Nat.min 16 n)

/-- DLEVEL (R379). -/
def dlevel (d : Die) : Nat := Nat.min d.power d.thermal

/-- The effective level of a cluster (R376). -/
def effectiveLevel (s : State) (cl : Nat) : Nat :=
  let c := clusterAt s cl
  Nat.min (actLevel c.level.toNat) (Nat.min c.thermal (dlevel (dieAt s (cl / 10))))

/-- LEVEL_WINDOW_BOUNDARY: a level that has changed takes effect (R376). -/
def execLevelWindowBoundary (cl : Nat) (s : State) : Out :=
  .next (modCluster s cl fun c => { c with elevel := BitVec.ofNat 5 (effectiveLevel s cl) })

/-- A limit one step down, to no lower than 4. -/
def stepDown (n : Nat) : Nat := Nat.max 4 (n - 1)

/-- A limit one step up, to no higher than 16. -/
def stepUp (n : Nat) : Nat := Nat.min 16 (n + 1)

/-- A power event is logged when it has changed a limit (R375). -/
def logIf (changed : Bool) (s : State) : State := if changed then logService s else s

/-- POWER_EVAL (R379). -/
def execPowerEval (die mw : Nat) (s : State) : Out :=
  let d := dieAt s die
  let cap := d.pcap.toNat
  let power := if cap * 1000 < mw then stepDown d.power else if mw < cap * 950 then stepUp d.power else d.power
  .next (logIf (power != d.power) (modDie s die fun d => { d with power := power }))

/-- TEMP_REFRESH (R377). -/
def execTempRefresh (cl : Nat) (t : BitVec 8) (s : State) : Out := .next (modCluster s cl fun c => { c with temp := t })

/-! ## Fatal errors -/

/-- The package stops issuing on a fatal error; a later one changes nothing (R323). -/
def goFatal (s : State) (cause die part : Nat) : State :=
  match s.fatal with
  | some _ => s
  | none => { s with fatal := some { cause := cause, die := die, part := part, dumped := false } }

/-! ## Heat (R380) -/

/-- The clusters of a die. -/
def clustersOf (die : Nat) : List Nat := (List.range 10).map (10 * die + ·)

/-- A core has a context: in a bank, in its image, or a galley of one (R316, R381). -/
def coreInUse (s : State) (core : Nat) : Bool :=
  (allHarts s).any (fun h => h.core == core) || (getCore s core).galleys.toList.any fun d => gState d != 0

/-- A core to which the harts of another may move: present, with both banks free (R296, log 84). -/
def coreVacant (s : State) (core : Nat) : Bool :=
  let k := getCore s core
  k.present && !k.leaving && k.shadow == .free && k.swapAsked.isNone &&
    !(allHarts s).any fun h => h.core == core && h.bank != .image

/-- The core that R296 chooses as target for the harts of a core: the lowest-numbered vacant one of the same die. -/
def moveTarget (s : State) (core : Nat) : Option Nat :=
  ((List.range 160).map (160 * dieOf core + ·)).find? fun c => c != core && coreVacant s c

/-- The temperature of a cluster. -/
def tempOf (s : State) (cl : Nat) : Nat := (clusterAt s cl).temp.toNat

/-- The cores of a cluster whose harts have been in place for 10 ms, the longest first, then by number (R380). -/
def eligibleCore (s : State) (die cl : Nat) : Option Nat :=
  let now := (dieAt s die).evals
  let ready := ((List.range 16).map (16 * cl + ·)).filter fun c =>
    let k := getCore s c
    (allHarts s).any (fun h => h.core == c && h.bank != .image) && !k.leaving && decide (k.arrived + 10 ≤ now)
  ready.foldl (fun m c => match m with
    | none => some c
    | some b => if (getCore s c).arrived < (getCore s b).arrived then some c else some b) none

/-- A core of a hot cluster that may move, with a target in a cluster at or below THOT and at least 5 degrees cooler (R380). -/
def heatMove (s : State) (die cl : Nat) : Option Nat :=
  match eligibleCore s die cl with
  | none => none
  | some c =>
    match moveTarget s c with
    | none => none
    | some t =>
      let cool := tempOf s (clusterOf t)
      if cool ≤ (dieAt s die).thot.toNat ∧ cool + 5 ≤ tempOf s cl then some c else none

/-- THERMAL_EVAL: the first row of R380 that holds. -/
def execThermalEval (die : Nat) (s : State) : Out :=
  let s := modDie s die fun d => { d with evals := d.evals + 1 }
  let d := dieAt s die
  let thot := d.thot.toNat
  let cls := clustersOf die
  let hot := cls.filter fun cl => decide (thot < tempOf s cl)
  .next (
    match cls.find? fun cl => decide (110 ≤ tempOf s cl) with
    | some cl => goFatal s 1 die cl
    | none =>
      if hot.length = 10 then logIf (stepDown d.thermal != d.thermal) (modDie s die fun d => { d with thermal := stepDown d.thermal })
      else
        match hot.findSome? (heatMove s die) with
        | some c => logService (modCore s c fun k => { k with leaving := true, heatAt := d.evals })
        | none =>
          if !hot.isEmpty then
            logIf (hot.any fun cl => decide (4 < (clusterAt s cl).thermal))
              (hot.foldl (fun s cl => modCluster s cl fun c => { c with thermal := stepDown c.thermal }) s)
          else if cls.all fun cl => decide (tempOf s cl + 5 ≤ thot) then
            logIf (decide (d.thermal < 16) || cls.any fun cl => decide ((clusterAt s cl).thermal < 16))
              (cls.foldl (fun s cl => modCluster s cl fun c => { c with thermal := stepUp c.thermal })
                (modDie s die fun d => { d with thermal := stepUp d.thermal }))
          else s)

/-! ## The SRAM rail and soft errors (R383, R384, R322) -/

/-- VMIN as it acts (R383). -/
def floorMv (d : Die) : Nat := Nat.min d.vmin.toNat d.vmax.toNat

/-- The evaluations of 10 ms for which the rail is held once it has been set to its ceiling: 1 s is over at the hundredth (R383). -/
def holdEvals : Nat := 99

/-- The rail after an evaluation (R383). -/
def railAfter (d : Die) : Die :=
  let v := d.vnow.toNat
  if d.srUe then { d with vnow := d.vmax, srErrs := 0, srUe := false, vheld := holdEvals }
  else if 0 < d.vheld then { d with srErrs := 0, vheld := d.vheld - 1 }
  else
    let vnow :=
      if d.ceset.toNat < d.srErrs then Nat.min d.vmax.toNat (v + 10)
      else if 2 * d.srErrs < d.ceset.toNat then Nat.max (floorMv d) (v - 5)
      else v
    { d with vnow := BitVec.ofNat 10 vnow, srErrs := 0 }

/-- Errors that reads of a core's arrays have corrected are counted in its SRAMCE; those of its SRAM, not of the latch arrays of w and z, also
for the rail of its die (R264, R383). -/
def correctSram (s : State) (core n : Nat) (latch : Bool) : State :=
  let t := modCore s core fun c => { c with sramce := c.sramce + wordOfNat n }
  if latch then t else modDie t (dieOf core) fun d => { d with srErrs := d.srErrs + n }

/-- VSRAM_EVAL: the errors that a core of the die has found last are counted; the rail follows the errors of the last 10 ms, and a move
of it is logged (R375, R383). -/
def execVsramEval (die core found : Nat) (s : State) : Out :=
  let s1 := if found ≠ 0 ∧ dieOf core = die ∧ clusterActive s (clusterOf core) = true then correctSram s core found false else s
  let d := dieAt s1 die
  .next (logIf ((railAfter d).vnow != d.vnow) (modDie s1 die railAfter))

/-- The contexts in a bank of a core. -/
def bankContexts (s : State) (core : Nat) (b : Bank) : List Nat :=
  (((allHarts s).filter fun h => h.core == core && h.bank == b).map (·.ctx)).eraseDups

/-- An uncorrectable error in a bank kills the context in it; the log names the core (R320, R322). -/
def killBank (s : State) (core : Nat) (b : Bank) : State :=
  (bankContexts s core b).foldl (fun s ctx =>
    let (w, s) := openWord s
    logEntry (killContext s ctx) 3 0 ctx 0 w (wordOfNat core) (clusterOf core)) s

/-- The harts in the active bank of a core that have an open strip. -/
def stripHarts (s : State) (core : Nat) : List Hart :=
  (allHarts s).filter fun h => h.core == core && h.bank == .active && h.r.strip.isOpen

/-- Strip buffer data of a hart is lost: STRIPLOST at its boundary (R304, R315, R322). -/
def loseStrip (s : State) (h : Hart) : Option State :=
  let t := focus s h.hid
  let handle := match t.me.r.strip.stores with
    | x :: _ => (x.lines.map (·.1)).headD 0
    | [] => 0
  if anyParked t then none
  else some (preciseTrap t { code := cStripLost, elem := t.me.r.strip.b.toNat, info := wordOfNat handle } none false false)

/-- A collective of which a die holds a share in staging aborts (R321, R322). -/
def abortStaging (s : State) (die pos : Nat) : Option State := do
  let t ← (s.transfers.filter fun t => t.kind == .coll && t.staged && dieOf t.core == die)[pos]?
  let c ← collOf s t
  return abortColl s c

/-- An entry of the ORC, of the map cache, of the instruction cache or of a stick buffer of a core is discarded, to be fetched again
(R322). -/
def dropEntry (s : State) (core pos : Nat) : State :=
  let c := getCore s core
  let a := c.orc.length
  let b := a + c.maps.length
  let d := b + c.icache.length
  if pos < a then modCore s core fun c => { c with orc := c.orc.eraseIdx pos }
  else if pos < b then modCore s core fun c => { c with maps := c.maps.eraseIdx (pos - a) }
  else if pos < d then modCore s core fun c => { c with icache := c.icache.eraseIdx (pos - b) }
  else
    let words := ((allHarts s).filter fun h => h.core == core && h.bank == .active).flatMap fun h =>
      (List.range h.r.stick.buf.length).map fun i => (h.hid, i)
    match words[pos - d]? with
    | some (hid, i) => modHart s hid fun h => { h with r := { h.r with stick := { h.r.stick with buf := h.r.stick.buf.eraseIdx i } } }
    | none => s

/-- SRAM_SCRUB: the patrol scrub reads a word of an active cluster (R322, R384); the die notes what it finds for its rail (R383). Of a
corrected word, and of a word of a bank, `pos` is 1 where it lies in a latch array of w or z, which takes no part in that (R12). -/
def execSramScrub (core what pos : Nat) (s : State) : Out :=
  let die := dieOf core
  let broken (t : State) : State := modDie t die fun d => { d with srUe := true }
  let bank (t : State) : State := if pos = 1 then t else broken t
  eventOut s (
    if !clusterActive s (clusterOf core) then none
    else match what with
    | 0 => some s
    | 1 => some (correctSram s core 1 (pos == 1))
    | 2 => some (bank (killBank s core .active))
    | 3 => ((stripHarts s core)[pos]?).bind fun h => (loseStrip s h).map broken
    | 4 => if pos < 40960 then
          some (broken (modCore s core fun c => { c with badWords := if c.badWords.contains pos then c.badWords else pos :: c.badWords }))
        else none
    | 5 => some (broken (dropEntry s core pos))
    | 6 => (abortStaging s die pos).map broken
    | 7 => some (broken (goFatal s 2 die pos))
    | _ => some (bank (killBank s core .shadow)))

/-! ## Gating and wake (R381, R382) -/

/-- The harts of a core that is left are to go to a cluster (R296, R381). -/
def movesTo (s : State) (cl : Nat) : Bool :=
  s.cores.any fun c => (getCore s c.1).leaving && (moveTarget s c.1).any fun t => clusterOf t == cl

/-- A cluster is idle (R381). -/
def clusterIdle (s : State) (cl : Nat) : Bool :=
  let cores := (List.range 16).map (16 * cl + ·)
  !((allHarts s).any fun h => clusterOf h.core == cl && h.bank != .image) &&
    (cores.all fun c => (getCore s c).galleys.toList.all (fun d => gState d == 0) && !(getCore s c).leaving) &&
    (s.transfers.all fun t => t.cluster != cl) && !movesTo s cl

/-- Set the state of a cluster. -/
def setPState (s : State) (cl : Nat) (p : PState) : State := modCluster s cl fun c => { c with pstate := p }

/-- GATE_HOLD_END: an idle cluster begins its hold, and is gated when HOLD has passed; one that is not idle any longer is active again
(R381). -/
def execGateHoldEnd (cl : Nat) (s : State) : Out :=
  let c := clusterAt s cl
  eventOut s <| match c.pstate with
  | .active => if clusterIdle s cl && c.gateen then some (setPState s cl .hold) else none
  | .hold => some (setPState s cl (if clusterIdle s cl then .gated else .active))
  | _ => none

/-- WAKE_REQUEST: firmware asks (R381). -/
def execWakeRequest (cl : Nat) (s : State) : Out := .next (wakeCluster s cl)

/-- GATEEN_WRITE (R381). -/
def execGateenWrite (cl : Nat) (en : Bool) (s : State) : Out :=
  let t := modCluster s cl fun c => { c with gateen := en }
  .next (if en then t else wakeCluster t cl)

/-- WAKE_RAMP_START: the arbiter serves the requests in order, one at a time (R382). -/
def execWakeRampStart (s : State) : Out :=
  eventOut s <| match s.ramping, s.arbiter with
  | none, cl :: rest => some { s with ramping := some cl, arbiter := rest }
  | _, _ => none

/-- The arrays of a core come up zeroed (R381). -/
def zeroedCore (c : Core) : Core :=
  { c with scratch := [], badWords := [], galleys := Vector.replicate 32 0, sync := Vector.replicate 32 0, pendingFull := 0,
           dying := 0, orc := [], maps := [], icache := [] }

/-- WAKE_DONE: the ramp ends and the cluster is active, its arrays zeroed (R381, R382). -/
def execWakeDone (s : State) : Out :=
  eventOut s <| match s.ramping with
  | none => none
  | some cl =>
    let zero (c : Nat × Core) : Nat × Core := if clusterOf c.1 = cl then (c.1, zeroedCore c.2) else c
    let t := { s with cores := s.cores.map zero }
    some { setPState t cl .active with ramping := none }

/-! ## Retirement and migration of cores (R10, R296, R385) -/

/-- A copy or a collective is in flight on the galleys of a core (R296). -/
def galleysBusy (s : State) (core : Nat) : Bool :=
  s.transfers.any fun t => t.core == core && (t.gsrc.isSome || t.gdst.isSome)

/-- The harts of a core have still to wait before they move: for copies on its galleys, for an MMAU in flight, for a bank that spills or
fills (R258, R296). -/
def moveWaits (s : State) (core : Nat) : Bool :=
  let k := getCore s core
  galleysBusy s core || mmaInFlight s core || k.shadow == .spilling || k.shadow == .filling

/-- The harts of a core stop at their boundaries (R258, R296). -/
def stopHarts (s : State) (core : Nat) : State := modHarts s fun h => if h.core = core ∧ h.hid ≠ 0 then abandon h else h

/-- The evaluation from which a stay counts that begins now: the one that has just made the harts move, or else the next (R380). -/
def arrivesAt (d : Die) (k : Core) : Nat := if k.heatAt ≠ 0 ∧ k.heatAt = d.evals then d.evals else d.evals + 1

/-- What a hart of a core holds places of goes with its scratchpad to another core: its outstanding operations and its strips
(R296). -/
def carryPlaces (f : Place → Place) (h : Hart) : Hart :=
  let strip (r : Regs) : Regs :=
    { r with strip := { r.strip with stores := r.strip.stores.map fun x => { x with writes := x.writes.map fun w => (f w.1, w.2) } } }
  let flight (x : Flight) : Flight :=
    { x with action := shiftAction f x.action, marks := x.marks.map (fun m => { m with place := f m.place }), lost := x.lost.map f,
             before := strip x.before }
  { h with r := strip h.r, flights := h.flights.map flight }

/-- What a core holds goes to another core: both banks and the images, the scratchpad, the galleys and synchronisation words, and the
operations of the harts (R296). Caches and counters stay. -/
def moveCore (s : State) (core target : Nat) : State :=
  let hids := ((allHarts s).filter fun h => h.core == core).map (·.hid)
  let k := getCore s core
  let place (p : Place) : Place := if p.core = some core then { p with core := some target } else p
  let t := modHarts (stopHarts s core) fun h =>
    if h.core = core ∧ h.hid ≠ 0 then { carryPlaces place h with core := target } else h
  let carry (x : Transfer) : Transfer :=
    if x.owner.any hids.contains then { x with core := target, cluster := clusterOf target } else x
  let t := { t with transfers := t.transfers.map carry }
  let t := modCore t target fun c =>
    { c with scratch := k.scratch, badWords := k.badWords, galleys := k.galleys, sync := k.sync, pendingFull := k.pendingFull,
             dying := k.dying, shadow := k.shadow, kept := k.kept, swapAsked := k.swapAsked, arrived := arrivesAt (dieAt s (dieOf core)) k }
  takePins (modCore t core fun c => { zeroedCore c with shadow := .free, swapAsked := none, leaving := false, heatAt := 0 }) target

/-- HART_MIGRATION: the harts of a core that is to be left move once nothing holds them and a target is free, on whose galleys no copy runs
and whose cluster is woken before (R296, R381, log 84). -/
def execHartMigration (core : Nat) (s : State) : Out :=
  eventOut s (
    if !(getCore s core).leaving || moveWaits s core then none
    else (moveTarget s core).bind fun t =>
      if galleysBusy s t then none
      else if clusterActive s (clusterOf t) then some (moveCore s core t)
      else if (clusterAt s (clusterOf t)).pstate = .waking then none
      else some (wakeCluster s (clusterOf t)))

/-- CORE_RETIRE: the spare takes the number of the core once the copies on its galleys have ended, or the number is withdrawn and the
harts are to move; a withdrawn core that can hold them no longer has their contexts killed (R10, R296, R385). -/
def execCoreRetire (core : Nat) (s : State) : Out :=
  let k := getCore s core
  let cl := clusterOf core
  eventOut s (
    if !k.present then
      (if k.leaving && (moveTarget s core).isNone then
        let ctxs := (((allHarts s).filter fun h => h.core == core).map (·.ctx)).eraseDups
        let t := ctxs.foldl (fun s ctx =>
          let (w, s) := openWord s
          logEntry (killContext s ctx) 3 0 ctx 0 w (wordOfNat core) cl) s
        some (modCore t core fun c => { c with leaving := false, heatAt := 0 })
      else none)
    else if !(clusterAt s cl).spareUsed then
      (if moveWaits s core then none
      else
        let e := (dieAt s (dieOf core)).evals
        let t := modCore (stopHarts s core) core fun c => { c with orc := [], maps := [], icache := [], arrived := e + 1 }
        some (logService (modCluster (takePins t core) cl fun c => { c with spareUsed := true })))
    else some (logService (modCore s core fun c => { c with present := false, leaving := coreInUse s core, heatAt := 0 })))

end Sys2Proof.Machine
end

