-- ==== Sys2Proof/Machine/Trust.lean ====
section
/-! DEFINITION. The root-of-trust core: code objects (R340, R341), levels (R342, R343), signatures (R345), installation and removal
(R346 to R353, R357). -/

namespace Sys2Proof.Machine

/-! ## SHA-256 -/

/-- The round constants. -/
def shaK : List (BitVec 32) :=
  [0x428A2F98, 0x71374491, 0xB5C0FBCF, 0xE9B5DBA5, 0x3956C25B, 0x59F111F1, 0x923F82A4, 0xAB1C5ED5,
   0xD807AA98, 0x12835B01, 0x243185BE, 0x550C7DC3, 0x72BE5D74, 0x80DEB1FE, 0x9BDC06A7, 0xC19BF174,
   0xE49B69C1, 0xEFBE4786, 0x0FC19DC6, 0x240CA1CC, 0x2DE92C6F, 0x4A7484AA, 0x5CB0A9DC, 0x76F988DA,
   0x983E5152, 0xA831C66D, 0xB00327C8, 0xBF597FC7, 0xC6E00BF3, 0xD5A79147, 0x06CA6351, 0x14292967,
   0x27B70A85, 0x2E1B2138, 0x4D2C6DFC, 0x53380D13, 0x650A7354, 0x766A0ABB, 0x81C2C92E, 0x92722C85,
   0xA2BFE8A1, 0xA81A664B, 0xC24B8B70, 0xC76C51A3, 0xD192E819, 0xD6990624, 0xF40E3585, 0x106AA070,
   0x19A4C116, 0x1E376C08, 0x2748774C, 0x34B0BCB5, 0x391C0CB3, 0x4ED8AA4A, 0x5B9CCA4F, 0x682E6FF3,
   0x748F82EE, 0x78A5636F, 0x84C87814, 0x8CC70208, 0x90BEFFFA, 0xA4506CEB, 0xBEF9A3F7, 0xC67178F2]

/-- The initial value. -/
def shaInit : List (BitVec 32) :=
  [0x6A09E667, 0xBB67AE85, 0x3C6EF372, 0xA54FF53A, 0x510E527F, 0x9B05688C, 0x1F83D9AB, 0x5BE0CD19]

/-- Rotation to the right. -/
def ror (x : BitVec 32) (n : Nat) : BitVec 32 := x.rotateRight n

/-- The message schedule of a block, newest word first. -/
def shaSchedule : Nat → List (BitVec 32) → List (BitVec 32)
  | 0, w => w
  | n + 1, w =>
    let at_ (k : Nat) : BitVec 32 := w.getD (k - 1) 0
    let s0 := ror (at_ 15) 7 ^^^ ror (at_ 15) 18 ^^^ (at_ 15 >>> 3)
    let s1 := ror (at_ 2) 17 ^^^ ror (at_ 2) 19 ^^^ (at_ 2 >>> 10)
    shaSchedule n ((at_ 16 + s0 + at_ 7 + s1) :: w)

/-- One round on the eight working words. -/
def shaRound (h : List (BitVec 32)) (kw : BitVec 32 × BitVec 32) : List (BitVec 32) :=
  match h with
  | [a, b, c, d, e, f, g, x] =>
    let t1 := x + (ror e 6 ^^^ ror e 11 ^^^ ror e 25) + ((e &&& f) ^^^ (~~~e &&& g)) + kw.1 + kw.2
    let t2 := (ror a 2 ^^^ ror a 13 ^^^ ror a 22) + ((a &&& b) ^^^ (a &&& c) ^^^ (b &&& c))
    [t1 + t2, a, b, c, d + t1, e, f, g]
  | _ => h

/-- The number whose bytes, most significant first, are given. -/
def bigEndian (bs : List Byte) : Nat := ofBytes bs.reverse

/-- The compression of one block of 64 bytes. -/
def shaBlock (h : List (BitVec 32)) (block : List Byte) : List (BitVec 32) :=
  let w0 := (List.range 16).map fun i => BitVec.ofNat 32 (bigEndian ((block.drop (4 * i)).take 4))
  let w := (shaSchedule 48 w0.reverse).reverse
  List.zipWith (· + ·) h ((shaK.zip w).foldl shaRound h)

/-- Blocks of a padded message. -/
def shaBlocks : Nat → List (BitVec 32) → List Byte → List (BitVec 32)
  | 0, h, _ => h
  | n + 1, h, bs => shaBlocks n (shaBlock h (bs.take 64)) (bs.drop 64)

/-- SHA-256 of a message. -/
def sha256 (msg : List Byte) : BitVec 256 :=
  let n := msg.length
  let z := (55 + 64 - n % 64) % 64
  let padded := msg ++ [0x80] ++ List.replicate z 0 ++ (bytesOf 8 (8 * n)).reverse
  let h := shaBlocks (padded.length / 64) shaInit padded
  BitVec.ofNat 256 (h.foldl (fun acc x => acc * 2 ^ 32 + x.toNat) 0)

/-! ## RSASSA-PKCS1-v1_5 (R345) -/

/-- x to the power 2^16 modulo n, by squaring. -/
def powSquares (n : Nat) : Nat → Nat → Nat
  | 0, x => x
  | k + 1, x => powSquares n k (x * x % n)

/-- The encoded message of 384 bytes. -/
def encodedDigest (d : BitVec 256) : Nat :=
  let info : List Byte :=
    [0x30, 0x31, 0x30, 0x0D, 0x06, 0x09, 0x60, 0x86, 0x48, 0x01, 0x65, 0x03, 0x04, 0x02, 0x01, 0x05, 0x00, 0x04, 0x20]
  bigEndian ([0x00, 0x01] ++ List.replicate 330 0xFF ++ [0x00] ++ info ++ (bytesOf 32 d.toNat).reverse)

/-- The signature verifies under a modulus, with exponent 65,537. -/
def verifies (n : Nat) (msg sig : List Byte) : Bool :=
  let x := bigEndian sig
  decide (x < n) && powSquares n 16 x * x % n == encodedDigest (sha256 msg)

/-! ## The code object (R340, R341) -/

/-- Little-endian number of n bytes from an offset. -/
def objNum (o : List Byte) (at_ n : Nat) : Nat := ofBytes ((o.drop at_).take n)

/-- Rounded up to 256 bytes. -/
def pad256 (n : Nat) : Nat := ceilDiv n 256 * 256

/-- The header fields and offsets of a code object. -/
structure CodeObj where
  bytes : List Byte
  isa   : Nat
  memmodel : Nat
  keyid : Nat
  nsym  : Nat
  nrel  : Nat
  ngot  : Nat
  nobj  : Nat
  /-- Sizes and offsets of the text, const and data images, by SEC - 1. -/
  sizes : List Nat
  starts : List Nat
  strs  : Nat
  strlen : Nat
  deriving DecidableEq, Repr

/-- The header as the bytes give it. -/
def readHeader (o : List Byte) : CodeObj :=
  let n (i : Nat) : Nat := objNum o (12 + 4 * i) 4
  let strs := 64 + 16 * n 0 + 16 * n 1 + 4 * n 2 + 64 * n 3
  let text := pad256 (strs + n 4)
  let const := text + pad256 (n 5)
  { bytes := o, isa := objNum o 4 1, memmodel := objNum o 5 1, keyid := objNum o 6 1, nsym := n 0, nrel := n 1, ngot := n 2,
    nobj := n 3, sizes := [n 5, n 6, n 7], starts := [text, const, const + pad256 (n 6)], strs := strs, strlen := n 4 }

/-- The size of the image of a section, 1 to 3. -/
def secSize (c : CodeObj) (sec : Nat) : Nat := c.sizes.getD (sec - 1) 0

/-- The image of a section as the object holds it. -/
def secImage (c : CodeObj) (sec : Nat) : List Byte := (c.bytes.drop (c.starts.getD (sec - 1) 0)).take (secSize c sec)

/-- A symbol entry. -/
structure Symbol where
  name : Nat
  value : Nat
  sec : Nat
  kind : Nat
  bind : Nat
  pad : Nat
  deriving DecidableEq, Repr

/-- Symbol i. -/
def symbolAt (c : CodeObj) (i : Nat) : Symbol :=
  let a := 64 + 16 * i
  { name := objNum c.bytes a 4, value := objNum c.bytes (a + 4) 4, sec := objNum c.bytes (a + 8) 1,
    kind := objNum c.bytes (a + 9) 1, bind := objNum c.bytes (a + 10) 1, pad := objNum c.bytes (a + 11) 5 }

/-- A relocation record. -/
structure Reloc where
  offset : Nat
  sec : Nat
  kind : Nat
  pad : Nat
  sym : Nat
  addend : Int
  deriving DecidableEq, Repr

/-- Relocation record i. -/
def relocAt (c : CodeObj) (i : Nat) : Reloc :=
  let a := 64 + 16 * c.nsym + 16 * i
  { offset := objNum c.bytes a 4, sec := objNum c.bytes (a + 4) 1, kind := objNum c.bytes (a + 5) 1,
    pad := objNum c.bytes (a + 6) 2, sym := objNum c.bytes (a + 8) 4, addend := signedOf (objNum c.bytes (a + 12) 4) 32 }

/-- Entry j of the GOT list. -/
def gotSymbol (c : CodeObj) (j : Nat) : Nat := objNum c.bytes (64 + 16 * c.nsym + 16 * c.nrel + 4 * j) 4

/-- Template t. -/
def templateAt (c : CodeObj) (t : Nat) : Record :=
  Vector.ofFn fun i => wordOfNat (objNum c.bytes (64 + 16 * c.nsym + 16 * c.nrel + 4 * c.ngot + 64 * t + 8 * i.val) 8)

/-- INIT of a template (R353). -/
def templateInit (r : Record) : Bool := bitAt (r.word 1) 57
/-- NEWBASE of a template. -/
def templateFrom (r : Record) : Nat := field (r.word 1) 0 39

/-- The header, the bounds of the tables and the GOT list are good (R340, R345, R348). -/
def headerOk (c : CodeObj) (length : Nat) : Bool :=
  decide (64 ≤ length) && objNum c.bytes 0 4 == 0x314F4347 && objNum c.bytes 8 4 == length && decide (c.keyid < 8) &&
    objNum c.bytes 7 1 == 0 && objNum c.bytes 44 20 == 0 && secSize c 1 % 4 == 0 &&
    c.starts.getD 2 0 + pad256 (secSize c 3) + 384 == length &&
    (List.range c.ngot).all fun j => decide (gotSymbol c j < c.nsym)

/-- A symbol is a label of the const or the data section. -/
def dataLabel (y : Symbol) : Bool := y.kind == 0 && (y.sec == 2 || y.sec == 3)

/-- The fields of a template that are zero: BASE, STATE, GEN, and what R67 reserves but for INIT (R67, R340). -/
def templateZeros (r : Record) : Bool :=
  r.base == 0 && r.state == 0 && field (r.word 0) 57 7 == 0 && field (r.word 1) 39 16 == 0 && field (r.word 1) 58 6 == 0

/-- What a bad template that i names is refused with: i, or the label whose image ends too early (R340, R353). -/
def badTemplate (c : CodeObj) (i : Nat) (r : Record) : Option Nat :=
  let from_ := templateFrom r
  if !templateZeros r ∨ (templateInit r ∧ from_ ≠ 0) then some i
  else if from_ = 0 then none
  else
    let j := from_ - 1
    let y := symbolAt c j
    if c.nsym ≤ j ∨ !dataLabel y then some i
    else if secSize c y.sec < y.value + imageExtent r then some j
    else none

/-- The symbol that a bad symbol entry names (R341, R353). -/
def badSymbol (c : CodeObj) (i : Nat) : Option Nat :=
  let y := symbolAt c i
  let named := decide (y.name < c.strlen) && ((c.bytes.drop (c.strs + y.name)).take (c.strlen - y.name)).contains 0
  if !named ∨ 1 < y.bind ∨ y.pad ≠ 0 then some i
  else match y.kind with
  | 0 => if 1 ≤ y.sec ∧ y.sec ≤ 3 ∧ y.value ≤ secSize c y.sec then none else some i
  | 1 => if y.sec = 1 ∧ y.value ≤ secSize c 1 then none else some i
  | 2 => if y.sec = 0 ∧ y.value < c.nobj then badTemplate c i (templateAt c y.value) else some i
  | 3 => if y.sec = 0 ∧ y.value = 0 then none else some i
  | _ => some i

/-- A word of the text image. -/
def textWord (img : List Byte) (off : Nat) : BitVec 32 := BitVec.ofNat 32 (objNum img off 4)

/-- The word that a relocation of a kind may patch (R351). -/
def relocWordOk (kind : Nat) (w : BitVec 32) : Bool :=
  let op := (fld w 25 7).toNat
  match kind with
  | 2 => op == 4
  | 3 => (op == 3 && decide ((fld w 12 3).toNat ≤ 5)) || (decide (8 ≤ op) && decide (op ≤ 0x0E)) || op == 0x1A
  | _ => decide (0x10 ≤ op) && decide (op ≤ 0x13)

/-- A relocation record is good (R341, R351). -/
def relocOk (c : CodeObj) (r : Reloc) : Bool :=
  r.pad == 0 && decide (r.sym < c.nsym) &&
    (match r.kind with
     | 1 => (r.sec == 2 || r.sec == 3) && r.offset % 8 == 0 && decide (r.offset + 8 ≤ secSize c r.sec)
     | 2 | 3 | 4 => r.sec == 1 && r.offset % 4 == 0 && decide (r.offset + 4 ≤ secSize c 1) &&
        decide ((symbolAt c r.sym).kind < 2) && relocWordOk r.kind (textWord (secImage c 1) r.offset)
     | _ => false)

/-- The index with which the format check refuses an object (R348): of a symbol, of a template that no symbol names, or of a relocation
record (log 32). -/
def formatFault (c : CodeObj) (length : Nat) : Option Nat :=
  if !headerOk c length then some 0
  else
    ((List.range c.nsym).findSome? (badSymbol c)).or <|
      ((List.range c.nobj).findSome? fun t => badTemplate c t (templateAt c t)).or <|
        (List.range c.nrel).find? fun i => !relocOk c (relocAt c i)

/-! ## Levels (R342, R343) -/

/-- The instructions that levels 1 and 2 do not have. -/
def level3Only : Instr → Bool
  | .stick _ _ => true
  | .stickend => true
  | .loop _ _ _ => true
  | .setvlw _ _ _ _ => true
  | .vconflict _ _ _ _ => true
  | .mmau _ _ _ _ _ => true
  | .drainrc _ _ _ => true
  | _ => false

/-- A word of an object of a level as it is installed, or refused (R342, R343). -/
def translateWord (isa : Nat) (w : BitVec 32) : Option (BitVec 32) :=
  if isa = 3 then some w
  else match decode w with
  | .error _ => if isa = 2 then some w else none
  | .ok i =>
    let op := (fld w 25 7).toNat
    if level3Only i then none
    else if isa = 2 then some w
    else if 0x78 ≤ op ∧ op ≤ 0x7B then none
    else if op = 0x18 then
      (if (fld w 0 12).toNat % 4 = 0 then some ((w &&& 0xFFFFF000) ||| (BitVec.ofInt 12 ((fld w 0 12).toInt / 4)).setWidth 32) else none)
    else if op = 0x19 then
      (if (fld w 0 20).toNat % 4 = 0 then some ((w &&& 0xFFF00000) ||| (BitVec.ofInt 20 ((fld w 0 20).toInt / 4)).setWidth 32) else none)
    else some w

/-- The text image as it is installed, or the index of the word that refuses it. -/
def translateText (isa : Nat) (img : List Byte) : Except Nat (List Byte) :=
  (((List.range (img.length / 4)).mapM fun i =>
    match translateWord isa (textWord img (4 * i)) with
    | some w => .ok (bytesOf 4 w.toNat)
    | none => .error i) : Except Nat (List (List Byte))).map List.flatten

/-! ## Requests (R347 to R349) -/

/-- A request record. -/
structure Request where
  ctx : Nat
  w : Vector Word 8
  deriving DecidableEq, Repr

/-- The request record at a physical address. -/
def requestAt (s : State) (a : Nat) : Request :=
  let w : Vector Word 8 := Vector.ofFn fun i => wordOfNat (readPhys s (a + 8 * i.val) 8)
  { ctx := field (vget w 1 0) 32 16, w := w }

/-- A word of a request. -/
def reqWord (q : Request) (i : Nat) : Word := vget q.w i 0

/-- RT_REQ.FULL (R347, R386). -/
def rtFull (s : State) : Bool := s.boot != 0 || decide (16 ≤ s.rot.queue.length)

/-- RT_REQ_GO (R347). -/
def execRtReqGo (val : Word) (s : State) : Out :=
  .next (if bitAt val 39 && !rtFull s then { s with rot := { s.rot with queue := s.rot.queue ++ [field val 0 39 * 256] } } else s)

/-- The places of n bytes through an object, by its elements (R347). -/
def spanPlaces (s : State) (w : Who) (kind : Nat) (a : Word) (n : Nat) : Except TStop (List Place) := do
  let h := handleOf a
  let r ← openRecord s w h kind
  let es := r.bits / 8
  if r.bits < 8 ∨ offsetOf a % es ≠ 0 then .error (.fault { code := 0x0B, info := addrInfo h kind 0 0 })
  else
    (List.range (ceilDiv n es)).mapM fun k => do
      let e ← translateIndex s w h kind r (offsetOf a / es + k)
      let m := Nat.min es (n - k * es)
      return { e.place with bits := 8 * m }

/-- Drop the oldest request. -/
def popRequest (s : State) : State := { s with rot := { s.rot with queue := s.rot.queue.drop 1 } }

/-- The result word reaches its place, and MSI-X vector 1 fires (R349, R364). -/
def giveResult (s : State) (ps : List Place) (status index : Nat) : State :=
  let t := writePlaces s (spread ps (status + index <<< 32))
  modUnit (popRequest t) fun u => { u with fired1 := u.fired1 + 1 }

/-- The request is dropped and logged (R350, R364). -/
def dropRequest (s : State) (a : Nat) (q : Request) : State := popRequest (logEntry s 6 0 q.ctx 0 (wordOfNat a) 0 0)

/-- The record that a placement names, as it stands in the table (R348). -/
def placementRecord (s : State) (w : Who) (a : Word) : Option Record :=
  let h := handleOf a
  if h = 0 ∨ otLen w.otb ≤ h then none
  else
    let r := recordAt s (recordAddr w.otb h)
    if r.rank = 0 ∨ (failedCheck r false).isSome then none else some r

/-- A placement of a section image of n bytes: its physical base. `x` says that the record must carry PX, `wr` PW (R348). -/
def placeSection (s : State) (w : Who) (ctx : Nat) (a : Word) (n : Nat) (x : Bool) (wr : Option Bool) : Option Nat :=
  match placementRecord s w a with
  | none => none
  | some r =>
    let b := offsetOf a
    let pa := r.base + b
    let clash (t : TextRange) : Bool := t.ctx == ctx && decide (t.phys < pa + n) && decide (pa < t.phys + t.len)
    let there (i : Nat) : Bool := exists_ s (pa + 256 * i) && !guardedArea s (pa + 256 * i)
    if r.state = 0 ∧ r.rank = 1 ∧ r.fmt = 17 ∧ r.perm 0 ∧ r.perm 2 = x ∧ wr.all (r.perm 1 == ·) ∧ b % 256 = 0 ∧
        b + n ≤ r.shape 0 ∧ !s.rot.ranges.any clash ∧ (List.range (ceilDiv n 256)).all there then some pa
    else none

/-- A placement that is 0 exactly when its image is empty: its physical base, if it has one. -/
def placeOptional (s : State) (w : Who) (ctx : Nat) (a : Word) (n : Nat) (wr : Option Bool) : Option (Option Nat) :=
  if a = 0 then (if n = 0 then some none else none)
  else if n = 0 then none
  else (placeSection s w ctx a n false wr).map some

/-! ## Refusals (R350) -/

/-- What stops an installation: a status with its index, or an object that moves, for which it waits (R79, R350). -/
abbrev Refused := Option (Nat × Nat)

/-- What translates, or a refusal; an object that moves is waited for (R79). -/
def mustT {α : Type} (x : Except TStop α) (status index : Nat) : Except Refused α :=
  match x with
  | .ok a => .ok a
  | .error .moving => .error none
  | .error (.fault _) => .error (some (status, index))

/-- A condition of an installation, or a refusal with its status and index. -/
def need_ (ok : Bool) (status index : Nat) : Except Refused Unit := if ok then .ok () else .error (some (status, index))

/-- What is there, or a refusal. -/
def must {α : Type} (x : Option α) (status index : Nat) : Except Refused α :=
  match x with
  | some a => .ok a
  | none => .error (some (status, index))

/-! ## Resolution (R351 to R353) -/

/-- The symbols of KIND 2 or 3, in order. -/
def resolved (c : CodeObj) : List Nat := (List.range c.nsym).filter fun i => (symbolAt c i).kind == 2 || (symbolAt c i).kind == 3

/-- Where an installation puts things: the placements by SEC, and the resolution values by symbol. -/
structure Layout where
  place : List Word
  res : List (Nat × Nat)
  deriving DecidableEq, Repr

/-- addr(S), 0 for an unresolved symbol (R351). -/
def symAddr (c : CodeObj) (l : Layout) (i : Nat) : Word :=
  let y := symbolAt c i
  if 2 ≤ y.kind then wordOfNat (((l.res.find? fun e => e.1 == i).map (·.2)).getD 0)
  else
    let p := l.place.getD (y.sec - 1) 0
    wordOfNat (handleOf p * 2 ^ 44 + (offsetOf p + y.value))

/-- The template of an object symbol agrees with the record its resolution names (R353). -/
def objectMatches (s : State) (w : Who) (t : Record) (a : Word) : Bool :=
  if offsetOf a ≠ 0 then false
  else match placementRecord s w a with
  | none => false
  | some r =>
    decide (r.state ≤ 1) && r.rank == t.rank && r.layout == t.layout && r.fmt == t.fmt &&
      ((List.range 5).all fun i => r.perm i == t.perm i) && r.gsz == t.gsz &&
      ((List.range 6).all fun d => r.word (2 + d) == t.word (2 + d)) &&
      (r.state == 0 || (List.range (mapEntries r)).all fun st =>
        let e := wordOfNat (readPhys s (r.base + 8 * st) 8)
        field e 32 16 == 0 && bitAt e 31)

/-- Replace bytes of an image. -/
def patch (img : List Byte) (off : Nat) (bs : List Byte) : List Byte := img.take off ++ bs ++ img.drop (off + bs.length)

/-- hi20 and lo12 of a value (R334). -/
def hi20 (v : Nat) : Nat := (v + 2048) / 4096 % 2 ^ 20

/-- The low twelve bits that complete hi20. -/
def lo12 (v : Nat) : Nat := v % 4096

/-- A word with the field of a relocation replaced (R351). -/
def patchWord (kind v : Nat) (w : Nat) : Nat :=
  match kind with
  | 2 => putBits w 0 20 (hi20 v)
  | 3 => putBits w 0 12 (lo12 v)
  | _ => putBits (putBits w 20 5 (bitsOf (lo12 v) 7 5)) 0 7 (bitsOf (lo12 v) 0 7)

/-- Apply a relocation record to the images, or refuse with a status and an index (R351, R357). -/
def relocate (c : CodeObj) (l : Layout) (imgs : List (List Byte)) (i : Nat) : Except Refused (List (List Byte)) :=
  let r := relocAt c i
  let img := imgs.getD (r.sec - 1) []
  let y := symbolAt c r.sym
  if 2 ≤ y.kind ∧ symAddr c l r.sym = 0 then .error (some (0x09, r.sym))
  else if r.kind = 1 then
    let a := symAddr c l r.sym
    let off : Int := (offsetOf a : Int) + r.addend
    if off < 0 ∨ (2 ^ 44 : Nat) ≤ off then .error (some (0x08, i))
    else .ok (imgs.set (r.sec - 1) (patch img r.offset (bytesOf 8 (handleOf a * 2 ^ 44 + off.toNat))))
  else
    let v : Int := (offsetOf (l.place.getD (y.sec - 1) 0) + y.value : Nat) + r.addend
    if v < 0 ∨ (2 ^ 31 - 2049 : Nat) < v then .error (some (0x08, i))
    else .ok (imgs.set 0 (patch img r.offset (bytesOf 4 (patchWord r.kind v.toNat (objNum img r.offset 4)))))

/-- The GOT entries, or the symbol that has no resolution (R352, R357). -/
def gotValues (c : CodeObj) (l : Layout) : Except Refused (List Word) :=
  (List.range c.ngot).mapM fun j =>
    let i := gotSymbol c j
    if 2 ≤ (symbolAt c i).kind ∧ symAddr c l i = 0 then .error (some (0x09, i)) else .ok (symAddr c l i)

/-! ## Installation (R348) -/

/-- All that an installation writes. -/
structure Plan where
  obj : CodeObj
  lay : Layout
  /-- Physical bases and images, by section. -/
  bases : List (Option Nat)
  imgs : List (List Byte)
  got : List Place
  gotv : List Word
  deriving DecidableEq, Repr

/-- The bytes of the staged image (R348). -/
def stagedImage (s : State) (w : Who) (a : Word) (n : Nat) : Except Refused (List Byte) := do
  let ps ← mustT (spanPlaces s w 0 a n) 0x02 0
  need_ (!ps.any (placeBad s)) 0x02 0
  return ps.flatMap fun p => bytesOf (p.bits / 8) (readPlace s p)

/-- The key of a slot verifies an object; an empty or revoked slot does not (R345). -/
def signatureOk (s : State) (c : CodeObj) : Bool :=
  let n := c.bytes.length - 384
  match vget s.rot.keys c.keyid none with
  | some (m, false) => verifies m (c.bytes.take n) (c.bytes.drop n)
  | _ => false

/-- The checks of an installation in their order; nothing is written (R348, R357). -/
def planInstall (s : State) (q : Request) : Except Refused Plan := do
  let w := whoUnit s q.ctx
  let length := field (reqWord q 1) 0 32
  need_ (field (reqWord q 1) 48 2 == 0 && field (reqWord q 1) 50 14 == 0) 0x02 0
  let o ← stagedImage s w (reqWord q 0) length
  let c := readHeader o
  match formatFault c length with
  | some i => .error (some (0x03, i))
  | none => pure ()
  need_ (decide (1 ≤ c.isa) && decide (c.isa ≤ 3) && decide (1 ≤ c.memmodel) && decide (c.memmodel ≤ 2)) 0x04 0
  need_ (signatureOk s c) 0x05 0
  let text ← must (placeSection s w q.ctx (reqWord q 2) (secSize c 1) true (some false)) 0x06 1
  let const ← must (placeOptional s w q.ctx (reqWord q 3) (secSize c 2) none) 0x06 2
  let data ← must (placeOptional s w q.ctx (reqWord q 4) (secSize c 3) (some true)) 0x06 3
  let got ← if c.ngot = 0 then .ok []
    else do
      need_ (offsetOf (reqWord q 5) % 8 == 0) 0x06 4
      let _ ← mustT (spanPlaces s w 0 (reqWord q 5) (8 * c.ngot)) 0x06 4
      mustT (spanPlaces s w 1 (reqWord q 5) (8 * c.ngot)) 0x06 4
  let names := resolved c
  let res ← if names.isEmpty then .ok []
    else mustT (spanPlaces s w 0 (reqWord q 6) (8 * names.length)) 0x06 5
  let table := readPlaces s res
  let lay : Layout :=
    { place := [reqWord q 2, reqWord q 3, reqWord q 4], res := names.zipIdx.map fun p => (p.1, bitsOf table (64 * p.2) 64) }
  let txt ← match translateText c.isa (secImage c 1) with
    | .ok t => (.ok t : Except Refused (List Byte))
    | .error i => .error (some (0x07, i))
  match (List.range c.nsym).find? fun i =>
      (symbolAt c i).kind == 2 && !objectMatches s w (templateAt c (symbolAt c i).value) (symAddr c lay i) with
  | some i => .error (some (0x0A, i))
  | none => pure ()
  let imgs ← (List.range c.nrel).foldlM (relocate c lay) [txt, secImage c 2, secImage c 3]
  let gotv ← gotValues c lay
  return { obj := c, lay := lay, bases := [some text, const, data], imgs := imgs, got := got, gotv := gotv }

/-- Byte i of the image or of the companion plane of an object that stands in memory (R69, R77). -/
def objectByte (s : State) (r : Record) (plane : Bool) (i : Nat) : Nat :=
  if r.state = 1 then
    let st := (if plane then imageTiles r else 0) + i / 65536
    field (wordOfNat (readPhys s (r.base + 8 * st) 8)) 0 31 * 65536 + i % 65536
  else r.base + (if plane then planeStart r else 0) + i

/-- Write bytes of an object from its start. -/
def fillObject (s : State) (r : Record) (plane : Bool) (bs : List Byte) : State :=
  writePlaces s (bs.zipIdx.map fun p => ({ core := none, addr := objectByte s r plane p.2, bit := 0, bits := 8 }, p.1.toNat))

/-- Initialise the object of a symbol as its template asks (R353). -/
def initObject (p : Plan) (w : Who) (s : State) (i : Nat) : State :=
  let c := p.obj
  let t := templateAt c (symbolAt c i).value
  match placementRecord s w (symAddr c p.lay i) with
  | none => s
  | some r =>
    if templateInit t then
      fillObject (fillObject s r false (List.replicate (imageExtent r) 0)) r true (List.replicate (planeExtent r) 0)
    else if templateFrom t = 0 then s
    else
      let y := symbolAt c (templateFrom t - 1)
      fillObject s r false (((p.imgs.getD (y.sec - 1) []).drop y.value).take (imageExtent r))

/-- Write an image at a physical base. -/
def writeImage (s : State) (b : Option Nat × List Byte) : State :=
  match b.1 with
  | some a => if b.2.isEmpty then s else writePhys s a b.2.length (ofBytes b.2)
  | none => s

/-- The writes of an installation, in order, and the registration of its text (R344, R346, R348, R353). -/
def applyPlan (s : State) (q : Request) (p : Plan) : State :=
  let s1 := (p.bases.zip p.imgs).foldl writeImage s
  let s2 := if p.got.isEmpty then s1
    else writePlaces s1 (spread p.got (ofBytes (p.gotv.flatMap fun v => bytesOf 8 v.toNat)))
  let objs := (List.range p.obj.nsym).filter fun i => (symbolAt p.obj i).kind == 2
  let s3 := objs.foldl (initObject p (whoUnit s q.ctx)) s2
  let text := reqWord q 2
  let range : TextRange :=
    { ctx := q.ctx, handle := handleOf text, lo := offsetOf text, len := secSize p.obj 1, phys := ((p.bases.getD 0 none).getD 0),
      rev := p.obj.memmodel }
  { s3 with rot := { s3.rot with ranges := range :: s3.rot.ranges, digests := s3.rot.digests ++ [sha256 p.obj.bytes] } }

/-- The places of the result word of a request; none when the request is to be dropped, an error while its object moves (R348). -/
def resultPlaces (s : State) (q : Request) : Except Unit (Option (List Place)) :=
  if field s.unit.ctxt 39 16 ≤ q.ctx then .ok none
  else match scalarElements s (whoUnit s q.ctx) 1 (reqWord q 7) 8 with
  | .ok es => .ok (some (es.map (·.place)))
  | .error .moving => .error ()
  | .error (.fault _) => .ok none

/-- INSTALL_OBJECT: the oldest request, when it is not a removal, is checked and carried out (R348, R357); while an object that it uses
moves, it waits (R79). -/
def execInstallObject (s : State) : Out :=
  eventOut s <| match s.rot.queue with
  | [] => none
  | a :: _ =>
    let q := requestAt s a
    match resultPlaces s q with
    | .error _ => none
    | .ok none => some (dropRequest s a q)
    | .ok (some ps) =>
      if field (reqWord q 1) 48 2 = 1 then none
      else match planInstall s q with
        | .error none => none
        | .error (some e) => some (giveResult s ps e.1 e.2)
        | .ok p => some (giveResult (applyPlan s q p) ps 0x01 0)

/-- REMOVE_OBJECT: the oldest request, when it is a removal, deregisters a range that matches one installation exactly (R348). -/
def execRemoveObject (s : State) : Out :=
  eventOut s <| match s.rot.queue with
  | [] => none
  | a :: _ =>
    let q := requestAt s a
    match resultPlaces s q with
    | .error _ => none
    | .ok none => some (dropRequest s a q)
    | .ok (some ps) =>
      if field (reqWord q 1) 48 2 ≠ 1 then none
      else if field (reqWord q 1) 50 14 ≠ 0 then some (giveResult s ps 0x02 0)
      else
        let text := reqWord q 2
        let same (t : TextRange) : Bool :=
          t.ctx == q.ctx && t.handle == handleOf text && t.lo == offsetOf text && t.len == field (reqWord q 1) 0 32
        if !s.rot.ranges.any same then some (giveResult s ps 0x06 1)
        else some (giveResult { s with rot := { s.rot with ranges := s.rot.ranges.eraseP same } } ps 0x01 0)

/-! ## Keys (R345) -/

/-- The key slots are written at manufacture, once (R345, log 85). -/
def provision (s : State) (keys : List (Option (Nat × Bool))) : State :=
  if s.rot.keys.toList.all (·.isNone) then
    { s with rot := { s.rot with keys := Vector.ofFn fun i => keys.getD i.val none } }
  else s

/-- A firmware image carries a signature under slot 0 in its last 384 bytes (R345). -/
def firmwareOk (s : State) (image : List Byte) : Bool :=
  let n := image.length - 384
  match vget s.rot.keys 0 none with
  | some (m, false) => verifies m (image.take n) (image.drop n)
  | _ => false

/-- A firmware update that is signed under slot 0 writes a key slot, which may set its REVOKED (R345, log 85). -/
def updateKey (s : State) (image : List Byte) (slot : Nat) (key : Nat × Bool) : State :=
  if firmwareOk s image then { s with rot := { s.rot with keys := vset s.rot.keys slot (some key) } } else s

end Sys2Proof.Machine
end

