-- ==== Sys2Proof/Machine/Device.lean ====
section
/-! DEFINITION. What the host sees and does: the registers of BAR 0 (R359, R4, R5), accesses to device memory (R360), IU_KILL (R319), the
interrupt of the error log (R364); and the fatal error, its dump and package reset (R323, R386). -/

namespace Sys2Proof.Machine

/-! ## The registers (R359) -/

/-- A register that the host or firmware writes whole: BAR 0, and from 0x80000 on the power controllers, which only firmware reaches
(R359, R375, log 31). -/
inductive DevReg where
  /-- The imposition unit: IU_CTXT, IU_SLICE, IU_KILL, IU_SPILL, IU_QTAB, IU_DOORBELL, IU_ELOG, IU_ELOGP, IU_ELOGC, IU_COMMTAB. -/
  | iu (i : Nat)
  /-- A memory control block: MCB_RETIRE, MCB_MIG, MCB_NRP, MCB_SEED, MCB_SCRUB. -/
  | mcb (die i : Nat)
  | cxw (n : Nat)
  | cxp (n : Nat)
  | stlNode
  | stlRtab
  | stlctl (n : Nat)
  | stlstat (n : Nat)
  | rtReq
  | dump (die : Nat)
  | pwrCl (cl : Nat)
  | pwrDie (die : Nat)
  | vsram (die : Nat)
  | unlisted
  deriving DecidableEq, Repr

/-- The register at an offset (R359). -/
def regAt (off : Nat) : DevReg :=
  let i := off % 0x10000 / 8
  match off / 0x10000 with
  | 0 => if i < 10 then .iu i else .unlisted
  | 1 => if i < 5 then .mcb 0 i else if 0x200 ≤ i ∧ i < 0x205 then .mcb 1 (i - 0x200) else .unlisted
  | 2 => if i < 16 then .cxw i else if i < 24 then .cxp (i - 16) else .unlisted
  | 3 => if i = 0 then .stlNode else if i = 1 then .stlRtab
      else if i < 34 then (if i % 2 = 0 then .stlctl ((i - 2) / 2) else .stlstat ((i - 2) / 2)) else .unlisted
  | 4 => if i = 0 then .rtReq else if i = 1 then .dump 0 else if i = 2 then .dump 1 else .unlisted
  | 8 => if i < 20 then .pwrCl i else if 32 ≤ i ∧ i < 34 then .pwrDie (i - 32) else if 34 ≤ i ∧ i < 36 then .vsram (i - 34)
      else .unlisted
  | _ => .unlisted

/-- The value of a register of the imposition unit as it reads; write-only registers read 0 (R4). -/
def readUnit (u : Unit_) (i : Nat) : Word :=
  match i with
  | 0 => u.ctxt
  | 1 => u.slice
  | 3 => u.spill
  | 4 => u.qtab
  | 6 => u.elog
  | 7 => u.elogp
  | 8 => u.elogc
  | 9 => u.commtab
  | _ => 0

/-- The value of a register of a memory control block as it reads (R55, R56, R59). -/
def readMcb (m : Mcb) (i : Nat) : Word :=
  match i with
  | 1 => wordOfNat (bit m.migrating.isSome + bit m.esc <<< 1 + (768 - m.retired.length) <<< 2 + m.rpch <<< 12 + m.bound <<< 22 +
      m.share.toNat <<< 52 + m.cuts <<< 55)
  | 2 => m.nrp
  | 3 => m.seed
  | 4 => m.scrub
  | _ => 0

/-- STLSTAT of a port (R370). -/
def readStlstat (p : Port) : Word :=
  wordOfNat (p.st.toNat + bit p.rate <<< 3 + p.width <<< 4 + bit p.spare <<< 8 + p.crcerr <<< 16 + p.repairs <<< 32 +
    p.replays <<< 40)

/-- PSTATE as a number (R377). -/
def pstateNat : PState → Nat
  | .active => 0
  | .hold => 1
  | .gated => 2
  | .waking => 3

/-- PWR_CL of a cluster (R377). -/
def readPwrCl (c : Cluster) : Word :=
  wordOfNat (c.level.toNat + c.elevel.toNat <<< 5 + c.kern.toNat <<< 10 + bit c.gateen <<< 13 + pstateNat c.pstate <<< 14 +
    c.temp.toNat <<< 16)

/-- PWR_DIE of a die (R379). -/
def readPwrDie (d : Die) : Word := wordOfNat (dlevel d + d.pcap.toNat <<< 5 + d.thot.toNat <<< 16 + d.hold.toNat <<< 24)

/-- VSRAM of a die (R383). -/
def readVsram (d : Die) : Word :=
  wordOfNat (d.vnow.toNat + d.vmin.toNat <<< 10 + d.vmax.toNat <<< 20 + d.ceset.toNat <<< 30)

/-- A register as it reads (R4, R359). -/
def readReg (s : State) (r : DevReg) : Word :=
  match r with
  | .iu i => readUnit s.unit i
  | .mcb d i => readMcb (mcbOf s d) i
  | .cxw n => vget s.cxw n 0
  | .cxp n => vget s.cxp n 0
  | .stlNode => s.stlNode
  | .stlRtab => s.stlRtab
  | .stlctl n => (portAt s n).ctl
  | .stlstat n => readStlstat (portAt s n)
  | .rtReq => wordOfNat (bit (rtFull s) <<< 40)
  | .dump d => if d = 0 then s.rot.dumpe else s.rot.dumpw
  | .pwrCl c => readPwrCl (clusterAt s c)
  | .pwrDie d => readPwrDie (dieAt s d)
  | .vsram d => readVsram (dieAt s d)
  | .unlisted => 0

/-! ## Writes of registers -/

/-- The low bits of a written value: reserved bits stay zero (R5). -/
def lowField (v : Word) (n : Nat) : Word := wordOfNat (field v 0 n)

/-- IU_KILL: the named context ends (R319, R320); which word 1 is logged is not given (log 6). -/
def execIuKill (val : Word) (s : State) : Out :=
  let ctx := field val 0 16
  eventOut s (
    if !bitAt val 16 || decide (field s.unit.ctxt 39 16 ≤ ctx) then none
    else
      let (w, s1) := openWord (killContext s ctx)
      some (logEntry s1 3 0 ctx 0 w 0 0))

/-- A write of a register of the imposition unit that has no behaviour of its own. -/
def writeUnit (u : Unit_) (i : Nat) (v : Word) : Unit_ :=
  match i with
  | 0 => { u with ctxt := lowField v 55 }
  | 1 => { u with slice := lowField v 16 }
  | 3 => { u with spill := lowField v 40 }
  | 4 => { u with qtab := lowField v 52 }
  | 6 => { u with elog := lowField v 44 }
  | 8 => { u with elogc := lowField v 32 }
  | 9 => { u with commtab := lowField v 51 }
  | _ => u

/-- A write of STLCTL: RATE and LTHR are set, EN acts, and FORCE makes LANE due (R370). -/
def writeStlctl (s : State) (n : Nat) (v : Word) : State :=
  let p := portAt s n
  let s1 := setPort s n { p with ctl := putField (lowField v 10) 0 1 (field p.ctl 0 1) }
  let s2 := enablePort s1 n (bitAt v 0)
  if bitAt v 14 then (match execForce n (field v 10 4) s2 with
    | .next t => t
    | _ => s2) else s2

/-- The state that an outcome gives; it is always a next state here. -/
def nextOr (s : State) (o : Out) : State :=
  match o with
  | .next t => t
  | _ => s

/-- A write of a register that performs (R4, R5, R360). -/
def writeReg (s : State) (r : DevReg) (v : Word) : State :=
  match r with
  | .iu 2 => nextOr s (execIuKill v s)
  | .iu 5 => nextOr s (execIuDoorbell v s)
  | .iu i => modUnit s fun u => writeUnit u i v
  | .mcb d 0 =>
    if bitAt v 10 then nextOr s (execTopcut d s) else nextOr s (execMcbRetirePch d (field v 0 10) s)
  | .mcb d 1 => modMcb s d fun m => { m with share := BitVec.ofNat 3 (field v 52 3) }
  | .mcb d 2 => nextOr s (execMcbNrpWrite d v s)
  | .mcb d 3 => nextOr s (execMcbSeedWrite d v s)
  | .mcb d _ => modMcb s d fun m => { m with scrub := wordOfNat (field v 0 8 + field v 16 16 <<< 16) }
  | .cxw n => nextOr s (execCxwWrite n v s)
  | .cxp n => if bitAt v 32 then nextOr s (execRetrain n s) else s
  | .stlNode => { s with stlNode := lowField v 16 }
  | .stlRtab => { s with stlRtab := lowField v 39 }
  | .stlctl n => writeStlctl s n v
  | .stlstat _ => s
  | .rtReq => nextOr s (execRtReqGo v s)
  | .dump d => { s with rot := if d = 0 then { s.rot with dumpe := lowField v 40 } else { s.rot with dumpw := lowField v 40 } }
  | .pwrCl c =>
    let t := modCluster s c fun k => { k with level := BitVec.ofNat 5 (field v 0 5), kern := BitVec.ofNat 3 (field v 10 3) }
    nextOr t (execGateenWrite c (bitAt v 13) t)
  | .pwrDie d => modDie s d fun x =>
      { x with pcap := BitVec.ofNat 11 (field v 5 11), thot := BitVec.ofNat 8 (field v 16 8), hold := BitVec.ofNat 8 (field v 24 8) }
  | .vsram d => modDie s d fun x =>
      { x with vmin := BitVec.ofNat 10 (field v 10 10), vmax := BitVec.ofNat 10 (field v 20 10),
               ceset := BitVec.ofNat 16 (field v 30 16) }
  | .unlisted => s

/-- An access to a register is 8 bytes wide and aligned (R360). -/
def regAccessOk (off size : Nat) : Bool := size == 8 && off % 8 == 0

/-- The size of BAR 0: the power controllers lie past it, out of reach of the host link (R359, R375, log 31). -/
def barSize : Nat := 0x80000

/-- REGISTER_WRITE (R4, R359, R360); until bring-up is over BAR 0 ignores writes (R386). -/
def execRegisterWrite (off size : Nat) (val : Word) (s : State) : Out :=
  .next (
    if !regAccessOk off size then { s with host := .unsuccessful }
    else if s.boot ≠ 0 ∧ off < barSize then s
    else writeReg s (regAt off) val)

/-! ## Device memory (R360) -/

/-- A host access that is refused is logged with SRC 7 (R364). -/
def logRefused (s : State) (a : Nat) : State := logEntry s 7 0 0 0 (wordOfNat a) 0 0

/-- Byte addresses of a host access. -/
def hostBytes (a n : Nat) : List Nat := (List.range n).map (a + ·)

/-- HOST_WRITE: a write performs at system scope, but for one that falls in a guarded range, which is dropped; bytes that do not exist
take nothing (R51, R360). It waits for a back-off window (R57). -/
def execHostWrite (addr : Nat) (bytes : List Byte) (s : State) : Out :=
  eventOut s (
    if backoffAt s (hostBytes addr bytes.length) then none
    else if (hostBytes addr bytes.length).any (guarded s) then some (logRefused s addr)
    else
      some <| writePlaces s ((bytes.zipIdx.filter fun p => exists_ s (addr + p.2)).map fun p =>
        ({ core := none, addr := addr + p.2, bit := 0, bits := 8 }, p.1.toNat)))

/-- The dump region of a die (R323). -/
def dumpRegion (s : State) (die : Nat) : Word := if die = 0 then s.rot.dumpe else s.rot.dumpw

/-- The die whose region takes the dump: the first that is enabled and whose die did not raise the error (R323, log 32). -/
def dumpDie (s : State) : Option Nat :=
  match s.fatal with
  | none => none
  | some f => [0, 1].find? fun d => bitAt (dumpRegion s d) 39 && d != f.die

/-- The base of the region that holds the dump of a fatal error. -/
def dumpBase (s : State) : Option Nat :=
  match s.fatal with
  | some f => if f.dumped then (dumpDie s).map fun d => field (dumpRegion s d) 0 39 * 256 else none
  | none => none

/-- An address lies in the region that holds the dump. -/
def inDump (s : State) (a : Nat) : Bool := (dumpBase s).any fun b => decide (b ≤ a) && decide (a < b + 2 ^ 31)

/-- CYCLES of every cluster, read in order. -/
def allCycles (s : State) : List Word × State :=
  (List.range 20).foldl (fun acc cl =>
    let (c, t) := readCycles acc.2 cl
    (acc.1 ++ [c], t)) ([], s)

/-- The header of a dump by doublewords: the format, the cause, the die and the unit that raised it, and CYCLES of every cluster (R323,
log 86). -/
def dumpHeader (f : Fatal) (cycles : List Word) : List Word :=
  [1, wordOfNat f.cause, wordOfNat f.die, wordOfNat f.part] ++ cycles

/-- What a dump holds of the state: the imposition unit, the banks of the cores with their interlock entries, the cores with their
scratchpads, galleys and ORCs, the memory control blocks, the windows and the links (R323). -/
structure DumpImage where
  unit      : Unit_
  harts     : List Hart
  transfers : List Transfer
  cores     : List (Nat × Core)
  mcbs      : List Mcb
  cxw       : List Word
  cxp       : List Word
  ports     : List Port
  deriving DecidableEq, Repr

/-- The state as a dump holds it; nothing changes it while the package is halted. -/
def dumpImage (s : State) : DumpImage :=
  { unit := s.unit, harts := allHarts s, transfers := s.transfers, cores := s.cores, mcbs := s.dies.toList.map (·.mcb),
    cxw := s.cxw.toList, cxp := s.cxp.toList, ports := s.ports.toList }

/-- A byte of the dump as the host reads it: of the header, or of the state, which the spec does not lay out (R323, logs 86, 108). -/
def dumpByte (s : State) (a : Nat) : Byte :=
  match dumpBase s with
  | some b => if a < b + 8 * (4 + 20) then readByte s.mem a else Config.dumpByte (dumpImage s) (a - b)
  | none => readByte s.mem a

/-- A register as the host reads it: of BAR 0, which reads zero until bring-up is over, but for FULL (R347, R386). -/
def hostReg (s : State) (off : Nat) : Word :=
  if s.boot = 0 ∨ regAt off = .rtReq then readReg s (regAt off) else 0

/-- A host read of a register: one of BAR 0 (R359, R360, R375). -/
def hostReadReg (s : State) (off n : Nat) : State :=
  { s with host := if regAccessOk off n && decide (off < barSize) then .data (bytesOf 8 (hostReg s off).toNat) else .unsuccessful }

/-- HOST_READ: the value as a load at system scope returns it; a guarded range, a hole and uncorrectable data return no data; the dump of
a fatal error is read here (R58, R323, R360). It waits for a back-off window (R57). -/
def execHostRead (addr n : Nat) (s : State) : Out :=
  let as := hostBytes addr n
  eventOut s (
    if 2 ^ 47 ≤ addr then some (hostReadReg s (addr - 2 ^ 47) n)
    else if !as.isEmpty && as.all (inDump s) then
      some { s with host := .data (as.map (dumpByte s)) }
    else if backoffAt s as then none
    else if as.any (guarded s) then some { logRefused s addr with host := .unsuccessful }
    else if as.any fun a => !exists_ s a || s.badMem.contains (a / 64) then some { s with host := .unsuccessful }
    else some { correctReads s as with host := .data (readBytes s.mem addr n) })

/-- MSIX_VECTOR0_TIMER: ten microseconds have passed; entries written meanwhile make vector 0 fire once (R364). -/
def execMsixVector0Timer (s : State) : Out :=
  eventOut s (
    if !s.unit.throttle then none
    else some (modUnit s fun u =>
      if u.again then { u with fired0 := u.fired0 + 1, again := false } else { u with throttle := false }))

/-! ## Fatal errors and reset (R323, R386) -/

/-- FATAL_ERROR (R322, R323, R380). -/
def execFatalError (cause die unit : Nat) (s : State) : Out := .next (goFatal s cause die unit)

/-- The header of the dump is written where its region lies. -/
def writeHeader (s : State) (base : Nat) (ws : List Word) : State :=
  ws.zipIdx.foldl (fun s p => if exists_ s (base + 8 * p.2) then writePhys s (base + 8 * p.2) 8 p.1.toNat else s) s

/-- DUMP_COMPLETE: the dump reaches the region that takes it, and is logged (R323, R364). -/
def execDumpComplete (s : State) : Out :=
  eventOut s <| match s.fatal with
  | none => none
  | some f =>
    if f.dumped then none
    else
      (dumpDie s).map fun d =>
        let base := field (dumpRegion s d) 0 39 * 256
        let (cycles, s0) := allCycles s
        let s1 := writeHeader { s0 with fatal := some { f with dumped := true } } base (dumpHeader f cycles)
        logEntry s1 8 0 0 0 (wordOfNat base) 0 0

/-- PACKAGE_RESET: every register takes its reset value and every counter 0, and bring-up begins (R386). What memory holds, the keys of
manufacture, and the model's own names and draws stay (log 11). -/
def execPackageReset (s : State) : Out :=
  let r := State.reset
  .next { r with mem := s.mem, badMem := s.badMem, softMem := s.softMem, rot := { r.rot with keys := s.rot.keys },
                 nextUid := s.nextUid, nextHid := s.nextHid, drawn := s.drawn, agenda := s.agenda }

/-- A core that fails its self-test is retired at once: the spare of its cluster takes its number, or the number is withdrawn (R10,
R386). -/
def retireAtOnce (s : State) (core : Nat) : State :=
  if (clusterAt s (clusterOf core)).spareUsed then modCore s core fun c => { c with present := false }
  else modCluster s (clusterOf core) fun c => { c with spareUsed := true }

/-- A step of bring-up: the firmware image verifies or the package stays halted, failing cores are retired, a stack that fails to train is
fatal at its die (R14), clusters start at level 16 and skew 4 with the rail at its ceiling and enter Gated, and FULL clears (R386, log
11). -/
def bringUp (s : State) (image : Bool) (failing : List Nat) (stack : Option Nat) : State :=
  match s.boot with
  | 1 => { s with boot := if image then 2 else 6 }
  | 2 => { failing.foldl retireAtOnce s with boot := 3 }
  | 3 =>
    match stack with
    | some d => goFatal s 3 (d / 4) d
    | none =>
      { s with boot := 4, clusters := s.clusters.map (fun c => { c with level := 16, kern := 4 }),
               dies := s.dies.map fun d => { d with vnow := d.vmax } }
  | 4 => { s with boot := 5, clusters := s.clusters.map fun c => if c.gateen then { c with pstate := .gated } else c }
  | 5 => { s with boot := 0 }
  | _ => s

end Sys2Proof.Machine
end

