-- ==== Sys2Proof/Machine/Inval.lean ====
section
/-! DEFINITION. Invalidation (R75, R260, R261) and the fills of the ORC and the map cache (R74, R77). -/

namespace Sys2Proof.Machine

/-- The completion register of ICINV and ORCINV: s1 to s23 (R243). -/
def doneReg (o : SOp) : Except Stop (Fin 24) :=
  match o with
  | .q _ => trapOf cIllegal
  | .s n => if n.val = 0 then trapOf cIllegal else .ok n

/-- An invalidation begins after the predecessors of its slot, at package scope (R260, R261); its latch holds the address and the
length. -/
def beginInval (kind : TransferKind) (env : Env) (p : Fin 24) (a n : Word) (s : State) : State :=
  let l : Vector Word 16 := vset (vset (Vector.replicate 16 0) 0 a) 1 n
  addTransfer s { newTransfer s kind env p l [] none none with tid := 0, scope := 4 } false

/-- ICINV (R260). -/
def execIcinv (sd sa sb : SOp) (g : Fin 8) (s : State) : Out :=
  let env := scalarEnv s g
  finishSlot s env.slot do
    legal [sa, sb] []
    let p ← doneReg sd
    useX s p
    let (a, s1) ← readSrc sa s
    let (n, s2) ← readSrc sb s1
    if 2 ^ 44 < offsetOf a + n.toNat then trapOf cAddrForm (addrInfo (handleOf a) 0 0 0)
    else
      let s2 ← firm s2
      return retire (beginInval .icinv env p a n s2)

/-- ORCINV (R261): a galley handle completes at once. -/
def execOrcinv (sd sa : SOp) (g : Fin 8) (s : State) : Out :=
  let env := scalarEnv s g
  finishSlot s env.slot do
    legal [sa] []
    let p ← doneReg sd
    useX s p
    let (a, s1) ← readSrc sa s
    if (galleyOf (handleOf a)).isSome then return retire (modRegs s1 fun r => setX r p.val 0)
    else
      let s1 ← firm s1
      return retire (beginInval .orcinv env p a 0 s1)

/-- A code address lies in the range of an ICINV, or the range is all code (R260). -/
def inRange (a n pc : Word) : Bool :=
  n == 0 || (handleOf pc == handleOf a && decide (offsetOf a < offsetOf pc + 4) && decide (offsetOf pc < offsetOf a + n.toNat))

/-- The word that memory holds at an address of a context, as an instruction. -/
def instrAt (s : State) (h : Hart) (pc : Word) : Option Instr :=
  match scalarElements s { ctx := h.ctx, otb := h.otb, core := some h.core, pin := none } 3 pc 4 with
  | .ok es =>
    match decode (BitVec.ofNat 32 (readPlaces s (es.map (·.place)))) with
    | .ok i => some i
    | .error _ => none
  | .error _ => none

/-- The fetched instructions of a range that have not issued are fetched again, those of an open stick body excepted: the hart goes back to
the first that is another now (R146, R260), but not past an effect that nothing takes back (log 107). -/
def refetch (s : State) (a n : Word) (h : Hart) : Hart :=
  match h.flights.find? fun f =>
      f.parked && decide (h.firmSeq ≤ f.seq) && inRange a n f.env.pc && !f.before.stick.active && instrAt s h f.env.pc != some f.instr with
  | some f => rewind f h
  | none => h

/-- ICINV_DONE (R260). -/
def execIcinvDone (x : Nat) (s : State) : Out :=
  eventOut s <| match findTransfer s x with
  | none => none
  | some t =>
    if t.kind != .icinv || transferBlocked s t then none
    else
      let a := vget t.latch 0 0
      let n := vget t.latch 1 0
      let s1 := { s with cores := s.cores.map fun (c : Nat × Core) =>
        (c.1, { c.2 with icache := c.2.icache.filter fun e => !(e.ctx == t.ctx && inRange a n e.pc) }) }
      let s2 := modHarts s1 fun h => if h.ctx = t.ctx ∧ h.hid ≠ 0 then refetch s1 a n h else h
      some (endTransfer s2 t 0 false)

/-- An access of a context through a handle, or through any for handle 0, has been probed and has not performed (R75, R80). -/
def usesHandle (ctx h : Nat) (x : Hart) : Bool :=
  x.ctx == ctx && ((x.flights.any fun f => !f.parked && f.spans.any fun y => h == 0 || y.handle == h) || stripNames x.r h)

/-- A transfer of a context has still to write elements whose translation through a handle, or through any for handle 0, it holds: a
collective that has staged, and a copy that has read blocks ahead (R75, R88, R105). -/
def holdsHandle (ctx h : Nat) (u : Transfer) : Bool :=
  u.ctx == ctx && u.ended.isNone && ((u.kind == .coll && u.staged) || (u.kind == .copy && !u.prepared.isEmpty)) &&
    (u.spans.drop (u.spans.length - 1)).any fun y => h == 0 || y.handle == h

/-- ORCINV_DONE: the handle is dropped everywhere once every access through it has performed (R75, R261). -/
def execOrcinvDone (x : Nat) (s : State) : Out :=
  eventOut s <| match findTransfer s x with
  | none => none
  | some t =>
    let h := handleOf (vget t.latch 0 0)
    if t.kind != .orcinv || transferBlocked s t || (allHarts s).any (usesHandle t.ctx h) ||
        s.transfers.any (holdsHandle t.ctx h) then none
    else
      let s1 := { s with cores := s.cores.map fun (c : Nat × Core) =>
        (c.1, { c.2 with orc := c.2.orc.filter fun e => !(e.ctx == t.ctx && (h == 0 || e.handle == h)),
                         maps := c.2.maps.filter fun e => !(e.ctx == t.ctx && (h == 0 || e.handle == h)) }) }
      some (endTransfer s1 t 0 false)

/-! ## Fills -/

/-- Who translates on a core for a context that a hart of the core runs. -/
def whoOnCore (s : State) (core ctx : Nat) : Option Who :=
  ((allHarts s).find? fun h => h.core == core && h.ctx == ctx).map fun h =>
    { ctx := ctx, otb := h.otb, core := some core, pin := none }

/-- ORC_FILL: a record that a core misses is read, checked and placed (R70, R74). -/
def execOrcFill (core ctx handle : Nat) (s : State) : Out :=
  eventOut s <| match whoOnCore s core ctx with
  | none => none
  | some w =>
    match lookupRecord s w handle 0 with
    | .ok r => some (touchOrc s core ctx handle r)
    | .error _ => none

/-- MAP_ENTRY_FILL: a sub-tile entry of a partial object is read, checked and cached (R74, R77). -/
def execMapEntryFill (core ctx handle st : Nat) (s : State) : Out :=
  eventOut s <| match whoOnCore s core ctx with
  | none => none
  | some w =>
    match lookupRecord s w handle 0 with
    | .ok r =>
      let e := mapEntry s w handle r st
      if r.state = 1 ∧ st < mapEntries r ∧ field e 32 16 = 0 ∧ bitAt e 31 then
        some (touchMap (touchOrc s core ctx handle r) core ctx handle st e)
      else none
    | .error _ => none

end Sys2Proof.Machine
end

