-- ==== Sys2Proof/Machine/Move.lean ====
section
/-! DEFINITION. OBJMOVE and its states (R79 to R82, R262). -/

namespace Sys2Proof.Machine

/-- The object a move moves. -/
def moveHandle (t : Transfer) : Nat := namedHandle t

/-- The base a move moves to, in bytes. -/
def newBase (t : Transfer) : Nat := field (vget t.latch 1 0) 0 39 * 256

/-- The bytes of an image with its companion plane (R68, R69). -/
def imageSize (r : Record) : Nat := if r.gsz = 0 then imageExtent r else planeStart r + planeExtent r

/-- The status code with which a move of a record is refused (R81). -/
def moveRefused (s : State) (r : Record) (nb : Nat) : Option Nat :=
  let n := imageSize r
  if r.state = 1 then some 0x20
  else if r.state = 2 then some 0x21
  else if nb < r.base + n ∧ r.base < nb + n then some 0x22
  else if (List.range n).all fun i => physOk s (nb + i) then none
  else some 0x23

/-- The status code with which OBJMOVE ends at once, and the record it moves else (R262). -/
def moveChecks (s : State) (a b : Word) : Except Nat Record :=
  let h := handleOf a
  if field b 39 25 ≠ 0 then .error 0x19
  else if (galleyOf h).isSome then .error 0x24
  else match lookupRecord s (whoMe s) h 6 with
    | .error _ => .error 0x24
    | .ok r =>
      if !permOk r 6 then .error 0x12
      else match moveRefused s r (field b 0 39 * 256) with
        | some c => .error c
        | none => .ok r

/-- The moves of a context in progress (R81). -/
def movesOf (s : State) (ctx : Nat) : Nat := (s.transfers.filter fun t => t.kind == .move && t.ctx == ctx).length

/-- A move begins to drain, or is refused when another move of the handle has begun (R79, R81). -/
def beginDrain (s : State) (t : Transfer) : State :=
  if (moveOf s t.ctx (moveHandle t)).isSome then endTransfer s t (statusWord 0x21 t.tid.toNat 0 0) true
  else
    let q := recordAt s (recordAddr t.otb (moveHandle t))
    let r := vset (vset q 0 (putField (q.word 0) 39 2 2)) 1 (putField (q.word 1) 0 39 (field (vget t.latch 1 0) 0 39))
    setTransfer (putRecord s t.ctx t.otb (moveHandle t) r) { t with draining := true, moved := some r }

/-- OBJMOVE (R262). -/
def execObjmove (sd sa sb : SOp) (fx : BitVec 5) (s : State) : Out :=
  let env := scalarEnv s 0
  finishSlot s env.slot do
    legal [sa, sb] [sd]
    ensure (decide (1 ≤ fx.toNat) && decide (fx.toNat ≤ 23)) cIllegal
    let p ← pendingReg (.s ⟨fx.toNat % 24, Nat.mod_lt _ (by decide)⟩) sd
    ensure s.me.rtable cPrivilege
    let (a, s1) ← readSrc sa s
    let (b, s2) ← readSrc sb s1
    transferRoom s2
    streamRoom s2 (slotStream env.slot)
    useX s2 p
    let s2 ← firm s2
    holds (decide (movesOf s2 s.me.ctx < 8)) .limit
    let tid := nextTid s2
    match moveChecks s2 a b with
    | .error c =>
      let s3 ← writeDst sd (wordOfNat tid.toNat) s2
      return retire (endAtOnce s3 tid p c)
    | .ok r =>
      tableRoom s2 1
      let l : Vector Word 16 := vset (vset (Vector.replicate 16 0) 0 a) 1 b
      let span : Span := { handle := handleOf a, lo := 0, hi := imageSize r }
      let t := newTransfer s2 .move env p l [span] none none
      let s3 ← writeDst sd (wordOfNat tid.toNat) s2
      let s4 := addTransfer s3 t true
      return retire (if transferBlocked s4 t then s4 else beginDrain s4 t)

/-- An access of a hart is tagged with the old generation of the object that a move moves: it was probed before the move began, and is
not ordered after the move in its own hart (R79, R80). -/
def oldAccess (t : Transfer) (h : Hart) : Bool :=
  let late (seq : Nat) (pmask : BitVec 16) (strip : Bool) : Bool := t.owner == some h.hid && afterMove t seq pmask strip
  h.ctx == t.ctx &&
    ((h.flights.any fun f => !f.parked && !late f.seq f.pmask f.released && spansName (moveHandle t) f.spans) ||
      h.r.strip.stores.any fun x => !late x.seq x.pmask true && spansName (moveHandle t) x.spans)

/-- A collective that has staged its share has probed the destination it has still to write, and so has a copy those of the blocks that
it has read and has still to write (R80, R88, R105). -/
def stagedOver (t u : Transfer) : Bool := holdsHandle t.ctx (moveHandle t) u

/-- Accesses of the old generation keep a move in draining (R79, R80). -/
def drainHeld (s : State) (t : Transfer) : Bool := (allHarts s).any (oldAccess t) || s.transfers.any (stagedOver t)

/-- MOVE_DRAIN_END: a move whose predecessors have performed begins to drain; one whose drain has ended begins to copy (R79, R80). -/
def execMoveDrainEnd (x : Nat) (s : State) : Out :=
  eventOut s <| match findTransfer s x with
  | none => none
  | some t =>
    if t.kind != .move || t.copying then none
    else if !t.draining then (if transferBlocked s t then none else some (beginDrain s t))
    else if drainHeld s t then none
    else some (setTransfer s { t with copying := true })

/-- The bytes of 64-byte words of an image that hold an uncorrectable error, as an offset. -/
def badByte (s : State) (r : Record) : Option Nat := findIdx (fun i => s.badMem.contains ((r.base + i) / 64)) (imageSize r)

/-- A place of the old image as it stands in the new one. -/
def shiftPlace (old n new : Nat) (p : Place) : Place :=
  if p.core.isNone ∧ old ≤ p.addr ∧ p.addr < old + n then { p with addr := new + (p.addr - old) } else p

/-- The operations of the hart of a move that are ordered after it go to the new base (R79, R82, log 49). -/
def retarget (t : Transfer) (f : Place → Place) (h : Hart) : Hart :=
  let hit (seq : Nat) (pmask : BitVec 16) (strip : Bool) (spans : List Span) : Bool :=
    afterMove t seq pmask strip && spansName (moveHandle t) spans
  let flight (x : Flight) : Flight :=
    if !x.parked && hit x.seq x.pmask x.released x.spans then
      { x with action := shiftAction f x.action, marks := x.marks.map fun m => { m with place := f m.place } }
    else x
  let store (x : StripStore) : StripStore :=
    if hit x.seq x.pmask true x.spans then { x with writes := x.writes.map fun w => (f w.1, w.2) } else x
  if t.owner ≠ some h.hid then h
  else
    { h with flights := h.flights.map flight,
             r := { h.r with strip := { h.r.strip with stores := h.r.strip.stores.map store } } }

/-- The element of an object that an image byte belongs to, the lowest one; a byte of the companion plane belongs to the elements of its
group (R69, R79). DESIGN CHOICE (log 95): a byte that belongs to none, in a stride gap or in the padding before the plane, names element
0. -/
def elementAt (r : Record) (i : Nat) : Nat :=
  (findIdx (fun k =>
    let c := coordOf (r.dims.map r.shape) k
    let o := imageOffset r c * r.bits
    let e := planeStart r + planeNumber r c * planeEntry r
    if r.gsz ≠ 0 ∧ planeStart r ≤ i then decide (e ≤ i) && decide (i < e + planeEntry r)
    else decide (o / 8 ≤ i) && decide (i < ceilDiv (o + r.bits) 8)) r.count).getD 0

/-- The first byte of an image that may not be copied: its old or its new address is none, or is guarded (R51, R346). -/
def holeByte (s : State) (t : Transfer) : Option Nat :=
  let r := moveRecord s t
  findIdx (fun i => !physOk s (r.base + i) || !physOk s (newBase t + i)) (imageSize r)

/-- The addresses that a move copies wait for no back-off window (R57). -/
def moveFree (s : State) (t : Transfer) : Bool :=
  let r := moveRecord s t
  noWindows s || !backoffAt s ((List.range (imageSize r)).flatMap fun i => [r.base + i, newBase t + i])

/-- The record of an object that has been moved (R79). -/
def movedRecord (t : Transfer) (q : Record) : Record :=
  vset (vset q 0 (putField (putField (q.word 0) 0 39 (field (vget t.latch 1 0) 0 39)) 39 2 0)) 1
    (putField (putField (q.word 1) 0 39 0) 39 16 (field (q.word 1) 39 16 + 1))

/-- MOVE_COPY_END (R79). Bytes that no engine may reach end the move as a hole (R51, R346, log 82). -/
def execMoveCopyEnd (x : Nat) (s : State) : Out :=
  eventOut s <| match findTransfer s x with
  | none => none
  | some t =>
    let r := moveRecord s t
    if t.kind != .move || !t.copying || (badByte s r).isSome || !moveFree s t then none
    else match holeByte s t with
      | some i => some (endTransfer (cancelMove s t) t (statusWord 0x15 t.tid.toNat 0 (elementAt r i)) true)
      | none =>
        let n := imageSize r
        let s0 := if s.softMem.isEmpty then s else correctReads s ((List.range n).map (r.base + ·))
        let s1 := writePhys s0 (newBase t) n (readPhys s0 r.base n)
        let s2 := putRecord s1 t.ctx t.otb (moveHandle t) (movedRecord t r)
        let s3 := modHarts s2 (retarget t (shiftPlace r.base n (newBase t)))
        some (endTransfer s3 t (statusWord 0 t.tid.toNat 0 0) true)

/-- The old or the new address of an image byte lies in the second tier. -/
def inTier (t : Transfer) (r : Record) (i : Nat) : Bool :=
  decide (0x40000000000 ≤ r.base + i) || decide (0x40000000000 ≤ newBase t + i)

/-- MOVE_ABORT: an uncorrectable error (0x17) or a port loss (0x18) strikes the copy of a move at an element (R79, R90). -/
def execMoveAbort (x code elem : Nat) (s : State) : Out :=
  eventOut s <| match findTransfer s x with
  | none => none
  | some t =>
    let r := moveRecord s t
    let struck :=
      if code = 0x17 then (badByte s r).map (elementAt r) == some elem
      else code == 0x18 && decide (elem < r.count) &&
        inTier t r (imageOffset r (coordOf (r.dims.map r.shape) elem) * r.bits / 8)
    if t.kind != .move || !t.copying || !struck then none
    else some (endTransfer (cancelMove s t) t (statusWord code t.tid.toNat 0 elem) true)

end Sys2Proof.Machine
end

