-- ==== Sys2Proof/Machine/Auto.lean ====
section
/-! DEFINITION. Which step another agent takes when no turn is named: the first that is due (log 1). Each clause names a step only when its
meaning would change the machine. -/

namespace Sys2Proof.Machine

/-- A hart takes steps: it is live, in the active bank of a core that it is not to leave, and its cluster is active (R296, R316,
R381). -/
def runs (s : State) (h : Hart) : Bool :=
  h.live && h.bank == .active && clusterActive s (clusterOf h.core) && !(getCore s h.core).leaving

/-- The hart in focus stands at a boundary with a held cause that it may take (R310). -/
def asyncHeld (s : State) : Bool := runs s s.me && !s.me.asyncs.isEmpty && !bitAt (vget s.me.r.frame 0x14 0) 0

/-- It takes the cause, unless the object of the trap vector moves (R79, R310). -/
def asyncDue (s : State) : Option Instr :=
  if asyncHeld s && !(lowestAsync s.me.asyncs).any (fun a => vectorMoving s a.code) then some .asyncTrap else none

/-- An operation of a hart that may perform (R273). -/
def performDue (s : State) (h : Hart) : Option Instr :=
  h.flights.findSome? fun f =>
    match h.flights.find? fun x => !x.parked && x.seq == f.seq with
    | some x => if canPerform s h x then some (.memoryOpPerform h.hid f.seq) else none
    | none => none

/-- The step of a move that is due (R79). -/
def moveDue (s : State) (t : Transfer) : Option Instr :=
  if t.copying then
    match badByte s (moveRecord s t) with
    | some i => some (.moveAbort t.uid 0x17 (elementAt (moveRecord s t) i))
    | none => if moveFree s t then some (.moveCopyEnd t.uid) else none
  else if t.draining then (if drainHeld s t then none else some (.moveDrainEnd t.uid))
  else if transferBlocked s t then none else some (.moveDrainEnd t.uid)

/-- The step of a collective that is due at a participant of this package (R373). -/
def collDue (s : State) (t : Transfer) : Option Instr :=
  match collOf s t with
  | none => none
  | some c =>
    if c.home && c.decided.isSome then (if c.decided = some true && commitWaits s t then none else some (.collDecision t.uid 0))
    else if stageDue s t && ((participant s c.comm c.index (crank t.latch)).map (·.uid)) == some t.uid then
      some (.collReady c.comm c.index (crank t.latch) ([], []))
    else none

/-- The step of a transfer that is due. -/
def transferDue (s : State) (t : Transfer) : Option Instr :=
  match t.kind with
  | .copy =>
    if (copyOutcome s t).isSome then some (.copyEnd t.uid)
    else if blockDue s t (nextBlock t) then some (.copyBlock t.uid (nextBlock t)) else none
  | .coll => collDue s t
  | .move => moveDue s t
  | .icinv => if transferBlocked s t then none else some (.icinvDone t.uid)
  | .orcinv =>
    if transferBlocked s t || (allHarts s).any (usesHandle t.ctx (handleOf (vget t.latch 0 0))) then none
    else some (.orcinvDone t.uid)

/-- A decrement that may arrive (R288). -/
def decrementDue (s : State) : Option Instr :=
  let ready (d : Nat × Nat × Bool) : Bool := match findNode s d.1 d.2.1 with
    | some n => n.st != .waiting || n.counter != 1 || !coloMoving s n
    | none => tableFree s
  (s.unit.decs.find? ready).map fun d => .decrement d.1 d.2.1 d.2.2

/-- The step of a node that is due (R289, R291, R294, R301). -/
def nodeDue (s : State) (n : Node) : Option Instr :=
  match n.st with
  | .ready =>
    match nodeKind n.record with
    | 3 => if condWaits s n then none else some (.conditionalRead n.ctx n.id)
    | 2 => if collsOnDie s (dieOf (16 * nodeClu n.record)) < 4 then some (.kernelPlacement n.ctx n.id) else none
    | 0 =>
      if kernelWaits s n then none
      else match placementChecks s n with
      | .error _ => some (.kernelPlacement n.ctx n.id)
      | .ok _ =>
        let allowed := allowedCores s n.record
        let free := (allowed.filter (coreFree s)).length
        let need := coresNeeded n.record - free
        if need = 0 then some (.kernelPlacement n.ctx n.id)
        else if 2 ≤ n.slices ∧ need ≤ (allowed.filter (preemptible s)).length then some (.preemptCores n.ctx n.id)
        else none
    | _ => none
  | .running =>
    if nodeKind n.record == 0 && n.ended == nodeHarts n.record && !coloMoving s n then some (.nodeComplete n.ctx n.id) else none
  | .ending _ => if coloMoving s n then none else some (.nodeComplete n.ctx n.id)
  | _ => none

/-- The step of intake that is due (R293, R363). -/
def queueDue (s : State) : Option Instr :=
  match s.unit.queues.find? fun i => i.work && !i.slot with
  | some i => if slotsUsed s < 64 then some (.queueSlotGrant i.queue) else records
  | none => records
where
  /-- The record of a queue that holds a slot. -/
  records : Option Instr :=
    if tableFree s then
      (s.unit.queues.find? fun i => i.work && i.slot && !intakeWaits s i).map fun i => .recordIntake i.queue
    else none

/-- The harts of a core may move, or the cluster of their target be woken (R296). -/
def moveReady (s : State) (core : Nat) : Bool :=
  (getCore s core).leaving && !moveWaits s core &&
    (moveTarget s core).any fun t => (clusterAt s (clusterOf t)).pstate != .waking

/-- The step of the banks of a core that is due, or the move of its harts (R296, R316). -/
def coreDue (s : State) (c : Nat × Core) : Option Instr :=
  let k := getCore s c.1
  if moveReady s c.1 then some (.hartMigration c.1)
  else match k.shadow with
  | .filling => ((allHarts s).find? fun h => h.core == c.1 && h.bank == .shadow).map fun h => .bankFillDone c.1 h.ctx
  | .spilling => some (.spillDone c.1)
  | .clean => if swapPending s c.1 && !mmaInFlight s c.1 then some (.bankExchange c.1) else none
  | .free => none

/-- The step of the in-rush arbiter that is due (R382). -/
def arbiterDue (s : State) : Option Instr :=
  match s.ramping, s.arbiter with
  | some _, _ => some .wakeDone
  | none, _ :: _ => some .wakeRampStart
  | none, [] => none

/-- An installation waits for an object that moves (R79). -/
def installWaits (s : State) (q : Request) : Bool :=
  s.transfers.any (fun t => t.kind == .move) && (match planInstall s q with
    | .error none => true
    | _ => false)

/-- The step of the root-of-trust core that is due (R347). -/
def trustDue (s : State) : Option Instr :=
  match s.rot.queue with
  | [] => none
  | a :: _ =>
    let q := requestAt s a
    match resultPlaces s q with
    | .error _ => none
    | .ok none => some .installObject
    | .ok (some _) =>
      if field (reqWord q 1) 48 2 = 1 then some .removeObject else if installWaits s q then none else some .installObject

/-- A retirement that is held or has waited may be taken (R53). -/
def retireDue (s : State) : Option Instr :=
  ([0, 1].find? fun d =>
    let m := mcbOf s d
    m.migrating.isNone && (!m.waiting.isEmpty || (takeHeld m).migrating.isSome)).map .migrationStart

/-- The repair of a lane may proceed (R369). -/
def repairDue (s : State) : Option Instr :=
  ((List.range 16).find? fun n => (repairLane (portAt s n)).isSome).map .laneRepair

/-- The step of another agent that is due. -/
def autoEvent (s : State) : Option Instr :=
  (asyncDue s).or <| ((allHarts s).findSome? (performDue s)).or <| (s.transfers.findSome? (transferDue s)).or <|
    (decrementDue s).or <| (s.unit.nodes.findSome? (nodeDue s)).or <| (queueDue s).or <| (s.cores.findSome? (coreDue s)).or <|
    (arbiterDue s).or <| (trustDue s).or <| (retireDue s).or (repairDue s)

end Sys2Proof.Machine
end

