-- ==== Sys2Proof/Machine/Barrier.lean ====
section
/-! DEFINITION. Group barriers (R254, R255). -/

namespace Sys2Proof.Machine

/-- The node of the hart in focus and the group of it that a register names: below 256, not empty, and with the hart as a
member (R255). -/
def ownGroup (s : State) (a : Word) : Except Stop (Node × Group) :=
  match findNode s s.me.ctx s.me.node with
  | none => trapOf cGroup
  | some n =>
    match n.groups.find? fun (e : Nat × Group) => e.1 == a.toNat with
    | none => trapOf cGroup
    | some e => if a.toNat < 256 ∧ e.2.members.contains s.me.launch then .ok (n, e.2) else trapOf cGroup

/-- The arrival of an instruction may be made: the hart has not arrived in the phase, and what comes before it has performed
(R255, R274, R279). -/
def arrivalReady (i : Instr) (env : Env) (s : State) (g : Group) : Except Stop State := do
  holds (!g.arrived.contains s.me.launch) WaitReason.phase
  let s ← firm s
  let wide := slotScope env.slot != 0
  let f := opOf i env s [] false (.load (.s 0) [] 8 false)
  ensure (!waitsForProof s s.me f !wide) cStripState
  streamRoom s (slotStream env.slot)
  holds (!orderBlocked s s.me f !wide) WaitReason.ordering
  return s

/-- The hart arrives: one operation of its stream (R254, R255). -/
def arrive (env : Env) (n : Node) (k : Nat) (s : State) : State :=
  let i := s.me.launch
  let stream := slotStream env.slot
  modMe (setNode (nextSeq s) (modGroup n k (arriveIn i))) fun h => countPerf (countIssued h stream) stream

/-- PHASE has passed a phase (R255). -/
def phasePassed (now : BitVec 16) (x : Nat) : Bool :=
  let d := (now.toNat + 2 ^ 16 - x % 2 ^ 16) % 2 ^ 16
  decide (1 ≤ d) && decide (d ≤ 2 ^ 15)

/-- GARRIVE (R255). -/
def execGarrive (sd sa : SOp) (g : Fin 8) (s : State) : Out :=
  let env := scalarEnv s g
  finishSlot s env.slot do
    legal [sa] [sd]
    let (a, s1) ← readSrc sa s
    let (n, grp) ← ownGroup s1 a
    dstReady sd s1
    let s1 ← arrivalReady (.garrive sd sa g) env s1 grp
    let s2 ← writeDst sd (wordOfNat grp.phase.toNat) (arrive env n a.toNat s1)
    return retire s2

/-- GWAIT (R255). -/
def execGwait (sa sb : SOp) (g : Fin 8) (s : State) : Out :=
  finishSlot s (slotOf s g) do
    legal [sa, sb] []
    let (a, s1) ← readSrc sa s
    let (x, s2) ← readSrc sb s1
    let (_, grp) ← ownGroup s2 a
    ensure (decide (x.toNat < 2 ^ 16)) cMode
    holds (phasePassed grp.phase x.toNat) WaitReason.phase
    return retire s2

/-- A barrier token (R254, R306). -/
def tokenOf (group phase : Nat) : Word := wordOfNat (group % 256 + (phase % 65536) <<< 8 + 1 <<< 24)

/-- Set the barrier token. -/
def withToken (t : Word) (s : State) : State := modRegs s fun r => { r with token := t }

/-- GBAR (R255): it arrives unless its token says that it has, and then waits for the phase; the token outlives a wait that is
abandoned. -/
def execGbar (sa : SOp) (g : Fin 8) (s : State) : Out :=
  let env := scalarEnv s g
  finishSlot s env.slot do
    legal [sa] []
    let (a, s1) ← readSrc sa s
    let (n, grp) ← ownGroup s1 a
    let t := s.me.r.token
    if bitAt t 24 ∧ field t 0 8 = a.toNat then
      holds (phasePassed grp.phase (field t 8 16)) WaitReason.phase
      return retire (withToken 0 s1)
    else
      let s1 ← arrivalReady (.gbar sa g) env s1 grp
      let after := arriveIn s.me.launch grp
      if phasePassed after.phase grp.phase.toNat then return retire (withToken 0 (arrive env n a.toNat s1))
      else
        return modMe (withToken (tokenOf a.toNat grp.phase.toNat) (arrive env n a.toNat (passOn s))) fun h =>
          { h with wait := some WaitReason.phase }

end Sys2Proof.Machine
end

