-- ==== Sys2Proof/Machine/Integer.lean ====
section
/-! DEFINITION. Integer arithmetic, constants and object addresses (R132 to R135). -/

namespace Sys2Proof.Machine

/-- 1 for true, 0 for false (R132). -/
def boolW (b : Bool) : Word := if b then 1 else 0
/-- Shift left by sb[5:0] (R132). -/
def sllW (a b : Word) : Word := a <<< (b.toNat % 64)
/-- Shift right by sb[5:0], zeros in (R132). -/
def srlW (a b : Word) : Word := a >>> (b.toNat % 64)
/-- Shift right by sb[5:0], sign in (R132). -/
def sraW (a b : Word) : Word := a.sshiftRight (b.toNat % 64)
/-- Signed minimum (R132). -/
def minS (a b : Word) : Word := if a.slt b then a else b
/-- Signed maximum (R132). -/
def maxS (a b : Word) : Word := if a.slt b then b else a
/-- Unsigned minimum (R132). -/
def minU (a b : Word) : Word := if a.ult b then a else b
/-- Unsigned maximum (R132). -/
def maxU (a b : Word) : Word := if a.ult b then b else a
/-- Bits [127:64] of the signed product (R132). -/
def mulhW (a b : Word) : Word := wordOfInt ((a.toInt * b.toInt) / (2 ^ 64 : Nat))
/-- Bits [127:64] of the unsigned product (R132). -/
def mulhuW (a b : Word) : Word := wordOfNat (a.toNat * b.toNat / 2 ^ 64)

/-- The largest signed value. -/
def maxSigned : Word := 0x7FFFFFFFFFFFFFFF
/-- The least signed value. -/
def minSigned : Word := 0x8000000000000000

/-- DIV: the quotient truncated toward zero, saturating toward the true result (R132). -/
def divW (a b : Word) : Word :=
  if b = 0 then (if a = 0 then 0 else if a.slt 0 then minSigned else maxSigned)
  else if a = minSigned ∧ b = -1 then maxSigned
  else wordOfInt (a.toInt.tdiv b.toInt)

/-- DIVU (R132). -/
def divuW (a b : Word) : Word :=
  if b = 0 then (if a = 0 then 0 else -1) else wordOfNat (a.toNat / b.toNat)

/-- REM: the remainder with the sign of sa, 0 with no divisor (R132). -/
def remW (a b : Word) : Word := if b = 0 then 0 else wordOfInt (a.toInt.tmod b.toInt)

/-- REMU (R132). -/
def remuW (a b : Word) : Word := if b = 0 then 0 else wordOfNat (a.toNat % b.toNat)

/-- ADD (R132). -/
def execAdd (sd sa sb : SOp) (s : State) : Out := scalar2 sd sa sb (fun a b => a + b) s
/-- SUB (R132). -/
def execSub (sd sa sb : SOp) (s : State) : Out := scalar2 sd sa sb (fun a b => a - b) s
/-- AND (R132). -/
def execAnd (sd sa sb : SOp) (s : State) : Out := scalar2 sd sa sb (fun a b => a &&& b) s
/-- OR (R132). -/
def execOr (sd sa sb : SOp) (s : State) : Out := scalar2 sd sa sb (fun a b => a ||| b) s
/-- XOR (R132). -/
def execXor (sd sa sb : SOp) (s : State) : Out := scalar2 sd sa sb (fun a b => a ^^^ b) s
/-- SLL (R132). -/
def execSll (sd sa sb : SOp) (s : State) : Out := scalar2 sd sa sb (fun a b => sllW a b) s
/-- SRL (R132). -/
def execSrl (sd sa sb : SOp) (s : State) : Out := scalar2 sd sa sb (fun a b => srlW a b) s
/-- SRA (R132). -/
def execSra (sd sa sb : SOp) (s : State) : Out := scalar2 sd sa sb (fun a b => sraW a b) s
/-- SLT (R132). -/
def execSlt (sd sa sb : SOp) (s : State) : Out := scalar2 sd sa sb (fun a b => boolW (a.slt b)) s
/-- SLTU (R132). -/
def execSltu (sd sa sb : SOp) (s : State) : Out := scalar2 sd sa sb (fun a b => boolW (a.ult b)) s
/-- MIN (R132). -/
def execMin (sd sa sb : SOp) (s : State) : Out := scalar2 sd sa sb (fun a b => minS a b) s
/-- MAX (R132). -/
def execMax (sd sa sb : SOp) (s : State) : Out := scalar2 sd sa sb (fun a b => maxS a b) s
/-- MINU (R132). -/
def execMinu (sd sa sb : SOp) (s : State) : Out := scalar2 sd sa sb (fun a b => minU a b) s
/-- MAXU (R132). -/
def execMaxu (sd sa sb : SOp) (s : State) : Out := scalar2 sd sa sb (fun a b => maxU a b) s
/-- MUL (R132). -/
def execMul (sd sa sb : SOp) (s : State) : Out := scalar2 sd sa sb (fun a b => a * b) s
/-- MULH (R132). -/
def execMulh (sd sa sb : SOp) (s : State) : Out := scalar2 sd sa sb (fun a b => mulhW a b) s
/-- MULHU (R132). -/
def execMulhu (sd sa sb : SOp) (s : State) : Out := scalar2 sd sa sb (fun a b => mulhuW a b) s
/-- DIV (R132). -/
def execDiv (sd sa sb : SOp) (s : State) : Out := scalar2 sd sa sb (fun a b => divW a b) s
/-- DIVU (R132). -/
def execDivu (sd sa sb : SOp) (s : State) : Out := scalar2 sd sa sb (fun a b => divuW a b) s
/-- REM (R132). -/
def execRem (sd sa sb : SOp) (s : State) : Out := scalar2 sd sa sb (fun a b => remW a b) s
/-- REMU (R132). -/
def execRemu (sd sa sb : SOp) (s : State) : Out := scalar2 sd sa sb (fun a b => remuW a b) s
/-- CLZ (R132). -/
def execClz (sd sa : SOp) (s : State) : Out := scalar1 sd sa (fun a => wordOfNat (clz a)) s
/-- CTZ (R132). -/
def execCtz (sd sa : SOp) (s : State) : Out := scalar1 sd sa (fun a => wordOfNat (ctz a)) s
/-- POPC (R132). -/
def execPopc (sd sa : SOp) (s : State) : Out := scalar1 sd sa (fun a => wordOfNat (popCount a.toNat 64)) s

/-- An instruction of one source and a sign-extended imm12 (R124, R133). -/
def scalarImm (sd sa : SOp) (imm : BitVec 12) (f : Word → Word → Word) (s : State) : Out :=
  scalar1 sd sa (fun a => f a (imm.signExtend 64)) s

/-- ADDI (R133). -/
def execAddi (sd sa : SOp) (imm : BitVec 12) (s : State) : Out := scalarImm sd sa imm (fun a b => a + b) s
/-- ANDI (R133). -/
def execAndi (sd sa : SOp) (imm : BitVec 12) (s : State) : Out := scalarImm sd sa imm (fun a b => a &&& b) s
/-- ORI (R133). -/
def execOri (sd sa : SOp) (imm : BitVec 12) (s : State) : Out := scalarImm sd sa imm (fun a b => a ||| b) s
/-- XORI (R133). -/
def execXori (sd sa : SOp) (imm : BitVec 12) (s : State) : Out := scalarImm sd sa imm (fun a b => a ^^^ b) s
/-- SLTI (R133). -/
def execSlti (sd sa : SOp) (imm : BitVec 12) (s : State) : Out := scalarImm sd sa imm (fun a b => boolW (a.slt b)) s
/-- SLTIU (R133). -/
def execSltiu (sd sa : SOp) (imm : BitVec 12) (s : State) : Out := scalarImm sd sa imm (fun a b => boolW (a.ult b)) s
/-- SLLI (R133). -/
def execSlli (sd sa : SOp) (sh : BitVec 6) (s : State) : Out := scalar1 sd sa (fun a => a <<< sh.toNat) s
/-- SRLI (R133). -/
def execSrli (sd sa : SOp) (sh : BitVec 6) (s : State) : Out := scalar1 sd sa (fun a => a >>> sh.toNat) s
/-- SRAI (R133). -/
def execSrai (sd sa : SOp) (sh : BitVec 6) (s : State) : Out := scalar1 sd sa (fun a => a.sshiftRight sh.toNat) s

/-- imm20 x 2^12 as a signed 32-bit value (R134). -/
def highPart (imm : BitVec 20) : Word := (imm ++ 0#12 : BitVec 32).signExtend 64

/-- LIH (R134). -/
def execLih (sd : SOp) (imm : BitVec 20) (s : State) : Out :=
  finish s do
    legal [] [sd]
    let s1 ← writeDst sd (highPart imm) s
    return retire s1

/-- PCHI: an address from the pc of the instruction itself (R134). -/
def execPchi (sd : SOp) (imm : BitVec 20) (s : State) : Out :=
  finish s do
    legal [] [sd]
    let a ← effAddr s.me.r.pc (intOf (highPart imm))
    let s1 ← writeDst sd a s
    return retire s1

/-- OBJ: sa displaced by sb, read as signed (R135). -/
def execObj (sd sa sb : SOp) (s : State) : Out :=
  finish s do
    legal [sa, sb] [sd]
    let (a, s1) ← readSrc sa s
    let (b, s2) ← readSrc sb s1
    let t ← effAddr a (intOf b)
    let s3 ← writeDst sd t s2
    return retire s3

/-- OBJH: an address from a handle and an offset (R135; its TINFO, log 92). -/
def execObjh (sd sa sb : SOp) (s : State) : Out :=
  finish s do
    legal [sa, sb] [sd]
    let (a, s1) ← readSrc sa s
    let (b, s2) ← readSrc sb s1
    if 2 ^ 20 ≤ a.toNat ∨ 2 ^ 44 ≤ b.toNat then
      trapOf cAddrForm (if a.toNat < 2 ^ 20 then addrInfo a.toNat 0 0 0 else 0)
    let s3 ← writeDst sd (wordOfNat (a.toNat * 2 ^ 44 + b.toNat)) s2
    return retire s3

/-- OBJO: the offset of an address (R135). -/
def execObjo (sd sa : SOp) (s : State) : Out := scalar1 sd sa (fun a => wordOfNat (offsetOf a)) s

end Sys2Proof.Machine
end

