-- ==== Sys2Proof/Machine/Dispatch.lean ====
section
/-! DEFINITION. The meaning of each instruction and event: one arm per constructor, one call of its meaning. -/

namespace Sys2Proof.Machine

/-- What an instruction does. -/
def exec (i : Instr) (s : State) : Host.Outcome State Fault Refusal :=
  match i with
  | .add sd sa sb => Sys2Proof.Machine.execAdd sd sa sb s
  | .sub sd sa sb => Sys2Proof.Machine.execSub sd sa sb s
  | .and sd sa sb => Sys2Proof.Machine.execAnd sd sa sb s
  | .or sd sa sb => Sys2Proof.Machine.execOr sd sa sb s
  | .xor sd sa sb => Sys2Proof.Machine.execXor sd sa sb s
  | .sll sd sa sb => Sys2Proof.Machine.execSll sd sa sb s
  | .srl sd sa sb => Sys2Proof.Machine.execSrl sd sa sb s
  | .sra sd sa sb => Sys2Proof.Machine.execSra sd sa sb s
  | .slt sd sa sb => Sys2Proof.Machine.execSlt sd sa sb s
  | .sltu sd sa sb => Sys2Proof.Machine.execSltu sd sa sb s
  | .min sd sa sb => Sys2Proof.Machine.execMin sd sa sb s
  | .max sd sa sb => Sys2Proof.Machine.execMax sd sa sb s
  | .minu sd sa sb => Sys2Proof.Machine.execMinu sd sa sb s
  | .maxu sd sa sb => Sys2Proof.Machine.execMaxu sd sa sb s
  | .clz sd sa => Sys2Proof.Machine.execClz sd sa s
  | .ctz sd sa => Sys2Proof.Machine.execCtz sd sa s
  | .popc sd sa => Sys2Proof.Machine.execPopc sd sa s
  | .mul sd sa sb => Sys2Proof.Machine.execMul sd sa sb s
  | .mulh sd sa sb => Sys2Proof.Machine.execMulh sd sa sb s
  | .mulhu sd sa sb => Sys2Proof.Machine.execMulhu sd sa sb s
  | .div sd sa sb => Sys2Proof.Machine.execDiv sd sa sb s
  | .divu sd sa sb => Sys2Proof.Machine.execDivu sd sa sb s
  | .rem sd sa sb => Sys2Proof.Machine.execRem sd sa sb s
  | .remu sd sa sb => Sys2Proof.Machine.execRemu sd sa sb s
  | .addi sd sa imm => Sys2Proof.Machine.execAddi sd sa imm s
  | .andi sd sa imm => Sys2Proof.Machine.execAndi sd sa imm s
  | .ori sd sa imm => Sys2Proof.Machine.execOri sd sa imm s
  | .xori sd sa imm => Sys2Proof.Machine.execXori sd sa imm s
  | .slti sd sa imm => Sys2Proof.Machine.execSlti sd sa imm s
  | .sltiu sd sa imm => Sys2Proof.Machine.execSltiu sd sa imm s
  | .slli sd sa sh => Sys2Proof.Machine.execSlli sd sa sh s
  | .srli sd sa sh => Sys2Proof.Machine.execSrli sd sa sh s
  | .srai sd sa sh => Sys2Proof.Machine.execSrai sd sa sh s
  | .lih sd imm => Sys2Proof.Machine.execLih sd imm s
  | .pchi sd imm => Sys2Proof.Machine.execPchi sd imm s
  | .obj sd sa sb => Sys2Proof.Machine.execObj sd sa sb s
  | .objh sd sa sb => Sys2Proof.Machine.execObjh sd sa sb s
  | .objo sd sa => Sys2Proof.Machine.execObjo sd sa s
  | .ldb sd sa g imm => Sys2Proof.Machine.execLdb sd sa g imm s
  | .ldh sd sa g imm => Sys2Proof.Machine.execLdh sd sa g imm s
  | .ldw sd sa g imm => Sys2Proof.Machine.execLdw sd sa g imm s
  | .ldd sd sa g imm => Sys2Proof.Machine.execLdd sd sa g imm s
  | .ldbu sd sa g imm => Sys2Proof.Machine.execLdbu sd sa g imm s
  | .ldhu sd sa g imm => Sys2Proof.Machine.execLdhu sd sa g imm s
  | .ldwu sd sa g imm => Sys2Proof.Machine.execLdwu sd sa g imm s
  | .stb sb sa imm g => Sys2Proof.Machine.execStb sb sa imm g s
  | .sth sb sa imm g => Sys2Proof.Machine.execSth sb sa imm g s
  | .stw sb sa imm g => Sys2Proof.Machine.execStw sb sa imm g s
  | .std sb sa imm g => Sys2Proof.Machine.execStd sb sa imm g s
  | .amoadd sd sa sb g => Sys2Proof.Machine.execAmoadd sd sa sb g s
  | .amoswap sd sa sb g => Sys2Proof.Machine.execAmoswap sd sa sb g s
  | .amocas sd sa sb g => Sys2Proof.Machine.execAmocas sd sa sb g s
  | .amoand sd sa sb g => Sys2Proof.Machine.execAmoand sd sa sb g s
  | .amoor sd sa sb g => Sys2Proof.Machine.execAmoor sd sa sb g s
  | .amoxor sd sa sb g => Sys2Proof.Machine.execAmoxor sd sa sb g s
  | .amomin sd sa sb g => Sys2Proof.Machine.execAmomin sd sa sb g s
  | .amomax sd sa sb g => Sys2Proof.Machine.execAmomax sd sa sb g s
  | .amominu sd sa sb g => Sys2Proof.Machine.execAmominu sd sa sb g s
  | .amomaxu sd sa sb g => Sys2Proof.Machine.execAmomaxu sd sa sb g s
  | .beq sa sb off => Sys2Proof.Machine.execBeq sa sb off s
  | .bne sa sb off => Sys2Proof.Machine.execBne sa sb off s
  | .blt sa sb off => Sys2Proof.Machine.execBlt sa sb off s
  | .bge sa sb off => Sys2Proof.Machine.execBge sa sb off s
  | .bltu sa sb off => Sys2Proof.Machine.execBltu sa sb off s
  | .bgeu sa sb off => Sys2Proof.Machine.execBgeu sa sb off s
  | .jal sd off => Sys2Proof.Machine.execJal sd off s
  | .jalr sd sa imm => Sys2Proof.Machine.execJalr sd sa imm s
  | .stick sa fx => Sys2Proof.Machine.execStick sa fx s
  | .stickend => Sys2Proof.Machine.execStickend s
  | .loop sa sb fx => Sys2Proof.Machine.execLoop sa sb fx s
  | .setvl sd sa g => Sys2Proof.Machine.execSetvl sd sa g s
  | .setvlw sd sa sb g => Sys2Proof.Machine.execSetvlw sd sa sb g s
  | .setvlx sd sa g imm => Sys2Proof.Machine.execSetvlx sd sa g imm s
  | .setmode sa g => Sys2Proof.Machine.execSetmode sa g s
  | .getmode sd g => Sys2Proof.Machine.execGetmode sd g s
  | .setforme sa f => Sys2Proof.Machine.execSetforme sa f s
  | .settile sa sb => Sys2Proof.Machine.execSettile sa sb s
  | .gets sd n => Sys2Proof.Machine.execGets sd n s
  | .puts sa n => Sys2Proof.Machine.execPuts sa n s
  | .strip sa sb => Sys2Proof.Machine.execStrip sa sb s
  | .proof sa g => Sys2Proof.Machine.execProof sa g s
  | .endHart => Sys2Proof.Machine.execEndHart s
  | .vadd dt g vd va vb => Sys2Proof.Machine.execVadd dt g vd va vb s
  | .vsub dt g vd va vb => Sys2Proof.Machine.execVsub dt g vd va vb s
  | .vmul dt g vd va vb => Sys2Proof.Machine.execVmul dt g vd va vb s
  | .vfma dt g vd va vb => Sys2Proof.Machine.execVfma dt g vd va vb s
  | .vfms dt g vd va vb => Sys2Proof.Machine.execVfms dt g vd va vb s
  | .vmin dt g vd va vb => Sys2Proof.Machine.execVmin dt g vd va vb s
  | .vmax dt g vd va vb => Sys2Proof.Machine.execVmax dt g vd va vb s
  | .vand dt g vd va vb => Sys2Proof.Machine.execVand dt g vd va vb s
  | .vor dt g vd va vb => Sys2Proof.Machine.execVor dt g vd va vb s
  | .vxor dt g vd va vb => Sys2Proof.Machine.execVxor dt g vd va vb s
  | .vshl dt g vd va vb => Sys2Proof.Machine.execVshl dt g vd va vb s
  | .vshr dt g vd va vb => Sys2Proof.Machine.execVshr dt g vd va vb s
  | .vsra dt g vd va vb => Sys2Proof.Machine.execVsra dt g vd va vb s
  | .vdiv dt g vd va vb => Sys2Proof.Machine.execVdiv dt g vd va vb s
  | .vcmpeq dt g vd va vb => Sys2Proof.Machine.execVcmpeq dt g vd va vb s
  | .vcmpne dt g vd va vb => Sys2Proof.Machine.execVcmpne dt g vd va vb s
  | .vcmplt dt g vd va vb => Sys2Proof.Machine.execVcmplt dt g vd va vb s
  | .vcmple dt g vd va vb => Sys2Proof.Machine.execVcmple dt g vd va vb s
  | .vsel g vd va vb => Sys2Proof.Machine.execVsel g vd va vb s
  | .vclamp dt g vd va vb => Sys2Proof.Machine.execVclamp dt g vd va vb s
  | .vslideup dt g vd va vb => Sys2Proof.Machine.execVslideup dt g vd va vb s
  | .vslidedn dt g vd va vb => Sys2Proof.Machine.execVslidedn dt g vd va vb s
  | .vperm dt g vd va vb => Sys2Proof.Machine.execVperm dt g vd va vb s
  | .vexpand dt g vd va vb => Sys2Proof.Machine.execVexpand dt g vd va vb s
  | .vcompress dt g vd va vb => Sys2Proof.Machine.execVcompress dt g vd va vb s
  | .vabs dt g vd va => Sys2Proof.Machine.execVabs dt g vd va s
  | .vneg dt g vd va => Sys2Proof.Machine.execVneg dt g vd va s
  | .vnot dt g vd va => Sys2Proof.Machine.execVnot dt g vd va s
  | .vsqrt dt g vd va => Sys2Proof.Machine.execVsqrt dt g vd va s
  | .vrcp dt g vd va => Sys2Proof.Machine.execVrcp dt g vd va s
  | .vrsq dt g vd va => Sys2Proof.Machine.execVrsq dt g vd va s
  | .vexp2 dt g vd va => Sys2Proof.Machine.execVexp2 dt g vd va s
  | .vlog2 dt g vd va => Sys2Proof.Machine.execVlog2 dt g vd va s
  | .vcvt dt g vd va => Sys2Proof.Machine.execVcvt dt g vd va s
  | .viota dt g vd va => Sys2Proof.Machine.execViota dt g vd va s
  | .vconflict dt g vd va => Sys2Proof.Machine.execVconflict dt g vd va s
  | .vmv dt g vd va => Sys2Proof.Machine.execVmv dt g vd va s
  | .vbcast dt g vd va => Sys2Proof.Machine.execVbcast dt g vd va s
  | .vextract g vd va => Sys2Proof.Machine.execVextract g vd va s
  | .vredsum dt g vd va => Sys2Proof.Machine.execVredsum dt g vd va s
  | .vredmax dt g vd va => Sys2Proof.Machine.execVredmax dt g vd va s
  | .vredmin dt g vd va => Sys2Proof.Machine.execVredmin dt g vd va s
  | .mand dt g vd va vb => Sys2Proof.Machine.execMand dt g vd va vb s
  | .mor dt g vd va vb => Sys2Proof.Machine.execMor dt g vd va vb s
  | .mxor dt g vd va vb => Sys2Proof.Machine.execMxor dt g vd va vb s
  | .mandn dt g vd va vb => Sys2Proof.Machine.execMandn dt g vd va vb s
  | .mpop dt g vd va => Sys2Proof.Machine.execMpop dt g vd va s
  | .mfirst dt g vd va => Sys2Proof.Machine.execMfirst dt g vd va s
  | .mset dt g vd => Sys2Proof.Machine.execMset dt g vd s
  | .mclr dt g vd => Sys2Proof.Machine.execMclr dt g vd s
  | .vld dt g vd sa => Sys2Proof.Machine.execVld dt g vd sa s
  | .vlds dt g vd sa sb => Sys2Proof.Machine.execVlds dt g vd sa sb s
  | .vldt dt g vd sa => Sys2Proof.Machine.execVldt dt g vd sa s
  | .vldb g vd sa => Sys2Proof.Machine.execVldb g vd sa s
  | .vldpk dt g vd sa sb => Sys2Proof.Machine.execVldpk dt g vd sa sb s
  | .vst dt g vd sa => Sys2Proof.Machine.execVst dt g vd sa s
  | .vstu dt g vd sa => Sys2Proof.Machine.execVstu dt g vd sa s
  | .vsts dt g vd sa sb => Sys2Proof.Machine.execVsts dt g vd sa sb s
  | .vstt dt g vd sa => Sys2Proof.Machine.execVstt dt g vd sa s
  | .vstpk dt g vd sa sb => Sys2Proof.Machine.execVstpk dt g vd sa sb s
  | .vldx dt g vd sa vi => Sys2Proof.Machine.execVldx dt g vd sa vi s
  | .vstx dt g vd sa vi => Sys2Proof.Machine.execVstx dt g vd sa vi s
  | .vamoadd dt g vd sa vi => Sys2Proof.Machine.execVamoadd dt g vd sa vi s
  | .vamomax dt g vd sa vi => Sys2Proof.Machine.execVamomax dt g vd sa vi s
  | .vamomin dt g vd sa vi => Sys2Proof.Machine.execVamomin dt g vd sa vi s
  | .mma dt g vd va vb => Sys2Proof.Machine.execMma dt g vd va vb s
  | .mmas dt g vd va vb => Sys2Proof.Machine.execMmas dt g vd va vb s
  | .mmau dt g vd va vb => Sys2Proof.Machine.execMmau dt g vd va vb s
  | .vwmul dt g vd va vb => Sys2Proof.Machine.execVwmul dt g vd va vb s
  | .vwmac dt g vd va vb => Sys2Proof.Machine.execVwmac dt g vd va vb s
  | .vextf dt g vd va => Sys2Proof.Machine.execVextf dt g vd va s
  | .vpack dt g vd va => Sys2Proof.Machine.execVpack dt g vd va s
  | .vunpack dt g vd va => Sys2Proof.Machine.execVunpack dt g vd va s
  | .mzero g vd => Sys2Proof.Machine.execMzero g vd s
  | .msums dt g vd va => Sys2Proof.Machine.execMsums dt g vd va s
  | .drain g vd va => Sys2Proof.Machine.execDrain g vd va s
  | .draina g vd va => Sys2Proof.Machine.execDraina g vd va s
  | .drainq g vd va => Sys2Proof.Machine.execDrainq g vd va s
  | .drainrc g vd va => Sys2Proof.Machine.execDrainrc g vd va s
  | .cset sa n => Sys2Proof.Machine.execCset sa n s
  | .cget sd n => Sys2Proof.Machine.execCget sd n s
  | .claunch sd se g => Sys2Proof.Machine.execClaunch sd se g s
  | .ccancel sd sa => Sys2Proof.Machine.execCcancel sd sa s
  | .coll sd se g => Sys2Proof.Machine.execColl sd se g s
  | .gdecl sa sb => Sys2Proof.Machine.execGdecl sa sb s
  | .gstate sd sa sb => Sys2Proof.Machine.execGstate sd sa sb s
  | .gfree sa => Sys2Proof.Machine.execGfree sa s
  | .syncinit sa sb => Sys2Proof.Machine.execSyncinit sa sb s
  | .syncwait sd sa sb g => Sys2Proof.Machine.execSyncwait sd sa sb g s
  | .gbar sa g => Sys2Proof.Machine.execGbar sa g s
  | .garrive sd sa g => Sys2Proof.Machine.execGarrive sd sa g s
  | .gwait sa sb g => Sys2Proof.Machine.execGwait sa sb g s
  | .trap n => Sys2Proof.Machine.execTrap n s
  | .eret => Sys2Proof.Machine.execEret s
  | .brk => Sys2Proof.Machine.execBrk s
  | .swapctx => Sys2Proof.Machine.execSwapctx s
  | .spillwait => Sys2Proof.Machine.execSpillwait s
  | .icinv sd sa sb g => Sys2Proof.Machine.execIcinv sd sa sb g s
  | .orcinv sd sa g => Sys2Proof.Machine.execOrcinv sd sa g s
  | .objmove sd sa sb fx => Sys2Proof.Machine.execObjmove sd sa sb fx s
  | .flagclr sd sa => Sys2Proof.Machine.execFlagclr sd sa s
  | .ctrrd sd sa => Sys2Proof.Machine.execCtrrd sd sa s
  | .nop bits => Sys2Proof.Machine.execNop bits s
  | .asyncTrap => Sys2Proof.Machine.execAsyncTrap s
  | .qdeadlock => Sys2Proof.Machine.execQdeadlock s
  | .memoryOpPerform hid seq => Sys2Proof.Machine.execMemoryOpPerform hid seq s
  | .watermarkReread hid => Sys2Proof.Machine.execWatermarkReread hid s
  | .orcFill core ctx handle => Sys2Proof.Machine.execOrcFill core ctx handle s
  | .mapEntryFill core ctx handle st => Sys2Proof.Machine.execMapEntryFill core ctx handle st s
  | .copyBlock x k => Sys2Proof.Machine.execCopyBlock x k s
  | .copyEnd x => Sys2Proof.Machine.execCopyEnd x s
  | .moveDrainEnd x => Sys2Proof.Machine.execMoveDrainEnd x s
  | .moveCopyEnd x => Sys2Proof.Machine.execMoveCopyEnd x s
  | .moveAbort x code elem => Sys2Proof.Machine.execMoveAbort x code elem s
  | .collReady comm idx rank staged => Sys2Proof.Machine.execCollReady comm idx rank staged s
  | .collAbort comm idx rank => Sys2Proof.Machine.execCollAbort comm idx rank s
  | .collDecision x verdict => Sys2Proof.Machine.execCollDecision x verdict s
  | .icinvDone x => Sys2Proof.Machine.execIcinvDone x s
  | .orcinvDone x => Sys2Proof.Machine.execOrcinvDone x s
  | .bankExchange core => Sys2Proof.Machine.execBankExchange core s
  | .spillDone core => Sys2Proof.Machine.execSpillDone core s
  | .bankFillDone core ctx => Sys2Proof.Machine.execBankFillDone core ctx s
  | .registerWrite off size val => Sys2Proof.Machine.execRegisterWrite off size val s
  | .mcbRetirePch die pch => Sys2Proof.Machine.execMcbRetirePch die pch s
  | .topcut die => Sys2Proof.Machine.execTopcut die s
  | .migrationStart die => Sys2Proof.Machine.execMigrationStart die s
  | .migrateUnit die => Sys2Proof.Machine.execMigrateUnit die s
  | .migrationEnd die => Sys2Proof.Machine.execMigrationEnd die s
  | .mcbNrpWrite die val => Sys2Proof.Machine.execMcbNrpWrite die val s
  | .mcbSeedWrite die val => Sys2Proof.Machine.execMcbSeedWrite die val s
  | .activate die pch draw => Sys2Proof.Machine.execActivate die pch draw s
  | .activationAlert die pch => Sys2Proof.Machine.execActivationAlert die pch s
  | .backoffWindowEnd die pch => Sys2Proof.Machine.execBackoffWindowEnd die pch s
  | .patrolScrub die unit errs => Sys2Proof.Machine.execPatrolScrub die unit errs s
  | .cxwWrite n val => Sys2Proof.Machine.execCxwWrite n val s
  | .cxlLinkDown port => Sys2Proof.Machine.execCxlLinkDown port s
  | .cxlPortTrained port gen most width => Sys2Proof.Machine.execCxlPortTrained port gen most width s
  | .retrain port => Sys2Proof.Machine.execRetrain port s
  | .iuDoorbell val => Sys2Proof.Machine.execIuDoorbell val s
  | .queueSlotGrant queue => Sys2Proof.Machine.execQueueSlotGrant queue s
  | .timesliceEnd => Sys2Proof.Machine.execTimesliceEnd s
  | .recordIntake queue => Sys2Proof.Machine.execRecordIntake queue s
  | .decrement ctx node real => Sys2Proof.Machine.execDecrement ctx node real s
  | .conditionalRead ctx node => Sys2Proof.Machine.execConditionalRead ctx node s
  | .kernelPlacement ctx node => Sys2Proof.Machine.execKernelPlacement ctx node s
  | .preemptCores ctx node => Sys2Proof.Machine.execPreemptCores ctx node s
  | .nodeComplete ctx node => Sys2Proof.Machine.execNodeComplete ctx node s
  | .hartMigration core => Sys2Proof.Machine.execHartMigration core s
  | .coreRetire core => Sys2Proof.Machine.execCoreRetire core s
  | .iuKill val => Sys2Proof.Machine.execIuKill val s
  | .rtReqGo val => Sys2Proof.Machine.execRtReqGo val s
  | .installObject => Sys2Proof.Machine.execInstallObject s
  | .removeObject => Sys2Proof.Machine.execRemoveObject s
  | .hostWrite addr bytes => Sys2Proof.Machine.execHostWrite addr bytes s
  | .hostRead addr n => Sys2Proof.Machine.execHostRead addr n s
  | .msixVector0Timer => Sys2Proof.Machine.execMsixVector0Timer s
  | .flitReceive port flit => Sys2Proof.Machine.execFlitReceive port flit s
  | .laneRepair port => Sys2Proof.Machine.execLaneRepair port s
  | .stolierRetrainEnd port ok partner => Sys2Proof.Machine.execStolierRetrainEnd port ok partner s
  | .force port lane => Sys2Proof.Machine.execForce port lane s
  | .stlctlEn port en => Sys2Proof.Machine.execStlctlEn port en s
  | .fatalError cause die unit => Sys2Proof.Machine.execFatalError cause die unit s
  | .dumpComplete => Sys2Proof.Machine.execDumpComplete s
  | .levelWindowBoundary cl => Sys2Proof.Machine.execLevelWindowBoundary cl s
  | .powerEval die mw => Sys2Proof.Machine.execPowerEval die mw s
  | .thermalEval die => Sys2Proof.Machine.execThermalEval die s
  | .tempRefresh cl t => Sys2Proof.Machine.execTempRefresh cl t s
  | .vsramEval die core found => Sys2Proof.Machine.execVsramEval die core found s
  | .sramScrub core what pos => Sys2Proof.Machine.execSramScrub core what pos s
  | .gateHoldEnd cl => Sys2Proof.Machine.execGateHoldEnd cl s
  | .wakeRequest cl => Sys2Proof.Machine.execWakeRequest cl s
  | .wakeRampStart => Sys2Proof.Machine.execWakeRampStart s
  | .wakeDone => Sys2Proof.Machine.execWakeDone s
  | .gateenWrite cl en => Sys2Proof.Machine.execGateenWrite cl en s
  | .packageReset => Sys2Proof.Machine.execPackageReset s
  | .illegalInstruction w => Sys2Proof.Machine.execIllegalInstruction w s
  | .fetchFault => Sys2Proof.Machine.execFetchFault s
  | .stolierLinkLoss port => Sys2Proof.Machine.execStolierLinkLoss port s

end Sys2Proof.Machine
end

