-- ==== Sys2Proof/Machine/Place.lean ====
section
/-! DEFINITION. What step does around the execution of an instruction: whose turn it is, which waiting instruction may
start, and how a word is placed for the next fetch (logs 1, 3, 12). -/

namespace Sys2Proof.Machine

/-! ## Turns -/

/-- What a step is about to do; `done` says what it has done. -/
inductive TurnTaken where
  | halted
  | done (s : State)
  | event (i : Instr) (s : State)
  | hart (s : State)
  deriving Repr

/-- The instruction of a turn is the step of another agent: it has no encoding. -/
def isEvent (i : Instr) : Bool := (encodeWord i).isNone

/-- The steps that go on while the package is halted by a fatal error (R323). -/
def onWhileHalted : Instr → Bool
  | .dumpComplete => true
  | .packageReset => true
  | .hostRead _ _ => true
  | _ => false

/-- The steps that go on while the package comes up (R386). -/
def onWhileBooting : Instr → Bool
  | .registerWrite _ _ _ => true
  | .hostRead _ _ => true
  | .hostWrite _ _ => true
  | .packageReset => true
  | _ => false

/-- An error arises in a word of memory that exists: a correctable one in HBM, where the word is not uncorrectable already (R58, R59). -/
def upset (s : State) (word : Nat) (uncorrectable : Bool) : State :=
  if !exists_ s (64 * word) ∨ s.badMem.contains word then s
  else if uncorrectable then { s with badMem := word :: s.badMem, softMem := s.softMem.filter (· != word) }
  else if (hbmUnit (64 * word)).isNone ∨ s.softMem.contains word then s
  else { s with softMem := word :: s.softMem }

/-- What a turn of the agenda does that is neither an instruction nor a step of the table (logs 13, 85). A request whose rows stood open when
an alert came performs in the back-off window, past no older one to its address (R57, log 52). -/
def quietTurn (t : Turn) (s : State) : State :=
  match t with
  | .event _ => s
  | .hart _ _ => s
  | .read x e => readAhead s x e
  | .upset w u => upset s w u
  | .hour d => modMcb s d fun m => { m with ceHour := [] }
  | .provision keys => provision s keys
  | .update image slot key => updateKey s image slot key
  | .bringUp image failing stack => bringUp s image failing stack
  | .openRow hid seq =>
    match hartOf s hid with
    | none => s
    | some h =>
      match h.flights.find? fun f => !f.parked && f.seq == seq with
      | some f => if mayPerform s h f && passesNone s (.op hid f) then performFlight s hid f else s
      | none => s
  | .openBlock uid k =>
    match findTransfer s uid with
    | some t => if blockReady s t k && passesNone s (.block t) then performBlock s t k else s
    | none => s

/-- The turn of a package that is up: the agenda's, then that of a step that is due, then the hart's in focus (log 1). -/
def takeUp (turn : Option Turn) (s : State) : TurnTaken :=
  match turn with
  | some (.event i) => if isEvent i then .event i s else .hart s
  | some (.hart hid d) => .hart (modMe (focus s hid) fun h => { h with defer := d })
  | some t => .done (quietTurn t s)
  | none =>
    match autoEvent s with
    | some i => .event i s
    | none => .hart s

/-- The turn of a package that comes up: the next step of bring-up, which succeeds where the agenda says nothing else (R386, log 11). -/
def takeBooting (turn : Option Turn) (s : State) : TurnTaken :=
  match turn with
  | some (.event i) => if onWhileBooting i then .event i s else .done s
  | some t => .done (quietTurn t s)
  | none => .done (bringUp s true [] none)

/-- The turn of a package that is halted: after a fatal error, or because its firmware image has not verified (R323, R386). -/
def takeHalted (turn : Option Turn) (s : State) : TurnTaken :=
  match turn with
  | some (.event i) => if (if s.fatal.isSome then onWhileHalted i else i == .packageReset) then .event i s else .halted
  | _ => .halted

/-- Whose turn it is. -/
def takeTurn (s : State) : TurnTaken :=
  let (turn, s) := match s.agenda with
    | t :: rest => (some t, { s with agenda := rest })
    | [] => (none, s)
  if s.fatal.isSome || s.boot == 6 then takeHalted turn s
  else if s.boot != 0 then takeBooting turn s
  else takeUp turn s

/-- Another hart comes into focus; the last one goes to the end of the line. -/
def rotate (s : State) : State :=
  match s.rest.filter (runs s) with
  | [] => s
  | h :: _ =>
    { s with me := h, rest := (s.rest.filter fun g => g.hid != h.hid) ++ (if s.me.hid = 0 then [] else [s.me]) }

/-! ## Instructions that wait -/

/-- Whether an instruction is of the access stream: formats VM and VMX (R110). -/
def isAccess (i : Instr) : Bool :=
  match encodeWord i with
  | none => false
  | some w => let op := (fld w 25 7).toNat; decide (0x60 ≤ op) && decide (op ≤ 0x63)

/-- An instruction that waits may be tried: none older of its stream waits, and none older of the other stream shares a
register with it (R111, R117, R217). -/
def mayStart (s : State) (f : Flight) : Bool :=
  let older := s.me.flights.filter fun x => x.parked && decide (x.seq < f.seq)
  let mine := footprint (lanesOf s.me) f.instr f.env
  older.all fun x => isAccess x.instr != isAccess f.instr && !(footprint (lanesOf s.me) x.instr x.env).any mine.contains

/-- The attempt made a step: the instruction no longer waits. -/
def started (_s : State) (f : Flight) (t : State) : Bool :=
  !(t.me.flights.any fun x => x.parked && x.seq == f.seq)

/-- Body instruction j of the open stick body is skipped in this iteration (R144). -/
def skipped (k : Stick) (j : Nat) : Bool :=
  let levels := List.range (k.flagLvl.toNat + 1)
  (bitAt k.firsts j && levels.any fun l => k.indexOf l != 0) ||
    (bitAt k.lasts j && levels.any fun l => k.indexOf l + 1 != k.countOf l)

/-- What an open stick body does with a word before it executes: a skipped one is passed over, and a 65th word that decodes is the stick
fault (R128, R144, R145). -/
def bodyStop (w : BitVec 32) (s : State) : Option State :=
  let k := s.me.r.stick
  if !k.active || w == 0x36000001#32 then none
  else if 64 ≤ k.pos.toNat then
    match decode w with
    | .ok _ => some (stopAt s (.trap { code := cStick }) none)
    | .error _ => none
  else if skipped k k.pos.toNat then
    some (modMe s fun h => { h with wait := none, r := { h.r with pc := nextPc h.r.pc, stick := stickNext k } })
  else none

/-! ## Placing a word -/

/-- The record of the text object that placeWord makes: rank 1, UINT8, 256 bytes, PR and PX (R67). -/
def placedRecord : List Word :=
  [wordOfNat (0x200 + 1 <<< 41 + 17 <<< 47 + 1 <<< 52 + 1 <<< 54), 0, wordOfNat (256 + 1 <<< 28), 0, 0, 0, 0, 0]

/-- A hart of context 0 launched on core 0 whose pc stands at offset 0 of object 1, which holds the bytes and is
registered text (log 12). -/
def placeWord (s : State) (bytes : List Byte) : State :=
  let mem := writeBytes s.mem 0x10040 (placedRecord.flatMap fun w => bytesOf 8 w.toNat)
  let mem := writeBytes mem 0x20000 bytes
  let r := s.me.r
  let s := modCluster (modCore s s.me.core fun c =>
      { c with leaving := false, swapAsked := none, icache := [], orc := [], maps := [] })
    (clusterOf s.me.core) fun c => { c with pstate := .active }
  { s with
    mem := mem, agenda := [], fatal := none, boot := 0,
    me := { s.me with hid := if s.me.hid = 0 then s.nextHid else s.me.hid, live := true, ctx := 0, bank := .active,
                      otb := wordOfNat (0x100 + 2 <<< 39), flights := [], lent := [], late := [], popped := [], asyncs := [],
                      pin := none, wait := none, replay := none,
                      r := { r with pc := wordOfNat (2 ^ 44), stick := { r.stick with active := false } } },
    nextHid := s.nextHid + 1,
    rot := { s.rot with ranges := [{ ctx := 0, handle := 1, lo := 0, len := 256, phys := 0x20000, rev := 2 }] } }

end Sys2Proof.Machine
end

