-- ==== Sys2Proof/Machine/Step.lean ====
section
/-! DEFINITION. One step of the package (log 1): a turn that the agenda names, or the step of another agent that is due, or
an instruction that waits to start, or the next instruction of the hart in focus. -/

namespace Sys2Proof.Machine

/-- The next instruction of the scalar stream of the hart in focus: fetched, decoded, executed; a word that is none and a
fetch that fails are the steps ILLEGAL_INSTRUCTION and FETCH_FAULT. -/
def fetchExec (s : State) : Out :=
  match nextWord s with
  | .error _ => exec .fetchFault s
  | .ok (w, t) =>
    match bodyStop w t with
    | some u => .next u
    | none =>
      match decode w with
      | .error _ => exec (.illegalInstruction w) t
      | .ok i => exec i t

/-- Try to start, oldest first, the instructions that wait: whether one started or trapped, which makes the step, and the
state, in which those that did not start say why. -/
def tryParked (s : State) : List Flight → Bool × State
  | [] => (false, s)
  | f :: rest =>
    if mayStart s f then
      match exec f.instr (modMe s fun h => { h with replay := some f }) with
      | .next t => if started s f t then (true, t) else tryParked t rest
      | _ => tryParked s rest
    else tryParked s rest

/-- The hart in focus goes on: an instruction that waited starts, or else the next one of its scalar stream executes. -/
def goOn (s : State) : Out :=
  match tryParked s (s.me.flights.filter (·.parked)) with
  | (true, t) => .next t
  | (false, t) => fetchExec t

/-- The step of the hart in focus: none while a swap of its bank is to take place; a held asynchronous cause, for whose handler it may have
to wait; or its next instruction (R79, R215, R310). -/
def hartTurn (s : State) : Out :=
  if !runs s s.me || swapPending s s.me.core then .next s
  else if asyncHeld s then (if (asyncDue s).isSome then exec .asyncTrap s else .next s)
  else goOn s

/-- The step of the hart in focus; then another hart comes into focus, so that no hart that can run stands still (log 1). -/
def hartStep (s : State) : Out :=
  match hartTurn s with
  | .next u => .next (rotate u)
  | o => o

/-- One step. -/
def step (s : State) : Host.Outcome State Fault Refusal :=
  match takeTurn s with
  | .halted => .fault .halted
  | .done t => .next t
  | .event i t => exec i t
  | .hart t => hartStep t

end Sys2Proof.Machine

namespace Sys2Proof.Machine

/-- The state with an instruction stored where step fetches its next one (log 12). -/
def State.withFetchWord (s : State) (nbits w : Nat) : State := placeWord s (tableBytes (w % 2 ^ nbits))

end Sys2Proof.Machine
end

