-- ==== Sys2Proof/Safety.lean ====
section
/-! DEFINITION. What a good state and a safe run are, and the conditions and lists of instructions in which the statements are
written. -/

namespace Sys2Proof

/-- Every memory of the package is in canonical form. -/
def memoriesWf (s : Machine.State) : Prop :=
  Machine.Memory.wf s.mem = true ∧ ∀ c ∈ s.cores, Machine.Memory.wf c.2.scratch = true

/-- The bits of a place: a byte and a bit of it. -/
def placeBits (p : Machine.Place) : List (Nat × Nat) :=
  (List.range p.bits).map fun i =>
    let b := p.bit + i
    match p.next with
    | none => (p.addr + b / 8, b % 8)
    | some a => if b < 8 then (p.addr, b) else (a, b - 8)

/-- A place in two parts lies in two different bytes. -/
def placeFits (p : Machine.Place) : Prop :=
  match p.next with
  | none => True
  | some a => a ≠ p.addr ∧ p.bit + p.bits ≤ 16

/-- A run of n steps stops neither with a fault nor with a refusal. -/
def runsOn : Nat → Machine.State → Prop
  | 0, _ => True
  | n + 1, s => ∃ t, Machine.step s = .next t ∧ runsOn n t

namespace Machine

/-! ## Conditions on a state -/

/-- No instruction that the hart dispatched earlier is unsettled, none is being started again, and the window of the core takes one more
element group. -/
def quiet (s : State) : Prop := s.me.replay = none ∧ anyParked s = false ∧ windowRoom s 1 = true

/-- Nothing of the hart is outstanding but buffered stores: no operation, no transfer, no back-off window, and room in every
stream; its name is its own; the turn keeps no operation back; no correctable error waits for its correction. -/
def calmButStrip (s : State) : Prop :=
  s.me.hid ≠ 0 ∧ s.me.replay = none ∧ s.me.flights = [] ∧ s.transfers = [] ∧ s.me.defer = false ∧ s.softMem = [] ∧
    (∀ d ∈ s.dies.toList, d.mcb.windows = []) ∧ (∀ h ∈ s.rest, h.hid ≠ s.me.hid) ∧ ∀ k, outstanding s.me k < 1023

/-- Nothing of the hart is outstanding, and no store is buffered. -/
def calm (s : State) : Prop := calmButStrip s ∧ s.me.r.strip.stores = []

/-- An element lies in memory that is at hand and holds no uncorrectable error. -/
def cleanElements (s : State) (es : List Element) : Prop := ∀ e ∈ es, placeBad s e.place = false

/-- The rest of the machine is as it was: all but the hart in focus. -/
def sameOutside (s t : State) : Prop := t = { s with me := t.me }

/-- No register but those of the scalar file and the queues has changed, and no count but RETIRED. -/
def sameButScalars (r q : Regs) : Prop :=
  q = { r with pc := q.pc, x := q.x, q := q.q, stick := q.stick, armed := q.armed, retired := q.retired }

/-! ## Instructions of one shape -/

/-- Two sources and a destination (R132), with the value each gives. -/
def binaryOps : List ((SOp → SOp → SOp → Instr) × (Word → Word → Word)) :=
  [(.add, fun a b => a + b), (.sub, fun a b => a - b), (.and, fun a b => a &&& b), (.or, fun a b => a ||| b),
   (.xor, fun a b => a ^^^ b), (.sll, fun a b => a <<< (b.toNat % 64)), (.srl, fun a b => a >>> (b.toNat % 64)),
   (.sra, fun a b => a.sshiftRight (b.toNat % 64)), (.slt, fun a b => if a.toInt < b.toInt then 1 else 0),
   (.sltu, fun a b => if a.toNat < b.toNat then 1 else 0), (.min, fun a b => if a.toInt < b.toInt then a else b),
   (.max, fun a b => if a.toInt < b.toInt then b else a), (.minu, fun a b => if a.toNat < b.toNat then a else b),
   (.maxu, fun a b => if a.toNat < b.toNat then b else a), (.mul, fun a b => a * b),
   (.mulh, fun a b => BitVec.ofInt 64 (a.toInt * b.toInt / 2 ^ 64)),
   (.mulhu, fun a b => BitVec.ofNat 64 (a.toNat * b.toNat / 2 ^ 64))]

/-- A source, an immediate and a destination (R133): imm12 sign-extended to 64 bits. -/
def immediateOps : List ((SOp → SOp → BitVec 12 → Instr) × (Word → Word → Word)) :=
  [(.addi, fun a b => a + b), (.andi, fun a b => a &&& b), (.ori, fun a b => a ||| b), (.xori, fun a b => a ^^^ b),
   (.slti, fun a b => if a.toInt < b.toInt then 1 else 0), (.sltiu, fun a b => if a.toNat < b.toNat then 1 else 0)]

/-- A source, a shift amount and a destination (R133). -/
def shiftOps : List ((SOp → SOp → BitVec 6 → Instr) × (Word → BitVec 6 → Word)) :=
  [(.slli, fun a n => a <<< n.toNat), (.srli, fun a n => a >>> n.toNat), (.srai, fun a n => a.sshiftRight n.toNat)]

/-- The scalar instructions that write one scalar destination and nothing else (R132 to R135), with the fields they read and
the one they write. -/
def registerOnly (i : Instr) : Option (List SOp × SOp) :=
  match i with
  | .add sd sa sb => some ([sa, sb], sd) | .sub sd sa sb => some ([sa, sb], sd) | .and sd sa sb => some ([sa, sb], sd)
  | .or sd sa sb => some ([sa, sb], sd) | .xor sd sa sb => some ([sa, sb], sd) | .sll sd sa sb => some ([sa, sb], sd)
  | .srl sd sa sb => some ([sa, sb], sd) | .sra sd sa sb => some ([sa, sb], sd) | .slt sd sa sb => some ([sa, sb], sd)
  | .sltu sd sa sb => some ([sa, sb], sd) | .min sd sa sb => some ([sa, sb], sd) | .max sd sa sb => some ([sa, sb], sd)
  | .minu sd sa sb => some ([sa, sb], sd) | .maxu sd sa sb => some ([sa, sb], sd) | .clz sd sa => some ([sa], sd)
  | .ctz sd sa => some ([sa], sd) | .popc sd sa => some ([sa], sd) | .mul sd sa sb => some ([sa, sb], sd)
  | .mulh sd sa sb => some ([sa, sb], sd) | .mulhu sd sa sb => some ([sa, sb], sd) | .div sd sa sb => some ([sa, sb], sd)
  | .divu sd sa sb => some ([sa, sb], sd) | .rem sd sa sb => some ([sa, sb], sd) | .remu sd sa sb => some ([sa, sb], sd)
  | .addi sd sa _ => some ([sa], sd) | .andi sd sa _ => some ([sa], sd) | .ori sd sa _ => some ([sa], sd)
  | .xori sd sa _ => some ([sa], sd) | .slti sd sa _ => some ([sa], sd) | .sltiu sd sa _ => some ([sa], sd)
  | .slli sd sa _ => some ([sa], sd) | .srli sd sa _ => some ([sa], sd) | .srai sd sa _ => some ([sa], sd)
  | .lih sd _ => some ([], sd) | .pchi sd _ => some ([], sd) | .obj sd sa sb => some ([sa, sb], sd)
  | .objh sd sa sb => some ([sa, sb], sd) | .objo sd sa => some ([sa], sd)
  | _ => none

/-- The conditional branches (R127, R140): condition code, instruction, and when it is taken. -/
def branchOps : List (BitVec 3 × (SOp → SOp → BitVec 12 → Instr) × (Word → Word → Bool)) :=
  [(0, .beq, fun a b => decide (a = b)), (1, .bne, fun a b => decide (a ≠ b)), (4, .blt, fun a b => decide (a.toInt < b.toInt)),
   (5, .bge, fun a b => decide (b.toInt ≤ a.toInt)), (6, .bltu, fun a b => decide (a.toNat < b.toNat)),
   (7, .bgeu, fun a b => decide (b.toNat ≤ a.toNat))]

/-- What an open stick body may not reach (R145), STICKEND apart. -/
def bodyForbids (i : Instr) : Bool :=
  match i with
  | .beq _ _ _ => true | .bne _ _ _ => true | .blt _ _ _ => true | .bge _ _ _ => true | .bltu _ _ _ => true
  | .bgeu _ _ _ => true | .jal _ _ => true | .jalr _ _ _ => true | .setvlx _ _ _ _ => true | .stick _ _ => true
  | .loop _ _ _ => true | .endHart => true | .eret => true | .swapctx => true
  | _ => false

/-- The scalar fields of an instruction of the scalar stream that has registers or queues (R110): sources and destinations. -/
def scalarFields (i : Instr) : Option (List SOp × List SOp) :=
  match registerOnly i with
  | some (srcs, sd) => some (srcs, [sd])
  | none =>
    match i with
    | .beq a b _ => some ([a, b], []) | .bne a b _ => some ([a, b], []) | .blt a b _ => some ([a, b], [])
    | .bge a b _ => some ([a, b], []) | .bltu a b _ => some ([a, b], []) | .bgeu a b _ => some ([a, b], [])
    | .jal d _ => some ([], [d]) | .jalr d a _ => some ([a], [d]) | .loop a b _ => some ([a, b], [])
    | .setvl d a _ => some ([a], [d]) | .setvlw d a b _ => some ([a, b], [d]) | .setvlx d a _ _ => some ([a], [d])
    | .setmode a _ => some ([a], []) | .getmode d _ => some ([], [d]) | .setforme a _ => some ([a], [])
    | .settile a b => some ([a, b], []) | .gets d _ => some ([], [d]) | .puts a _ => some ([a], [])
    | .strip a b => some ([a, b], []) | .proof a _ => some ([a], [])
    | .ldb d a _ _ => some ([a], [d]) | .ldh d a _ _ => some ([a], [d]) | .ldw d a _ _ => some ([a], [d])
    | .ldd d a _ _ => some ([a], [d]) | .ldbu d a _ _ => some ([a], [d]) | .ldhu d a _ _ => some ([a], [d])
    | .ldwu d a _ _ => some ([a], [d])
    | .stb b a _ _ => some ([b, a], []) | .sth b a _ _ => some ([b, a], []) | .stw b a _ _ => some ([b, a], [])
    | .std b a _ _ => some ([b, a], [])
    | .amoadd d a b _ => some ([a, b], [d]) | .amoswap d a b _ => some ([a, b], [d]) | .amoand d a b _ => some ([a, b], [d])
    | .amocas d a b _ => some ([a, b], [d]) | .amoor d a b _ => some ([a, b], [d]) | .amoxor d a b _ => some ([a, b], [d])
    | .amomin d a b _ => some ([a, b], [d]) | .amomax d a b _ => some ([a, b], [d]) | .amominu d a b _ => some ([a, b], [d])
    | .amomaxu d a b _ => some ([a, b], [d])
    | .flagclr d a => some ([a], [d]) | .ctrrd d a => some ([a], [d])
    | _ => none

/-! ## Tables -/

/-- The element types that SETMODE accepts, with their width in bits (R114). -/
def etypeTable : List (Nat × Nat) :=
  [(0, 32), (1, 16), (2, 16), (3, 32), (4, 32), (5, 16), (6, 16), (7, 256), (16, 8), (17, 8), (18, 4), (19, 4), (20, 8), (21, 8),
   (22, 6), (23, 6), (24, 4), (25, 8)]

/-- The values that SETFORME accepts (R118 to R121), by their fields. -/
def formeAccepted (a : Word) : Prop :=
  let fld (lo n : Nat) : Nat := a.toNat / 2 ^ lo % 2 ^ n
  let w := fld 0 6
  let g := fld 6 5
  let m := fld 11 3 + 1
  let n := fld 14 3 + 1
  let k := fld 17 4 + 1
  let conv := fld 21 1 = 1
  let sfmt := fld 22 4
  a.toNat < 2 ^ 39 ∧ 4 ≤ w ∧ 2 ≤ g ∧ g ≤ w - 2 ∧ g ≤ 31 ∧ sfmt ≤ 8 ∧ (fld 26 1 = 1 ∨ sfmt = 1 ∨ sfmt = 3 ∨ sfmt = 5) ∧
    1 ≤ fld 27 6 ∧ 1 ≤ fld 33 6 ∧ fld 33 6 ≤ fld 27 6 ∧ (conv → n = 1) ∧
    w * (if conv then m + k - 1 else k + (2 * k - 1) * n * (m - 1)) ≤ 256 ∧
    w * (if conv then k else k + (2 * k - 1) * (n - 1)) ≤ 256 ∧
    w * (if conv then m + 2 * k - 2 else (2 * k - 1) * m * n) ≤ 512

/-- State registers by number (R152, R153), those that stand alone. -/
def stateReads : List (BitVec 12 × (State → Word)) :=
  [(0x000, fun s => s.me.r.vl), (0x001, fun s => s.me.r.vstart), (0x002, fun s => s.me.r.prog), (0x003, fun s => s.me.r.rows),
   (0x004, fun s => s.me.r.pitch), (0x005, fun s => s.me.r.wpos), (0x006, fun s => s.me.r.fflags.setWidth 64),
   (0x007, fun s => s.me.r.dphase), (0x008, fun s => BitVec.ofNat 64 (s.me.core + 2 ^ 9 * s.me.idx + 2 ^ 12 * s.me.nh)),
   (0x009, fun s => s.me.otb), (0x00A, fun s => s.me.gmask.setWidth 64), (0x03C, fun s => s.me.r.stick.firsts),
   (0x03D, fun s => s.me.r.stick.lasts),
   (0x03E, fun s => let k := s.me.r.stick
     BitVec.ofNat 64 ((if k.active then 1 else 0) + 2 * k.lvm1.toNat + 2 ^ 4 * k.len.toNat + 2 ^ 11 * k.walk.toNat +
       2 ^ 16 * k.flagLvl.toNat + 2 ^ 19 * k.pos.toNat)),
   (0x03F, fun s => s.me.r.stick.base), (0x040, fun s => s.me.r.stick.pc), (0x041, fun s => s.me.r.strip.w),
   (0x042, fun s => s.me.r.strip.b)]

/-- Counters by number (R264), CYCLES apart, whose value is free (log 6). -/
def counters : List (Word × (State → Word)) :=
  [(1, fun s => s.me.r.retired), (2, fun s => (getCore s s.me.core).nanenc), (3, fun s => (getCore s s.me.core).headroom),
   (4, fun s => ((s.dies[s.me.core / 160]?).map (·.mcb.alerts)).getD 0),
   (5, fun s => ((s.dies[s.me.core / 160]?).map (·.mcb.refreshes)).getD 0), (6, fun s => (getCore s s.me.core).sramce), (7, fun s => (getCore s s.me.core).dtskip),
   (8, fun s => (getCore s s.me.core).swaps)]

/-! ## Memory and vector instructions -/

/-- The scalar loads, with their size in bytes and whether they sign-extend (R136). -/
def loadOps : List ((SOp → SOp → Fin 8 → BitVec 12 → Instr) × Nat × Bool) :=
  [(.ldb, 1, true), (.ldh, 2, true), (.ldw, 4, true), (.ldd, 8, true), (.ldbu, 1, false), (.ldhu, 2, false), (.ldwu, 4, false)]

/-- The scalar stores, with their size in bytes (R136). -/
def storeOps : List ((SOp → SOp → BitVec 12 → Fin 8 → Instr) × Nat) := [(.stb, 1), (.sth, 2), (.stw, 4), (.std, 8)]

/-- The scalar atomics but for AMOCAS, with the new value each forms from the old one and sb (R139). -/
def amoOps : List ((SOp → SOp → SOp → Fin 8 → Instr) × (Word → Word → Word)) :=
  [(.amoadd, fun a b => a + b), (.amoswap, fun _ b => b), (.amoand, fun a b => a &&& b), (.amoor, fun a b => a ||| b),
   (.amoxor, fun a b => a ^^^ b), (.amomin, fun a b => if a.toInt < b.toInt then a else b),
   (.amomax, fun a b => if a.toInt < b.toInt then b else a), (.amominu, fun a b => if a.toNat < b.toNat then a else b),
   (.amomaxu, fun a b => if a.toNat < b.toNat then b else a)]

/-- An instruction of the vector stream starts as it is dispatched: what it copies, and that taken apart. -/
def starts (s : State) (g : Fin 8) (env : Env) (c : VCtx) : Prop :=
  quiet s ∧ dispatchEnv s g none none = .ok env ∧ c = vctx s env

/-- An instruction of the vector stream retires in a state. -/
def retires (env : Env) (t : State) : Out := .next (retireStream (slotStrip env.slot) false t)

/-- The hart in focus with other registers. -/
def withRegs (s : State) (r : Regs) : State := modRegs s fun _ => r

/-- The element-wise instructions (R184 to R187, R189): the types they take, whether they read vd, whether they have one source, and
the value of their elements. -/
def mapOps : List ((Bool → Fin 8 → VOp → VOp → VOp → Instr) × List Nat × Bool × Bool × (VCtx → Nat → Nat → Nat → Nat × FlagSet)) :=
  [(.vadd, tyFI, false, false, opAdd false), (.vsub, tyFI, false, false, opAdd true), (.vmul, tyFI, false, false, opMul),
   (.vfma, tyFI, true, false, opFma false), (.vfms, tyFI, true, false, opFma true), (.vmin, tyFI, false, false, opPick false),
   (.vmax, tyFI, false, false, opPick true), (.vand, tyAll, false, false, opBits fun a b => a &&& b),
   (.vor, tyAll, false, false, opBits fun a b => a ||| b), (.vxor, tyAll, false, false, opBits fun a b => a ^^^ b),
   (.vshl, tyI, false, false, opShl), (.vshr, tyI, false, false, opShr), (.vsra, tyI, false, false, opSra),
   (.vdiv, tyFI, false, false, opDiv), (.vclamp, tyFI, true, false, opClamp),
   (fun dt g vd va _ => .vabs dt g vd va, tyFI, false, true, opSign false),
   (fun dt g vd va _ => .vneg dt g vd va, tyFI, false, true, opSign true),
   (fun dt g vd va _ => .vnot dt g vd va, tyAll, false, true, opNot),
   (fun dt g vd va _ => .vsqrt dt g vd va, tyF, false, true, opFn 0), (fun dt g vd va _ => .vrcp dt g vd va, tyF, false, true, opFn 1),
   (fun dt g vd va _ => .vrsq dt g vd va, tyF, false, true, opFn 2), (fun dt g vd va _ => .vexp2 dt g vd va, tyF, false, true, opFn 3),
   (fun dt g vd va _ => .vlog2 dt g vd va, tyF, false, true, opFn 4)]

/-- Integer operations on elements but for division, with the exact result of each for va, vb and vd (R185). -/
def exactOps : List ((VCtx → Nat → Nat → Nat → Nat × FlagSet) × (Int → Int → Int → Int)) :=
  [(opAdd false, fun x y _ => x + y), (opAdd true, fun x y _ => x - y), (opMul, fun x y _ => x * y),
   (opFma false, fun x y z => x * y + z), (opFma true, fun x y z => x * y - z), (opSign false, fun x _ _ => x.natAbs),
   (opSign true, fun x _ _ => -x)]

/-- The rational value of a finite value. -/
def ratOf (v : Val) : Rat := (v.signed : Rat) / (v.den : Rat)

/-- The operations on floating-point elements that round an exact rational (R184, R186): the result for va, vb and vd, and the values
for which it is defined. -/
def roundOps : List ((VCtx → Nat → Nat → Nat → Nat × FlagSet) × (Rat → Rat → Rat → Rat) × (Rat → Rat → Prop)) :=
  [(opAdd false, fun x y _ => x + y, fun _ _ => True), (opAdd true, fun x y _ => x - y, fun _ _ => True),
   (opMul, fun x y _ => x * y, fun _ _ => True), (opDiv, fun x y _ => x / y, fun _ y => y ≠ 0),
   (opFma false, fun x y z => x * y + z, fun _ _ => True), (opFma true, fun x y z => x * y - z, fun _ _ => True),
   (opFn 1, fun x _ _ => 1 / x, fun x _ => x ≠ 0)]

/-- The floating-point types (R27): ETYPE, width, fraction bits, the exponents of the smallest and of the largest normal number. -/
def floatTypes : List (Nat × Nat × Nat × Int × Int) := [(0, 32, 23, -126, 127), (1, 16, 10, -14, 15), (2, 16, 7, -126, 127)]

/-- A code and its flags are those of a rational rounded to the nearest number of a floating-point type, to even on a tie, with NX exactly
where it is not that number (R39, R42, R43). -/
def nearest (et m : Nat) (emin : Int) (most : Rat) (q : Rat) (r : Nat × FlagSet) : Prop :=
  let z := ratOf (decodeVal et r.1)
  (q = 0 → z = 0) ∧ ∀ (k : Int) (u : Rat), (2 : Rat) ^ k ≤ |q| → |q| < (2 : Rat) ^ (k + 1) → |q| ≤ most →
    u = (2 : Rat) ^ (max k emin - (m : Int)) →
    (∃ t : Int, z = t * u ∧ (2 * |z - q| = u → t % 2 = 0)) ∧ 2 * |z - q| ≤ u ∧ r.2.getLsbD 0 = decide (z ≠ q)

/-- The floating-point targets of DRAINQ (R31, R46): ETYPE, fraction bits, the exponent of the smallest normal number, that of the largest
binade, and the largest number. -/
def quantTypes : List (Nat × Nat × Int × Int × Rat) :=
  [(20, 3, -6, 8, 448), (21, 2, -14, 15, 57344), (22, 3, 0, 2, 15 / 2), (23, 2, -2, 4, 28), (24, 1, 0, 2, 6)]

/-- The integer types (R25), with their range. -/
def intRanges : List (Nat × Int × Int) :=
  [(3, -2 ^ 31, 2 ^ 31 - 1), (4, 0, 2 ^ 32 - 1), (5, -2 ^ 15, 2 ^ 15 - 1), (6, 0, 2 ^ 16 - 1), (16, -2 ^ 7, 2 ^ 7 - 1), (17, 0, 2 ^ 8 - 1),
   (18, -2 ^ 3, 2 ^ 3 - 1), (19, 0, 2 ^ 4 - 1)]

/-- The comparisons (R188), with the number of the relation and its truth on integers. -/
def compareOps : List ((Bool → Fin 8 → VOp → VOp → VOp → Instr) × Nat × (Int → Int → Bool)) :=
  [(.vcmpeq, 0, fun a b => decide (a = b)), (.vcmpne, 1, fun a b => decide (a ≠ b)), (.vcmplt, 2, fun a b => decide (a < b)),
   (.vcmple, 3, fun a b => decide (a ≤ b))]

/-- The reductions (R199). -/
def reduceOps : List ((Bool → Fin 8 → VOp → VOp → Instr) × Nat) := [(.vredsum, 0), (.vredmax, 1), (.vredmin, 2)]

/-- An instruction of the access stream starts as it is dispatched, nothing of its hart being outstanding: what it copies, and its base
and second operand as it takes them. -/
def accessStarts (s : State) (g : Fin 8) (sa : SOp) (sb : Option SOp) (env : Env) (c : VCtx) (m : Addressing) (s1 s2 : State)
    (base second : Word) : Prop :=
  calm s ∧ dispatchEnv s g (some sa) sb = .ok env ∧ c = vctx s env ∧ (m.strided = sb.isSome) ∧
    accessSrc sa env.a s = .ok (base, s1) ∧
    match sb with
    | some o => accessSrc o env.b s1 = .ok (second, s2)
    | none => second = 0 ∧ s2 = s1

end Machine

end Sys2Proof
end

