-- ==== Sys2Proof/Certificates/Slice0/Obligations.lean ====
section
/-! DEFINITION. The statements about the machine: decoding, a step, the scalar instructions, the vector and matrix instructions,
memory, galleys and copies, traps, and the other agents of the package. -/

open Sys2Proof Sys2Proof.Machine

/-! ## Encoding and decoding (R122 to R128) -/

/-- Words written out from the encoding tables decode to their instructions (R123 to R127). -/
def Obligations.DecodesWords : Prop :=
  decode 0b0000001_00001_00010_00011_00000_00000#32 = .ok (.add (.s 1) (.s 2) (.s 3)) ∧
  decode 0b0000011_00101_00110_000_111111111111#32 = .ok (.addi (.s 5) (.s 6) 0xFFF#12) ∧
  decode 0b0001010_00111_01000_010_000000000100#32 = .ok (.ldw (.s 7) (.s 8) 2 4#12) ∧
  decode 0b1000000_0_001_0000010_0000001_1000000#32 = .ok (.vadd false 1 (.v 2) (.v 1) (.w 0)) ∧
  decode 0b0000001_00001_00010_00011_00000_01110#32 = .error .mustBeZero ∧
  decode 0xF0000000#32 = .ok (.nop 0#27) ∧
  decode 0#32 = .error .reservedOpcode ∧ decode 0xFFFFFFFF#32 = .error .reservedOpcode

/-- Decode and encode agree on every well-formed instruction: from the four bytes of its word, least significant first (R2), the
decoder reads the instruction and nothing after them. -/
def Obligations.DecodeOfEncode : Prop :=
  ∀ (i : Instr) (w : BitVec 32) (rest : List Byte), wellFormed i = true → encodeWord i = some w →
    decodeBytes (w.extractLsb' 0 8 :: w.extractLsb' 8 8 :: w.extractLsb' 16 8 :: w.extractLsb' 24 8 :: rest) = .ok (i, rest)

/-- Every word has at most one reading, and no bit of it is dropped: what the decoder accepts is well formed and is encoded by
that very word. An unused field that is not zero, and every selector outside R127, is thereby refused (R126, R128). -/
def Obligations.EncodeOfDecode : Prop :=
  ∀ (w : BitVec 32) (i : Instr), decode w = .ok i → wellFormed i = true ∧ encodeWord i = some w

/-- A word of an opcode that R128 lists as illegal does not decode, and a hart that reaches such a word takes the precise
illegal-instruction trap; a word of the opcodes 0x78 to 0x7B is a no-op whatever its other bits. -/
def Obligations.UnassignedOpcodes : Prop :=
  (∀ w : BitVec 32, (w >>> 25).toNat ∈ [0x00, 0x07, 0x0F, 0x15, 0x16, 0x17, 0x21, 0x22, 0x23, 0x24, 0x25, 0x26, 0x27, 0x28, 0x29,
      0x2A, 0x2B, 0x2C, 0x2D, 0x2E, 0x2F, 0x30, 0x31, 0x32, 0x33, 0x34, 0x35, 0x36, 0x37, 0x38, 0x39, 0x3A, 0x3B, 0x3C, 0x3D, 0x3E,
      0x3F, 0x64, 0x65, 0x66, 0x67, 0x73, 0x75, 0x76, 0x77, 0x7C, 0x7D, 0x7E, 0x7F] →
    decode w = .error .reservedOpcode ∧
    ∀ s, exec (.illegalInstruction w) s = .next (stopAt s (.trap { code := 1, info := 0 }) none)) ∧
  ∀ (w : BitVec 32) (s : State), w.extractLsb' 27 5 = 0b11110#5 →
    ∃ bits, decode w = .ok (.nop bits) ∧ exec (.nop bits) s = .next (retire s)

/-! ## A step and the memories -/

/-- Between two turns that the agenda names, with the package up, no other agent due, no waiting instruction that can start, no swap of its
bank to take place and no asynchronous cause to take, a step of a hart that runs executes the instruction that the word at its pc decodes to,
in the state that the fetch leaves, unless an open stick body passes over the word or is too long; a word that is no instruction, and a fetch
that fails, take their steps ILLEGAL_INSTRUCTION and FETCH_FAULT; then the focus passes on (the order of turns is the model's, log 1). -/
def Obligations.StepRunsDecoded : Prop :=
  ∀ s s1 : State,
    s.agenda = [] → s.fatal = none → s.boot = 0 → autoEvent s = none → runs s s.me = true → swapPending s s.me.core = false →
    asyncHeld s = false → tryParked s (s.me.flights.filter (·.parked)) = (false, s1) →
    let passes (o : Out) : Host.Outcome State Fault Refusal := match o with
      | .next u => .next (rotate u)
      | .fault f => .fault f
      | .refused r => .refused r
    (∀ w t, nextWord s1 = .ok (w, t) →
      (∀ i, bodyStop w t = none → decode w = .ok i → step s = passes (exec i t)) ∧
      (∀ e, bodyStop w t = none → decode w = .error e → step s = passes (exec (.illegalInstruction w) t)) ∧
      ∀ u, bodyStop w t = some u → step s = .next (rotate u)) ∧
    ∀ st, nextWord s1 = .error st → step s = passes (exec .fetchFault s1)

/-- With no stick body open, and the bytes at the pc translating for fetch: where a word of the context, of that address and of those bytes
stands in the instruction cache of the core, it is the word, whatever the bytes in memory have become, and nothing else of the hart or of memory
changes: what the cache (R12, R74, R260) holds and how it is tagged is the model's choice (log 10). Where none does, the word is
the little-endian 32-bit value of the four bytes, when they hold no uncorrectable error and no back-off window holds them (R2, R57, R122). Bytes
that are not registered text of the context, and addresses outside it that do not translate for want of a byte (log 88), are the precise permission
fault of a fetch, as are those of a galley that a hart of the context may use (R346); another galley id is an invalid handle (R64). -/
def Obligations.FetchReadsMemory : Prop :=
  (∀ (s : State) (es : List Element), s.me.r.stick.active = false → galleyOf (handleOf s.me.r.pc) = none →
    scalarElements s (whoMe s) 3 s.me.r.pc 4 = .ok es →
    (∀ e ∈ es, ∃ t, textRangeOf s s.me.ctx e.place.addr = some t ∧ e.place.addr + e.place.bits / 8 ≤ t.phys + t.len) →
    let here (e : CachedWord) : Bool :=
      e.ctx == s.me.ctx && e.pc == s.me.r.pc && e.addr == ((es.map (·.place.addr)).headD 0)
    (∀ e, (getCore s s.me.core).icache.find? here = some e →
      ∃ t, nextWord s = .ok (e.word, t) ∧ t = { s with me := { s.me with strong := t.me.strong } }) ∧
    ((getCore s s.me.core).icache.find? here = none → cleanElements s es → backoffAt s (memoryBytes (es.map (·.place))) = false →
      ∃ t, nextWord s = .ok (BitVec.ofNat 32 (readPlaces s (es.map (·.place))), t) ∧ t.me = { s.me with strong := t.me.strong } ∧
        (s.softMem = [] → t.mem = s.mem))) ∧
  (∀ (s : State) (es : List Element), s.me.r.stick.active = false → galleyOf (handleOf s.me.r.pc) = none →
    scalarElements s (whoMe s) 3 s.me.r.pc 4 = .ok es → (∃ e ∈ es, ∀ t, textRangeOf s s.me.ctx e.place.addr = some t → t.phys + t.len < e.place.addr + e.place.bits / 8) →
    nextWord s = .error (.trap { code := 0x0A, info := addrInfo (s.me.r.pc.toNat / 2 ^ 44) 3 0 0 })) ∧
  (∀ (s : State) (id : Nat), s.me.r.stick.active = false → galleyOf (handleOf s.me.r.pc) = some id →
    let code := if galleyUsable s s.me.ctx s.me.core s.me.gmask id then 0x0A else 0x08
    nextWord s = .error (.trap { code := code, info := addrInfo (s.me.r.pc.toNat / 2 ^ 44) 3 0 0 })) ∧
  ∀ (s : State) (t : TrapInfo), s.me.r.stick.active = false → galleyOf (handleOf s.me.r.pc) = none →
    scalarElements s (whoMe s) 3 s.me.r.pc 4 = .error (.fault t) →
    t.code = 0x0C ∨ t.code = 0x0D ∨ t.code = 0x0E →
    (∀ r ∈ s.rot.ranges, r.ctx = s.me.ctx → r.handle = s.me.r.pc.toNat / 2 ^ 44 →
      s.me.r.pc.toNat % 2 ^ 44 < r.lo ∨ r.lo + r.len < s.me.r.pc.toNat % 2 ^ 44 + 4) →
    nextWord s = .error (.trap { code := 0x0A, info := addrInfo (s.me.r.pc.toNat / 2 ^ 44) 3 0 0 })

/-- No instruction is refused and none stops the machine: exec always answers a next state, and a step answers one unless a
fatal error has halted the package, or its firmware image has not verified. A package that has met a fatal error issues nothing: a step whose
turn is a hart's stops with the fault `halted`, and so does the step of any other agent but the host's read, the dump's completion and package
reset (R323); one whose image has not verified stays halted until package reset (R386). -/
def Obligations.StepsGoOn : Prop := (
  (∀ (i : Instr) (s : State), ∃ t, exec i s = .next t) ∧ ∀ s : State, s.fatal = none → s.boot ≠ 6 → ∃ t, step s = .next t) ∧ (
  ∀ (s : State) (f : Fatal), s.fatal = some f →
    (s.agenda = [] → step s = .fault .halted) ∧
    (∀ hid d rest, s.agenda = .hart hid d :: rest → step s = .fault .halted) ∧
    ∀ i rest, s.agenda = .event i :: rest → i ≠ .dumpComplete → i ≠ .packageReset → (∀ a n, i ≠ .hostRead a n) →
      step s = .fault .halted) ∧ (
  ∀ s : State, s.fatal = none → s.boot = 6 →
    (∀ rest, s.agenda = .event .packageReset :: rest → ∃ t, step s = .next t ∧ t.boot = 1) ∧
    ((∀ rest, s.agenda ≠ .event .packageReset :: rest) → step s = .fault .halted))

/-- What every step keeps: main memory and every scratchpad stay in canonical form, so that equal memories are equal data. The
canonical form is the model's own (log 4). -/
def Obligations.StepKeepsMemories : Prop := ∀ s t : State, memoriesWf s → step s = .next t → memoriesWf t

/-- The memories after reset are in canonical form. What reset leaves: the values that R386 and the register tables give (R55,
R56, R284, R361, R364, R370, R377, R379, R381, R383); STL_NODE has no reset value there, and 0 is the model's choice (log 5). Then bring-up: while it lasts a step without a turn takes its next step of R386, RT_REQ reads with FULL
set (R347) and the other registers of BAR 0 read zero; its fourth step leaves every cluster that may be gated gated, and FULL clear (R386). That
each step succeeds where no turn says otherwise is the model's (log 11). -/
def Obligations.ResetLeaves : Prop := (
  memoriesWf State.reset) ∧ (
  let s := State.reset
  (∀ c, (getCore s c).galleys = Vector.replicate 32 0 ∧ (getCore s c).shadow = .free) ∧
  s.transfers = [] ∧ s.unit.nodes = [] ∧ s.unit.ctxt = 0 ∧ s.unit.slice = 2000 ∧ s.unit.qtab = 0 ∧ s.unit.elog = 0 ∧
  s.cxw = Vector.replicate 16 0 ∧ s.cxp = Vector.replicate 8 0 ∧ s.stlNode = 0 ∧ s.boot = 1 ∧
  (∀ c ∈ s.clusters.toList, c.pstate = .active ∧ c.level = 16 ∧ c.kern = 4 ∧ c.gateen = true) ∧
  (∀ d ∈ s.dies.toList, d.pcap = 1050 ∧ d.thot = 95 ∧ d.hold = 50 ∧ d.mcb.nrp = 0x40 ∧ d.mcb.retired = [])) ∧ (
  ∀ s : State, s.fatal = none → s.agenda = [] →
    (s.boot = 1 → step s = .next { s with boot := 2 }) ∧ (s.boot = 2 → step s = .next { s with boot := 3 }) ∧
    (s.boot = 3 → step s = .next { s with boot := 4 }) ∧
    (s.boot = 4 → ∃ t, step s = .next t ∧ t.boot = 5 ∧ t.me = s.me ∧ t.mem = s.mem ∧
      ∀ k : Fin 20, t.clusters[k] = if s.clusters[k].gateen then { s.clusters[k] with pstate := .gated } else s.clusters[k]) ∧
    (s.boot = 5 → step s = .next { s with boot := 0 })) ∧ (
  ∀ (s : State) (off : Nat), 1 ≤ s.boot → s.boot ≤ 5 → off < 0x80000 → off % 8 = 0 →
    (∀ v, exec (.registerWrite off 8 v) s = .next s) ∧
    ∃ t, exec (.hostRead (2 ^ 47 + off) 8) s = .next t ∧
      t.host = .data (bytesOf 8 (if off = 0x40000 then 2 ^ 40 else 0)) ∧ t.mem = s.mem)

/-- Memory as bits: what is written to a place is read back from it, also from one whose second byte lies elsewhere (R77), a place that shares no bit with it reads as before, and a
byte of main memory that no written place reaches is unchanged (R2, R68, R163). A byte that nothing has written reads 0 (log 4),
which the statement does not rest on. -/
def Obligations.ReadAfterWrite : Prop :=
  (∀ (s : State) (p : Place) (v : Nat), memoriesWf s → placeFits p → readPlace (writePlaces s [(p, v)]) p = v % 2 ^ p.bits) ∧
  (∀ (s : State) (p q : Place) (v : Nat), memoriesWf s → (p.core ≠ q.core ∨ ∀ b ∈ placeBits p, b ∉ placeBits q) →
    readPlace (writePlaces s [(p, v)]) q = readPlace s q) ∧
  ∀ (s : State) (ws : List (Place × Nat)) (a : Nat), memoriesWf s → (∀ w ∈ ws, w.1.core = none → a ∉ placeBytes w.1) →
    readByte (writePlaces s ws).mem a = readByte s.mem a

/-! ## Scalar operands, retirement and stops (R110, R111, R122, R130) -/

/-- A source field: s0 reads 0, another register its value, q4, q5 and q7 the head entry, which is popped; an empty queue makes
the instruction wait (R111, R130); an instruction that waits at retirement holds the entries that it has popped, and finds them again. A
destination field: s0 discards the result, another register takes it, q0 to q3 and q6 take one more entry at their tail; a full queue makes
the instruction wait, its sources popped (R111, R130). A source that names q0 to q3 or q6, or a
destination that names q4, q5 or q7, is the precise illegal-instruction trap at issue, whatever else the instruction would meet
(R110, R130). -/
def Obligations.ScalarOperands : Prop := (
  ∀ s : State,
    readSrc (.s 0) s = .ok (0, s) ∧
    (∀ n : Fin 24, n ≠ 0 → pendingX s n = false → readSrc (.s n) s = .ok (s.me.r.x[n], s)) ∧
    (∀ (k : Fin 8) (v : Word) (rest : List (Nat × Word)), s.me.popped = (k.val, v) :: rest →
      readSrc (.q k) s = .ok (v, modMe s fun h => { h with popped := rest })) ∧
    (∀ (k : Fin 8) (v : Word) (rest : List Word), (∀ e ∈ s.me.popped, e.1 ≠ k.val) → s.me.r.q[k] = v :: rest →
      ∃ t, readSrc (.q k) s = .ok (v, t) ∧ t = { s with me := t.me } ∧ t.me = { s.me with r := t.me.r } ∧
        t.me.r = { s.me.r with q := t.me.r.q } ∧ t.me.r.q[k] = rest ∧ ∀ j : Fin 8, j ≠ k → t.me.r.q[j] = s.me.r.q[j]) ∧
    ∀ k : Fin 8, (∀ e ∈ s.me.popped, e.1 ≠ k.val) → s.me.r.q[k] = [] → readSrc (.q k) s = .error (.wait (.queueEmpty k))) ∧ (
  ∀ (s : State) (v : Word),
    writeDst (.s 0) v s = .ok s ∧
    (∀ n : Fin 24, n ≠ 0 → pendingX s n = false →
      writeDst (.s n) v s = .ok (modRegs s fun r => { r with x := r.x.set n v })) ∧
    (∀ k : Fin 8, pendingQ s k = false → s.me.r.q[k].length < queueDepth k.val →
      writeDst (.q k) v s = .ok (modRegs s fun r => { r with q := r.q.set k (r.q[k] ++ [v]) })) ∧
    ∀ k : Fin 8, pendingQ s k = false → queueDepth k.val ≤ s.me.r.q[k].length →
      writeDst (.q k) v s = .error (.full k s.me.r.q)) ∧ (
  ∀ (i : Instr) (srcs dsts : List SOp) (s : State), scalarFields i = some (srcs, dsts) →
    ((∃ k : Fin 8, SOp.q k ∈ srcs ∧ (k.val ≤ 3 ∨ k.val = 6)) ∨ (∃ k : Fin 8, SOp.q k ∈ dsts ∧ (k.val = 4 ∨ k.val = 5 ∨ k.val = 7))) →
    exec i s = .next (stopAt s (.trap { code := 1 }) none))

/-- What the retirement of an instruction of the scalar stream changes: the pc moves to the next word, whose offset is 4 larger,
RETIRED counts one, an open stick body moves on by one word, and progress mode and the wait end; nothing else changes (R122,
R143, R264). An instruction that waits changes nothing but the reason it waits for; one that traps while an earlier instruction
has not retired waits for that (R6, R304). An instruction of the vector or access stream that retires at once: the next word is
next, VSTART is 0, or PROG for one that goes tile by tile, RETIRED counts one and, when no earlier instruction can still trap, the counts made reach
the counters DTSKIP, HEADROOM and NANENC of its core; nothing else changes (R169, R180, R181, R264). That the offset of the pc wraps at
2^44 - 4 is the model's reading (log 16), and that later instructions of a stream may wait while the scalar stream goes on is modelled as log 3
says. -/
def Obligations.Retirement : Prop := (
  ∀ s : State, retire s = { s with me := { s.me with wait := none, r := { s.me.r with
      pc := BitVec.ofNat 64 (s.me.r.pc.toNat / 2 ^ 44 * 2 ^ 44 + (s.me.r.pc.toNat % 2 ^ 44 + 4) % 2 ^ 44),
      retired := s.me.r.retired + 1, armed := false,
      stick := if s.me.r.stick.active then { s.me.r.stick with pos := s.me.r.stick.pos + 1 } else s.me.r.stick } } } ∧
    ∀ pc : Word, retireTo s pc = { s with me := { s.me with wait := none, r := { s.me.r with
      pc := pc, retired := s.me.r.retired + 1, armed := false } } }) ∧ (
  ∀ (s : State) (slot : Option Word),
    (∀ r, stopAt s (.wait r) slot = { s with me := { s.me with wait := some r } }) ∧
    (∀ t, anyParked s = true → stopAt s (.trap t) slot = { s with me := { s.me with wait := some .earlier } }) ∧
    ∀ t, anyParked s = false → t.code ≠ 0x0F → t.code ≠ 0x14 → stopAt s (.trap t) slot = takeTrap s t false false false) ∧ (
  ∀ (s : State) (tile : Bool), (∀ f ∈ s.me.flights, unretired f = false) →
    let n := s.me.r.counts
    let t := retireStream false tile s
    t = { s with cores := t.cores, me := { s.me with
      nextSeq := s.me.nextSeq + 1, wait := none, pin := none, r := { s.me.r with
        pc := nextPc s.me.r.pc, vstart := if tile then s.me.r.vstart else 0, prog := if tile then 0 else s.me.r.prog, armed := false,
        retired := s.me.r.retired + 1, counts := Counts.zero, stick := (retire s).me.r.stick } } } ∧
    ∀ c, getCore t c = if c = s.me.core then { getCore s c with
        dtskip := (getCore s c).dtskip + BitVec.ofNat 64 n.dtskip, headroom := (getCore s c).headroom + BitVec.ofNat 64 n.headroom,
        nanenc := (getCore s c).nanenc + BitVec.ofNat 64 n.nanenc }
      else getCore s c)

/-! ## Integer arithmetic, constants and object addresses (R131 to R135) -/

/-- The register-register instructions but for division and bit counts: sd takes the value that R132 gives for the values of sa
and sb, which are read in that order before sd is written, and the instruction retires. Division never traps: DIV, DIVU, REM and
REMU give the quotient truncated toward zero and the remainder with the sign of sa; a quotient that cannot be represented
saturates toward the true result, and a remainder with no divisor is 0 (R132). CLZ, CTZ and POPC: the leading and the trailing
zero bits of sa, 64 for sa = 0, and its set bits (R132). -/
def Obligations.IntegerResults : Prop := (
  ∀ e ∈ binaryOps, ∀ (sd sa sb : SOp) (s s1 s2 s3 : State) (a b : Word),
    srcOk sa = true → srcOk sb = true → dstOk sd = true → readSrc sa s = .ok (a, s1) → readSrc sb s1 = .ok (b, s2) →
    writeDst sd (e.2 a b) s2 = .ok s3 → exec (e.1 sd sa sb) s = .next (retire s3)) ∧ (
  ∀ (sd sa sb : SOp) (s s1 s2 : State) (a b : Word),
    srcOk sa = true → srcOk sb = true → dstOk sd = true → readSrc sa s = .ok (a, s1) → readSrc sb s1 = .ok (b, s2) →
    ∃ q qu r ru : Word,
      (∀ s3, writeDst sd q s2 = .ok s3 → exec (.div sd sa sb) s = .next (retire s3)) ∧
      (∀ s3, writeDst sd qu s2 = .ok s3 → exec (.divu sd sa sb) s = .next (retire s3)) ∧
      (∀ s3, writeDst sd r s2 = .ok s3 → exec (.rem sd sa sb) s = .next (retire s3)) ∧
      (∀ s3, writeDst sd ru s2 = .ok s3 → exec (.remu sd sa sb) s = .next (retire s3)) ∧
      (b = 0 → r = 0 ∧ ru = 0 ∧ (a = 0 → q = 0 ∧ qu = 0) ∧ (a ≠ 0 → qu = 0xFFFFFFFFFFFFFFFF) ∧
        (a.toInt < 0 → q = 0x8000000000000000) ∧ (0 < a.toInt → q = 0x7FFFFFFFFFFFFFFF)) ∧
      (b ≠ 0 → qu.toNat = a.toNat / b.toNat ∧ ru.toNat = a.toNat % b.toNat ∧ r.toInt = a.toInt.tmod b.toInt) ∧
      (b ≠ 0 → ¬(a = 0x8000000000000000 ∧ b = 0xFFFFFFFFFFFFFFFF) → q.toInt = a.toInt.tdiv b.toInt) ∧
      (a = 0x8000000000000000 → b = 0xFFFFFFFFFFFFFFFF → q = 0x7FFFFFFFFFFFFFFF)) ∧ (
  ∀ (sd sa : SOp) (s s1 : State) (a : Word), srcOk sa = true → dstOk sd = true → readSrc sa s = .ok (a, s1) →
    ∃ lead trail ones : Nat,
      (∀ s2, writeDst sd (BitVec.ofNat 64 lead) s1 = .ok s2 → exec (.clz sd sa) s = .next (retire s2)) ∧
      (∀ s2, writeDst sd (BitVec.ofNat 64 trail) s1 = .ok s2 → exec (.ctz sd sa) s = .next (retire s2)) ∧
      (∀ s2, writeDst sd (BitVec.ofNat 64 ones) s1 = .ok s2 → exec (.popc sd sa) s = .next (retire s2)) ∧
      (a = 0 → lead = 64 ∧ trail = 64) ∧
      (a ≠ 0 → lead < 64 ∧ a.toNat / 2 ^ (63 - lead) = 1 ∧ trail < 64 ∧ a.getLsbD trail = true ∧
        ∀ i, i < trail → a.getLsbD i = false) ∧
      ones = ((List.range 64).filter fun i => a.getLsbD i).length)

/-- The immediate instructions, with imm12 sign-extended, and the shifts by imm[5:0] (R124, R133). The address that an
instruction forms from a base and a displacement, or the precise ADDRFORM trap when the offset would leave 0 to 2^44 - 1, with
nothing of the instruction done: OBJ and PCHI (R131, R134, R135). LIH gives the 32-bit value imm20 x 2^12 sign-extended (R134);
OBJH builds an address from a handle below 2^20 and an offset below 2^44, or takes ADDRFORM, whose information word names the handle where sa is
one (R306; that it does so here is the model's reading, log 92); OBJO gives the offset of an address
(R135). -/
def Obligations.ImmediatesAndAddresses : Prop := (
  (∀ e ∈ immediateOps, ∀ (sd sa : SOp) (imm : BitVec 12) (s s1 s2 : State) (a : Word),
    srcOk sa = true → dstOk sd = true → readSrc sa s = .ok (a, s1) → writeDst sd (e.2 a (imm.signExtend 64)) s1 = .ok s2 →
    exec (e.1 sd sa imm) s = .next (retire s2)) ∧
  ∀ e ∈ shiftOps, ∀ (sd sa : SOp) (n : BitVec 6) (s s1 s2 : State) (a : Word),
    srcOk sa = true → dstOk sd = true → readSrc sa s = .ok (a, s1) → writeDst sd (e.2 a n) s1 = .ok s2 →
    exec (e.1 sd sa n) s = .next (retire s2)) ∧ (
  ∀ (sd sa sb : SOp) (imm : BitVec 20) (s s1 s2 : State) (a b : Word), srcOk sa = true → srcOk sb = true → dstOk sd = true →
    readSrc sa s = .ok (a, s1) → readSrc sb s1 = .ok (b, s2) →
    (∀ off : Int, off = (a.toNat % 2 ^ 44 : Nat) + b.toInt →
      (0 ≤ off → off < 2 ^ 44 → ∀ s3, writeDst sd (BitVec.ofNat 64 (a.toNat / 2 ^ 44 * 2 ^ 44 + off.toNat)) s2 = .ok s3 →
        exec (.obj sd sa sb) s = .next (retire s3)) ∧
      ((off < 0 ∨ 2 ^ 44 ≤ off) → ∃ info, exec (.obj sd sa sb) s = .next (stopAt s (.trap { code := 6, info := info }) none))) ∧
    ∀ (pc : Word) (off : Int), pc = s.me.r.pc → off = (pc.toNat % 2 ^ 44 : Nat) + (imm ++ 0#12).toInt →
      (0 ≤ off → off < 2 ^ 44 → ∀ s3, writeDst sd (BitVec.ofNat 64 (pc.toNat / 2 ^ 44 * 2 ^ 44 + off.toNat)) s = .ok s3 →
        exec (.pchi sd imm) s = .next (retire s3)) ∧
      ((off < 0 ∨ 2 ^ 44 ≤ off) → ∃ info, exec (.pchi sd imm) s = .next (stopAt s (.trap { code := 6, info := info }) none))) ∧ (
  ∀ (sd sa sb : SOp) (imm : BitVec 20) (s s1 s2 : State) (a b : Word), srcOk sa = true → srcOk sb = true → dstOk sd = true →
    readSrc sa s = .ok (a, s1) → readSrc sb s1 = .ok (b, s2) →
    (∀ s3, writeDst sd ((imm ++ 0#12 : BitVec 32).signExtend 64) s = .ok s3 → exec (.lih sd imm) s = .next (retire s3)) ∧
    (a.toNat < 2 ^ 20 → b.toNat < 2 ^ 44 → ∀ s3, writeDst sd (BitVec.ofNat 64 (a.toNat * 2 ^ 44 + b.toNat)) s2 = .ok s3 →
      exec (.objh sd sa sb) s = .next (retire s3)) ∧
    ((2 ^ 20 ≤ a.toNat ∨ 2 ^ 44 ≤ b.toNat) → ∃ info,
      exec (.objh sd sa sb) s = .next (stopAt s (.trap { code := 6, info := info }) none) ∧
      (a.toNat < 2 ^ 20 → info.toNat % 2 ^ 20 = a.toNat)) ∧
    ∀ s3, writeDst sd (BitVec.ofNat 64 (a.toNat % 2 ^ 44)) s1 = .ok s3 → exec (.objo sd sa) s = .next (retire s3))

/-- The frame of the instructions that write one scalar destination (R130, R132 to R135): when one does not stop, the machine
outside the hart, every vector, tile, mask, mode, forme, copy, state and frame register, every flag, every stream counter and
every byte of memory are unchanged; so is every s register but sd, and every queue that no field names. -/
def Obligations.RegisterOnlyFrame : Prop :=
  ∀ (i : Instr) (srcs : List SOp) (sd : SOp), registerOnly i = some (srcs, sd) →
    ∀ s t : State, exec i s = .next t →
      (∃ st, t = stopAt s st none) ∨
      (sameOutside s t ∧ t.me = { s.me with r := t.me.r, wait := none } ∧ sameButScalars s.me.r t.me.r ∧
        (∀ n : Fin 24, sd ≠ .s n → t.me.r.x[n] = s.me.r.x[n]) ∧
        (∀ k : Fin 8, sd ≠ .q k → SOp.q k ∉ srcs → t.me.r.q[k] = s.me.r.q[k]) ∧
        ∀ a, readByte t.mem a = readByte s.mem a)

/-! ## Control flow and the composing stick (R140 to R146) -/

/-- The conditional branches: format B, opcode 0x18 with the condition of R127; the full 64 bits of sa and sb are compared, a
taken branch adds 4 x off12 to the offset of the pc, an untaken one goes on to the next word, a taken one whose target leaves 0
to 2^44 - 1 takes ADDRFORM at the branch, and condition codes 2 and 3 are illegal (R140). -/
def Obligations.BranchResults : Prop :=
  (∀ e ∈ branchOps, ∀ (sa sb : SOp) (off : BitVec 12) (s s1 s2 : State) (a b : Word),
    encodeWord (e.2.1 sa sb off) = some (0x18#7 ++ sa.bits ++ sb.bits ++ e.1 ++ off) ∧
    (srcOk sa = true → srcOk sb = true → s.me.r.stick.active = false → readSrc sa s = .ok (a, s1) → readSrc sb s1 = .ok (b, s2) →
      (e.2.2 a b = false → exec (e.2.1 sa sb off) s = .next (retire s2)) ∧
      (e.2.2 a b = true → ∀ o : Int, o = (s.me.r.pc.toNat % 2 ^ 44 : Nat) + 4 * off.toInt →
        (0 ≤ o → o < 2 ^ 44 → exec (e.2.1 sa sb off) s =
          .next (retireTo s2 (BitVec.ofNat 64 (s.me.r.pc.toNat / 2 ^ 44 * 2 ^ 44 + o.toNat)))) ∧
        ((o < 0 ∨ 2 ^ 44 ≤ o) → ∃ info,
          exec (e.2.1 sa sb off) s = .next (stopAt s (.trap { code := 6, info := info }) none))))) ∧
  ∀ w : BitVec 32, w.extractLsb' 25 7 = 0x18#7 → (w.extractLsb' 12 3 = 2#3 ∨ w.extractLsb' 12 3 = 3#3) →
    ∃ e, decode w = .error e

/-- JAL and JALR: the target is formed first, then sd takes the address of the next word, then control goes to the target; a
target out of range takes ADDRFORM and writes nothing (R141). LOOP sets the trip count and the stride of a level, or the
first-only mask and FLAGLVL, or the last-only mask; a count of 2^32 or more, and a FLAGLVL operand above 7, are the stick fault
(R142). -/
def Obligations.JumpsAndLoops : Prop := (
  ∀ (sd sa : SOp) (off : BitVec 20) (imm : BitVec 12) (s s1 : State) (a : Word),
    dstOk sd = true → srcOk sa = true → s.me.r.stick.active = false → readSrc sa s = .ok (a, s1) →
    (∀ o : Int, o = (s.me.r.pc.toNat % 2 ^ 44 : Nat) + 4 * off.toInt →
      (0 ≤ o → o < 2 ^ 44 → ∀ s2, writeDst sd (nextPc s.me.r.pc) s = .ok s2 → exec (.jal sd off) s =
        .next (retireTo s2 (BitVec.ofNat 64 (s.me.r.pc.toNat / 2 ^ 44 * 2 ^ 44 + o.toNat)))) ∧
      ((o < 0 ∨ 2 ^ 44 ≤ o) → ∃ info, exec (.jal sd off) s = .next (stopAt s (.trap { code := 6, info := info }) none))) ∧
    ∀ o : Int, o = (a.toNat % 2 ^ 44 : Nat) + imm.toInt →
      (0 ≤ o → o < 2 ^ 44 → ∀ s2, writeDst sd (nextPc s.me.r.pc) s1 = .ok s2 → exec (.jalr sd sa imm) s =
        .next (retireTo s2 (BitVec.ofNat 64 (a.toNat / 2 ^ 44 * 2 ^ 44 + o.toNat)))) ∧
      ((o < 0 ∨ 2 ^ 44 ≤ o) → ∃ info, exec (.jalr sd sa imm) s = .next (stopAt s (.trap { code := 6, info := info }) none))) ∧ (
  ∀ (sa sb : SOp) (fx : BitVec 5) (s s1 s2 : State) (a b : Word),
    srcOk sa = true → srcOk sb = true → s.me.r.stick.active = false → readSrc sa s = .ok (a, s1) → readSrc sb s1 = .ok (b, s2) →
    (∀ l : Fin 6, l.val = fx.toNat →
      (a.toNat < 2 ^ 32 → exec (.loop sa sb fx) s = .next (retire (modRegs s2 fun r =>
        { r with stick := { r.stick with count := r.stick.count.set l (a.setWidth 32), stride := r.stick.stride.set l b } }))) ∧
      (2 ^ 32 ≤ a.toNat → exec (.loop sa sb fx) s = .next (stopAt s (.trap { code := 0x17 }) none))) ∧
    (fx = 6 →
      (b.toNat < 8 → exec (.loop sa sb fx) s = .next (retire (modRegs s2 fun r =>
        { r with stick := { r.stick with firsts := a, flagLvl := b.setWidth 3 } }))) ∧
      (8 ≤ b.toNat → exec (.loop sa sb fx) s = .next (stopAt s (.trap { code := 0x17 }) none))) ∧
    (fx = 7 → sb = .s 0 → exec (.loop sa sb fx) s = .next (retire (modRegs s2 fun r =>
      { r with stick := { r.stick with lasts := a } }))))

/-- STICK opens a body of fx + 1 levels at the next word, with every index 0 and the walker as base, unless FLAGLVL is not below
the levels; with a zero trip count it runs nothing of the body: the words up to the first STICKEND are fetched and passed over, whatever they
are, and the hart goes on after it; a fetch fault among them is taken at its word, and with no STICKEND among 65 words the stick fault at the
last. A level field past 5 and a walker that is a queue are illegal (R142, R143). STICKEND closes the body after its last iteration;
otherwise the lowest level with an iteration left takes it, the levels below start again, the walker, when there is one, becomes
base plus the sum of index times stride, or takes ADDRFORM with the indices unchanged, and the body runs again from word 0. With
no body open it is the stick fault (R143, R145). -/
def Obligations.StickBodies : Prop := (
  ∀ (n : Fin 24) (fx : BitVec 5) (s : State) (base : Word), s.me.r.stick.active = false → readSrc (.s n) s = .ok (base, s) →
    fx.toNat ≤ 5 →
    ((∀ l : Fin 6, l.val ≤ fx.toNat → s.me.r.stick.count[l] ≠ 0) →
      (s.me.r.stick.flagLvl.toNat ≤ fx.toNat →
        ∃ k : Stick, exec (.stick (.s n) fx) s = .next (modRegs (retire s) fun r => { r with stick := k }) ∧
          k.active = true ∧ k.base = base ∧ k.walk.toNat = n.val ∧ k.lvm1.toNat = fx.toNat ∧ k.pos = 0 ∧
          k.index = Vector.replicate 6 0 ∧ k.pc = nextPc s.me.r.pc ∧ k.buf = [] ∧ k.count = s.me.r.stick.count ∧
          k.stride = s.me.r.stick.stride ∧ k.firsts = s.me.r.stick.firsts ∧ k.lasts = s.me.r.stick.lasts ∧
          k.flagLvl = s.me.r.stick.flagLvl) ∧
      (fx.toNat < s.me.r.stick.flagLvl.toNat → exec (.stick (.s n) fx) s = .next (stopAt s (.trap { code := 0x17 }) none))) ∧
    ((∃ l : Fin 6, l.val ≤ fx.toNat ∧ s.me.r.stick.count[l] = 0) → ∀ (m : Nat) (w : Nat → BitVec 32) (u : Nat → State),
      let past (t : State) : State := modRegs t fun r => { r with pc := nextPc r.pc }
      u 0 = past s → (∀ i, i < m → w i ≠ 0x36000001#32) →
      (∀ i, i < m → ∃ t, fetchWord (u i) (u i).me.r.pc = .ok (w i, t) ∧ u (i + 1) = past t) →
      (m ≤ 64 → ∀ t, fetchWord (u m) (u m).me.r.pc = .ok (0x36000001#32, t) →
        exec (.stick (.s n) fx) s = .next (retireTo t (nextPc t.me.r.pc))) ∧
      (m ≤ 64 → anyParked s = false → ∀ e, fetchWord (u m) (u m).me.r.pc = .error (.trap e) →
        exec (.stick (.s n) fx) s = .next (stopAt (u m) (.trap e) none)) ∧
      (m = 64 → anyParked s = false → ∀ w' t, w' ≠ 0x36000001#32 → fetchWord (u m) (u m).me.r.pc = .ok (w', t) →
        exec (.stick (.s n) fx) s = .next (stopAt t (.trap { code := 0x17 }) none)))) ∧ (
  ∀ (sa : SOp) (k : Fin 8) (fx : BitVec 5) (s : State),
    exec (.stick (.q k) fx) s = .next (stopAt s (.trap { code := 1 }) none) ∧
    (5 < fx.toNat → exec (.stick sa fx) s = .next (stopAt s (.trap { code := 1 }) none))) ∧ (
  ∀ s : State, let k := s.me.r.stick
    (k.active = false → exec .stickend s = .next (stopAt s (.trap { code := 0x17 }) none)) ∧
    (k.active = true → (∀ l : Fin 6, l.val ≤ k.lvm1.toNat → k.count[l].toNat ≤ k.index[l].toNat + 1) →
      exec .stickend s = .next (retire (modRegs s fun r => { r with stick := { k with active := false, len := k.pos } }))) ∧
    (k.active = true → ∀ (l : Fin 6) (index : Fin 6 → Nat) (sum : Int) (k' : Stick),
      l.val ≤ k.lvm1.toNat → k.lvm1.toNat ≤ 5 → k.index[l].toNat + 1 < k.count[l].toNat →
      (∀ j : Fin 6, j < l → k.count[j].toNat ≤ k.index[j].toNat + 1) →
      (∀ j : Fin 6, index j = if j < l then 0 else if j = l then k.index[l].toNat + 1 else k.index[j].toNat) →
      sum = ((List.finRange 6).map fun j : Fin 6 => if j.val ≤ k.lvm1.toNat then (index j : Int) * k.stride[j].toInt else 0).sum →
      k' = { k with index := Vector.ofFn fun j => BitVec.ofNat 32 (index j), pos := 0, len := k.pos } →
      (k.walk = 0 → exec .stickend s = .next (retireTo (modRegs s fun r => { r with stick := k' }) k.pc)) ∧
      ∀ n : Fin 24, n ≠ 0 → k.walk.toNat = n.val → pendingX s n = false → ∀ o : Int,
        o = (k.base.toNat % 2 ^ 44 : Nat) + sum →
        (0 ≤ o → o < 2 ^ 44 → exec .stickend s = .next (retireTo (modRegs s fun r =>
          { r with stick := k', x := r.x.set n (BitVec.ofNat 64 (k.base.toNat / 2 ^ 44 * 2 ^ 44 + o.toNat)) }) k.pc)) ∧
        ((o < 0 ∨ 2 ^ 44 ≤ o) → ∃ info, exec .stickend s = .next (stopAt s (.trap { code := 6, info := info }) none))))

/-- The words of an open body: one limited to the first or the last iteration of an inner block is passed over in every other
one, a 65th word that is an instruction without STICKEND is the stick fault, and every other word, one that is no instruction among them, runs
as elsewhere (R128, R144, R145). What an open body may
not reach: a branch, a jump, SETVLX, STICK, LOOP, END, ERET or SWAPCTX takes the precise stick fault at its word, once its
fields are legal (R145). -/
def Obligations.StickWords : Prop := (
  ∀ (s : State) (w : BitVec 32), let k := s.me.r.stick
    k.active = true → k.flagLvl.toNat ≤ 5 →
    (64 ≤ k.pos.toNat → w ≠ 0x36000001#32 → (∃ i, decode w = .ok i) →
      bodyStop w s = some (stopAt s (.trap { code := 0x17 }) none)) ∧
    (64 ≤ k.pos.toNat → (∃ e, decode w = .error e) → bodyStop w s = none) ∧
    (k.pos.toNat < 64 → w ≠ 0x36000001#32 →
      ((k.firsts.getLsbD k.pos.toNat = true ∧ ∃ l : Fin 6, l.val ≤ k.flagLvl.toNat ∧ k.index[l] ≠ 0) ∨
       (k.lasts.getLsbD k.pos.toNat = true ∧ ∃ l : Fin 6, l.val ≤ k.flagLvl.toNat ∧ k.index[l].toNat + 1 ≠ k.count[l].toNat)) →
      bodyStop w s = some { s with me := { s.me with wait := none, r := { s.me.r with
        pc := nextPc s.me.r.pc, stick := { k with pos := k.pos + 1 } } } }) ∧
    (k.pos.toNat < 64 →
      ¬(k.firsts.getLsbD k.pos.toNat = true ∧ ∃ l : Fin 6, l.val ≤ k.flagLvl.toNat ∧ k.index[l] ≠ 0) →
      ¬(k.lasts.getLsbD k.pos.toNat = true ∧ ∃ l : Fin 6, l.val ≤ k.flagLvl.toNat ∧ k.index[l].toNat + 1 ≠ k.count[l].toNat) →
      bodyStop w s = none) ∧
    bodyStop 0x36000001#32 s = none) ∧ (
  ∀ (i : Instr) (s : State), bodyForbids i = true → wellFormed i = true → s.me.r.stick.active = true →
    s.me.r.strip.isOpen = false → (∀ q fx, i ≠ .stick (.q q) fx) → (∀ sa sb fx, i = .loop sa sb fx → fx = 7 → sb = .s 0) →
    (∀ srcs dsts, scalarFields i = some (srcs, dsts) → srcs.all srcOk = true ∧ dsts.all dstOk = true) →
    exec i s = .next (stopAt s (.trap { code := 0x17 }) none))

/-! ## Vector length, mode slots, formes, tiles and state registers (R113 to R121, R147 to R154) -/

/-- SETVL and SETVLX set VL to the smaller of sa, unsigned, and VLMAX, clear VSTART and give VL to sd; SETVLX with 0 sets VL to
0 and branches. VLMAX is F x L x 512 / esize for the ETYPE and GROUP of the slot, rounded down (R114, R116, R147). -/
def Obligations.VectorLength : Prop :=
  ∀ (sd sa : SOp) (g : Fin 8) (imm : BitVec 12) (s s1 : State) (a : Word), dstOk sd = true → srcOk sa = true →
    readSrc sa s = .ok (a, s1) → ∀ e ∈ etypeTable, (s.me.r.g[g]).toNat % 32 = e.1 →
    let limit := 2 ^ ((s.me.r.g[g]).toNat / 2 ^ 37 % 8) * (32 / 2 ^ s.me.nh) * 4096 / e.2
    let n := BitVec.ofNat 64 (Nat.min a.toNat limit)
    (∀ s2, writeDst sd n s1 = .ok s2 →
      exec (.setvl sd sa g) s = .next (retire (modRegs s2 fun r => { r with vl := n, vstart := 0 })) ∧
      (s.me.r.stick.active = false → a ≠ 0 →
        exec (.setvlx sd sa g imm) s = .next (retire (modRegs s2 fun r => { r with vl := n, vstart := 0 })))) ∧
    (s.me.r.stick.active = false → a = 0 → ∀ o : Int, o = (s.me.r.pc.toNat % 2 ^ 44 : Nat) + 4 * imm.toInt → 0 ≤ o → o < 2 ^ 44 →
      ∀ s2, writeDst sd 0 s1 = .ok s2 → exec (.setvlx sd sa g imm) s =
        .next (retireTo (modRegs s2 fun r => { r with vl := 0, vstart := 0 })
          (BitVec.ofNat 64 (s.me.r.pc.toNat / 2 ^ 44 * 2 ^ 44 + o.toNat))))

/-- SETVLW with 0 sets VL to 0 at once. Otherwise, when nothing of the hart is outstanding, it reads the watermark at sb: at
WPOS + v or above, unsigned, it sets VL and sd to v, clears VSTART and moves WPOS on by v; below, it waits with nothing changed
(R148). WATERMARK_REREAD of a hart that waits so is that SETVLW again, from the word it fetches there: it reads the watermark again, and completes or
goes on waiting (R299), unless a cause or a swap is to come first at its boundary (R258, R310). That an operation nothing holds back performs in the very step is
the model's order (log 2). -/
def Obligations.WatermarkWait : Prop := (
  ∀ (sd sa sb : SOp) (g : Fin 8) (s s1 s2 : State) (a w : Word), dstOk sd = true → srcOk sa = true → srcOk sb = true →
    readSrc sa s = .ok (a, s1) → readSrc sb s1 = .ok (w, s2) →
    (a = 0 → ∀ s3, writeDst sd 0 s2 = .ok s3 →
      exec (.setvlw sd sa sb g) s = .next (retire (modRegs s3 fun r => { r with vl := 0, vstart := 0 }))) ∧
    (a ≠ 0 → calm s → ∀ es v, w.toNat % 8 = 0 → accessElements s2 0 w 8 = .ok es → contiguous es = true → cleanElements s2 es →
      v = Nat.min a.toNat (vlmax (32 / 2 ^ s.me.nh) s.me.r.g[g]) →
      (readPlaces s2 (es.map (·.place)) % 2 ^ 64 < s.me.r.wpos.toNat + v →
        exec (.setvlw sd sa sb g) s = .next (stopAt s (.wait .watermark) (some s.me.r.g[g]))) ∧
      (s.me.r.wpos.toNat + v ≤ readPlaces s2 (es.map (·.place)) % 2 ^ 64 → ∀ s3,
        writeDst sd (BitVec.ofNat 64 v) s2 = .ok s3 → ∃ t, exec (.setvlw sd sa sb g) s = .next t ∧ t.mem = s.mem ∧
          t.me.r = { s3.me.r with
            vl := BitVec.ofNat 64 v, vstart := 0, wpos := s.me.r.wpos + BitVec.ofNat 64 v, pc := t.me.r.pc, armed := false, stick := t.me.r.stick, retired := t.me.r.retired } ∧
          t.me.r.pc = nextPc s.me.r.pc))) ∧ (
  ∀ (hid : Nat) (wd : BitVec 32) (sd sa sb : SOp) (g : Fin 8) (o s s1 s2 : State) (a w : Word),
    (hartOf o hid).map (·.wait) = some (some .watermark) → boundaryDue (focus o hid) (focus o hid).me = false →
    nextWord (focus o hid) = .ok (wd, s) → decode wd = .ok (.setvlw sd sa sb g) →
    exec (.watermarkReread hid) o = exec (.setvlw sd sa sb g) s ∧
    (dstOk sd = true → srcOk sa = true → srcOk sb = true → readSrc sa s = .ok (a, s1) → readSrc sb s1 = .ok (w, s2) → a ≠ 0 → calm s →
      ∀ es v, w.toNat % 8 = 0 → accessElements s2 0 w 8 = .ok es → contiguous es = true → cleanElements s2 es →
      v = Nat.min a.toNat (vlmax (32 / 2 ^ s.me.nh) s.me.r.g[g]) →
      (readPlaces s2 (es.map (·.place)) % 2 ^ 64 < s.me.r.wpos.toNat + v →
        exec (.watermarkReread hid) o = .next (stopAt s (.wait .watermark) (some s.me.r.g[g]))) ∧
      (s.me.r.wpos.toNat + v ≤ readPlaces s2 (es.map (·.place)) % 2 ^ 64 → ∀ s3,
        writeDst sd (BitVec.ofNat 64 v) s2 = .ok s3 → ∃ t, exec (.watermarkReread hid) o = .next t ∧ t.mem = s.mem ∧
          t.me.r.x = s3.me.r.x ∧ t.me.r.q = s3.me.r.q ∧ t.me.r.vl = BitVec.ofNat 64 v ∧ t.me.r.vstart = 0 ∧
          t.me.r.wpos = s.me.r.wpos + BitVec.ofNat 64 v ∧ t.me.wait = none ∧ t.me.r.pc = nextPc s.me.r.pc)))

/-- SETMODE writes a slot unless the value holds a refused ETYPE, RND, SCOPE, GROUP or SPARSE or a reserved bit, which is the
precise illegal-mode trap and changes nothing; GETMODE gives the slot; SETFORME writes a forme that SETFORME accepts, else it
takes the precise illegal-forme trap (R113 to R115, R121, R149). -/
def Obligations.ModeSlots : Prop :=
  ∀ (sa sd : SOp) (g : Fin 8) (s s1 : State) (a : Word), srcOk sa = true → dstOk sd = true → readSrc sa s = .ok (a, s1) →
    (((∃ e ∈ etypeTable, a.toNat % 32 = e.1) ∧ a.toNat / 2 ^ 5 % 8 ≤ 5 ∧ a.toNat / 2 ^ 34 % 8 ≤ 6 ∧ a.toNat / 2 ^ 37 % 8 ≤ 4 ∧
        a.toNat / 2 ^ 46 % 4 ≤ 2 ∧ a.toNat < 2 ^ 50) →
      exec (.setmode sa g) s = .next (retire (modRegs s1 fun r => { r with g := r.g.set g a }))) ∧
    (¬((∃ e ∈ etypeTable, a.toNat % 32 = e.1) ∧ a.toNat / 2 ^ 5 % 8 ≤ 5 ∧ a.toNat / 2 ^ 34 % 8 ≤ 6 ∧ a.toNat / 2 ^ 37 % 8 ≤ 4 ∧
        a.toNat / 2 ^ 46 % 4 ≤ 2 ∧ a.toNat < 2 ^ 50) →
      exec (.setmode sa g) s = .next (stopAt s (.trap { code := 2 }) none)) ∧
    (∀ s2, writeDst sd s.me.r.g[g] s = .ok s2 → exec (.getmode sd g) s = .next (retire s2)) ∧
    (formeAccepted a → exec (.setforme sa g) s = .next (retire (modRegs s1 fun r => { r with fm := r.fm.set g a }))) ∧
    (¬formeAccepted a → exec (.setforme sa g) s = .next (stopAt s (.trap { code := 3 }) none)) ∧
    formeAccepted 0x24_9484_4892

/-- SETTILE sets ROWS and PITCH and clears PROG; a value out of range is the precise illegal-mode trap, and the three registers
keep their values when the trap is taken (R150). -/
def Obligations.TileSettings : Prop :=
  ∀ (sa sb : SOp) (s s1 s2 : State) (a b : Word), srcOk sa = true → srcOk sb = true →
    readSrc sa s = .ok (a, s1) → readSrc sb s1 = .ok (b, s2) →
    (1 ≤ a.toNat → a.toNat ≤ 65535 → -2 ^ 43 ≤ b.toInt → b.toInt ≤ 2 ^ 43 - 1 →
      exec (.settile sa sb) s = .next (retire (modRegs s2 fun r => { r with rows := a, pitch := b, prog := 0 }))) ∧
    (¬(1 ≤ a.toNat ∧ a.toNat ≤ 65535 ∧ -2 ^ 43 ≤ b.toInt ∧ b.toInt ≤ 2 ^ 43 - 1) →
      exec (.settile sa sb) s = .next (stopAt s (.trap { code := 2 }) none) ∧
      ((s.me.r.frame[0x14]).getLsbD 0 = false → (∃ pc, vectorEntry s 2 = .ok pc) → ∀ t, exec (.settile sa sb) s = .next t →
        t.me.r.rows = s.me.r.rows ∧ t.me.r.pitch = s.me.r.pitch ∧ t.me.r.prog = s.me.r.prog))

/-- GETS gives a state register by its number, FFLAGS once nothing earlier is unsettled and DPHASE once no drain waits; a number
that is not assigned is the precise illegal-instruction trap (R151 to R154). PUTS writes a state register by its access code: VL
and VSTART up to 2^19, ROWS and PITCH in the ranges of R150, PROG and DPHASE their fields, WPOS whole, FFLAGS by clearing what
is written as 1; a value out of range is the precise illegal-mode trap, a read-only register the privilege fault, a number not
assigned the illegal-instruction trap (R151, R152). -/
def Obligations.StateRegisters : Prop := (
  ∀ (sd : SOp) (s : State), dstOk sd = true →
    (∀ e ∈ stateReads, ∀ s1, writeDst sd (e.2 s) s = .ok s1 → (e.1 = 6#12 → flagsPending s = false) →
      (e.1 = 7#12 → drainWaits s = false) → exec (.gets sd e.1) s = .next (retire s1)) ∧
    (∀ (f : Fin 8) (s1 : State), writeDst sd s.me.r.fm[f] s = .ok s1 →
      exec (.gets sd (0x010#12 + BitVec.ofNat 12 f.val)) s = .next (retire s1)) ∧
    (∀ (k : Fin 16) (s1 : State), writeDst sd (0#32 ++ s.me.perf[k] ++ s.me.issued[k]) s = .ok s1 →
      exec (.gets sd (0x020#12 + BitVec.ofNat 12 k.val)) s = .next (retire s1)) ∧
    (∀ (l : Fin 6) (s1 : State), writeDst sd (s.me.r.stick.index[l] ++ s.me.r.stick.count[l]) s = .ok s1 →
      exec (.gets sd (0x030#12 + BitVec.ofNat 12 l.val)) s = .next (retire s1)) ∧
    (∀ (l : Fin 6) (s1 : State), writeDst sd s.me.r.stick.stride[l] s = .ok s1 →
      exec (.gets sd (0x036#12 + BitVec.ofNat 12 l.val)) s = .next (retire s1)) ∧
    (∀ (i : Fin 256) (s1 : State), i.val ≤ 0x14 ∨ (0x18 ≤ i.val ∧ i.val ≤ 0x9C) ∨ (0xA0 ≤ i.val ∧ i.val ≤ 0xB0) →
      writeDst sd s.me.r.frame[i] s = .ok s1 → exec (.gets sd (0x100#12 + BitVec.ofNat 12 i.val)) s = .next (retire s1)) ∧
    ∀ n : BitVec 12, (0x0B ≤ n.toNat ∧ n.toNat < 0x10) ∨ (0x18 ≤ n.toNat ∧ n.toNat < 0x20) ∨
        (0x43 ≤ n.toNat ∧ n.toNat < 0x100) ∨ (0x115 ≤ n.toNat ∧ n.toNat < 0x118) ∨
        (0x19D ≤ n.toNat ∧ n.toNat < 0x1A0) ∨ 0x1B1 ≤ n.toNat →
      exec (.gets sd n) s = .next (stopAt s (.trap { code := 1 }) none)) ∧ (
  ∀ (sa : SOp) (s s1 : State) (a : Word), srcOk sa = true → readSrc sa s = .ok (a, s1) →
    (a.toNat ≤ 2 ^ 19 → exec (.puts sa 0) s = .next (retire (modRegs s1 fun r => { r with vl := a })) ∧
      exec (.puts sa 1) s = .next (retire (modRegs s1 fun r => { r with vstart := a }))) ∧
    (2 ^ 19 < a.toNat → ∀ n : BitVec 12, n = 0 ∨ n = 1 → exec (.puts sa n) s = .next (stopAt s (.trap { code := 2 }) none)) ∧
    exec (.puts sa 2) s = .next (retire (modRegs s1 fun r => { r with prog := BitVec.ofNat 64 (a.toNat % 2 ^ 32) })) ∧
    (1 ≤ a.toNat → a.toNat ≤ 65535 → exec (.puts sa 3) s = .next (retire (modRegs s1 fun r => { r with rows := a }))) ∧
    (a = 0 ∨ 65535 < a.toNat → exec (.puts sa 3) s = .next (stopAt s (.trap { code := 2 }) none)) ∧
    (-2 ^ 43 ≤ a.toInt → a.toInt < 2 ^ 43 → exec (.puts sa 4) s = .next (retire (modRegs s1 fun r => { r with pitch := a }))) ∧
    (a.toInt < -2 ^ 43 ∨ 2 ^ 43 ≤ a.toInt → exec (.puts sa 4) s = .next (stopAt s (.trap { code := 2 }) none)) ∧
    exec (.puts sa 5) s = .next (retire (modRegs s1 fun r => { r with wpos := a })) ∧
    exec (.puts sa 6) s = .next (retire (modRegs s1 fun r => { r with fflags := r.fflags &&& ~~~(a.setWidth 7) })) ∧
    (drainWaits s = false →
      exec (.puts sa 7) s = .next (retire (modRegs s1 fun r => { r with dphase := BitVec.ofNat 64 (a.toNat % 2 ^ 25) }))) ∧
    (∀ n : BitVec 12, n = 8 ∨ n = 9 ∨ n = 10 ∨ (0x10 ≤ n.toNat ∧ n.toNat < 0x18) ∨ (0x20 ≤ n.toNat ∧ n.toNat ≤ 0x42) ∨
        (0x138 ≤ n.toNat ∧ n.toNat ≤ 0x167) →
      exec (.puts sa n) s = .next (stopAt s (.trap { code := 5 }) none)) ∧
    (∀ n : BitVec 12, (0x0B ≤ n.toNat ∧ n.toNat < 0x10) ∨ (0x18 ≤ n.toNat ∧ n.toNat < 0x20) ∨
        (0x43 ≤ n.toNat ∧ n.toNat < 0x100) ∨ (0x115 ≤ n.toNat ∧ n.toNat < 0x118) ∨
        (0x19D ≤ n.toNat ∧ n.toNat < 0x1A0) ∨ 0x1B1 ≤ n.toNat →
      exec (.puts sa n) s = .next (stopAt s (.trap { code := 1 }) none)) ∧
    ((∀ i : Fin 256, (3 ≤ i.val ∧ i.val ≤ 0x0B) ∨ i.val = 1 → exec (.puts sa (0x100#12 + BitVec.ofNat 12 i.val)) s =
        .next (retire (modRegs s1 fun r => { r with frame := r.frame.set i a }))) ∧
      exec (.puts sa 0x102) s = .next (retire (modRegs s1 fun r =>
        { r with frame := (r.frame.set 2 a).set 0x14 (r.frame[0x14] &&& ~~~2) }))))

/-! ## Strips and END (R155 to R158) -/

/-- STRIP opens a strip, with no watermark word or with one that is aligned, contiguous and may be loaded and stored; inside a
strip it is STRIPSTATE (R156); a watermark word that is not aligned is the misaligned fault (R73), whose element and whose coordinate, the
offset, are the model's choice (log 66). PROOF closes the strip and adds its flags; when nothing else of the hart is outstanding the stores that it
buffered perform in their order, then, in a strip with a watermark word, the write of sa there, and each counts as performed in its stream
(R157, R175). With no strip open it is STRIPSTATE (R157). END stops a hart whose operations have performed, discards the entries left in its
queues, adds its FFLAGS to those of the colophon of its node and counts one more hart there; in a strip it is STRIPSTATE; while an
instruction waits on a queue it is QDEADLOCK at the oldest that waits (log 89), with the queues waited on (R112, R158, R300, R306).
That an operation nothing holds back performs in the very step is the model's order (log 2). -/
def Obligations.StripsAndEnd : Prop := (
  ∀ (sa sb : SOp) (s s1 s2 : State) (a b : Word), srcOk sa = true → srcOk sb = true →
    (s.me.r.strip.isOpen = true → exec (.strip sa sb) s = .next (stopAt s (.trap { code := 0x12 }) none)) ∧
    (s.me.r.strip.isOpen = false → readSrc sa s = .ok (a, s1) → readSrc sb s1 = .ok (b, s2) →
      (a = 0 → ∃ st : StripState, exec (.strip sa sb) s = .next (retire (modRegs s2 fun r => { r with strip := st })) ∧
        st.isOpen = true ∧ st.w = 0 ∧ st.b = b ∧ st.stores = [] ∧ st.flags = 0) ∧
      (a ≠ 0 → a.toNat % 8 ≠ 0 → ∃ info, exec (.strip sa sb) s =
        .next (stopAt s (.trap { code := 0x0B, elem := elementNo s2 (whoMe s2) a, coord := [a.toNat % 2 ^ 44], info := info }) none)) ∧
      ∀ es es', a ≠ 0 → a.toNat % 8 = 0 → accessElements s2 0 a 8 = .ok es → accessElements s2 1 a 8 = .ok es' →
        contiguous es = true → contiguous es' = true → ∃ (st : StripState),
          exec (.strip sa sb) s = .next (retire (modRegs (touchElements s2 es) fun r => { r with strip := st })) ∧
          st.isOpen = true ∧ st.w = a ∧ st.b = b ∧ st.stores = [] ∧ st.flags = 0)) ∧ (
  ∀ (sa : SOp) (g : Fin 8) (s s1 : State) (a : Word), srcOk sa = true →
    (s.me.r.strip.isOpen = false → exec (.proof sa g) s = .next (stopAt s (.trap { code := 0x12 }) none)) ∧
    (s.me.r.strip.isOpen = true → readSrc sa s = .ok (a, s1) → calmButStrip s → s.me.lent = [] →
      let st := s.me.r.strip
      st.stores.Pairwise (fun x y => x.seq < y.seq) → (∀ x ∈ st.stores, x.seq < s.me.nextSeq) → stripBad s st = false →
      ∀ mark : List (Place × Nat),
        ((st.w = 0 ∧ mark = []) ∨ ∃ es, st.w ≠ 0 ∧ st.w.toNat % 8 = 0 ∧ accessElements s1 1 st.w 8 = .ok es ∧ contiguous es = true ∧
          mark = spread (es.map (·.place)) a.toNat) →
        let u := (st.stores.map (·.writes) ++ [mark]).foldl writePlaces s
        ∃ t, exec (.proof sa g) s = .next t ∧ t.mem = u.mem ∧ (∀ c, (getCore t c).scratch = (getCore u c).scratch) ∧
          t.me.r.strip = StripState.reset ∧ t.me.r.fflags = s.me.r.fflags ||| st.flags ∧ t.me.r.pc = nextPc s.me.r.pc ∧
          t.me.flights = [] ∧ ∀ k : Fin 16, t.me.perf[k] = s.me.perf[k] +
            BitVec.ofNat 16 ((st.stores.filter fun x => x.stream == k.val).length +
              if st.w ≠ 0 ∧ (s.me.r.g[g]).toNat / 2 ^ 14 % 2 ^ 4 = k.val then 1 else 0))) ∧ (
  ∀ s : State,
    (s.me.r.strip.isOpen = true → exec .endHart s = .next (stopAt s (.trap { code := 0x12 }) none)) ∧
    (s.me.r.strip.isOpen = false → s.me.r.stick.active = false →
      (∀ f ∈ s.me.flights, f.parked = true → (∀ x ∈ s.me.flights, x.parked = true → x = f ∨ f.seq < x.seq) →
        let on (k : Fin 8) : Prop := ∃ x ∈ s.me.flights, x.parked = true ∧
          (x.why = some (.queueEmpty k) ∨ x.why = some (.queueFull k))
        (∃ k, on k) → ∃ info : Word, (∀ k : Fin 8, info.getLsbD k.val = true ↔ on k) ∧
          exec .endHart s = .next (preciseTrap (rollback f s) { code := 0x18, info := info } none false false)) ∧
      (s.me.flights = [] → (∀ t ∈ s.transfers, t.owner ≠ some s.me.hid) →
        (∀ n, findNode s s.me.ctx s.me.node = some n → coloMoving s n = false) → ∃ t, exec .endHart s = .next t ∧
        t.me.live = false ∧ t.me.r = { s.me.r with q := Vector.replicate 8 [], retired := s.me.r.retired + 1 } ∧
        t.rest = s.rest ∧ ∀ n, findNode s s.me.ctx s.me.node = some n →
          (findNode t s.me.ctx s.me.node).map (·.ended) = some (n.ended + 1) ∧
          ∀ es, scalarElements s (whoUnit s s.me.ctx) 1 (nodeColo n.record) 8 = .ok es → ∃ old new : Nat,
            old = readPlaces s (es.map (·.place)) ∧ t.mem = (writePlaces s (spread (es.map (·.place)) new)).mem ∧
            new % 2 ^ 8 = old % 2 ^ 8 ∧ new / 2 ^ 8 % 2 ^ 7 = (old / 2 ^ 8 % 2 ^ 7) ||| s.me.r.fflags.toNat ∧
            new / 2 ^ 15 % 2 ^ 17 = old / 2 ^ 15 % 2 ^ 17 ∧ new / 2 ^ 32 % 2 ^ 12 = (old / 2 ^ 32 % 2 ^ 12 + 1) % 2 ^ 12 ∧
            new / 2 ^ 44 = old / 2 ^ 44)))

/-! ## Traps, the banks and counters (R256 to R259, R263, R264, R302 to R310) -/

/-- Taking an exception while no frame is active and the vector gives a handler: the frame holds the cause, the pc, the address
to resume at (the next word for TRAP and BREAK), the element, the coordinates, the information word and the registers; ACTIVE is
set and ARM as asked; the stick body closes; what the instruction has popped while it waited is in its queues again (R111); control goes to
the handler; nothing else of the hart changes (R302 to R307). The
handler of a cause is the 8-byte entry of the vector at TRAPV + 8 x cause, read as a load reads it, unless it is zero or no multiple of 4
(R302); a correctable error that the read meets is corrected (R58). TRAP
and BREAK take their causes, at once when nothing earlier of the hart is unsettled, with the number in the information word
(R256); a trapping step of any kind while a frame is active, and one with no handler, kill the context: none of its harts is
left (R302, R309, R320); while the object of the vector is being moved, or a back-off window holds it, the hart waits (R57, R79). A held asynchronous cause is taken at the boundary at which the hart stands, that of the lowest code
first; none is while a frame is active or none is held (R309, R310). -/
def Obligations.Traps : Prop := (
  ∀ (s : State) (t : TrapInfo) (async arms : Bool) (pc : Word), (s.me.r.frame[0x14]).getLsbD 0 = false → t.code < 32 →
    t.code ≠ 0x0E → t.coord.length ≤ 6 → vectorMoving s t.code = false → vectorEntry s t.code = .ok pc →
    ∃ (f : Vector Word 256) (k : Stick), (s.softMem = [] → correctVector s t.code = s) ∧
      takeTrap s t async false arms = { correctVector s t.code with me := { s.me with
        popped := [], pin := none, wait := none, r := { s.me.r with
          q := (unpop s).me.r.q, frame := f, pc := pc, armed := false, stick := k } } } ∧
      k = { s.me.r.stick with active := false, held := k.held } ∧
      f[0] = BitVec.ofNat 64 (t.code + (if async then 256 else 0) + 1024 * t.coord.length) ∧ f[1] = s.me.r.pc ∧
      f[2] = (if t.code = 0x1B ∨ t.code = 0x1C then nextPc s.me.r.pc else s.me.r.pc) ∧ f[3] = BitVec.ofNat 64 t.elem ∧
      (∀ d : Fin 6, f[4 + d.val] = BitVec.ofNat 64 (t.coord.getD d.val 0)) ∧ f[0x0A] = t.info ∧
      f[0x0B] = s.me.r.strip.pc ∧ f[0x0C] = s.me.r.vl ∧ f[0x0D] = s.me.r.vstart ∧ f[0x0E] = s.me.r.prog ∧
      f[0x0F] = s.me.r.rows ∧ f[0x10] = s.me.r.pitch ∧ f[0x11] = s.me.r.wpos ∧ f[0x12] = s.me.r.dphase ∧
      f[0x13] = s.me.r.token ∧ f[0x14] = (if arms then 3 else 1) ∧
      (∀ i : Fin 8, f[0x18 + i.val] = s.me.r.g[i] ∧ f[0x20 + i.val] = s.me.r.fm[i]) ∧
      ∀ i : Fin 16, f[0x28 + i.val] = s.me.r.c[i]) ∧ (
  ∀ (s : State) (code : Nat) (es : List Element) (v : Nat), s.me.trapv.toNat % 2 ^ 44 + 8 * code < 2 ^ 44 →
    accessElements s 0 (BitVec.ofNat 64 (s.me.trapv.toNat + 8 * code)) 8 = .ok es → cleanElements s es →
    v = readPlaces s (es.map (·.place)) % 2 ^ 64 →
    (v ≠ 0 → v % 4 = 0 → vectorEntry s code = .ok (BitVec.ofNat 64 v)) ∧
    ((v = 0 ∨ v % 4 ≠ 0) → ∃ c, vectorEntry s code = .error c)) ∧ (
  ∀ s : State,
    (anyParked s = false → ∀ n : BitVec 5,
      exec (.trap n) s = .next (takeTrap s { code := 0x1B, info := n.setWidth 64 } false false false) ∧
      exec .brk s = .next (takeTrap s { code := 0x1C } false false false)) ∧
    (anyParked s = true → ∀ n : BitVec 5, exec (.trap n) s = .next (stopAt s (.wait .earlier) none) ∧
      exec .brk s = .next (stopAt s (.wait .earlier) none)) ∧
    ∀ (t : TrapInfo) (async part arms : Bool),
      ((s.me.r.frame[0x14]).getLsbD 0 = false → vectorMoving s t.code = true →
        takeTrap s t async part arms = { s with me := { s.me with wait := some .moving } }) ∧
      (((s.me.r.frame[0x14]).getLsbD 0 = true ∨ (vectorMoving s t.code = false ∧ ∃ c, vectorEntry s t.code = .error c)) →
      ∀ h ∈ allHarts (takeTrap s t async part arms), h.ctx ≠ s.me.ctx)) ∧ (
  ∀ s : State,
    (∀ a ∈ s.me.asyncs, (∀ b ∈ s.me.asyncs, a = b ∨ a.code < b.code) → s.me.live = true →
      s.me.bank = .active → (s.me.r.frame[0x14]).getLsbD 0 = false → s.me.flights = [] → vectorMoving s a.code = false →
      exec .asyncTrap s = .next (takeTrap { s with me := { s.me with asyncs := s.me.asyncs.erase a } }
        { code := a.code, elem := a.elem, info := a.info } true false false)) ∧
    ((s.me.asyncs = [] ∨ (s.me.r.frame[0x14]).getLsbD 0 = true) → exec .asyncTrap s = .next s))

/-- ERET in a frame, once nothing earlier of the hart is unsettled, restores what the frame holds, the queues and every field of the stick among
it (TSTKL, TSTKS, TSTKF and the rest, R305, R306), clears ACTIVE and goes to TRESUME, armed when ARM stands and TRESUME is TPC; the captured words
stay only for the body that they are of (R146);
with no frame active it is the privilege fault, in a stick body the stick fault (R257, R308). -/
def Obligations.TrapReturn : Prop :=
  ∀ s : State, let f := s.me.r.frame
    (s.me.r.stick.active = true → exec .eret s = .next (stopAt s (.trap { code := 0x17 }) none)) ∧
    (s.me.r.stick.active = false → (f[0x14]).getLsbD 0 = false → exec .eret s = .next (stopAt s (.trap { code := 5 }) none)) ∧
    (s.me.r.stick.active = false → (f[0x14]).getLsbD 0 = true → anyParked s = false →
        ∃ (q : Vector (List Word) 8) (k : Stick) (p : Option Pin),
      exec .eret s = .next { s with me := { s.me with wait := none, pin := p, r := { s.me.r with
        pc := f[2], vl := f[0x0C], vstart := f[0x0D], prog := f[0x0E], rows := f[0x0F], pitch := f[0x10], wpos := f[0x11],
        dphase := f[0x12], token := f[0x13], g := Vector.ofFn fun i => f[0x18 + i.val], fm := Vector.ofFn fun i => f[0x20 + i.val],
        c := Vector.ofFn fun i => f[0x28 + i.val], q := q, stick := k, frame := f.set 0x14 (f[0x14] &&& ~~~1),
        armed := (f[0x14]).getLsbD 1 && f[2] == f[1], retired := s.me.r.retired + 1 } } } ∧
      (((f[0x14]).getLsbD 1 = false ∨ f[2] ≠ f[1]) → p = s.me.pin) ∧
      (k.active = (f[0xAE]).getLsbD 0 ∧ k.base = f[0xAF] ∧ k.pc = f[0xB0] ∧ k.firsts = f[0xAC] ∧ k.lasts = f[0xAD]) ∧
      (∀ l : Fin 6, k.count[l] = (f[0xA0 + l.val]).setWidth 32 ∧ k.index[l] = (f[0xA0 + l.val] >>> 32).setWidth 32 ∧
        k.stride[l] = f[0xA6 + l.val]) ∧
      (k.lvm1 = (f[0xAE] >>> 1).setWidth 3 ∧ k.len = (f[0xAE] >>> 4).setWidth 7 ∧ k.walk = (f[0xAE] >>> 11).setWidth 5 ∧
        k.flagLvl = (f[0xAE] >>> 16).setWidth 3 ∧ k.pos = (f[0xAE] >>> 19).setWidth 7) ∧
      (k.capture = s.me.r.stick.capture ∧ k.held = s.me.r.stick.held ∧
        k.buf = if k.capture = k.held ∧ s.me.r.stick.pc = f[0xB0] then s.me.r.stick.buf else []) ∧
      ∀ e ∈ ([(0, 0x68, 8), (1, 0x70, 8), (2, 0x78, 8), (3, 0x80, 8), (4, 0x88, 4), (5, 0x8C, 4), (6, 0x90, 8), (7, 0x98, 4)] :
          List (Fin 8 × Nat × Nat)), q[e.1] = (List.range (Nat.min e.2.2 ((f[0x9C]).toNat / 2 ^ (4 * e.1.val) % 16))).map fun i =>
        vget f (e.2.1 + i) 0)

/-- SWAPCTX needs RSWAP, else it is the privilege fault; with a free shadow bank it is NOCONTEXT; with a clean one it retires and the banks of the core are exchanged, in
one step as log 42 says, or it takes STRIPSTATE when an MMAU that has issued waits for a PROOF behind it (log 67). SPILLWAIT retires once the shadow bank is not spilling (R258, R259, R316). -/
def Obligations.BankSwap : Prop :=
  ∀ s : State,
    (s.me.r.stick.active = false → s.me.rswap = false → exec .swapctx s = .next (stopAt s (.trap { code := 5 }) none)) ∧
    (s.me.r.stick.active = false → s.me.rswap = true → (getCore s s.me.core).shadow = .free →
      exec .swapctx s = .next (stopAt s (.trap { code := 0x1A }) none)) ∧
    (s.me.r.stick.active = false → s.me.rswap = true → (getCore s s.me.core).shadow = .clean → anyParked s = false →
        anyStuck s isMmau = false → s.softMem = [] → mmaInFlight s s.me.core = false → s.me.hid ≠ 0 → s.me.bank = .active →
      ∃ t, exec .swapctx s = .next t ∧ t.me.bank = .shadow ∧ t.me.r.pc = nextPc s.me.r.pc ∧ t.mem = s.mem ∧
        (getCore t s.me.core).swaps = (getCore s s.me.core).swaps + 1 ∧
        ∀ h ∈ s.rest, h.core = s.me.core → h.hid ≠ 0 → h.bank = .shadow →
          ∃ g ∈ t.rest, g.hid = h.hid ∧ g.bank = .active ∧ g.r = h.r) ∧
    (s.me.r.stick.active = false → s.me.rswap = true → (getCore s s.me.core).shadow = .clean → anyStuck s isMmau = true →
      exec .swapctx s = .next (stopAt s (.trap { code := 0x12 }) none)) ∧
    ((getCore s s.me.core).shadow ≠ .spilling → exec .spillwait s = .next (retire s)) ∧
    ((getCore s s.me.core).shadow = .spilling → exec .spillwait s = .next (stopAt s (.wait .bank) none))

/-- FLAGCLR gives FFLAGS to sd and clears the flags that sa names, once nothing earlier is unsettled, or takes STRIPSTATE when that could
only end at a PROOF behind it (log 67); CTRRD gives a counter, one that counts at commit once nothing earlier is unsettled, CYCLES a free
value (log 6), and takes the illegal-mode trap for a number that names none (R263, R264). -/
def Obligations.FlagsAndCounters : Prop :=
  ∀ (sd sa : SOp) (s s1 : State) (a : Word), dstOk sd = true → srcOk sa = true → readSrc sa s = .ok (a, s1) →
    (anyStuck s1 raisesFlags = true → exec (.flagclr sd sa) s = .next (stopAt s (.trap { code := 0x12 }) none)) ∧
    (anyStuck s1 raisesFlags = false → flagsPending s1 = true → exec (.flagclr sd sa) s = .next (stopAt s (.wait .earlier) none)) ∧
    (flagsPending s1 = false → ∀ s2, writeDst sd (s.me.r.fflags.setWidth 64) s1 = .ok s2 → exec (.flagclr sd sa) s =
      .next (retire (modRegs s2 fun r => { r with fflags := r.fflags &&& ~~~(a.setWidth 7) }))) ∧
    (∀ e ∈ counters, a = e.1 → (a.toNat ∈ [1, 2, 3, 7] → anyStuck s1 isMmau = false ∧ anyParked s1 = false) → ∀ s2, writeDst sd (e.2 s) s1 = .ok s2 → exec (.ctrrd sd sa) s = .next (retire s2)) ∧
    (a.toNat ∈ [1, 2, 3, 7] →
      (anyStuck s1 isMmau = true → exec (.ctrrd sd sa) s = .next (stopAt s (.trap { code := 0x12 }) none)) ∧
      (anyStuck s1 isMmau = false → anyParked s1 = true → exec (.ctrrd sd sa) s = .next (stopAt s (.wait .earlier) none))) ∧
    (a = 0 → ∃ v u, u.me = s1.me ∧ u.mem = s1.mem ∧ ∀ s2, writeDst sd v u = .ok s2 → exec (.ctrrd sd sa) s = .next (retire s2)) ∧
    (9 ≤ a.toNat → exec (.ctrrd sd sa) s = .next (stopAt s (.trap { code := 2 }) none))

/-! ## Scalar memory (R136 to R139, R270 to R273) -/

/-- A scalar load of n bytes, when nothing of the hart is outstanding: the value at the elements that translation gives, sign-
or zero-extended, goes to sd; memory, every scratchpad and every other register stay as they are (R136). That an operation
nothing holds back performs in the very step is the model's order (log 2). -/
def Obligations.LoadResults : Prop :=
  ∀ e ∈ loadOps, ∀ (sd sa : SOp) (g : Fin 8) (imm : BitVec 12) (s s1 s3 : State) (base ea v : Word) (off : Int) (es : List Element),
    calm s → srcOk sa = true → dstOk sd = true → readSrc sa s = .ok (base, s1) → off = (base.toNat % 2 ^ 44 : Nat) + imm.toInt →
    0 ≤ off → off < 2 ^ 44 → ea = BitVec.ofNat 64 (base.toNat / 2 ^ 44 * 2 ^ 44 + off.toNat) → ea.toNat % e.2.1 = 0 →
    accessElements s1 0 ea e.2.1 = .ok es → cleanElements s1 es →
    v = (if e.2.2 then (BitVec.ofNat (8 * e.2.1) (readPlaces s1 (es.map (·.place)))).signExtend 64
         else BitVec.ofNat 64 (readPlaces s1 (es.map (·.place)))) →
    writeDst sd v s1 = .ok s3 → ∃ t, exec (e.1 sd sa g imm) s = .next t ∧ t.mem = s.mem ∧
      (∀ c, (getCore t c).scratch = (getCore s c).scratch) ∧ t.transfers = s.transfers ∧ t.rest = s.rest ∧ t.me.flights = [] ∧
      t.me.r = { s3.me.r with
        pc := nextPc s.me.r.pc, retired := s.me.r.retired + 1, armed := false, stick := (retire s).me.r.stick }

/-- A scalar store of n bytes under a slot without STRIPMODE, when nothing of the hart is outstanding: the low n bytes of sb go
to the elements that translation gives, and to no other byte; the only registers that change are queues that a field pops, the
pc and the stick (R136). Under STRIPMODE it is buffered in the open strip and memory stays as it is, and with no strip open it
is STRIPSTATE (R138, R175). That an operation nothing holds back performs in the very step is the model's order (log 2). -/
def Obligations.StoreResults : Prop :=
  ∀ e ∈ storeOps, ∀ (sb sa : SOp) (imm : BitVec 12) (g : Fin 8) (s s1 s2 : State) (base ea v : Word) (off : Int) (es : List Element),
    calm s → srcOk sb = true → srcOk sa = true → readSrc sa s = .ok (base, s1) → readSrc sb s1 = .ok (v, s2) →
    off = (base.toNat % 2 ^ 44 : Nat) + imm.toInt → 0 ≤ off → off < 2 ^ 44 →
    ea = BitVec.ofNat 64 (base.toNat / 2 ^ 44 * 2 ^ 44 + off.toNat) → ea.toNat % e.2 = 0 → accessElements s2 1 ea e.2 = .ok es →
    let ws := spread (es.map (·.place)) v.toNat
    ((s.me.r.g[g]).getLsbD 48 = false → ∃ t, exec (e.1 sb sa imm g) s = .next t ∧ t.mem = (writePlaces s ws).mem ∧
      (∀ c, (getCore t c).scratch = (getCore (writePlaces s ws) c).scratch) ∧ t.transfers = s.transfers ∧ t.rest = s.rest ∧
      t.me.flights = [] ∧
      t.me.r = { s2.me.r with
        pc := nextPc s.me.r.pc, retired := s.me.r.retired + 1, armed := false, stick := (retire s).me.r.stick }) ∧
    ((s.me.r.g[g]).getLsbD 48 = true → s.me.r.strip.isOpen = false →
      exec (e.1 sb sa imm g) s = .next (stopAt s (.trap { code := 0x12 }) none)) ∧
    ((s.me.r.g[g]).getLsbD 48 = true → s.me.r.strip.isOpen = true → (linesOf (handleOf ea) es).length ≤ 256 / 2 ^ s.me.nh →
      ∃ t x, exec (e.1 sb sa imm g) s = .next t ∧ t.mem = s.mem ∧ (∀ c, (getCore t c).scratch = (getCore s c).scratch) ∧
        t.me.r.strip.isOpen = true ∧ t.me.r.strip.stores = [x] ∧ x.writes = ws ∧ x.lines = linesOf (handleOf ea) es ∧
        t.me.r.pc = nextPc s.me.r.pc ∧ t.me.r.retired = s.me.r.retired)

/-- A scalar atomic on the doubleword at sa, when nothing of the hart is outstanding: the new value replaces the old one in one
step and sd takes the old one; AMOCAS writes only when the old value is that of sd (R139). That an operation nothing holds back
performs in the very step is the model's order (log 2). -/
def Obligations.AtomicResults : Prop :=
  ∀ (sd sa sb : SOp) (g : Fin 8) (s s1 s2 s3 : State) (a b old : Word) (es : List Element) (p : Place),
    calm s → srcOk sa = true → srcOk sb = true → dstOk sd = true → readSrc sa s = .ok (a, s1) → readSrc sb s1 = .ok (b, s2) →
    galleyOf (handleOf a) = none → accessElements s2 2 a 8 = .ok es → contiguous es = true → cleanElements s2 es →
    p = { core := none, addr := (es.map (·.place.addr)).headD 0, bit := 0, bits := 64 } →
    old = BitVec.ofNat 64 (readPlace s2 p) → writeDst sd old s2 = .ok s3 →
    (∀ e ∈ amoOps, ∃ t, exec (e.1 sd sa sb g) s = .next t ∧ t.mem = (writePlaces s [(p, (e.2 old b).toNat)]).mem ∧
      t.transfers = s.transfers ∧ t.rest = s.rest ∧ t.me.flights = [] ∧
      t.me.r = { s3.me.r with
        pc := nextPc s.me.r.pc, retired := s.me.r.retired + 1, armed := false, stick := (retire s).me.r.stick }) ∧
    ∀ (n : Fin 24), sd = .s n → ∃ t, exec (.amocas sd sa sb g) s = .next t ∧
      t.mem = (if old = (if n.val = 0 then 0 else s.me.r.x[n]) then (writePlaces s [(p, b.toNat)]).mem else s.mem) ∧
      t.transfers = s.transfers ∧ t.rest = s.rest ∧ t.me.flights = [] ∧
      t.me.r = { s3.me.r with
        pc := nextPc s.me.r.pc, retired := s.me.r.retired + 1, armed := false, stick := (retire s).me.r.stick }

/-- A scalar load or store whose offset is no multiple of its size is the precise misaligned fault, which reports the element that the offset falls into and the offset (R73, log 66), one whose address leaves the
offset range is ADDRFORM, and neither changes memory or a register (R131, R136). -/
def Obligations.MisalignedAccesses : Prop :=
  ∀ (sd sa : SOp) (g : Fin 8) (imm : BitVec 12) (s s1 : State) (base : Word) (off : Int), srcOk sa = true →
    readSrc sa s = .ok (base, s1) → off = (base.toNat % 2 ^ 44 : Nat) + imm.toInt →
    let ea : Word := BitVec.ofNat 64 (base.toNat / 2 ^ 44 * 2 ^ 44 + off.toNat)
    (∀ e ∈ loadOps, dstOk sd = true →
      (0 ≤ off → off < 2 ^ 44 → off % (e.2.1 : Int) ≠ 0 →
        ∃ info, exec (e.1 sd sa g imm) s = .next (stopAt s
          (.trap { code := 0x0B, elem := elementNo s1 (whoMe s1) ea, coord := [off.toNat], info := info }) none)) ∧
      (off < 0 ∨ 2 ^ 44 ≤ off → ∃ info, exec (e.1 sd sa g imm) s = .next (stopAt s (.trap { code := 6, info := info }) none))) ∧
    ∀ e ∈ storeOps, ∀ v s2, srcOk sd = true → readSrc sd s1 = .ok (v, s2) →
      (0 ≤ off → off < 2 ^ 44 → off % (e.2 : Int) ≠ 0 →
        ∃ info, exec (e.1 sd sa imm g) s = .next (stopAt s
          (.trap { code := 0x0B, elem := elementNo s2 (whoMe s2) ea, coord := [off.toNat], info := info }) none)) ∧
      (off < 0 ∨ 2 ^ 44 ≤ off → ∃ info, exec (e.1 sd sa imm g) s = .next (stopAt s (.trap { code := 6, info := info }) none))

/-- An operation of a hart that has issued performs when its turn comes, nothing that it is ordered after is left and it does not trap on what it
reads: it counts as performed in its stream and is no longer outstanding (R153, R270). A store
writes its places, and every buffered store of an open strip that it is ordered behind is cut down to the bits of its writes that the
store does not cover, so that it leaves the others alone when it performs (R175, R277). While an earlier operation of a stream in its PMASK has not performed,
it does nothing (R270, R273). Which operation performs next is the argument of the step, given by the model's order (logs 1 and
2). -/
def Obligations.OperationsPerform : Prop :=
  ∀ (hid seq : Nat) (s : State) (h : Hart) (f : Flight), hartOf s hid = some h →
    h.flights.find? (fun f => !f.parked && f.seq == seq) = some f →
    (canPerform s h f = true → dataTrap s f = none → mmauTrap s h f = none →
      ∃ t g, exec (.memoryOpPerform hid seq) s = .next t ∧ hartOf t hid = some g ∧
        (∀ x ∈ g.flights, x.parked = true ∨ x.seq ≠ f.seq ∨ x.released ≠ f.released) ∧
        (∀ k : Fin 16, g.perf[k] = if k.val = f.stream then h.perf[k] + 1 else h.perf[k]) ∧
        ∀ ws, f.action = .store ws →
          let own := (ownStores h f).map (·.seq)
          let cut (x : StripStore) : StripStore :=
            if x.seq ∈ own then { x with writes := ws.foldl (fun l w => l.flatMap (uncovered w.1)) x.writes } else x
          let st := if f.released then h.r.strip.stores else h.r.strip.stores.map cut
          t.mem = (writePlaces s ws).mem ∧ (∀ c, (getCore t c).scratch = (getCore (writePlaces s ws) c).scratch) ∧
            g.r = { h.r with strip := { h.r.strip with stores := st } }) ∧
    ((∃ y ∈ h.flights, y.seq < f.seq ∧ y.parked = false ∧ f.pmask.getLsbD y.stream = true) →
      exec (.memoryOpPerform hid seq) s = .next s)

/-! ## The vector stream (R178 to R203) -/

/-- An element-wise instruction whose operands, type, VL and predicate are admitted and whose registers are at hand: each active
element of vd becomes the value of the elements of its sources, its flags and counts commit, and nothing else changes. A slot
that the checks at issue refuse is the reserved-combination trap, an operand of a wrong tier or number the illegal-instruction
trap (R116, R117, R178 to R180, R184 to R187, R189). Writing elements: an element that is written reads back, one that is not
written keeps its value, and no register outside the group changes (R108, R117). -/
def Obligations.ElementwiseResults : Prop := (
  ∀ (dt : Bool) (g : Fin 8) (vd va vb : VOp) (s s1 s2 : State) (env : Env) (c : VCtx) (x y : VSrc),
    starts s g env c →
    (∀ e ∈ mapOps, (e.2.2.2.1 = true → vb = .none) →
      (operand vd tVW c.f = .ok ⟨⟩ → operand va tS c.f = .ok ⟨⟩ → operand vb tS c.f = .ok ⟨⟩ →
        (c.et = 7 → tierOf va ≠ 3 ∧ tierOf vb ≠ 3) →
        (vcheck c e.2.1 false = .ok ⟨⟩ → wLimit c vd = .ok ⟨⟩ → takeSrc va c.b s = .ok (x, s1) → takeSrc vb c.b s1 = .ok (y, s2) →
          useMap c s2 env.seq dt vd [va, vb] = .ok ⟨⟩ →
          ∀ (r : Regs) (res : List (Nat × FlagSet)), r = s2.me.r →
            res = (c.active r).map (fun i => e.2.2.2.2 c (srcElem r c.lanes c.b x i) (srcElem r c.lanes c.b y i)
              (if e.2.2.1 then getElem r vd c.lanes c.b i else 0)) →
            exec (e.1 dt g vd va vb) s = retires env (withRegs s2 (commit c (flagsOf res) (dtCount dt r c c.b)
              (putElems vd c.lanes c.b r ((c.active r).zip (res.map (·.1))))))) ∧
        (vcheck c e.2.1 false ≠ .ok ⟨⟩ → exec (e.1 dt g vd va vb) s = .next (stopAt s (.trap { code := 4 }) none))) ∧
      (operand vd tVW c.f ≠ .ok ⟨⟩ → exec (e.1 dt g vd va vb) s = .next (stopAt s (.trap { code := 1 }) none)))) ∧ (
  ∀ (r : Regs) (vd : VOp) (lanes b : Nat) (l : List (Nat × Nat)), lanes ∈ [4, 8, 16, 32] → b ∈ [16, 32, 256] →
    (∀ p ∈ l, match vd with | .v n => n.val + p.1 * b / (4096 * lanes) < 64 | .w _ => p.1 * b < 4096 * lanes | _ => False) →
    (∀ p ∈ l, (∀ q ∈ l, q.1 = p.1 → q = p) → getElem (putElems vd lanes b r l) vd lanes b p.1 = p.2 % 2 ^ b) ∧
    (∀ e, (∀ p ∈ l, p.1 ≠ e) → getElem (putElems vd lanes b r l) vd lanes b e = getElem r vd lanes b e) ∧
    (∀ n, vd = .w n → (putElems vd lanes b r l).v = r.v ∧ ∀ k : Fin 8, k ≠ n → (putElems vd lanes b r l).w[k] = r.w[k]) ∧
    (∀ n, vd = .v n → (putElems vd lanes b r l).w = r.w ∧
      ∀ k : Fin 64, (∀ p ∈ l, n.val + p.1 * b / (4096 * lanes) ≠ k.val) → (putElems vd lanes b r l).v[k] = r.v[k]) ∧
    putElems vd lanes b r l = { r with v := (putElems vd lanes b r l).v, w := (putElems vd lanes b r l).w })

/-- Integer elements: with SAT 0 the exact sum, difference, product, product plus or minus vd, quotient truncated toward zero,
absolute value and negation modulo 2^bits, the smaller and the larger by the signedness of ETYPE, with no flag; a divisor of 0
gives all ones and DZ; with SAT 1 an exact result outside the range becomes the end of the range on its side and raises SX, one in the range
stays as it is (R185). Bits: shifts by the element of vb modulo the width, the logical operations and the complement, with no flag (R187).
Floating-point elements of the three F types: a NaN operand, the sum of opposite infinities and 0 x infinity give the canonical
quiet NaN, NV raised for a signalling operand and for the invalid ones; a finite non-zero value divided by zero raises DZ; VABS
and VNEG change the sign bit alone (R28, R184). Sums, differences, products, quotients, reciprocals and products plus or minus vd of finite
elements round the exact result once, to a multiple of the unit of its last place, as RND says: to the nearest, to even or away from zero on a
tie, toward zero, down or up; NX when the result is not exact; no other flag but UF, and that only below the normal range. A result
that is too large is the largest finite value of its sign with OF, NX and SX under SAT, and without it, rounding to nearest, infinity
with OF and NX (R39, R43, R184, R186). -/
def Obligations.ElementValues : Prop := (
  ∀ (c : VCtx) (a b d : Nat) (sg : Bool), (c.et, c.b, sg) ∈ [(3, 32, true), (4, 32, false), (5, 16, true), (6, 16, false)] →
    a < 2 ^ c.b → b < 2 ^ c.b → d < 2 ^ c.b →
    let val (x : Nat) : Int := if sg then (BitVec.ofNat c.b x).toInt else x
    let low (i : Int) : Nat := (i % 2 ^ c.b).toNat
    (slotSat c.slot = false →
      opAdd false c a b d = (low (val a + val b), 0) ∧ opAdd true c a b d = (low (val a - val b), 0) ∧
      opMul c a b d = (low (val a * val b), 0) ∧ opFma false c a b d = (low (val a * val b + val d), 0) ∧
      opFma true c a b d = (low (val a * val b - val d), 0) ∧
      (val b ≠ 0 → opDiv c a b d = (low ((val a).tdiv (val b)), 0)) ∧
      opSign false c a b d = (low (val a).natAbs, 0) ∧ opSign true c a b d = (low (-val a), 0)) ∧
    (val b = 0 → opDiv c a b d = (2 ^ c.b - 1, 8)) ∧
    opPick false c a b d = (if val a < val b then a else b, 0) ∧ opPick true c a b d = (if val a < val b then b else a, 0) ∧
    (slotSat c.slot = true → ∀ lo hi : Int, lo = (if sg then -2 ^ (c.b - 1) else 0) → hi = (if sg then 2 ^ (c.b - 1) - 1 else 2 ^ c.b - 1) →
      let fitted (i : Int) : Nat × FlagSet := if hi < i then (low hi, 32) else if i < lo then (low lo, 32) else (low i, 0)
      (∀ e ∈ exactOps, e.1 c a b d = fitted (e.2 (val a) (val b) (val d))) ∧
      (val b ≠ 0 → opDiv c a b d = fitted ((val a).tdiv (val b))))) ∧ (
  ∀ (c : VCtx) (a b d : Nat), c.b ∈ [16, 32, 256] → a < 2 ^ c.b → b < 2 ^ c.b →
    opShl c a b d = ((BitVec.ofNat c.b a <<< (b % c.b)).toNat, 0) ∧ opShr c a b d = ((BitVec.ofNat c.b a >>> (b % c.b)).toNat, 0) ∧
    opSra c a b d = (((BitVec.ofNat c.b a).sshiftRight (b % c.b)).toNat, 0) ∧ opNot c a b d = ((~~~BitVec.ofNat c.b a).toNat, 0) ∧
    opBits (fun x y => x &&& y) c a b d = ((BitVec.ofNat c.b a &&& BitVec.ofNat c.b b).toNat, 0) ∧
    opBits (fun x y => x ||| y) c a b d = ((BitVec.ofNat c.b a ||| BitVec.ofNat c.b b).toNat, 0) ∧
    opBits (fun x y => x ^^^ y) c a b d = ((BitVec.ofNat c.b a ^^^ BitVec.ofNat c.b b).toNat, 0)) ∧ (
  ∀ (c : VCtx) (a b d : Nat) (m : Nat), (c.et, c.b, m) ∈ [(0, 32, 31), (1, 16, 15), (2, 16, 15)] → a < 2 ^ c.b → b < 2 ^ c.b →
    (∀ g, decodeVal c.et a = .nan g → (∀ k, decodeVal c.et b ≠ .nan k) →
      let r : Nat × FlagSet := (quietNan c.et, if g then 16 else 0)
      opAdd false c a b d = r ∧ opAdd false c b a d = r ∧ opAdd true c a b d = r ∧ opMul c a b d = r ∧ opMul c b a d = r ∧
        opDiv c a b d = r ∧ opDiv c b a d = r ∧ opPick false c a b d = r ∧ opPick true c a b d = r) ∧
    (∀ n, decodeVal c.et a = .inf n → decodeVal c.et b = .inf (!n) → opAdd false c a b d = (quietNan c.et, 16)) ∧
    (∀ n k e, decodeVal c.et a = .inf n → decodeVal c.et b = .fin k 0 e → opMul c a b d = (quietNan c.et, 16)) ∧
    (∀ s n k e z, decodeVal c.et a = .fin s n k → n ≠ 0 → decodeVal c.et b = .fin z 0 e → (opDiv c a b d).2 = 8 ∧
      decodeVal c.et (opDiv c a b d).1 = .inf (s != z)) ∧
    ((∀ g, decodeVal c.et a ≠ .nan g) →
      opSign false c a b d = (a % 2 ^ m, 0) ∧ opSign true c a b d = (a ^^^ 2 ^ m, 0))) ∧ (
  ∀ (c : VCtx) (a b d m : Nat) (emin emax : Int), (c.et, c.b, m, emin, emax) ∈ floatTypes → a < 2 ^ c.b → b < 2 ^ c.b → d < 2 ^ c.b →
    slotRnd c.slot ≤ 5 → (∀ v ∈ [a, b, d], ∃ s n k, decodeVal c.et v = .fin s n k) → ∀ e ∈ roundOps,
    let x := ratOf (decodeVal c.et a)
    let y := ratOf (decodeVal c.et b)
    let q := e.2.1 x y (ratOf (decodeVal c.et d))
    let r := decodeVal c.et (e.1 c a b d).1
    let z := ratOf r
    let fl := (e.1 c a b d).2
    let rnd := slotRnd c.slot
    let most : Rat := (2 - (2 : Rat) ^ (-(m : Int))) * (2 : Rat) ^ emax
    e.2.2 x y →
    (q = 0 → z = 0 ∧ fl = 0) ∧
    (∀ (k : Int) (u : Rat), (2 : Rat) ^ k ≤ |q| → |q| < (2 : Rat) ^ (k + 1) → |q| ≤ most → u = (2 : Rat) ^ (max k emin - (m : Int)) →
      (∃ s n j, r = .fin s n j) ∧ (∃ t : Int, z = t * u ∧ ((rnd = 0 ∨ rnd = 5) → 2 * |z - q| = u → t % 2 = 0)) ∧
      ((rnd = 0 ∨ rnd = 4 ∨ rnd = 5) → 2 * |z - q| ≤ u) ∧ (rnd = 4 → 2 * |z - q| = u → |q| ≤ |z|) ∧
      (rnd = 1 → |z| ≤ |q| ∧ |z - q| < u) ∧ (rnd = 2 → z ≤ q ∧ q - z < u) ∧ (rnd = 3 → q ≤ z ∧ z - q < u) ∧
      (fl.getLsbD 0 = decide (z ≠ q)) ∧ fl.toNat < 4 ∧ (fl.getLsbD 1 = true → k < emin)) ∧
    ((2 : Rat) ^ (emax + 1) ≤ |q| →
      (slotSat c.slot = true → z = (if q < 0 then -most else most) ∧ fl = 37) ∧
      (slotSat c.slot = false → (rnd = 0 ∨ rnd = 4 ∨ rnd = 5) → r = .inf (decide (q < 0)) ∧ fl = 5)))

/-- The comparisons write the bit of each active element of the m group of vd, with the truth that R188 gives for integers; VSEL
takes va or vb by the predicate for every element from VSTART to VL; VCVT converts from the type of the slot that UNFOLD names, and to the same
type gives the value itself, whatever SAT is (R182, R188, R190, R191). -/
def Obligations.CompareSelectConvert : Prop :=
  ∀ (dt : Bool) (g : Fin 8) (vd va vb : VOp) (s s1 s2 : State) (env : Env) (c : VCtx) (x y : VSrc) (r : Regs),
    starts s g env c →
    (∀ e ∈ compareOps, tierOf vd = 4 → operand va tS c.f = .ok ⟨⟩ → operand vb tS c.f = .ok ⟨⟩ → vcheck c tyFI false = .ok ⟨⟩ →
      maskOperand vd (predCount c.f c.b) = .ok ⟨⟩ → takeSrc va c.b s = .ok (x, s1) → takeSrc vb c.b s1 = .ok (y, s2) →
      useMap c s2 env.seq dt VOp.none [va, vb] = .ok ⟨⟩ → r = s2.me.r →
      ∀ res : List (Bool × FlagSet),
        res = (c.active r).map (fun i => compareElems e.2.1 c (srcElem r c.lanes c.b x i) (srcElem r c.lanes c.b y i)) →
        exec (e.1 dt g vd va vb) s = retires env (withRegs s2 (commit c (res.foldl (fun a p => a ||| p.2) 0) (dtCount dt r c c.b)
          (putMasks (maskOf vd) c.lanes r ((c.active r).zip (res.map (·.1))))))) ∧
    (∀ e ∈ compareOps, ∀ a b : Nat, c.float = false → (compareElems e.2.1 c a b).2 = 0 ∧
      (compareElems e.2.1 c a b).1 = (if e.2.1 ≤ 1 then (decide (a = b) == (e.2.1 == 0)) else e.2.2 (c.int a) (c.int b))) ∧
    (operand vd tVW c.f = .ok ⟨⟩ → operand va tS c.f = .ok ⟨⟩ → operand vb tS c.f = .ok ⟨⟩ →
      (c.et = 7 → tierOf va ≠ 3 ∧ tierOf vb ≠ 3) → vcheck c tyAll false = .ok ⟨⟩ → slotPreden c.slot = true → wLimit c vd = .ok ⟨⟩ →
      takeSrc va c.b s = .ok (x, s1) → takeSrc vb c.b s1 = .ok (y, s2) →
      useMap c s2 env.seq false vd [va, vb] = .ok ⟨⟩ → r = s2.me.r →
      exec (.vsel g vd va vb) s = retires env (withRegs s2 (commit c 0 Counts.zero (putElems vd c.lanes c.b r
        (((List.range (c.vl - c.vstart)).map (c.vstart + ·)).map fun i =>
          (i, if passes r c.lanes c.slot i then srcElem r c.lanes c.b x i else srcElem r c.lanes c.b y i)))))) ∧
    (∀ x : Nat, c.et ∈ tyFI → (∀ g, decodeVal c.et x ≠ .nan g) → convertElem c.et c.et c.rm (slotSat c.slot) x = (x, 0)) ∧
    ∀ et bs fs, et = slotEtype env.slot2 → bs = slotEbits env.slot2 → fs = Nat.max 1 (c.f * bs / c.b) → fs ≤ 16 → et ∈ tyFI →
      operand vd tVW c.f = .ok ⟨⟩ → operand va tVW fs = .ok ⟨⟩ → vcheck c tyFI false = .ok ⟨⟩ → wLimit c vd = .ok ⟨⟩ →
      r = s.me.r →
      useTouched s env.seq (touchesAll vd c.lanes c.b (c.issued dt r) ++ touches va c.lanes bs (c.issued dt r)) = .ok ⟨⟩ → ∀ res : List (Nat × FlagSet),
        res = (c.active r).map (fun i =>
          let x := srcElem r c.lanes bs (.reg va) i
          if et = c.et ∧ (decodeVal et x).isNan = false then (x, 0) else convert et c.et c.rm (slotSat c.slot) (decodeVal et x)) →
        exec (.vcvt dt g vd va) s = retires env (withRegs s (commit c (flagsOf res) (dtCount dt r c c.b)
          (putElems vd c.lanes c.b r ((c.active r).zip (res.map (·.1))))))

/-- VMV between v, w, queues, z and m, and the bit string of an m register to and from a v register; where a z operand has no v group beside
it VL goes up to L x 1,024 whatever GROUP says (R116), and another type than INT32, a VL above, or a predicate that would end past m7 (the
model's choice, log 65) is the reserved-combination trap; VBCAST of element 0; VEXTRACT of element 0 into q4 or q5, 0 when VL is 0 (R192, R193).
Only the landed bits of the element groups that are read or written in, of those that issue, keep an instruction waiting (R91, R179, R202). -/
def Obligations.MoveResults : Prop :=
  ∀ (dt : Bool) (g : Fin 8) (vd va : VOp) (s s1 : State) (env : Env) (c : VCtx) (x : VSrc) (r : Regs),
    starts s g env c → wLimit c vd = .ok ⟨⟩ → takeSrc va c.b s = .ok (x, s1) → r = s1.me.r → (c.et = 7 → tierOf va ≠ 3) →
    (operand vd tVW c.f = .ok ⟨⟩ → operand va [0, 1, 3] c.f = .ok ⟨⟩ → vcheck c tyAll false = .ok ⟨⟩ →
      (useMap c s1 env.seq dt vd [va] = .ok ⟨⟩ →
        exec (.vmv dt g vd va) s = retires env (withRegs s1 (commit c 0 (dtCount dt r c c.b) (putElems vd c.lanes c.b r
          ((c.active r).map fun i => (i, srcElem r c.lanes c.b x i)))))) ∧
      (useTouched s1 env.seq (touchesAll vd c.lanes c.b (c.issued dt r) ++
          touches va c.lanes c.b (((c.issued dt r).map fun _ => 0).take 1)) = .ok ⟨⟩ →
        exec (.vbcast dt g vd va) s = retires env (withRegs s1 (commit c 0 (dtCount dt r c c.b) (putElems vd c.lanes c.b r
          ((c.active r).map fun i => (i, srcElem r c.lanes c.b x 0))))))) ∧
    (useMap c s1 env.seq dt vd [va] = .ok ⟨⟩ → vcheckVl c tyAll false (moveLimit c (tierOf vd) (tierOf va)) = .ok ⟨⟩ →
      (∀ n : Fin 4, va = .z n → (operand vd tVW c.f = .ok ⟨⟩ ∨ ∃ k, vd = .z k) → c.et = 3 → c.vl ≤ c.lanes * 1024 → predEnds c = true →
        let l := (c.active r).map fun i => (i, getZ r n c.lanes i)
        exec (.vmv dt g vd va) s = retires env (withRegs s1 (commit c 0 (dtCount dt r c c.b)
          (match vd with
           | .z k => l.foldl (setZ k.val c.lanes) r
           | _ => putElems vd c.lanes c.b r l)))) ∧
      (∀ n : Fin 4, vd = .z n → operand va tVW c.f = .ok ⟨⟩ → c.et = 3 → c.vl ≤ c.lanes * 1024 → predEnds c = true →
        exec (.vmv dt g vd va) s = retires env (withRegs s1 (commit c 0 (dtCount dt r c c.b)
          (((c.active r).map fun i => (i, srcElem r c.lanes c.b x i)).foldl (setZ n c.lanes) r)))) ∧
      (∀ n : Fin 4, (va = .z n ∧ (operand vd tVW c.f = .ok ⟨⟩ ∨ ∃ k, vd = .z k) ∨ vd = .z n ∧ operand va tVW c.f = .ok ⟨⟩) →
        (c.et ≠ 3 ∨ c.lanes * 1024 < c.vl ∨ predEnds c = false) →
        exec (.vmv dt g vd va) s = .next (stopAt s (.trap { code := 4 }) none)) ∧
      (∀ n k : Fin 8, vd = .m n → va = .m k → maskOperand vd (predCount c.f c.b) = .ok ⟨⟩ →
        maskOperand va (predCount c.f c.b) = .ok ⟨⟩ → exec (.vmv dt g vd va) s = retires env (withRegs s1
          (commit c 0 (dtCount dt r c c.b) (putMasks n c.lanes r ((c.active r).map fun i => (i, getMask r k c.lanes i))))))) ∧
    (∀ k, (vd = .z k ∨ va = .z k) → tierOf vd ≠ 0 → tierOf va ≠ 0 → moveLimit c (tierOf vd) (tierOf va) = c.lanes * 1024) ∧
    (∀ (n : Fin 64) (k : Fin 8), c.et = 6 → c.f = 1 → c.vl ≤ 16 * c.lanes → vcheck c tyAll false = .ok ⟨⟩ →
      useMap c s1 env.seq dt vd [va] = .ok ⟨⟩ →
      (vd = .v n → va = .m k → exec (.vmv dt g vd va) s = retires env (withRegs s1 (commit c 0 (dtCount dt r c c.b)
        (putElems vd c.lanes c.b r ((c.active r).map fun i => (i, ((List.range 16).map fun j =>
          if getMask r k c.lanes (16 * i + j) then 2 ^ j else 0).sum)))))) ∧
      (vd = .m k → va = .v n → exec (.vmv dt g vd va) s = retires env (withRegs s1 (commit c 0 (dtCount dt r c c.b)
        (putMasks k c.lanes r ((c.active r).flatMap fun i => (List.range 16).map fun j =>
          (16 * i + j, (getElem r va c.lanes 16 i).testBit j))))))) ∧
    ∀ (k : Fin 8) (s2 : State), vd = .q k → (k = 4 ∨ k = 5) → operand va tVW c.f = .ok ⟨⟩ → c.et ∈ tyFI → c.vstart = 0 →
      c.vl ≤ vlmaxBits c.lanes c.f c.b →
      useTouched s env.seq (touches va c.lanes c.b (List.range (Nat.min 1 c.vl))) = .ok ⟨⟩ →
      pushQ k (if c.vl = 0 then 0 else extendTo64 c.et c.b (srcElem r c.lanes c.b x 0)) s = .ok s2 →
      exec (.vextract g vd va) s = retires env s2

/-- The permutations: slides by the popped offset, VPERM by the 32-bit indices of vb, VCOMPRESS and VEXPAND by the m group of
vb, VIOTA counting the selected elements below, VCONFLICT naming the first equal element of the element group (R194 to R198), under the checks
at issue of R180 and with the predicate bits of R182. Only the landed bits of the registers and element groups that are read or written in keep an
instruction waiting (R91, R179). -/
def Obligations.PermuteResults : Prop :=
  ∀ (dt : Bool) (g : Fin 8) (vd va vb : VOp) (s : State) (env : Env) (c : VCtx) (r : Regs),
    starts s g env c → operand vd tVW c.f = .ok ⟨⟩ → wLimit c vd = .ok ⟨⟩ → c.vstart = 0 → r = s.me.r →
    let put (s : State) (l : List (Nat × Nat)) : State :=
      withRegs s (commit c 0 (dtCount dt s.me.r c c.b) (putElems vd c.lanes c.b s.me.r l))
    let src (r : Regs) (i : Nat) : Nat := srcElem r c.lanes c.b (.reg va) i
    let used (s : State) (written read : List Nat) : Prop :=
      useTouched s env.seq (touchesAll vd c.lanes c.b written ++ touches va c.lanes c.b read) = .ok ⟨⟩
    (operand va tVW c.f = .ok ⟨⟩ → vcheck c tyAll true = .ok ⟨⟩ →
      (∀ (k : Fin 8) (o : Word) (s1 : State), vb = .q k → k.val ≤ 3 → popQ k s = .ok (o, s1) →
        (used s1 (c.issued dt r) ((c.active r).filterMap fun i => if o.toNat ≤ i then some (i - o.toNat) else none) →
          exec (.vslideup dt g vd va vb) s = retires env (put s1 (((c.active r).filter fun i => o.toNat ≤ i).map fun i =>
            (i, src r (i - o.toNat))))) ∧
        (used s1 (c.issued dt r) ((c.active r).filterMap fun i => if i + o.toNat < c.vl then some (i + o.toNat) else none) →
          exec (.vslidedn dt g vd va vb) s = retires env (put s1 ((c.active r).map fun i =>
            (i, if i + o.toNat < c.vl then src r (i + o.toNat) else 0))))) ∧
      (∀ (n : Fin 64) (fi : Nat), vb = .v n → fi = Nat.max 1 (c.f * 32 / c.b) → fi ≤ 16 → n.val % fi = 0 →
        useTouched s env.seq (touchesAll vd c.lanes c.b (c.issued dt r) ++ touches vb c.lanes 32 (c.issued dt r)) = .ok ⟨⟩ →
        useTouched s env.seq (touches va c.lanes c.b (((c.active r).map (getElem r vb c.lanes 32)).filter (· < c.vl))) = .ok ⟨⟩ →
        exec (.vperm dt g vd va vb) s = retires env (put s ((c.active r).map fun i =>
          (i, if c.vl ≤ getElem r vb c.lanes 32 i then 0 else src r (getElem r vb c.lanes 32 i))))) ∧
      (∀ (n : Fin 8) (sel : List Nat), vb = .m n → maskOperand vb (predCount c.f c.b) = .ok ⟨⟩ →
        sel = (c.active r).filter (fun i => getMask r n c.lanes i) →
        (used s (c.issued dt r) (List.range sel.length) →
          exec (.vexpand dt g vd va vb) s = retires env (put s (sel.zipIdx.map fun p => (p.1, src r p.2)))) ∧
        ∀ s2, used s (List.range sel.length) (c.issued dt r) → pushQ 4 (BitVec.ofNat 64 sel.length) (put s (sel.zipIdx.map fun p => (p.2, src r p.1))) = .ok s2 →
          exec (.vcompress dt g vd va vb) s = retires env s2)) ∧
    (∀ (n : Fin 8), va = .m n → vcheck c [3, 4] true = .ok ⟨⟩ → maskOperand va (predCount c.f c.b) = .ok ⟨⟩ →
      useMap c s env.seq dt vd [] = .ok ⟨⟩ → exec (.viota dt g vd va) s = retires env (put s ((c.active r).map fun i =>
        (i, ((c.active r).filter fun j => getMask r n c.lanes j && decide (j < i)).length)))) ∧
    (va = .none → vcheck c [3, 4] true = .ok ⟨⟩ → useMap c s env.seq dt vd [] = .ok ⟨⟩ →
      exec (.viota dt g vd va) s = retires env (put s ((c.active r).map fun i => (i, ((c.active r).filter (· < i)).length)))) ∧
    (operand va tVW c.f = .ok ⟨⟩ → vcheck c [3, 4] true = .ok ⟨⟩ → useMap c s env.seq dt vd [va] = .ok ⟨⟩ →
      exec (.vconflict dt g vd va) s = retires env (put s ((c.active r).map fun i =>
        (i, ((c.active r).find? fun j => j / (c.lanes * 512 / c.b) == i / (c.lanes * 512 / c.b) && src r j == src r i).getD i))))

/-- The reductions write element 0 of vd, or push into q4 or q5 the value extended to 64 bits: integer VREDSUM the fit of the
exact sum of the active elements, the others the tree of R199 over the elements below VL: the tree of a list is the operation on the tree of
its first 2^k elements and that of the rest, which are at least one and at most 2^k, a side with no active element left aside, with the flags
of all nodes; with no active element a register
keeps its value and a queue takes the empty value (R180, R199). -/
def Obligations.ReductionResults : Prop := (
  ∀ e ∈ reduceOps, ∀ (dt : Bool) (g : Fin 8) (vd va : VOp) (s : State) (env : Env) (c : VCtx) (r : Regs) (res : Option Nat × FlagSet),
    starts s g env c → operand va tVW c.f = .ok ⟨⟩ → vcheck c tyFI true = .ok ⟨⟩ → wLimit c vd = .ok ⟨⟩ →
    r = s.me.r → useTouched s env.seq (touches va c.lanes c.b (c.issued dt r) ++
      touchesAll vd c.lanes c.b (((c.active r).map fun _ => 0).take 1)) = .ok ⟨⟩ →
    res = (let value (i : Nat) : Nat := srcElem r c.lanes c.b (.reg va) i
      if e.2 = 0 ∧ c.float = false then
        (if c.active r = [] then (none, 0)
         else (some (fit c ((c.active r).map fun i => c.int (value i)).sum).1, (fit c ((c.active r).map fun i => c.int (value i)).sum).2))
      else reduceTree (fun a b => if e.2 = 0 then opAdd false c a b 0 else opPick (e.2 == 1) c a b 0) 32
        ((List.range c.vl).map fun i => if passes r c.lanes c.slot i then some (value i) else none) 0) →
    (operand vd tVW c.f = .ok ⟨⟩ → exec (e.1 dt g vd va) s = retires env (withRegs s (commit c res.2 (dtCount dt r c c.b)
      (match res.1 with
       | some v => setElem r vd c.lanes c.b 0 v
       | none => r)))) ∧
    ∀ (k : Fin 8) (s2 : State), vd = .q k → (k = 4 ∨ k = 5) →
      pushQ k (extendTo64 c.et c.b (res.1.getD (emptyValue e.2 c))) (withRegs s (commit c res.2 (dtCount dt r c c.b) r)) = .ok s2 →
      exec (e.1 dt g vd va) s = retires env s2) ∧ (
  ∀ (op : Nat → Nat → Nat × FlagSet),
    let tree (l : List (Option Nat)) : Option Nat × FlagSet := reduceTree op 32 l 0
    tree [] = (none, 0) ∧ (∀ x, tree [x] = (x, 0)) ∧
    ∀ (k : Nat) (l m : List (Option Nat)), k ≤ 20 → l.length = 2 ^ k → 1 ≤ m.length → m.length ≤ 2 ^ k →
      tree (l ++ m) = match tree l, tree m with
        | (some x, f), (some y, h) => (some (op x y).1, f ||| h ||| (op x y).2)
        | (some x, f), (none, h) => (some x, f ||| h)
        | (none, f), (y, h) => (y, f ||| h))

/-- The mask instructions (R200). MPOP pushes the number of active elements below VL whose bit in va is 1, MFIRST the lowest one
or all ones (R201). -/
def Obligations.MaskResults : Prop := (
  ∀ (dt : Bool) (g : Fin 8) (vd va vb : VOp) (n a b : Fin 8) (s : State) (env : Env) (c : VCtx),
    starts s g env c → vcheck c tyAll false = .ok ⟨⟩ → vd = .m n → maskOperand vd (predCount c.f c.b) = .ok ⟨⟩ →
    let set (f : Nat → Bool) : Out := retires env (withRegs s (commit c 0 (dtCount dt s.me.r c c.b)
      (putMasks n c.lanes s.me.r ((c.active s.me.r).map fun i => (i, f i)))))
    let bit (k : Fin 8) (i : Nat) : Bool := getMask s.me.r k c.lanes i
    (va = .m a → vb = .m b → maskOperand va (predCount c.f c.b) = .ok ⟨⟩ → maskOperand vb (predCount c.f c.b) = .ok ⟨⟩ →
      exec (.mand dt g vd va vb) s = set (fun i => bit a i && bit b i) ∧
      exec (.mor dt g vd va vb) s = set (fun i => bit a i || bit b i) ∧
      exec (.mxor dt g vd va vb) s = set (fun i => bit a i ^^ bit b i) ∧
      exec (.mandn dt g vd va vb) s = set (fun i => bit a i && !bit b i)) ∧
    exec (.mset dt g vd) s = set (fun _ => true) ∧ exec (.mclr dt g vd) s = set (fun _ => false)) ∧ (
  ∀ (dt : Bool) (g : Fin 8) (k : Fin 8) (va : VOp) (n : Fin 8) (s s2 : State) (env : Env) (c : VCtx) (sel : List Nat),
    starts s g env c → (k = 4 ∨ k = 5) → va = .m n → vcheck c tyAll true = .ok ⟨⟩ → maskOperand va (predCount c.f c.b) = .ok ⟨⟩ →
    sel = (c.active s.me.r).filter (fun i => getMask s.me.r n c.lanes i) →
    let t := withRegs s (commit c 0 (dtCount dt s.me.r c c.b) s.me.r)
    (pushQ k (BitVec.ofNat 64 sel.length) t = .ok s2 → exec (.mpop dt g (.q k) va) s = retires env s2) ∧
    (pushQ k (match sel with | i :: _ => BitVec.ofNat 64 i | [] => 0xFFFFFFFFFFFFFFFF) t = .ok s2 →
      exec (.mfirst dt g (.q k) va) s = retires env s2))

/-! ## Vector memory (R159 to R177) -/

/-- A plain vector load whose checks pass and whose probe meets no fault, when nothing of the hart is outstanding: each active
element of vd takes the value at its place, widened exactly from the format of the object; memory and every other register stay
as they are, and the start index is 0 (R161, R163, R164, R169). VLDB loads the elements of an object or a galley into every lane
of a w register (R165). That an operation nothing holds back performs in the very step is the model's order (log 2). -/
def Obligations.VectorLoads : Prop := (
  ∀ (dt : Bool) (g : Fin 8) (vd vi : VOp) (sa sb : SOp) (i : Instr) (m : Addressing) (o : Option SOp), (i, m, o) ∈
      [(.vld dt g vd sa, unitStride, none), (.vlds dt g vd sa sb, strideMode, some sb), (.vldt dt g vd sa, tileMode, none),
       (.vldx dt g vd sa vi, indexMode vi, none)] →
    ∀ (s s1 s2 : State) (env : Env) (c : VCtx) (base stride : Word) (es : List Nat) (p : Probed) (fmt : Nat) (vals : List (Nat × Nat)),
      accessStarts s g sa o env c m s1 s2 base stride → accessChecks m c env vd [0, 1, 5] (List.range 8) true (sa :: o.toList) = .ok ⟨⟩ →
      useAccess c m s2 env.seq vd true (startOf m.tile env) (countOf m.tile env) = .ok ⟨⟩ →
      es = (if env.vl = 0 then [] else activeElems s2.me.r c.lanes c.slot (startOf m.tile env) (countOf m.tile env)) →
      probeEach s2 env (startOf m.tile env) base 0 c.et true es (fun t => loadPair c.et (t.fmt c.et) && galleyPair t c.b)
        (elemAddr m s2.me.r c env base stride) false = .ok p → p.fault = none →
      fmt = (p.target.map fun t => t.fmt c.et).getD c.et →
      vals = (p.good.flatMap fun q => q.2.map fun e => (q.1, widen fmt c.et (readPlace s2 e.place))) →
      ∃ t, exec i s = .next t ∧ t.mem = s.mem ∧ (∀ k, (getCore t k).scratch = (getCore s k).scratch) ∧ t.me.flights = [] ∧
        t.me.r.v = (putElems vd c.lanes c.b s2.me.r vals).v ∧ t.me.r.w = (putElems vd c.lanes c.b s2.me.r vals).w ∧
        t.me.r.x = s.me.r.x ∧ t.me.r.q = s2.me.r.q ∧ t.me.r.z = s.me.r.z ∧ t.me.r.m = s.me.r.m ∧ t.me.r.fflags = s.me.r.fflags ∧
        t.me.r.pc = nextPc s.me.r.pc ∧ (m.tile = true → t.me.r.prog = 0) ∧ (m.tile = false → t.me.r.vstart = 0)) ∧ (
  ∀ (g : Fin 8) (n : Fin 8) (sa : SOp) (s s1 : State) (env : Env) (c : VCtx) (base : Word) (p : Probed) (vals : List (Nat × Nat)),
    accessStarts s g sa none env { c with f := slotF env.slot } unitStride s1 s1 base 0 → c.f = 1 →
    (match sa with | .s _ => True | .q k => k = 6) →
    c.et ∈ [0, 1, 2, 3, 4, 5, 6, 7, 16, 17, 18, 19] → c.vl ≤ 4096 / c.b → predOk c.slot 1 c.b = true →
    useRegs s1 env.seq [(2, n.val)] = .ok ⟨⟩ →
    probeEach s1 env env.vstart base 0 c.et true (activeElems s1.me.r c.lanes c.slot env.vstart env.vl)
      (fun t => vldbPair t c.et (slotSparse c.slot)) (fun u e => effAddr? base (e * u : Nat)) true = .ok p → p.fault = none →
    vals = (p.good.flatMap fun q => q.2.map fun e => (q.1, readPlace s1 e.place)) →
    ∃ t, exec (.vldb g (.w n) sa) s = .next t ∧ t.mem = s.mem ∧ t.me.flights = [] ∧ t.me.r.v = s.me.r.v ∧
      t.me.r.w = (vals.foldl (fun r q => (List.range c.lanes).foldl (fun r l => setLaneW r n.val c.lanes l (q.1 * c.b) c.b q.2) r)
        s1.me.r).w ∧ t.me.r.pc = nextPc s.me.r.pc ∧ t.me.r.vstart = 0)

/-- A plain vector store whose checks pass and whose probe meets no fault, under a slot without STRIPMODE, when nothing of the
hart is outstanding: each active element of vd goes to its place, in ascending order, and no other byte changes. Under STRIPMODE
it is buffered in the open strip whether an element is active or not, and takes STRIPSTATE where none is open (R163, R164, R172, R175). A vector atomic whose checks pass and whose probe meets no fault: the
elements of an element group that name one address are combined first, in ascending order, and each set then updates its place
once, in order (R168). That an operation nothing holds back performs in the very step is the model's order (log 2). -/
def Obligations.VectorStores : Prop := (
  ∀ (dt : Bool) (g : Fin 8) (vd vi : VOp) (sa sb : SOp) (i : Instr) (m : Addressing) (o : Option SOp), (i, m, o) ∈
      [(.vst dt g vd sa, unitStride, none), (.vstu dt g vd sa, unitStride, none), (.vsts dt g vd sa sb, strideMode, some sb),
       (.vstt dt g vd sa, tileMode, none), (.vstx dt g vd sa vi, indexMode vi, none)] →
    ∀ (s s1 s2 : State) (env : Env) (c : VCtx) (base stride : Word) (es : List Nat) (p : Probed) (ws : List (Place × Nat)),
      accessStarts s g sa o env c m s1 s2 base stride → accessChecks m c env vd [0, 1] (List.range 8) false (sa :: o.toList) = .ok ⟨⟩ →
      useAccess c m s2 env.seq vd false (startOf m.tile env) (countOf m.tile env) = .ok ⟨⟩ →
      es = (if env.vl = 0 then [] else activeElems s2.me.r c.lanes c.slot (startOf m.tile env) (countOf m.tile env)) →
      probeEach s2 env (startOf m.tile env) base 1 c.et false es (fun t => t.fmt c.et == c.et && galleyPair t c.b)
        (elemAddr m s2.me.r c env base stride) false = .ok p → p.fault = none →
      ws = (p.good.flatMap fun q => q.2.map fun e => (e.place, srcElem s2.me.r c.lanes c.b (.reg vd) q.1)) →
      (env.slot.getLsbD 48 = false → ∃ t, exec i s = .next t ∧ t.mem = (writePlaces s ws).mem ∧
        (∀ k, (getCore t k).scratch = (getCore (writePlaces s ws) k).scratch) ∧ t.me.flights = [] ∧ t.me.r.v = s.me.r.v ∧
        t.me.r.w = s.me.r.w ∧ t.me.r.x = s.me.r.x ∧ t.me.r.q = s2.me.r.q ∧ t.me.r.fflags = s.me.r.fflags ∧
        t.me.r.pc = nextPc s.me.r.pc ∧ (m.tile = true → t.me.r.prog = 0) ∧ (m.tile = false → t.me.r.vstart = 0)) ∧
      (env.slot.getLsbD 48 = true → startOf m.tile env < countOf m.tile env → s.me.r.strip.isOpen = false →
        exec i s = .next (stopAt s (.trap { code := 0x12 }) none)) ∧
      (env.slot.getLsbD 48 = true → startOf m.tile env < countOf m.tile env → s.me.r.strip.isOpen = true →
        (linesOf (handleOf base) p.elements).length ≤ 256 / 2 ^ s.me.nh → ∃ t x, exec i s = .next t ∧ t.mem = s.mem ∧
          t.me.r.strip.stores = [x] ∧ x.writes = ws ∧ t.me.r.pc = nextPc s.me.r.pc)) ∧ (
  ∀ (dt : Bool) (g : Fin 8) (vd vi : VOp) (sa : SOp) (i : Instr) (fn : Nat),
    (i, fn) ∈ [(.vamoadd dt g vd sa vi, 0), (.vamomax dt g vd sa vi, 1), (.vamomin dt g vd sa vi, 2)] →
    ∀ (s s1 s2 : State) (env : Env) (c : VCtx) (base : Word) (p : Probed) (good : List (Nat × Nat × Place × Nat)),
      accessStarts s g sa none env c (indexMode vi) s1 s2 base 0 →
      accessChecks (indexMode vi) c env vd [0] (List.range 7) false [sa] = .ok ⟨⟩ →
      useAccess c (indexMode vi) s2 env.seq vd false env.vstart env.vl = .ok ⟨⟩ →
      probeEach s2 env env.vstart base 2 c.et true (activeElems s2.me.r c.lanes c.slot env.vstart env.vl) (fun t => t.fmt c.et == c.et)
        (elemAddr (indexMode vi) s2.me.r c env base 0) false = .ok p → p.fault = none →
      good = (p.good.flatMap fun q => q.2.map fun e => (q.1,
        ((elemAddr (indexMode vi) s2.me.r c env base 0 1 q.1).map offsetOf).getD 0, e.place, getElem s2.me.r vd c.lanes c.b q.1)) →
      ∃ t, exec i s = .next t ∧ t.me.flights = [] ∧ t.me.r.v = s.me.r.v ∧ t.me.r.x = s.me.r.x ∧ t.me.r.pc = nextPc s.me.r.pc ∧
        t.me.r.vstart = 0 ∧ t.mem = ((combiningSets (groupElems c.lanes c.b) good).foldl (fun u q =>
          writePlaces u [(q.1, (vamoFn fn c.slot (readPlace u q.1) (combine fn c.slot q.2).1).1)]) s2).mem)

/-- VLDPK builds each word of a v group, or every word of a w register in all lanes, from what its fields name in an object or a galley,
dense or sparse; under a floating-point SFMT it aligns the blocks and writes their exponents into the side block. VSTPK stores the
fields of each active word of a v group or a w register, dense whatever SPARSE and ROLE (log 58), those of
lane 0 of a w register (log 25), each fitted to the format of the target, or buffers them in the open strip (R166, R167, R226). An aligned block has the exponent of its largest element, and each element
rounded to the nearest multiple of the block's unit, to even on a tie; a NaN or an infinity in it makes a NaN block with NV (R37, R38). A
field reads back as the value put into it; the selector of a sparse word holds the indices (R166, R224, R226); the exponents of a bundle word
stand in their side entries (R226). That an operation nothing holds back performs in the very step is the model's order (log 2). -/
def Obligations.PackedAccesses : Prop := (
  ∀ (dt : Bool) (g : Fin 8) (vd : VOp) (sa sb : SOp) (s s1 s2 : State) (env : Env) (c : VCtx) (base d : Word) (js : List Nat)
    (t : Target) (good : List (Nat × List Element)) (ratio et : Nat) (tile : Tile),
    accessStarts s g sa (some sb) env c strideMode s1 s2 base d → accessOk [sa, sb] = .ok ⟨⟩ →
    operand vd [0, 1] c.f = .ok ⟨⟩ → c.et = 7 → env.forme ≠ 0 → predOk c.slot c.f c.b = true → field d 1 7 = 0 → pkLen d ≠ 0 →
    sparseRefused env.forme c.slot = false → et = sfmtType (fSfmt env.forme) →
    (if tierOf vd = 1 then env.vl ≤ 16 else c.vl ≤ vlmaxBits c.lanes c.f c.b) →
    (ratio = (if pkRole d then slotRatio c.slot else 1) → tile = tileOf c.lanes c.slot env.forme env.vl →
      descriptorOk env.forme d ratio = true → (tierOf vd = 1 → pkRole d = true) → js = packWords s2.me.r c env (tierOf vd == 1) →
      (sfmtInt env.forme = true ∨ packSides tile d base (if fSfmt env.forme = 8 then 2 else 1) (regsOf vd c.f) js = true) →
      useParts s2 env.seq (regsOf vd c.f ++ packSideRegs tile env.forme) ((groupBits vd c.lanes c.f 256 env.vstart env.vl).map
        (fun x => (x.1, if x.2 = 0 then 0 else 0xFF)) ++ wholeBits (packSideRegs tile env.forme)) = .ok ⟨⟩ →
      (js = [] → good = []) →
      (∀ j0 rest, js = j0 :: rest →
        openTarget s2 (handleOf base) 0 true j0 (formed env.forme base d (packElements env.forme (pkRole d) (pkLen d) ratio j0))
          (packTargetOk env.forme (pkRole d) (slotSparse c.slot)) = .ok t ∧
        probeAll (fun j => probeWord s2 t (handleOf base) et base d env.forme ratio j) js = (good, none) ∧
        ∀ q ∈ good, badColumns s2 t env.forme d ratio q.1 q.2 = false) →
      let read (q : Nat × List Element) : List Nat :=
        let l := wordPlaces s2 t env.forme d ratio q.1 q.2
        (if l.isEmpty then [nullPlace] else l).map fun x => readPlace s2 x
      let words := good.map fun q =>
        (q.1, packLoaded env.forme (slotSat c.slot) (pkRole d) (pkLen d) ratio (t.fmt et) q.1 (read q))
      let r1 := words.foldl (fun r w => putPacked vd c.lanes w.1 w.2.word r) s2.me.r
      let r2 := if sfmtInt env.forme then r1 else words.foldl (fun r w =>
        putExponents tile (pkRole d) (pkLen d) (offsetUnit ((etypeBits (t.fmt et)).getD 8)) w.1 base w.2 r) r1
      ∃ u, exec (.vldpk dt g vd sa sb) s = .next u ∧ u.mem = s.mem ∧ u.me.flights = [] ∧ u.me.r.v = r2.v ∧ u.me.r.w = r2.w ∧
        u.me.r.x = s.me.r.x ∧ u.me.r.q = s2.me.r.q ∧ u.me.r.z = s.me.r.z ∧ u.me.r.m = s.me.r.m ∧ u.me.r.pc = nextPc s.me.r.pc ∧
        u.me.r.vstart = 0 ∧ (env.slot.getLsbD 48 = false → u.me.r.fflags = s.me.r.fflags ||| words.foldl (fun a w => a ||| w.2.flags) 0)) ∧
    (sfmtInt env.forme = true → useParts s2 env.seq (regsOf vd c.f) (groupBits vd c.lanes c.f 256 env.vstart env.vl) = .ok ⟨⟩ →
      js = activeElems s2.me.r c.lanes c.slot env.vstart env.vl → (js = [] → good = []) →
      let fields (j : Nat) : List (Nat × (Nat × Nat)) :=
        (pkFields env.forme (pkRole d) (pkLen d) 1 j).filterMap fun q => q.2.map fun x => (q.1, x)
      (∀ j0 rest, js = j0 :: rest →
        openTarget s2 (handleOf base) 1 false j0 (formed env.forme base d ((fields j0).map (·.2)))
          (packTargetOk env.forme false (slotSparse c.slot)) = .ok t ∧
        probeAll (fun j => (fields j).map fun q =>
          probeOne s2 t (handleOf base) 1 et false (pkAddr base d (offsetUnit (t.bits et)) q.2)) js = (good, none)) →
      let out : List (Place × (Nat × FlagSet)) := good.flatMap fun q => ((fields q.1).zip q.2).map fun x =>
        (x.2.place, unpackTo (t.fmt et) (slotSat c.slot) (unpackField env.forme (packedSource s2.me.r c vd q.1) x.1.1))
      let ws := out.map fun x => (x.1, x.2.1)
      (env.slot.getLsbD 48 = false → ∃ u, exec (.vstpk dt g vd sa sb) s = .next u ∧ u.mem = (writePlaces s ws).mem ∧
        (∀ k, (getCore u k).scratch = (getCore (writePlaces s ws) k).scratch) ∧ u.me.flights = [] ∧ u.me.r.v = s.me.r.v ∧
        u.me.r.w = s.me.r.w ∧ u.me.r.x = s.me.r.x ∧ u.me.r.q = s2.me.r.q ∧ u.me.r.pc = nextPc s.me.r.pc ∧ u.me.r.vstart = 0 ∧
        u.me.r.fflags = s.me.r.fflags ||| out.foldl (fun a x => a ||| x.2.2) 0) ∧
      (env.slot.getLsbD 48 = true → env.vstart < env.vl → s.me.r.strip.isOpen = false →
        exec (.vstpk dt g vd sa sb) s = .next (stopAt s (.trap { code := 0x12 }) none)) ∧
      (env.slot.getLsbD 48 = true → env.vstart < env.vl → s.me.r.strip.isOpen = true →
        (linesOf (handleOf base) (good.flatMap (·.2))).length ≤ 256 / 2 ^ s.me.nh → ∃ u x, exec (.vstpk dt g vd sa sb) s = .next u ∧
          u.mem = s.mem ∧ u.me.r.strip.stores = [x] ∧ x.writes = ws ∧ u.me.r.pc = nextPc s.me.r.pc))) ∧ (
  ∀ (mb : Nat) (xs : List Val), mb ∈ [4, 8, 12] → (∀ v ∈ xs, v.den ≠ 0) →
    ((∃ v ∈ xs, ∀ n a b, v ≠ .fin n a b) → alignBlock mb xs = (-32768, xs.map fun _ => 0, 16)) ∧
    ((∀ v ∈ xs, (∃ n a b, v = .fin n a b) ∧ ratOf v = 0) → alignBlock mb xs = (0, xs.map fun _ => 0, 0)) ∧
    ((∀ v ∈ xs, ∃ n a b, v = .fin n a b) → (∃ v ∈ xs, ratOf v ≠ 0) → ∃ (e : Int) (q : List Int), alignBlock mb xs = (e, q, 0) ∧
      q.length = xs.length ∧ (∃ v ∈ xs, (2 : Rat) ^ (e + mb - 2) ≤ |ratOf v|) ∧ (∀ v ∈ xs, |ratOf v| < (2 : Rat) ^ (e + mb - 1)) ∧
      ∀ i, i < xs.length → 2 * |ratOf (xs.getD i .zero) / (2 : Rat) ^ e - q.getD i 0| ≤ 1 ∧
        (2 * |ratOf (xs.getD i .zero) / (2 : Rat) ^ e - q.getD i 0| = 1 → q.getD i 0 % 2 = 0))) ∧ (
  ∀ (f : Word) (sat role : Bool) (klen ratio fmt j : Nat) (vs : List Nat), formeAccepted f →
    let fs := pkFields f role klen ratio j
    let p := packLoaded f sat role klen ratio fmt j vs
    let fits (v : Int) : Prop := if fSigned f then -2 ^ (fW f - 1) ≤ v ∧ v < 2 ^ (fW f - 1) else 0 ≤ v ∧ v < 2 ^ fW f
    (ratio = 1 ∨ (role = true ∧ fConv f = false ∧ fW f * fFieldsB f ≤ 224)) →
    (sfmtInt f = true → (∀ i v, i < fs.length → v = (packValue f sat (decodeVal fmt (vs.getD i 0)).signed).1 → fits v →
        unpackField f p.word (fs.getD i (0, none)).1 = v) ∧
      (ratio ≠ 1 → ∀ k, k < fK f → selIndex p.word k = vs.getD (fs.length + k) 0 % 4)) ∧
    (sfmtInt f = false → ratio = 1 → ∀ (n i fld row kk b : Nat), i < fs.length → fs.getD i (0, none) = (fld, some (row, kk)) →
      b < (pkBlocks fs).length → (pkBlocks fs).getD b (0, 0) = (row, kk / 32) → n ∈ [32, 64] → vs.length = n * (pkBlocks fs).length →
      let block := (vs.drop (b * n)).take n
      let a := alignBlock (if fSfmt f = 6 then 4 else if fSfmt f = 7 then 8 else 12) ((List.range 32).map fun x =>
        scaled fmt (block.getD x 0) (if n = 64 then some (block.getD (32 + x) 0) else none))
      ((row, kk / 32), a.1) ∈ p.blocks ∧
      ∀ v, v = (packValue f sat (a.2.1.getD (kk % 32) 0)).1 → fits v → unpackField f p.word fld = v)) ∧ (
  ∀ (t : Tile) (role : Bool) (klen eu j : Nat) (base : Word) (p : Packed) (r : Regs) (x lane : Nat) (e : Int), fConv t.f = false →
    t.ratio ≠ 0 → t.base ≠ 0 → lane < t.lanes → t.lanes ≤ 32 → pkGroup t.f role klen eu j base < 4 → -2 ^ 15 ≤ e → e < 2 ^ 15 →
    t.base + (pkGroup t.f role klen eu j base + 1) * t.sr ≤ 64 → t.sr = ceilDiv ((t.tr + t.tc) * 8) 512 →
    (p.blocks.map (·.1)).Nodup →
    (((j / ceilDiv klen (pkStep t.f role 1)) * (if role then fN t.f else fM t.f) + x, pkFirst t.f role klen 1 j / 32), e) ∈ p.blocks →
    x < (if role then fN t.f else fM t.f) →
    let entry := if role then t.tr + j * fN t.f + x else pwIndex t.lanes j / t.ratio * fM t.f + x
    entry < t.tr + t.tc → (role = false → lane = pwLane t.lanes j) →
    let k := pkGroup t.f role klen eu j base
    let r' := putExponents t role klen eu j base p r
    signedOf (t.get r' k lane entry 0 16) 16 = e ∧ t.get r' k lane entry 16 8 = 127 ∧
      t.get r' k lane entry 24 40 = t.get r k lane entry 24 40)

/-- While every slot of a product is legal, the check of R206 passes and every slot reads back exactly; the lowest illegal slot
is found whenever no slot outgrows 3 x 2^(w-2) in magnitude (R206, R208). Packing loses nothing: a word built from values in the
range of its forme, in fields of their own, gives each back (R33, R224, R225). -/
def Obligations.PackedWordsRead : Prop := (
  ∀ (f : Word) (v : Nat → Int) (p : Int), 4 ≤ fW f →
    p = ((List.range (slotCount f)).map fun s => v s * 2 ^ (fW f * s)).sum →
    ((∀ s, s < slotCount f → -2 ^ (fW f - 2) ≤ v s ∧ v s < 2 ^ (fW f - 2)) →
      failingSlot f p = none ∧ ∀ s, s < slotCount f → slotValue f p s = v s) ∧
    ∀ s, s < slotCount f → (∀ k, k < s → -2 ^ (fW f - 2) ≤ v k ∧ v k < 2 ^ (fW f - 2)) →
      (2 ^ (fW f - 2) ≤ v s ∨ v s < -2 ^ (fW f - 2)) → v s < 3 * 2 ^ (fW f - 2) → -(3 * 2 ^ (fW f - 2)) ≤ v s →
      failingSlot f p = some s) ∧ (
  ∀ (f : Word) (vals : List Int), formeAccepted f → sfmtInt f = true → fW f * vals.length ≤ 256 →
    (∀ v ∈ vals, if fSigned f then -2 ^ (fW f - 1) ≤ v ∧ v < 2 ^ (fW f - 1) else 0 ≤ v ∧ v < 2 ^ fW f) →
    ∀ i, i < vals.length →
      unpackField f (packWord f (vals.zipIdx.map fun p => (p.2, p.1))) i = vals.getD i 0)

/-- VWMUL and VWMAC write the exact 512-bit product of each active word pair, VWMAC added to the pair of vd, when no slot fails;
a failing slot is the leading-overflow trap. VEXTF writes the windows of each active product (R206, R209, R222, R223). -/
def Obligations.WordProducts : Prop :=
  ∀ (dt : Bool) (g : Fin 8) (vd va vb : VOp) (n : Fin 64) (s : State) (env : Env) (c : VCtx) (r : Regs), starts s g env c →
    matChecks c env [7] = .ok ⟨⟩ → c.vl ≤ vlmaxBits c.lanes c.f 256 → vd = .v n → r = s.me.r →
    (∀ e ∈ [(Instr.vwmul, false), (Instr.vwmac, true)], ∀ ps : List (Nat × Int), n.val % (2 * c.f) = 0 → 2 * c.f ≤ 16 →
      operand va tVW c.f = .ok ⟨⟩ → operand vb tVW c.f = .ok ⟨⟩ →
      useTouched s env.seq (touchesSpan (c.issued dt r) (regsOf vd (2 * c.f)) ++ touches va c.lanes 256 (c.issued dt r) ++
        touches vb c.lanes 256 (c.issued dt r)) = .ok ⟨⟩ →
      ps = (c.active r).map (fun p => (p, operandA env.forme (wordAt r va c.lanes p) * operandB env.forme (wordAt r vb c.lanes p) +
        (if e.2 then signedOf (pairAt r n c.lanes p) 512 else 0))) →
      ((∀ q ∈ ps, failingSlot env.forme q.2 = none) → exec (e.1 dt g vd va vb) s = retires env (withRegs s (commit c 0
        (hitCounts (ps.filter fun q => headroomHit env.forme q.2).length (dtCount dt r c 256))
        (ps.foldl (fun r q => setPair r n c.lanes q.1 (q.2 % 2 ^ 512).toNat) r)))) ∧
      ((∃ q ∈ ps, failingSlot env.forme q.2 ≠ none) → ∃ i el, exec (e.1 dt g vd va vb) s =
        .next (stopAt s (.trap { code := 0x15, elem := el, info := i }) none))) ∧
    ∀ nx cnt, operand va [0] (2 * c.f) = .ok ⟨⟩ → nx = ceilDiv (fW env.forme * fFieldsP env.forme) (fXs env.forme) →
      cnt = ceilDiv (spanOf c.lanes (List.range c.vl) * nx * 4) 512 → n.val + cnt ≤ 64 →
      useTouched s env.seq (touchesSpan (c.issued dt r) (runRegs n cnt ++ regsOf va (2 * c.f))) = .ok ⟨⟩ →
      exec (.vextf dt g vd va) s = retires env (withRegs s (commit c 0 (dtCount dt r c 256) ((c.active r).foldl (fun t p =>
        (extractAll env.forme (signedOf (pairAt r (vNumber va) c.lanes p) 512) nx).zipIdx.foldl (fun t w =>
          setLane t n c.lanes (pwLane c.lanes p) (32 * (pwIndex c.lanes p * nx + w.2)) 32 (lowBits w.1 32)) t) r)))

/-- VPACK builds words of a v group, or of every lane of a w register, from INT32 elements; VUNPACK writes the fields of words
as INT32 elements, for an integer SFMT (R224, R225). -/
def Obligations.PackUnpack : Prop :=
  ∀ (dt : Bool) (g : Fin 8) (vd va : VOp) (n : Fin 64) (s : State) (env : Env) (c : VCtx) (r : Regs), starts s g env c →
    matChecks c env [7] = .ok ⟨⟩ → sfmtInt env.forme = true → r = s.me.r →
    let fA := fieldsA env.forme
    let fB := fieldsB env.forme
    (operand vd [0] c.f = .ok ⟨⟩ → va = .v n → n.val % c.f = 0 → c.f ≤ 16 → c.vl ≤ vlmaxBits c.lanes c.f 256 → ∀ cnt out,
      cnt = ceilDiv (spanOf c.lanes (List.range c.vl) * fA.length * 4) 512 → n.val + cnt ≤ 64 →
      useTouched s env.seq (touchesAll vd c.lanes 256 (c.issued dt r) ++ touchesSpan (c.issued dt r) (runRegs n cnt)) = .ok ⟨⟩ →
      out = (c.active r).map (fun p =>
        (p, packFrom r env.forme (slotSat c.slot) fA n c.lanes (pwLane c.lanes p) (pwIndex c.lanes p))) →
      exec (.vpack dt g vd va) s = retires env (withRegs s (commit c (flagsOf (out.map (·.2))) (dtCount dt r c 256)
        (out.foldl (fun t o => putPacked vd c.lanes o.1 o.2.1 t) r)))) ∧
    (∀ k : Fin 8, vd = .w k → va = .v n → n.val % c.f = 0 → c.f ≤ 16 → slotSparse c.slot = 0 → c.vl ≤ 16 → ∀ cnt out,
      cnt = ceilDiv (c.vl * fB.length * 4) 512 → n.val + cnt ≤ 64 →
      useTouched s env.seq (touchesAll vd c.lanes 256 (List.range c.vl) ++ touchesSpan (List.range c.vl) (runRegs n cnt)) = .ok ⟨⟩ →
      out = (List.range c.vl).map (fun p => (p, packFrom r env.forme (slotSat c.slot) fB n c.lanes 0 p)) →
      exec (.vpack dt g vd va) s = retires env (withRegs s (commit c (flagsOf (out.map (·.2))) Counts.zero
        (out.foldl (fun t o => putPacked vd c.lanes o.1 o.2.1 t) r)))) ∧
    (vd = .v n → operand va [0] c.f = .ok ⟨⟩ → c.vl ≤ vlmaxBits c.lanes c.f 256 → ∀ cnt,
      cnt = ceilDiv (spanOf c.lanes (List.range c.vl) * fA.length * 4) 512 → n.val + cnt ≤ 64 →
      useTouched s env.seq (touchesSpan (c.issued dt r) (runRegs n cnt) ++ touches va c.lanes 256 (c.issued dt r)) = .ok ⟨⟩ →
      exec (.vunpack dt g vd va) s = retires env (withRegs s (commit c 0 (dtCount dt r c 256) ((c.active r).foldl (fun t p =>
        putFields env.forme fA n c.lanes (pwLane c.lanes p) (pwIndex c.lanes p) (wordAt r va c.lanes p) t) r)))) ∧
    ∀ k : Fin 8, vd = .v n → va = .w k → c.vl ≤ 16 → ∀ cnt, cnt = ceilDiv (c.vl * fB.length * 4) 512 → n.val + cnt ≤ 64 →
      useTouched s env.seq (touchesSpan (List.range c.vl) (runRegs n cnt) ++ touches va c.lanes 256 (List.range c.vl)) = .ok ⟨⟩ →
      exec (.vunpack dt g vd va) s = retires env (withRegs s (commit c 0 Counts.zero ((List.range c.lanes).foldl (fun t l =>
        (List.range c.vl).foldl (fun t j => putFields env.forme fB n c.lanes l j (getWord r va c.lanes l j) t) t) r)))

/-- MZERO zeroes the tile register and nothing else; it is the plain illegal-instruction trap for an operand of another tier
(R227). MMA, MMAS and MSUMS add the useful sums of their products to the tile and the sums to the side block, when no slot fails
and no total leaves INT32; a slot that fails is the leading-overflow trap; MMAU does the same with A formed from galley elements, once its reads may perform, at once when
nothing of the hart is outstanding (R228 to R233). MMAU on a galley, when nothing of the hart is outstanding and its reads fault
nowhere: it adds the products of the unfolded elements to the tile, as MMA does (R231, R232). The useful sum (m, n) of a product of two
bundles is the dot product of row m and column n, and that of a convolution the window at m, while no sum of a slot outgrows its field
(R204, R205). That an operation nothing holds
back performs in the very step is the model's order (log 2). -/
def Obligations.TileProducts : Prop := (
  ∀ (g : Fin 8) (vd : VOp) (s : State) (env : Env), quiet s → dispatchEnv s g none none = .ok env →
    (∀ n : Fin 4, vd = .z n → env.vstart = 0 → useRegs s env.seq [(3, n.val)] = .ok ⟨⟩ →
      exec (.mzero g vd) s = .next (retireStream false false (modRegs s fun r => { r with z := r.z.set n 0 }))) ∧
    ((∀ n, vd ≠ .z n) → exec (.mzero g vd) s = .next (stopAt s (.trap { code := 1 }) none))) ∧ (
  ∀ (dt : Bool) (g : Fin 8) (n : Fin 4) (va vb : VOp) (k : Fin 8) (s s1 : State) (env : Env) (c : VCtx) (r : Regs) (t : Tile) (o : MmaOut)
    (ones : Nat) (rows : Nat → Nat), starts s g env c → matChecks c env [7] = .ok ⟨⟩ → t = tileOf c.lanes c.slot env.forme env.vl → r = s.me.r →
    (∀ e ∈ [(Instr.mma, false), (Instr.mmas, true)], operand va [0] c.f = .ok ⟨⟩ → vb = .w k →
      tileChecks t env (if e.2 then 15 else 16) n = .ok ⟨⟩ → (e.2 = true → t.base ≠ 0 ∧ t.sideOk n (regsOf va c.f) = true) →
      useTouched s env.seq (touchesSpan (c.gridIssued dt r) (t.zregs n ++ regsOf vb 1 ++ (if e.2 then t.sideRegs n else [])) ++
        touches va c.lanes 256 (c.gridIssued dt r)) = .ok ⟨⟩ →
      (if e.2 then rowOnes s t env.vl (fun l j => getWord r vb c.lanes l j) else (fun _ => 0, s)) = (rows, s1) →
      mmaCompute t env.vl n (takingPart r t c.slot) (regOpA r va t) (fun l j => getWord r vb c.lanes l j)
        (if e.2 then some rows else none) r = .ok o →
      exec (e.1 dt g (.z n) va vb) s =
        retires env (withRegs s1 (commit c 0 (hitCounts o.hits (gridCount dt r c)) (o.write t n r)))) ∧
    (∀ (ps : List Pairing) (gs : List Gain), operand va [0] c.f = .ok ⟨⟩ → tileChecks t env 16 n = .ok ⟨⟩ → t.base ≠ 0 → t.sideOk n (regsOf va c.f) = true →
      useTouched s env.seq (touches va c.lanes 256 (c.gridIssued dt r) ++ touchesSpan (c.gridIssued dt r) (t.sideRegs n)) = .ok ⟨⟩ →
      onesWord s t.ratio = (ones, s1) →
      ps = (takingPart r t c.slot).map (fun p =>
        ({ lane := p.1, a := p.2, b := 0, p := regOpA r va t p.1 p.2 ones * onesB t.f } : Pairing)) →
      gs = rowGains t ps → (∀ x ∈ ps, failingSlot t.f x.p = none) →
      (∀ x ∈ gs, inInt32 (oldSum r n t x.at_.lane x.pos + x.val) = true) →
      exec (.msums dt g (.z n) va) s = retires env (withRegs s1 (commit c 0 (hitCounts (hitsOf t.f ps) (gridCount dt r c))
        (putSums t n r (newValues (oldSum r n t) gs))))) ∧
    ∀ (ps : List Pairing) (gs : List Gain), va = .w k → tileChecks t env 16 n = .ok ⟨⟩ → t.base ≠ 0 → t.sideOk n [(2, k.val)] = true →
      useTouched s env.seq (touches va c.lanes 256 (List.range env.vl) ++ touchesSpan (List.range env.vl) (t.sideRegs n)) = .ok ⟨⟩ →
      ps = ((List.range c.lanes).flatMap fun l => (List.range env.vl).map fun j =>
        ({ lane := l, a := 0, b := j, p := onesA t.f * operandB t.f (getWord r va c.lanes l j) } : Pairing)) →
      gs = colGains t ps → (∀ x ∈ ps, failingSlot t.f x.p = none) →
      (∀ x ∈ gs, inInt32 (oldSum r n t x.at_.lane x.pos + x.val) = true) →
      exec (.msums dt g (.z n) va) s = retires env (withRegs s (commit c 0 (hitCounts (hitsOf t.f ps) Counts.zero)
        (putSums t n r (newValues (oldSum r n t) gs))))) ∧ (
  ∀ (dt : Bool) (g : Fin 8) (n : Fin 4) (k : Fin 8) (s : State) (env : Env) (c : VCtx) (r : Regs) (t : Tile) (o : MmaOut)
    (act : List (Nat × Nat)) (xs : List (Nat × Nat × Element)), calm s → s.me.bank = .active → starts s g env c → matChecks c env [7] = .ok ⟨⟩ →
    t = tileOf c.lanes c.slot env.forme env.vl → r = s.me.r → k ≠ 7 → tileChecks t env 16 n = .ok ⟨⟩ →
    fConv env.forme = false → sfmtInt env.forme = true →
    useRegs s env.seq (t.zregs n ++ [(2, k.val)] ++ [(2, 7)]) = .ok ⟨⟩ → act = takingPart r t c.slot →
    (∀ l ∈ act.map (·.1), unfoldBad (unfoldField r c.lanes l (slotUnfold c.slot)) 0 = false ∧
      unfoldGalleyOk env.forme c.slot (galley s s.me.core (unfoldField r c.lanes l (slotUnfold c.slot) 0 5)) = true) →
    ((act.mergeSort fun p q => decide (firstElement t p ≤ firstElement t q)).flatMapM fun p =>
      (unfoldReads t env 0 r [p] fun l j => getLaneW r k c.lanes l (256 * j) 256).mapM fun q => do
        let e ← unfoldElement s env.forme (firstElement t p) q.2
        return (firstElement t p, q.1, e)) = Except.ok xs →
    mmauOut { env with a := 0, b := 0 } c.lanes n k r (xs.map fun x => (x.2.1, readPlace s x.2.2.place)) = .ok o →
    ∃ u, exec (.mmau dt g (.z n) .none (.w k)) s = .next u ∧ u.mem = s.mem ∧ u.me.flights = [] ∧ u.me.r.z = (o.write t n r).z ∧
      u.me.r.v = r.v ∧ u.me.r.w = r.w ∧ u.me.r.x = r.x ∧ u.me.r.pc = nextPc r.pc) ∧ (
  ∀ (t : Tile) (vl zd : Nat) (act : List (Nat × Nat)) (opA : Nat → Nat → Nat → Int) (bw : Nat → Nat → Nat) (ones : Option (Nat → Nat)) (r : Regs),
    let product (p : Nat × Nat) (j : Nat) : Int := opA p.1 p.2 (bw p.1 j) * operandB t.f (bw p.1 j)
    let gain (p : Nat × Nat) (j m n : Nat) : Int := slotValue t.f (product p j) (usefulSlot t.f m n)
    let place (p : Nat × Nat) (j m n : Nat) : Nat := (p.2 * fM t.f + m) * t.tc + j * fN t.f + n
    let rowSum (w : Nat → Nat) (p : Nat × Nat) (m : Nat) : Int :=
      slotValue t.f (opA p.1 p.2 (w p.1) * onesB t.f) (usefulSlot t.f m 0)
    ((∀ p ∈ act, ∀ j, j < vl → failingSlot t.f (product p j) = none) →
      (∀ w, ones = some w → ∀ p ∈ act, failingSlot t.f (opA p.1 p.2 (w p.1) * onesB t.f) = none) →
      (∀ p ∈ act, ∀ j m n, j < vl → m < fM t.f → n < fN t.f →
        inInt32 (oldTile r zd t p.1 (place p j m n) + gain p j m n) = true) →
      (∀ w, ones = some w → ∀ p ∈ act, ∀ m, m < fM t.f →
        inInt32 (oldSum r zd t p.1 (p.2 * fM t.f + m) + rowSum w p m) = true) →
      ∃ o, mmaCompute t vl zd act opA bw ones r = .ok o ∧
        (∀ x, x ∈ o.tile ↔ ∃ p ∈ act, ∃ j m n, j < vl ∧ m < fM t.f ∧ n < fN t.f ∧
          x = (p.1, place p j m n, oldTile r zd t p.1 (place p j m n) + gain p j m n)) ∧
        (∀ x, x ∈ o.sums ↔ ∃ w, ones = some w ∧ ∃ p ∈ act, ∃ m, m < fM t.f ∧
          x = (p.1, p.2 * fM t.f + m, oldSum r zd t p.1 (p.2 * fM t.f + m) + rowSum w p m))) ∧
    ((∃ p ∈ act, ∃ j, j < vl ∧ failingSlot t.f (product p j) ≠ none) →
      ∃ i, mmaCompute t vl zd act opA bw ones r = .error i ∧ i.code = 0x15)) ∧ (
  ∀ (r : Regs) (zd lanes : Nat) (t : Tile) (l : List (Nat × Nat × Int)), t.lanes = lanes → lanes ≤ 32 → (l.map fun x => (x.1, x.2.1)).Nodup →
    (∀ x ∈ l, x.1 < lanes ∧ x.2.1 < 2048 ∧ zd + x.2.1 / 1024 < 4 ∧ -2 ^ 31 ≤ x.2.2 ∧ x.2.2 < 2 ^ 31) →
    (∀ x ∈ l, oldTile (putTile r zd lanes l) zd t x.1 x.2.1 = x.2.2) ∧
    (∀ lane i, i < 2048 → (lane, i) ∉ l.map (fun x => (x.1, x.2.1)) → oldTile (putTile r zd lanes l) zd t lane i = oldTile r zd t lane i)) ∧ (
  ∀ (f : Word) (a b : Nat → Nat → Int), formeAccepted f → fConv f = false →
    let k := fK f
    let term (m n e : Nat) : Int := ((List.range k).flatMap fun x => (List.range k).map fun y =>
      if x + (k - 1 - y) = e then a m x * b n y else 0).sum
    let opA := fieldSum f ((List.range (fM f)).flatMap fun m => (List.range k).map fun x => (x + (2 * k - 1) * fN f * m, a m x))
    let opB := fieldSum f ((List.range (fN f)).flatMap fun n => (List.range k).map fun y => (k - 1 - y + (2 * k - 1) * n, b n y))
    (∀ m n e, m < fM f → n < fN f → e < 2 * k - 1 → -2 ^ (fW f - 2) ≤ term m n e ∧ term m n e < 2 ^ (fW f - 2)) →
    failingSlot f (opA * opB) = none ∧ ∀ m n, m < fM f → n < fN f →
      slotValue f (opA * opB) (usefulSlot f m n) = ((List.range k).map fun x => a m x * b n x).sum) ∧ (
  ∀ (f : Word) (a b : Nat → Int), formeAccepted f → fConv f = true →
    let k := fK f
    let term (e : Nat) : Int := ((List.range (fM f + k - 1)).flatMap fun x => (List.range k).map fun y =>
      if x + (k - 1 - y) = e then a x * b y else 0).sum
    let opA := fieldSum f ((List.range (fM f + k - 1)).map fun x => (x, a x))
    let opB := fieldSum f ((List.range k).map fun y => (k - 1 - y, b y))
    (∀ e, e < fM f + 2 * k - 2 → -2 ^ (fW f - 2) ≤ term e ∧ term e < 2 ^ (fW f - 2)) →
    failingSlot f (opA * opB) = none ∧ ∀ m, m < fM f →
      slotValue f (opA * opB) (usefulSlot f m 0) = ((List.range k).map fun x => a (m + x) * b x).sum)

/-- DRAIN and DRAINA convert each position of a tile, or the folds of several, to ETYPE and write them lane by lane into the run
at vd (R234 to R237). DRAINQ and DRAINRC of a tile, or of FP32 values in a v run, quantise each lane in groups of 32, along rows and, for
DRAINRC, down columns too, and write the code and scale runs one after another; the dither phase of the source advances by one (R41, R46,
R238, R239). A position has the value P' x SA x SB, P' brought into INT32 with OF, and a NaN factor makes it a NaN (R35, R38, R235); the results round it
once (R236), a fold rounds to FP32 (R49, R237). A group has the scale of R46, and its codes are its values over that scale, rounded and clamped, each
in its place. DRAINRC counts the NaN elements of both copies in NANENC (R44, R239), the model's choice (log 56).
-/
def Obligations.DrainResults : Prop := (
  ∀ (g : Fin 8) (n : Fin 64) (k : Fin 4) (s s1 : State) (env : Env) (c : VCtx) (r : Regs) (t : Tile) (kcm1 cnt : Nat),
    starts s g env c → t = tileOf c.lanes c.slot env.forme env.vl → r = s.me.r → drainKcm1 s t = (kcm1, s1) →
    cnt = ceilDiv (t.count * c.b) 4096 → n.val + cnt ≤ 64 →
    (drainChecks c env t [0, 1, 2, 3, 4, 5, 6, 16, 17, 18, 19, 20, 21] k = .ok ⟨⟩ → drainSides t [k.val] (runRegs n cnt) = true →
      useRegs s env.seq (runRegs n cnt ++ t.zregs k ++ drainSideRegs t [k.val]) = .ok ⟨⟩ → ∀ res : Nat → List (Nat × FlagSet),
      (∀ l, res l = if l < c.lanes then (List.range t.count).map (drainOne c t r kcm1 k l) else []) →
      exec (.drain g (.v n) (.z k)) s =
        retires env (withRegs s1 (commit c (laneFlags c.lanes res) Counts.zero (putResults r n c.lanes cnt c.b res)))) ∧
    ∀ ks : List Nat, ks = (List.range 4).filter (fun q => decide (k.val ≤ q) && (q - k.val) % (if t.count ≤ 1024 then 1 else 2) == 0) →
      drainChecks c env t [0, 1, 2, 20, 21] k = .ok ⟨⟩ → drainSides t ks (runRegs n cnt) = true →
      useRegs s env.seq (runRegs n cnt ++ ks.flatMap t.zregs ++ drainSideRegs t ks) = .ok ⟨⟩ → ∀ res : Nat → List (Nat × FlagSet),
      (∀ l, res l = if l < c.lanes then (List.range t.count).map (foldedOne c t r kcm1 k ks l) else []) →
      exec (.draina g (.v n) (.z k)) s =
        retires env (withRegs s1 (commit c (laneFlags c.lanes res) Counts.zero (putResults r n c.lanes cnt c.b res)))) ∧ (
  ∀ (g : Fin 8) (n : Fin 64) (va : VOp) (s s1 : State) (env : Env) (c : VCtx) (r : Regs) (t : Tile) (k kcm1 : Nat) (src : List RegName)
    (vals : Nat → List (Val × FlagSet)), starts s g env c →
    t = tileOf c.lanes c.slot env.forme env.vl → r = s.me.r → operand va [2, 0] c.f = .ok ⟨⟩ →
    drainChecks c env t [16, 18, 20, 21, 22, 23, 24] (if tierOf va = 0 then 0 else k) = .ok ⟨⟩ →
    (match va with
     | .z z => k = z.val ∧ src = t.zregs k ++ drainSideRegs t [k] ∧ drainKcm1 s t = (kcm1, s1) ∧
         vals = fun l => (List.range t.count).map fun i => tileValue t r kcm1 k l i
     | .v m => k = 4 ∧ s1 = s ∧ t.base = 0 ∧ m.val + ceilDiv (t.count * 32) 4096 ≤ 64 ∧ src = runRegs m (ceilDiv (t.count * 32) 4096) ∧
         vals = fun l => (List.range t.count).map fun i => (decodeVal 0 (getLane r m c.lanes l (32 * i) 32), 0)
     | _ => False) →
    let apart (run : List RegName) : Prop := if tierOf va = 0 then ∀ x ∈ run, x ∉ src else drainSides t [k] run = true
    let n1 := (quantRegs t false c.et).1
    let n2 := (quantRegs t false c.et).2
    let n3 := (quantRegs t true c.et).1
    let n4 := (quantRegs t true c.et).2
    let lane (cols : Bool) (l : Nat) : QLane := quantiseLane t cols c.et (slotRnd c.slot) (phaseOf r k) ((vals l).map (·.1))
    let nans (cols : Bool) : Nat := ((List.range c.lanes).map fun l => (lane cols l).nans).sum
    let rows (r : Regs) : Regs := putRun (putRun r n c.lanes n1 fun l => if l < c.lanes then (lane false l).codes else 0)
      (n + n1) c.lanes n2 fun l => if l < c.lanes then (lane false l).scales else 0
    (n.val + n1 + n2 ≤ 64 → apart (runRegs n (n1 + n2)) → useRegs s env.seq (runRegs n (n1 + n2) ++ src) = .ok ⟨⟩ → ∃ fl : FlagSet,
      exec (.drainq g (.v n) va) s = retires env (withRegs s1 (commit c fl { Counts.zero with nanenc := nans false }
        { rows r with dphase := (advancePhase k (rows r)).dphase })) ∧
      phaseOf (advancePhase k r) k = (phaseOf r k + 1) % 32) ∧
    (n.val + n1 + n2 + n3 + n4 ≤ 64 → apart (runRegs n (n1 + n2 + n3 + n4)) →
      useRegs s env.seq (runRegs n (n1 + n2 + n3 + n4) ++ src) = .ok ⟨⟩ → ∃ fl : FlagSet,
      exec (.drainrc g (.v n) va) s = retires env (withRegs s1 (commit c fl { Counts.zero with nanenc := nans false + nans true } (advancePhase k
        (putRun (putRun (rows r) (n + n1 + n2) c.lanes n3 fun l => if l < c.lanes then (lane true l).codes else 0)
          (n + n1 + n2 + n3) c.lanes n4 fun l => if l < c.lanes then (lane true l).scales else 0)))))) ∧ (
  ∀ (c : VCtx) (t : Tile) (r : Regs) (kcm1 k l i : Nat) (row col : SideRecord) (a b p : Int) (x : Rat),
    row = sideRecord t r k l (i / t.tc) kcm1 → col = sideRecord t r k l (t.tr + i % t.tc) kcm1 →
    a = zeroPoint t.f row.ze → b = zeroPoint t.f col.ze →
    p = oldTile r k t l i - b * row.sum - a * col.sum + (row.kcm1 + 1) * a * b →
    let sa := scaleFactor t.f row.sc row.ze
    let sb := scaleFactor t.f col.sc col.ze
    ((sa.isNan = true ∨ sb.isNan = true) → (tileValue t r kcm1 k l i).1 = .nan false) ∧
    ((∃ s n d, sa = .fin s n d) → (∃ s n d, sb = .fin s n d) → x = (max (-2 ^ 31) (min (2 ^ 31 - 1) p) : Int) * ratOf sa * ratOf sb →
      (∃ s n d, (tileValue t r kcm1 k l i).1 = .fin s n d) ∧ ratOf (tileValue t r kcm1 k l i).1 = x ∧
      (tileValue t r kcm1 k l i).2 = (if -2 ^ 31 ≤ p ∧ p < 2 ^ 31 then 0 else 4) ∧
      (slotRnd c.slot = 0 →
        (∀ (b m : Nat) (emin emax : Int), (c.et, b, m, emin, emax) ∈ floatTypes →
          nearest c.et m emin ((2 - (2 : Rat) ^ (-(m : Int))) * (2 : Rat) ^ emax) x (drainOne c t r kcm1 k l i)) ∧
        (∀ lo hi : Int, (c.et, lo, hi) ∈ intRanges → let z := (decodeVal c.et (drainOne c t r kcm1 k l i).1).signed
          let fl := (drainOne c t r kcm1 k l i).2
          ((lo : Rat) ≤ x → x ≤ hi → 2 * |x - z| ≤ 1 ∧ (2 * |x - z| = 1 → z % 2 = 0) ∧ fl.getLsbD 0 = decide (x ≠ z)) ∧
          ((hi : Rat) + 1 ≤ x → z = hi ∧ fl.getLsbD 4 = true) ∧ (x ≤ (lo : Rat) - 1 → z = lo ∧ fl.getLsbD 4 = true))))) ∧ (
  ∀ (acc : Nat) (f0 f1 : FlagSet) (v : Val), acc < 2 ^ 32 → (∃ s n d, decodeVal 0 acc = .fin s n d) → (∃ s n d, v = .fin s n d ∧ d ≠ 0) →
    nearest 0 23 (-126) ((2 - (2 : Rat) ^ (-23 : Int)) * (2 : Rat) ^ (127 : Int)) (ratOf (decodeVal 0 acc) + ratOf v)
      ((foldOne (.rnd 0) (acc, 0) (v, 0)).1, (foldOne (.rnd 0) (acc, 0) (v, 0)).2) ∧
    (foldOne (.rnd 0) (acc, f0) (v, f1)).2 = f0 ||| f1 ||| (foldOne (.rnd 0) (acc, 0) (v, 0)).2) ∧ (
  ∀ (et : Nat) (vs : List Val) (amax : Rat), (∀ v ∈ vs, v.den ≠ 0) → (∀ v ∈ vs, (∃ s n d, v = .fin s n d) → |ratOf v| ≤ amax) →
    ((∃ v ∈ vs, (∃ s n d, v = .fin s n d) ∧ |ratOf v| = amax) ∨ (amax = 0 ∧ ∀ v ∈ vs, ¬∃ s n d, v = .fin s n d)) →
    let g := groupScale et vs
    let scale : Rat := (g.num : Rat) / g.den
    (∀ (m : Nat) (emin emax : Int) (most : Rat), (et, m, emin, emax, most) ∈ quantTypes →
      (amax = 0 → g.code = 127 ∧ scale = 1) ∧
      (∀ e : Int, (2 : Rat) ^ e ≤ amax → amax < (2 : Rat) ^ (e + 1) →
        scale = (2 : Rat) ^ (max (-127) (min 127 (e - emax))) ∧ (g.code : Int) = max (-127) (min 127 (e - emax)) + 127) ∧
      ∀ (s : Bool) (n d : Nat), d ≠ 0 → let q := ratOf (.fin s n d) / scale
        let z := groupCode et (.rnd 0) g (.fin s n d)
        nearest et m emin most q z ∧ (most < |q| → ratOf (decodeVal et z.1) = (if q < 0 then -most else most) ∧ z.2 = 1)) ∧
    (et ∈ [16, 18] → (amax = 0 → g.code = 0x3C00 ∧ scale = 1) ∧ scale = ratOf (decodeVal 1 g.code) ∧
      ∀ qmax : Nat, qmax = (if et = 16 then 127 else 7) →
        ((2 : Rat) ^ (-24 : Int) ≤ amax / qmax → amax / qmax ≤ 65504 → ∃ fl, nearest 1 10 (-14) 65504 (amax / qmax) (g.code, fl) ∧ g.flags = 0) ∧
        (65536 ≤ amax / qmax → scale = 65504 ∧ g.flags = 4) ∧
        (0 < amax / qmax → amax / qmax < (2 : Rat) ^ (-25 : Int) → scale = (2 : Rat) ^ (-24 : Int) ∧ g.flags = 4) ∧
        ∀ (s : Bool) (n d : Nat), d ≠ 0 → let q := ratOf (.fin s n d) / scale
          let z := groupCode et (.rnd 0) g (.fin s n d)
          let i := (decodeVal et z.1).signed
          (|q| ≤ qmax → 2 * |q - i| ≤ 1 ∧ (2 * |q - i| = 1 → i % 2 = 0) ∧ z.2 = (if q = i then 0 else 1)) ∧
          ((qmax : Rat) < |q| → i = (if q < 0 then -(qmax : Int) else qmax) ∧ z.2 = 1)) ∧
    ((∃ v ∈ vs, v.isNan = true) → et ∈ [22, 23, 24] → ∀ rnd phase, (quantise et rnd phase vs).scale = 0xFF)) ∧ (
  ∀ (t : Tile) (et rnd phase : Nat) (vs : List Val) (ρ κ w b : Nat), et ∈ [16, 18, 20, 21, 22, 23, 24] → ρ < t.tr → κ < t.tc →
    w = (if et ∈ [16, 18] then 16 else 8) → b = (etypeBits et).getD 8 →
    let along := quantise et rnd phase ((List.range (min 32 (t.tc - 32 * (κ / 32)))).map fun i => vs.getD (ρ * t.tc + 32 * (κ / 32) + i) .zero)
    let down := quantise et rnd phase ((List.range (min 32 (t.tr - 32 * (ρ / 32)))).map fun i => vs.getD ((32 * (ρ / 32) + i) * t.tc + κ) .zero)
    let rows := quantiseLane t false et rnd phase vs
    let cols := quantiseLane t true et rnd phase vs
    bitsOf rows.codes (b * (ρ * t.tc + κ)) b = (along.codes.getD (κ % 32) (0, 0)).1 ∧
      bitsOf rows.scales (w * (ρ * ceilDiv t.tc 32 + κ / 32)) w = along.scale ∧
      bitsOf cols.codes (b * (κ * t.tr + ρ)) b = (down.codes.getD (ρ % 32) (0, 0)).1 ∧
      bitsOf cols.scales (w * (ρ / 32 * t.tc + κ)) w = down.scale)

/-! ## Copies, galleys, barriers, invalidation and moves (R84 to R98, R243 to R255, R260 to R262) -/

/-- CSET writes shadow cn with sa and CGET gives sd the shadow cn; neither checks the value, and no copy that is under way
changes (R84, R245). CLAUNCH and COLL with nothing of the hart outstanding: sd takes the next transfer id at once, se is
pending, a transfer that holds all sixteen shadows is under way, a galley destination is filling, and memory is as it was; a bad
descriptor (of a COLL, by the model's choice, also one with MODE or COMP not 0, log 96) gives the status BADDESC at once and starts nothing; a galley that the context may not use, or whose state refuses
the copy, is the precise fault, with no id taken (R87, R95, R246, R248). CCANCEL of an id that is not pending gives 0, of a copy
1, of a move that copies 0; an id past 16 bits is the illegal-mode trap (R247). That a launch nothing holds back is under way in
the very step is the model's order (log 2). -/
def Obligations.CopyLaunches : Prop := (
  ∀ (so : SOp) (n : Fin 16) (s s1 : State),
    (∀ a, srcOk so = true → readSrc so s = .ok (a, s1) → exec (.cset so (BitVec.ofNat 4 n.val)) s =
      .next (retire (modRegs s1 fun r => { r with c := r.c.set n a }))) ∧
    (dstOk so = true → writeDst so s.me.r.c[n] s = .ok s1 → exec (.cget so (BitVec.ofNat 4 n.val)) s = .next (retire s1)) ∧
    (retire (modRegs s1 fun r => { r with c := r.c.set n 0 })).transfers = s1.transfers) ∧ (
  (∀ (sd : SOp) (n : Fin 24) (g : Fin 8) (s s1 : State) (l : Vector Word 16) (tid : BitVec 16) (gs gd : Option Nat) (x : Transfer),
    calm s → dstOk sd = true → n ≠ 0 → sd ≠ .s n → l = s.me.r.c →
    tid = (if s.me.lastTid = 0xFFFF#16 then 1 else s.me.lastTid + 1) → writeDst sd (tid.setWidth 64) (fillGalley s gd) = .ok s1 →
    ((if cMode_ l = 1 then .ok none else launchGalley s l[0] false) = .ok gs →
      (if cRegs l then .ok none else launchGalley s l[1] true) = .ok gd →
      x = newTransfer s .copy (scalarEnv s g) n l (copySpans s (whoMe s) s.me.core l) gs gd →
      (badCopy s (whoMe s) s.me.gmask s.me.core (lanesOf s.me) l s.me.r.g[g] true = true → ∃ t, exec (.claunch sd (.s n) g) s = .next t ∧
        t.transfers = [] ∧ t.mem = s.mem ∧ t.me.lastTid = tid ∧
        t.me.r = { s1.me.r with
          x := s1.me.r.x.set n (BitVec.ofNat 64 (0x19 + 256 * tid.toNat)), pc := nextPc s.me.r.pc, retired := s.me.r.retired + 1,
          armed := false, stick := (retire s).me.r.stick }) ∧
      (badCopy s (whoMe s) s.me.gmask s.me.core (lanesOf s.me) l s.me.r.g[g] true = false →
        (cRegs l = true → useRegs s s.me.nextSeq (copyRegs l (lanesOf s.me) (transferWidth s x)) = .ok ⟨⟩) →
        ∃ t, exec (.claunch sd (.s n) g) s = .next t ∧ t.transfers = [{ x with
            vregs := if cRegs l then (copyRegs l (lanesOf s.me) (transferWidth s x)).map (·.2) else [] }] ∧ x.latch = l ∧ x.tid = tid ∧ t.mem = s.mem ∧
          t.me.lastTid = tid ∧ pendingX t n = true ∧ (∀ id, gd = some id → gState (galley t s.me.core id) = 2) ∧
          t.me.r = { s1.me.r with
            pc := nextPc s.me.r.pc, retired := s.me.r.retired + 1, armed := false, stick := (retire s).me.r.stick })) ∧
    ((if readsSource l then launchGalley s l[0] false else .ok none) = .ok gs →
      (if writesDest l && !cRegs l then launchGalley s l[1] true else .ok none) = .ok gd →
      x = newTransfer s .coll (scalarEnv s g) n l (collSpans s (whoMe s) s.me.core l) gs gd →
      (badColl s (whoMe s) s.me.core (lanesOf s.me) l = true → ∃ t, exec (.coll sd (.s n) g) s = .next t ∧
        t.transfers = [] ∧ t.mem = s.mem ∧ t.me.lastTid = tid ∧
        t.me.r = { s1.me.r with
          x := s1.me.r.x.set n (BitVec.ofNat 64 (0x19 + 256 * tid.toNat)), pc := nextPc s.me.r.pc, retired := s.me.r.retired + 1,
          armed := false, stick := (retire s).me.r.stick }) ∧
      (badColl s (whoMe s) s.me.core (lanesOf s.me) l = false → ∀ regs : List RegName,
        regs = collRegs l (lanesOf s.me) (collWidth s (whoMe s) s.me.core l) → useRegs s s.me.nextSeq regs = .ok ⟨⟩ →
        ∃ t k, exec (.coll sd (.s n) g) s = .next t ∧
        t.transfers = [{ x with index := k, vregs := regs.map (·.2) }] ∧ x.latch = l ∧ x.tid = tid ∧ t.mem = s.mem ∧ t.me.lastTid = tid ∧
        pendingX t n = true ∧ (∀ id, gd = some id → gState (galley t s.me.core id) = 2) ∧ (∃ c ∈ t.colls, c.comm = ccomm l ∧ c.index = k) ∧
        t.me.r = { s1.me.r with
          pc := nextPc s.me.r.pc, retired := s.me.r.retired + 1, armed := false, stick := (retire s).me.r.stick }))) ∧
  (∀ (sd : SOp) (n : Fin 24) (g : Fin 8) (s : State) (id : Nat), calm s → dstOk sd = true → n ≠ 0 → sd ≠ .s n →
    (s.me.r.c[7]).toNat % 4 ≠ 1 → galleyOf (handleOf s.me.r.c[0]) = some id →
    (galleyUsable s s.me.ctx s.me.core s.me.gmask id = false → ∃ info,
      exec (.claunch sd (.s n) g) s = .next (stopAt s (.trap { code := 8, info := info }) (some s.me.r.g[g]))) ∧
    (galleyUsable s s.me.ctx s.me.core s.me.gmask id = true → gState (galley s s.me.core id) = 1 ∨ gState (galley s s.me.core id) = 2 →
      ∃ info, exec (.claunch sd (.s n) g) s = .next (stopAt s (.trap { code := 0x10, info := info }) (some s.me.r.g[g])))) ∧
  ∀ (sd sa : SOp) (s s1 : State) (a : Word), srcOk sa = true → dstOk sd = true → readSrc sa s = .ok (a, s1) →
    anyParked s = false → anyStuck s isMmau = false →
    (2 ^ 16 ≤ a.toNat → exec (.ccancel sd sa) s = .next (stopAt s (.trap { code := 2 }) none)) ∧
    (a.toNat < 2 ^ 16 → ∀ o, o = (pendingTransfers s s.me.hid).find? (fun t => t.tid.toNat == a.toNat) →
      (∀ s2, o = none → writeDst sd 0 s1 = .ok s2 → exec (.ccancel sd sa) s = .next (retire s2)) ∧
      (∀ t s2, o = some t → t.kind = .copy → writeDst sd 1 s1 = .ok s2 →
        exec (.ccancel sd sa) s = .next (retire (setTransfer s2 { t with cancelled := true }))) ∧
      ∀ t s2, o = some t → t.kind = .move → t.copying = true → writeDst sd 0 s1 = .ok s2 →
        exec (.ccancel sd sa) s = .next (retire s2)))

/-- Galleys: GDECL declares a galley of GMASK that is undeclared, empty, with its word 0, and refuses one by the reasons of R92;
GSTATE makes the transitions that R95 grants while copies are in flight or not, gives sd the descriptor, and is the galley-state
fault otherwise; GFREE makes a galley undeclared with nothing in flight; SYNCINIT writes the word, and SYNCWAIT reads it once
its generation has been reached, else waits; a destination that an operation is still to write stops it first, as a wait or as STRIPSTATE (R87,
R282). A galley that is not the context's is the invalid-handle fault (R92, R95, R98, R249
to R253). -/
def Obligations.GalleyResults : Prop :=
  ∀ (sd sa sb : SOp) (g : Fin 8) (s s1 s2 : State) (a b d : Word) (id : Fin 32),
    srcOk sa = true → srcOk sb = true → dstOk sd = true → readSrc sa s = .ok (a, s1) → readSrc sb s1 = .ok (b, s2) → a.toNat = id.val →
    d = galley s s.me.core id → s.me.gmask.getLsbD id = true → anyParked s = false → anyStuck s isMmau = false →
    ((gState d ≠ 0 ∨ b.toNat / 2 ^ 11 % 2 ^ 11 = 0 ∨ 1280 < b.toNat % 2 ^ 11 + b.toNat / 2 ^ 11 % 2 ^ 11 ∨ 4 ≤ b.toNat / 2 ^ 22 % 8 ∨
        b.toNat / 2 ^ 59 ≠ 0 ∨ b.toNat / 2 ^ 29 % 8 ≠ 0 ∨ badGalley s s.me.core id b = true) →
      ∃ info, exec (.gdecl sa sb) s = .next (stopAt s (.trap { code := 0x11, info := info }) none)) ∧
    (badGalley s s.me.core id b = false → ∃ t, exec (.gdecl sa sb) s = .next t ∧ t.me = (retire s2).me ∧ t.mem = s.mem ∧
      gState (galley t s.me.core id) = 1 ∧ gOwner (galley t s.me.core id) = s.me.ctx % 2 ^ 16 ∧
      gBase (galley t s.me.core id) = gBase b ∧ gSize (galley t s.me.core id) = gSize b ∧
      gKind (galley t s.me.core id) = gKind b ∧ (getCore t s.me.core).sync[id] = 0 ∧
      ∀ j : Fin 32, j ≠ id → galley t s.me.core j = galley s s.me.core j) ∧
    (gState d = 0 ∨ gOwner d ≠ s.me.ctx →
      (b.toNat ≤ 4 → exec (.gstate sd sa sb) s = .next (stopAt s (.trap { code := 8, info := wordOfNat (0xFFF00 + id.val) }) none)) ∧
      exec (.gfree sa) s = .next (stopAt s (.trap { code := 8, info := wordOfNat (0xFFF00 + id.val) }) none) ∧
      exec (.syncinit sa sb) s = .next (stopAt s (.trap { code := 8, info := wordOfNat (0xFFF00 + id.val) }) none)) ∧
    (gState d ≠ 0 → gOwner d = s.me.ctx →
      (∀ s3, s3 = modCore s2 s.me.core (fun c => { c with sync := c.sync.set id b }) →
        exec (.syncinit sa sb) s = .next (retire s3)) ∧
      (∀ w : Word, w = (getCore s s.me.core).sync[id] → b.toNat < 2 ^ 16 →
        ((w.toNat / 2 ^ 48 + 2 ^ 16 - b.toNat) % 2 ^ 16 < 2 ^ 15 → ∀ s3, writeDst sd w s2 = .ok s3 →
          exec (.syncwait sd sa sb g) s = .next (retire s3)) ∧
        (2 ^ 15 ≤ (w.toNat / 2 ^ 48 + 2 ^ 16 - b.toNat) % 2 ^ 16 →
          dstReady sd s2 = .ok ⟨⟩ → exec (.syncwait sd sa sb g) s = .next (stopAt s (.wait (.sync id)) (some s.me.r.g[g]))) ∧
        ∀ e, dstReady sd s2 = .error e → exec (.syncwait sd sa sb g) s = .next (stopAt s e (some s.me.r.g[g]))) ∧
      (4 < b.toNat → exec (.gstate sd sa sb) s = .next (stopAt s (.trap { code := 2 }) none)) ∧
      ((∀ h ∈ s.me :: s.rest, accessTo id h = false) → ∀ into out : Bool, into = galleyBusy s s.me.core id true →
        out = galleyBusy s s.me.core id false →
        ((b = 0 ∨ (b = 1 ∧ (gState d = 1 ∨ (gState d = 2 ∧ into = false) ∨ ((gState d = 3 ∨ gState d = 4) ∧ out = false))) ∨
            (b = 2 ∧ (gState d = 1 ∨ gState d = 2)) ∨ (b = 3 ∧ (gState d = 3 ∨ (gState d = 2 ∧ into = false))) ∨
            (b = 4 ∧ (gState d = 3 ∨ gState d = 4))) →
          ∀ s3 s4, s3 = (if b = 0 then s2 else if b = 1 then emptyGalley s2 s.me.core id else setGState s2 s.me.core id b.toNat) →
            writeDst sd (galley s3 s.me.core id) s3 = .ok s4 → exec (.gstate sd sa sb) s = .next (retire s4) ∧
            gState (galley s4 s.me.core id) = (if b = 0 then gState d else b.toNat) ∧
            gSize (galley s4 s.me.core id) = gSize d ∧ s4.mem = s.mem ∧
            (getCore s4 s.me.core).sync[id].toNat % 2 ^ 24 = (getCore s s.me.core).sync[id].toNat % 2 ^ 24 ∧
            (getCore s4 s.me.core).sync[id].toNat / 2 ^ 48 = (getCore s s.me.core).sync[id].toNat / 2 ^ 48 ∧
            (b = 1 → (getCore s4 s.me.core).sync[id].toNat / 2 ^ 24 % 2 ^ 24 = 0)) ∧
        ((b = 1 ∧ ((gState d = 2 ∧ into = true) ∨ ((gState d = 3 ∨ gState d = 4) ∧ out = true))) ∨
            (b = 2 ∧ (gState d = 3 ∨ gState d = 4)) ∨ (b = 3 ∧ (gState d = 1 ∨ gState d = 4 ∨ (gState d = 2 ∧ into = true))) ∨
            (b = 4 ∧ (gState d = 1 ∨ gState d = 2)) →
          ∃ info, exec (.gstate sd sa sb) s = .next (stopAt s (.trap { code := 0x10, info := info }) none)) ∧
        (into = false → out = false → ∃ t, exec (.gfree sa) s = .next t ∧ galley t s.me.core id = 0 ∧ t.me = (retire s1).me ∧
          t.mem = s.mem ∧ (getCore t s.me.core).scratch = (getCore s s.me.core).scratch) ∧
        (into = true ∨ out = true → ∃ info, exec (.gfree sa) s = .next (stopAt s (.trap { code := 0x10, info := info }) none))))

/-- Group barriers: with nothing of the hart outstanding GARRIVE arrives in the phase of its group, gives sd the phase, and
counts as one operation of its stream; the phase advances once every member has arrived or ended. GWAIT retires once PHASE has
passed the phase that sb names, else it waits. GBAR arrives unless its token says that it has, waits for the phase of its token
and then invalidates it. A hart that is no member, and a group that is empty or past 255, is the precise group fault (R254,
R255). That an operation nothing holds back performs in the very step is the model's order (log 2). -/
def Obligations.BarrierResults : Prop :=
  ∀ (sd sa sb : SOp) (g : Fin 8) (s s1 s2 : State) (a b : Word), srcOk sa = true → srcOk sb = true → dstOk sd = true →
    readSrc sa s = .ok (a, s1) → readSrc sb s1 = .ok (b, s2) →
    (∀ i : Instr, i ∈ [Instr.garrive sd sa g, .gbar sa g, .gwait sa sb g] →
      ((∀ n, findNode s s.me.ctx s.me.node = some n → ∀ e ∈ n.groups, e.1 = a.toNat → s.me.launch ∉ e.2.members) ∨ 256 ≤ a.toNat) →
      exec i s = .next (stopAt s (.trap { code := 0x19 }) (some s.me.r.g[g]))) ∧
    ∀ (n : Node) (e : Nat × Group) (grp : Group), findNode s s.me.ctx s.me.node = some n → a.toNat < 256 →
      n.groups.find? (fun e => e.1 == a.toNat) = some e → grp = e.2 → s.me.launch ∈ grp.members →
      (∀ d, d = (grp.phase.toNat + 2 ^ 16 - b.toNat) % 2 ^ 16 → b.toNat < 2 ^ 16 →
        (1 ≤ d → d ≤ 2 ^ 15 → exec (.gwait sa sb g) s = .next (retire s2)) ∧
        (d = 0 ∨ 2 ^ 15 < d → exec (.gwait sa sb g) s = .next (stopAt s (.wait .phase) (some s.me.r.g[g])))) ∧
      (2 ^ 16 ≤ b.toNat → exec (.gwait sa sb g) s = .next (stopAt s (.trap { code := 2 }) (some s.me.r.g[g]))) ∧
      (calm s → s.me.launch ∉ grp.arrived → ∀ new : Group,
        new = (if ∀ m ∈ grp.members, m = s.me.launch ∨ m ∈ grp.arrived ∨ m ∈ grp.ended then
            { grp with arrived := [], phase := grp.phase + 1 } else { grp with arrived := s.me.launch :: grp.arrived }) →
        (∀ s3, writeDst sd (grp.phase.setWidth 64) s1 = .ok s3 → ∃ t m, exec (.garrive sd sa g) s = .next t ∧
          t.me.r = (retire s3).me.r ∧ t.mem = s.mem ∧ findNode t s.me.ctx s.me.node = some m ∧
          (m.groups.find? fun e => e.1 == a.toNat).map (·.2) = some new ∧
          t.me.perf[slotStream s.me.r.g[g] % 16] = s.me.perf[slotStream s.me.r.g[g] % 16] + 1) ∧
        (((s.me.r.token).getLsbD 24 = false ∨ s.me.r.token.toNat % 256 ≠ a.toNat) → ∃ t m, exec (.gbar sa g) s = .next t ∧ t.mem = s.mem ∧
          findNode t s.me.ctx s.me.node = some m ∧ (m.groups.find? fun e => e.1 == a.toNat).map (·.2) = some new ∧
          if new.phase = grp.phase then t.me.r = { s.me.r with token := wordOfNat (a.toNat + 2 ^ 8 * grp.phase.toNat + 2 ^ 24) } ∧
            t.me.wait = some .phase
          else t.me.r = { (retire s1).me.r with token := 0 })) ∧
      ((s.me.r.token).getLsbD 24 = true → s.me.r.token.toNat % 256 = a.toNat → ∀ d,
        d = (grp.phase.toNat + 2 ^ 16 - s.me.r.token.toNat / 2 ^ 8 % 2 ^ 16) % 2 ^ 16 →
        (1 ≤ d → d ≤ 2 ^ 15 → exec (.gbar sa g) s = .next (retire (modRegs s1 fun r => { r with token := 0 }))) ∧
        (d = 0 ∨ 2 ^ 15 < d → exec (.gbar sa g) s = .next (stopAt s (.wait .phase) (some s.me.r.g[g]))))

/-- ICINV and ORCINV with nothing of the hart outstanding begin an invalidation that their register waits for; a galley handle
completes at once with 0, a range past 2^44 is ADDRFORM (R260, R261). OBJMOVE needs the table right; it gives sd the next
transfer id, and a move that may not begin reports why at once, in the order of R262; else the record's STATE becomes 2 and
NEWBASE the new base, and the move drains (R79, R81, R262). -/
def Obligations.InvalidationAndMove : Prop :=
  ∀ (sd sa sb : SOp) (n : Fin 24) (g : Fin 8) (s s1 s2 : State) (a b : Word), calm s → n ≠ 0 → srcOk sa = true → srcOk sb = true →
    dstOk sd = true → readSrc sa s = .ok (a, s1) → readSrc sb s1 = .ok (b, s2) →
    (2 ^ 44 < a.toNat % 2 ^ 44 + b.toNat → ∃ info,
      exec (.icinv (.s n) sa sb g) s = .next (stopAt s (.trap { code := 6, info := info }) (some s.me.r.g[g]))) ∧
    (a.toNat % 2 ^ 44 + b.toNat ≤ 2 ^ 44 → ∃ t x, exec (.icinv (.s n) sa sb g) s = .next t ∧ t.transfers = [x] ∧ x.kind = .icinv ∧
      x.latch[0] = a ∧ x.latch[1] = b ∧ x.ctx = s.me.ctx ∧ pendingX t n = true ∧ t.mem = s.mem ∧ t.me.r = (retire s2).me.r) ∧
    (galleyOf (handleOf a) ≠ none →
      exec (.orcinv (.s n) sa g) s = .next (retire (modRegs s1 fun r => { r with x := r.x.set n 0 }))) ∧
    (galleyOf (handleOf a) = none → ∃ t x, exec (.orcinv (.s n) sa g) s = .next t ∧ t.transfers = [x] ∧ x.kind = .orcinv ∧
      x.latch[0] = a ∧ x.ctx = s.me.ctx ∧ pendingX t n = true ∧ t.mem = s.mem ∧ t.me.r = (retire s1).me.r) ∧
    ∀ (tid : BitVec 16) (s3 : State), sd ≠ .s n → tid = (if s.me.lastTid = 0xFFFF#16 then 1 else s.me.lastTid + 1) →
      writeDst sd (tid.setWidth 64) s2 = .ok s3 →
      (s.me.rtable = false →
        exec (.objmove sd sa sb (BitVec.ofNat 5 n.val)) s = .next (stopAt s (.trap { code := 5 }) (some s.me.r.g[0]))) ∧
      (s.me.rtable = true →
        (∀ c, moveChecks s a b = .error c → ∃ t, exec (.objmove sd sa sb (BitVec.ofNat 5 n.val)) s = .next t ∧ t.transfers = [] ∧
          t.mem = s.mem ∧ t.me.lastTid = tid ∧ t.me.r = { (retire s3).me.r with
            x := s3.me.r.x.set n (BitVec.ofNat 64 (c + 256 * tid.toNat)) }) ∧
        (∀ r, moveChecks s a b = .ok r → ∃ t x, exec (.objmove sd sa sb (BitVec.ofNat 5 n.val)) s = .next t ∧ t.transfers = [x] ∧
          x.kind = .move ∧ x.draining = true ∧ x.copying = false ∧ x.tid = tid ∧ pendingX t n = true ∧ t.me.r = (retire s3).me.r ∧
          let q : Record := recordAt s (recordAddr s.me.otb (handleOf a))
          t.mem = (putRecord s s.me.ctx s.me.otb (handleOf a)
            (vset (vset q 0 (putField (q.word 0) 39 2 2)) 1 (putField (q.word 1) 0 39 (b.toNat % 2 ^ 39)))).mem) ∧
        (2 ^ 39 ≤ b.toNat → moveChecks s a b = .error 0x19) ∧
        (b.toNat < 2 ^ 39 → galleyOf (handleOf a) ≠ none → moveChecks s a b = .error 0x24))

/-! ## The other agents of the package -/

/-- The copy engine: the next block of a copy between two objects that translates gives each destination element the value of
its source element; a copy that has ended writes its status word into its pending register, counts as performed in its stream and is gone, OK
when every block has performed (R88 to R90, R97). A move drains, copies its image to the new base once no old access is left,
and ends with its record at the new base; an uncorrectable error ends it without effect (R79). Fills: a record that a core looks
up becomes the most recent entry of its ORC, a sub-tile entry that is valid one of its map cache (R74, R77). Collectives: a
participant that may stage gives its share and its READY to its collective; an ABORT, and terms that disagree, decide so while nothing is decided; on
COMMIT a participant writes the destination it has checked, in memory or in v registers, and ends, on ABORT it ends with ABORTED and writes
nothing (R105, R248, R373). A
hart that waits in SETVLW reads the word again as the instruction does (R299), unless a cause or a swap comes first at its boundary. Which of
these steps comes next is the model's
order (logs 1 and 2), and what holds the drain of a move, log 49's. -/
def Obligations.EngineEvents : Prop := (
  ∀ (x : Nat) (s : State) (t : Transfer), findTransfer s x = some t →
    (∀ (k b : Nat) (h h' : Nat) (r r' : Record) (ks : List Nat) (p q : Nat → Place × Nat), t.kind = .copy → blockDue s t k = true →
      t.ahead = [] → preparedBlock t k = none → s.softMem = [] → (∀ j ∈ t.done, j ≤ k) → copySides s t = (.object h r, .object h' r') → cMode_ t.latch = 0 → cComp t.latch = 0 → b = transferWidth s t →
      ks = (List.range (Nat.min (blockElems b) (cCount t.latch - k * blockElems b))).map (k * blockElems b + ·) →
      (∀ e ∈ ks, sourceOf s t (.object h r) b e = .ok (.place (p e).1, (p e).2) ∧
        Side.place s (whoTransfer t) t.core 5 t.latch[1] (destDisp t e) (.object h' r') = .ok (q e)) →
      ∃ u, exec (.copyBlock x k) s = .next u ∧ u.mem = (writePlaces s (ks.map fun e => ((q e).1, readPlace s (p e).1))).mem ∧
        (findTransfer u x).map (·.done) = some (t.done ++ [k]) ∧ u.me = s.me ∧ u.rest = s.rest) ∧
    (∀ c i, t.kind = .copy → copyOutcome s t = some (c, i) → ∃ u, exec (.copyEnd x) s = .next u ∧ findTransfer u x = none ∧
      u.mem = s.mem ∧ ∀ hid h, t.owner = some hid → t.se ≠ 0 → hartOf s hid = some h →
        (hartOf u hid).map (fun g => (g.r.x[t.se], g.r.pc, g.r.q)) = some (BitVec.ofNat 64
          (c + 2 ^ 8 * t.tid.toNat + 2 ^ 24 * Nat.min 15 t.failed.length + 2 ^ 28 * (i % 2 ^ 36)), h.r.pc, h.r.q) ∧
        ∀ k : Fin 16, (hartOf u hid).map (·.perf[k]) = some (if k.val = t.stream then h.perf[k] + 1 else h.perf[k])) ∧
    (t.ended = none → t.failed = [] → t.done.length = blockCount t.latch (transferWidth s t) → copyOutcome s t = some (0, 0)) ∧
    (t.kind = .move → t.copying = false → t.draining = false → transferBlocked s t = false → moveOf s t.ctx (moveHandle t) = none →
      ∃ u, exec (.moveDrainEnd x) s = .next u ∧ (findTransfer u x).map (·.draining) = some true ∧
        let q : Record := recordAt s (recordAddr t.otb (moveHandle t))
        u.mem = (putRecord s t.ctx t.otb (moveHandle t)
          (vset (vset q 0 (putField (q.word 0) 39 2 2)) 1 (putField (q.word 1) 0 39 (t.latch[1].toNat % 2 ^ 39)))).mem) ∧
    (t.kind = .move → t.copying = false → t.draining = true →
      ((∀ h ∈ allHarts s, oldAccess t h = false) → (∀ y ∈ s.transfers, stagedOver t y = false) →
        exec (.moveDrainEnd x) s = .next (setTransfer s { t with copying := true })) ∧
      ((∃ h ∈ allHarts s, oldAccess t h = true) ∨ (∃ y ∈ s.transfers, stagedOver t y = true) → exec (.moveDrainEnd x) s = .next s)) ∧
    (∀ (r : Record) (n a : Nat), t.kind = .move → t.copying = true → memoriesWf s → r = moveRecord s t → n = imageSize r →
      a = recordAddr t.otb (moveHandle t) → s.softMem = [] → (∀ i, i < 64 → guarded s (a + i) = false) →
      (badByte s r = none → moveFree s t = true → holeByte s t = none → newBase t + n ≤ a ∨ a + 64 ≤ newBase t → ∃ u, exec (.moveCopyEnd x) s = .next u ∧ findTransfer u x = none ∧
        (∀ i, i < n → readByte u.mem (newBase t + i) = readByte s.mem (r.base + i)) ∧ (recordAt u a).base = newBase t ∧
        (recordAt u a).state = 0 ∧ field ((recordAt u a).word 1) 39 16 = (field (r.word 1) 39 16 + 1) % 2 ^ 16 ∧
        ∀ d, 2 ≤ d → d < 8 → (recordAt u a).word d = r.word d) ∧
      (∀ i, badByte s r = some i → ∃ u, exec (.moveAbort x 0x17 (elementAt r i)) s = .next u ∧ findTransfer u x = none ∧
        (recordAt u a).base = r.base ∧ (recordAt u a).state = 0)) ∧
    (∀ ctx h, ctx = t.ctx → h = handleOf t.latch[0] → transferBlocked s t = false →
      (t.kind = .icinv → ∃ u, exec (.icinvDone x) s = .next u ∧ findTransfer u x = none ∧ u.mem = s.mem ∧
        ∀ c, ∀ e ∈ (getCore u c).icache, e.ctx = ctx → inRange t.latch[0] t.latch[1] e.pc = false) ∧
      (t.kind = .orcinv → (∀ y ∈ allHarts s, usesHandle ctx h y = false) → (∀ y ∈ s.transfers, holdsHandle ctx h y = false) → ∃ u, exec (.orcinvDone x) s = .next u ∧
        findTransfer u x = none ∧ u.mem = s.mem ∧
        (∀ c, ∀ e ∈ (getCore u c).orc, e.ctx = ctx → h ≠ 0 ∧ e.handle ≠ h) ∧
        ∀ c, ∀ e ∈ (getCore u c).maps, e.ctx = ctx → h ≠ 0 ∧ e.handle ≠ h))) ∧ (
  ∀ s : State,
    (∀ core ctx handle w r, whoOnCore s core ctx = some w → lookupRecord s w handle 0 = .ok r →
      (∃ u e, exec (.orcFill core ctx handle) s = .next u ∧ (getCore u core).orc.head? = some e ∧ e.ctx = ctx ∧ e.handle = handle ∧
        e.words = r ∧ u.mem = s.mem ∧ u.me = s.me) ∧
      ∀ st v, r.state = 1 → st < mapEntries r → v = mapEntry s w handle r st → v.toNat / 2 ^ 32 % 2 ^ 16 = 0 → v.getLsbD 31 = true →
        ∃ u e, exec (.mapEntryFill core ctx handle st) s = .next u ∧ (getCore u core).maps.head? = some e ∧ e.ctx = ctx ∧
          e.handle = handle ∧ e.sub = st ∧ e.entry = v ∧ u.mem = s.mem ∧ u.me = s.me) ∧
    (∀ comm idx rank staged t c l ps, participant s comm idx rank = some t → stageDue s t = true → collOf s t = some c → c.home = true →
      stageShare s t = .ok (l, ps) → s.softMem = [] → ∃ u, exec (.collReady comm idx rank staged) s = .next u ∧
        (findTransfer u t.uid).map (fun y => (y.staged, y.dests)) = some (true, ps) ∧ u.mem = s.mem ∧
        ∃ d ∈ u.colls, d.comm = c.comm ∧ d.index = c.index ∧ (rank, l) ∈ d.shares ∧ rank ∈ d.ready) ∧
    (∀ comm idx rank n m c, commEntry s comm = some (n, m) → rank < n → rankHere s comm rank = false →
      s.colls.find? (fun c => c.comm == comm && c.index == idx) = some c → c.terms ≠ [] → c.home = true → c.decided = none →
      (∃ u, exec (.collAbort comm idx rank) s = .next u ∧ ∃ d ∈ u.colls, d.comm = comm ∧ d.index = idx ∧ d.decided = some false) ∧
      ∀ terms share, participant s comm idx rank = none → rank ∉ c.ready →
        ∃ u, exec (.collReady comm idx rank (terms, share)) s = .next u ∧ ∃ d ∈ u.colls, d.comm = comm ∧ d.index = idx ∧
          (termsAgree c.terms terms = false → d.decided = some false) ∧
          (termsAgree c.terms terms = true → c.barred = false → (rank, share) ∈ d.shares ∧ rank ∈ d.ready)) ∧
    (∀ x t c, findTransfer s x = some t → t.kind = .coll → collOf s t = some c → c.home = true → ∀ (hid : Nat) (h : Hart),
      t.owner = some hid → t.se ≠ 0 → hartOf s hid = some h →
      (c.decided = some false → t.ended = none → ∃ u, exec (.collDecision x 0) s = .next u ∧ findTransfer u x = none ∧ u.mem = s.mem ∧
        (hartOf u hid).map (·.r.x[t.se]) = some (BitVec.ofNat 64 (5 + 2 ^ 8 * t.tid.toNat))) ∧
      (c.decided = some true → commitWaits s t = false →
        let ws := (commitWrites (agreedFmt c) t c).writes
        ∃ u, exec (.collDecision x 0) s = .next u ∧ findTransfer u x = none ∧
          u.mem = (if cRegs t.latch then s else writePlaces s ws).mem ∧
          (∀ first : Fin 64, cRegs t.latch = true → first.val = cFirst t.latch % 64 → (hartOf u hid).map (·.r.v) =
            some (ws.zipIdx.foldl (fun r p => setElem r (.v first) t.lanes (collWidth s (whoTransfer t) t.core t.latch)
              (destDisp t p.2).toNat p.1.2) h.r).v) ∧ (hartOf u hid).map (·.r.x[t.se]) = some (BitVec.ofNat 64 (2 ^ 8 * t.tid.toNat)))) ∧
    ∀ hid w u sd sa sb g, (hartOf s hid).map (·.wait) = some (some .watermark) →
      boundaryDue (focus s hid) (focus s hid).me = false → nextWord (focus s hid) = .ok (w, u) →
      decode w = .ok (.setvlw sd sa sb g) → exec (.watermarkReread hid) s = exec (.setvlw sd sa sb g) u)

/-- The banks of a core: a swap that the unit asked for exchanges them, as SWAPCTX does; a spill or a fill that ends leaves the shadow
bank clean, and where the active bank is free the unit asks for the swap that brings its context back (R294, R316). Traps at a boundary: a fetch that fails, and harts
whose streams wait on each other's queues, unless a cause or a swap comes first (R112, R122, R310). When each happens is the model's order (log 1), and when the unit resumes a context
log 69's. -/
def Obligations.BankEvents : Prop :=
  ∀ (core : Nat) (s : State) (c : Core), c = getCore s core →
    (c.swapAsked ≠ none → c.shadow = .clean → s.softMem = [] → mmaInFlight s core = false → ∃ t, exec (.bankExchange core) s = .next t ∧ (getCore t core).swapAsked = none ∧
      (getCore t core).swaps = c.swaps + 1 ∧ t.mem = s.mem ∧
      ∀ h ∈ s.rest, h.core = core → h.hid ≠ 0 →
        (h.bank = .shadow → ∃ g ∈ t.rest, g.hid = h.hid ∧ g.bank = .active ∧ g.r = h.r) ∧
        (h.bank = .active → ∃ g ∈ t.rest, g.hid = h.hid ∧ g.bank = .shadow)) ∧
    (c.swapAsked = none ∨ c.shadow ≠ .clean → exec (.bankExchange core) s = .next s) ∧
    (c.shadow = .spilling → exec (.spillDone core) s = .next (modCore s core fun c => { c with shadow := .clean })) ∧
    (∀ ctx, c.shadow = .filling → (∃ h ∈ allHarts s, h.core = core ∧ h.ctx = ctx ∧ h.bank = .shadow) →
      ∃ t, exec (.bankFillDone core ctx) s = .next t ∧ (getCore t core).shadow = .clean ∧ t.mem = s.mem ∧ t.rest = s.rest ∧
        ((∀ h ∈ allHarts s, h.core = core → h.bank ≠ .active) → (getCore t core).swapAsked = some none)) ∧
    (c.shadow ≠ .filling → ∀ ctx, exec (.bankFillDone core ctx) s = .next s) ∧
    (∀ e, nextWord s = .error e → exec .fetchFault s = .next (stopAt s e none)) ∧
    ∀ a b f, s.me.live = true → boundaryDue s s.me = false → s.me.wait = some (.queueEmpty a) → s.me.flights.find? (·.parked) = some f →
      f.why = some (.queueFull b) → (6 ≤ a.val ↔ 6 ≤ b.val) → s.me.flights.filter (·.parked) = [f] →
      exec .qdeadlock s = .next (preciseTrap (rollback f s)
        { code := 0x18, info := BitVec.ofNat 64 (2 ^ a.val ||| 2 ^ b.val) } none false false)

/-- The memory control block of a die: retiring a channel starts its migration, holds the request, lets it wait, or refuses the 65th; a top
cut, one step of the sweep and its end; NRP and SEED; an activation, an alert, the end of a back-off window, and the patrol
scrub (R53 to R59). What the entropy source draws and which errors the scrub finds are arguments of the step (log 13); the requests that issue
with a window that ends are log 52's. -/
def Obligations.MemoryBlockEvents : Prop :=
  ∀ (die : Fin 2) (s : State) (m : Mcb), m = s.dies[die].mcb →
    (∀ pch, pch < 768 → pch ∉ m.retired → m.migrating = none → pch ∉ m.heldPch → pch ∉ m.waiting → m.retired.length < 64 →
      (∃ t, exec (.mcbRetirePch die pch) s = .next t ∧
        if m.heldPch = [] ∧ (768 - m.cuts) * 256 ≤ (768 - (m.retired.length + 1)) * 260 then
          t.dies[die].mcb.migrating = some pch ∧ t.dies[die].mcb.bound = 0 ∧ t.dies[die].mcb.rpch = pch
        else t.dies[die].mcb.heldPch = m.heldPch ++ [pch] ∧ t.dies[die].mcb.esc = true ∧ pch ∈ t.dies[die].mcb.halved ∧
          t.dies[die].mcb.migrating = none)) ∧
    (∀ pch q, pch < 768 → pch ∉ m.retired → m.migrating = some q → pch ≠ q → pch ∉ m.heldPch → pch ∉ m.waiting → m.retired.length < 64 →
      ∃ t, exec (.mcbRetirePch die pch) s = .next t ∧ t.dies[die].mcb = { m with waiting := m.waiting ++ [pch] }) ∧
    (∀ pch, pch < 768 → pch ∉ m.retired → m.migrating ≠ some pch → pch ∉ m.heldPch → pch ∉ m.waiting → m.retired.length = 64 →
      ∃ t, exec (.mcbRetirePch die pch) s = .next t ∧ t.dies[die].mcb.esc = true ∧ t.dies[die].mcb.retired = m.retired) ∧
    (m.heldPch ≠ [] → ∃ t, exec (.topcut die) s = .next t ∧ t.dies[die].mcb.cuts = Nat.min 53 (m.cuts + 1)) ∧
    (m.heldPch = [] → exec (.topcut die) s = .next s) ∧
    (∀ pch rest, m.heldPch = pch :: rest → m.migrating = none → (768 - m.cuts) * 256 ≤ (768 - (m.retired.length + 1)) * 260 →
      ∃ t, exec (.migrationStart die) s = .next t ∧ t.dies[die].mcb.migrating = some pch ∧ t.dies[die].mcb.heldPch = rest) ∧
    (∀ pch rest, m.waiting = pch :: rest → m.migrating = none → m.heldPch = [] → m.retired.length < 64 →
      ∃ t, exec (.migrationStart die) s = .next t ∧ t.dies[die].mcb.waiting = rest ∧
        (t.dies[die].mcb.migrating = some pch ∨ t.dies[die].mcb.heldPch = [pch])) ∧
    (∀ pch, m.migrating = some pch →
      (m.bound < (768 - m.cuts) * 2 ^ 20 → (∀ w ∈ m.windows, w.1 ≠ channelOf m m.bound ∧
          w.1 ≠ channelOf { m with bound := m.bound + 1 } m.bound) → s.softMem = [] →
        ∃ t, exec (.migrateUnit die) s = .next t ∧ t.dies[die].mcb = { m with bound := m.bound + 1 } ∧ t.mem = s.mem) ∧
      ((768 - m.cuts) * 2 ^ 20 ≤ m.bound → ∃ t, exec (.migrationEnd die) s = .next t ∧ t.dies[die].mcb.retired = m.retired ++ [pch] ∧
        t.dies[die].mcb.migrating = none)) ∧
    (∀ v : Word, ∃ t, exec (.mcbNrpWrite die v) s = .next t ∧ t.dies[die].mcb.nrp = BitVec.ofNat 64 (v.toNat % 2 ^ 17) ∧
      t.dies[die].mcb.seed = m.seed) ∧
    (∀ v : Word, ∃ t, exec (.mcbSeedWrite die v) s = .next t ∧ t.dies[die].mcb.seed = BitVec.ofNat 64 (v.toNat % 2 ^ 32) ∧
      t.dies[die].mcb.nrp = m.nrp) ∧
    (∀ (pch : Nat) (draw : BitVec 16), (∀ w ∈ m.windows, w.1 ≠ pch) → m.nrp.getLsbD 16 = false →
      ∃ t, exec (.activate die pch draw) s = .next t ∧ t.dies[die].mcb = { m with
        refreshes := if draw.toNat < Nat.max 16 (m.nrp.toNat % 2 ^ 16) then m.refreshes + 1 else m.refreshes }) ∧
    (∀ pch : Nat, ∃ t, exec (.activationAlert die pch) s = .next t ∧ t.dies[die].mcb.alerts = m.alerts + 1 ∧
      (∃ w ∈ t.dies[die].mcb.windows, w.1 = pch) ∧ t.mem = s.mem) ∧
    (∀ (pch left : Nat) (stamps : List Nat), m.windows.find? (fun w => w.1 == pch && decide (0 < w.2.1)) = some (pch, left, stamps) →
      (∀ h ∈ allHarts s, h.flights = []) → s.transfers = [] → ∀ others, others = m.windows.filter (fun w => w.1 != pch) →
      ∃ t, exec (.backoffWindowEnd die pch) s = .next t ∧
        t.dies[die].mcb = { m with windows :=
          if left ≤ 1 then others else (pch, left - 1, (s.nextUid :: stamps).take 4) :: others }) ∧
    ∀ u : Nat, m.scrub.toNat % 2 ^ 8 ≠ 0 → u < (768 - m.cuts) * 2 ^ 20 → (∀ w ∈ m.windows, w.1 ≠ channelOf m u) → s.softMem = [] →
      (∀ n, 1 ≤ n → n ≤ 4 → ∃ t, exec (.patrolScrub die u n) s = .next t ∧
        (t.dies[die].mcb.ce.find? fun e => e.1 == channelOf m u).map (·.2) =
          some (((m.ce.find? fun e => e.1 == channelOf m u).map (·.2)).getD 0 + n)) ∧
      (∀ k : Fin 4, ∃ t, exec (.patrolScrub die u (5 + k.val)) s = .next t ∧
        die.val * 0x3000000000 / 64 + 4 * u + k.val ∈ t.badMem ∧ t.mem = s.mem)

/-- Windows and ports of the second tier: a window is written, and refused with BAD for a count of ports that is no power of
two, a port that is not trained, an interleave of 7, an end past 2^42 bytes or an overlap; a link that goes down clears TRAINED
and counts; training sets it, at the rate of its device (R24, R60, R61, R63, R366). Stolier ports: enabling, training, receiving, sending with control flits
first and at most 256 unacknowledged, repair and loss (R367 to R371). The order of the bits of the CRC is log 28's, the fields of a NAK, and which
failed flits are kept, log 30's; what a link does is an argument of the step
(log 14). -/
def Obligations.LinkEvents : Prop :=
  (∀ (n : Fin 16) (v w : Word) (s : State), w = BitVec.ofNat 64 (v.toNat % 2 ^ 40) →
    (w.getLsbD 39 = true → windowRefused s n w = false →
      exec (.cxwWrite n v) s = .next { s with cxw := s.cxw.set n w }) ∧
    (w.getLsbD 39 = true → windowRefused s n w = true → ∃ t, exec (.cxwWrite n v) s = .next t ∧ t.cxw[n].getLsbD 39 = false ∧
      t.cxw[n].getLsbD 40 = true) ∧
    (w.getLsbD 39 = false → ∃ t, exec (.cxwWrite n v) s = .next t ∧ t.cxw[n].toNat % 2 ^ 40 = w.toNat ∧
      t.cxw[n].getLsbD 40 = s.cxw[n].getLsbD 40)) ∧
  (∀ (p : Fin 8) (s : State),
    (s.cxp[p].getLsbD 0 = true → ∀ i ∈ [Instr.cxlLinkDown p, .retrain p], ∃ t, exec i s = .next t ∧ t.cxp[p].getLsbD 0 = false ∧
      t.cxp[p].toNat / 2 ^ 16 % 2 ^ 16 = Nat.min 65535 (s.cxp[p].toNat / 2 ^ 16 % 2 ^ 16 + 1)) ∧
    (s.cxp[p].getLsbD 0 = false → ∀ i ∈ [Instr.cxlLinkDown p, .retrain p], exec i s = .next s) ∧
    ∀ gen most width, (1 ≤ width → width ≤ 16 → (if gen = 0 then 32 else 64) ≤ most →
        ∃ t, exec (.cxlPortTrained p gen most width) s = .next t ∧ t.cxp[p].getLsbD 0 = true ∧
          t.cxp[p].getLsbD 1 = decide (1 ≤ gen) ∧ t.cxp[p].toNat / 2 ^ 10 % 2 ^ 5 = width ∧
          t.cxp[p].toNat / 2 ^ 2 % 2 ^ 8 = if gen = 0 then 32 else if 128 ≤ most then 128 else 64) ∧
      (width = 0 ∨ 16 < width → exec (.cxlPortTrained p gen most width) s = .next s)) ∧
  ∀ (n : Fin 16) (s : State) (p : Port), p = s.ports[n] →
    (p.ctl.getLsbD 0 = false → ∃ t, exec (.stlctlEn n true) s = .next t ∧ t.ports[n].st = 1 ∧ t.ports[n].ctl.getLsbD 0 = true) ∧
    (p.ctl.getLsbD 0 = true → p.st ≠ 0 → ∃ t, exec (.stlctlEn n false) s = .next t ∧ t.ports[n].st = 0 ∧ t.ports[n].width = 0) ∧
    (p.st = 1 → p.replay = none → ∀ partner, ∃ t, exec (.stolierRetrainEnd n true partner) s = .next t ∧ t.ports[n].st = 2 ∧
      t.ports[n].rate = (p.ctl.getLsbD 1 && partner) ∧ t.ports[n].width = p.lanes) ∧
    (p.st ≠ 0 → ∃ t, exec (.stolierLinkLoss n) s = .next t ∧ t.ports[n].st = 0 ∧ t.ports[n].buffer = []) ∧
    (∀ lane, lane < p.width → lane ∉ p.due → ∃ t, exec (.force n lane) s = .next t ∧ t.ports[n] = { p with due := p.due ++ [lane] }) ∧
    (∀ lane rest, p.due = lane :: rest → p.st = 2 → p.replay = none → p.asked = none → p.spare = false → ∃ t, exec (.laneRepair n) s = .next t ∧
      t.ports[n].st = 4 ∧ t.ports[n].spare = true ∧ t.ports[n].width = p.width ∧ t.ports[n].repairs = Nat.min 255 (p.repairs + 1)) ∧
    ∀ flit : BitVec 2048, p.st = 2 →
      (crcOk flit = false → ∃ t, exec (.flitReceive n flit) s = .next t ∧ t.ports[n].crcerr = Nat.min 65535 (p.crcerr + 1) ∧
        t.ports[n].expect = p.expect ∧ exec (.laneRepair n) t = .next t ∧ t.ports[n].out.map flitType = [2]) ∧
      (crcOk flit = true → (flitType flit = 1 ∨ flitType flit = 3) → flitSeq flit = p.expect →
        ∃ t, exec (.flitReceive n flit) s = .next t ∧ t.ports[n].expect = p.expect + 1 ∧ t.ports[n].last = some flit ∧
          ∀ x ∈ t.ports[n].failed, x ∈ p.failed ∧ x.1 ≠ p.expect) ∧
      (crcOk flit = true → (flitType flit = 1 ∨ flitType flit = 3) → flitSeq flit ≠ p.expect →
        ∃ t, exec (.flitReceive n flit) s = .next t ∧ t.ports[n].expect = p.expect ∧ t.ports[n].last = p.last) ∧
      (crcOk flit = true → flitType flit = 2 → flitSeq flit = p.acked + 1 → p.buffer ≠ [] → p.replay = none →
        ∃ t, exec (.flitReceive n flit) s = .next t ∧ t.ports[n].st = 3 ∧ t.ports[n].out = p.buffer ∧ t.ports[n].buffer = p.buffer ∧
          t.ports[n].replays = Nat.min 65535 (p.replays + 1)) ∧
      (∀ c cs, crcOk flit = true → flitType flit = 0 → flitAck flit = p.acked + 1 → p.buffer.length = 256 → p.replay = none → p.due = [] →
        p.control = c :: cs → ∃ t, exec (.flitReceive n flit) s = .next t ∧ t.ports[n].control = cs ∧ t.ports[n].data = p.data ∧
          t.ports[n].out = [makeFlit p.nextSeq (p.expect - 1) 3 c] ∧ t.ports[n].buffer = p.buffer.drop 1 ++ t.ports[n].out ∧
          t.ports[n].nextSeq = p.nextSeq + 1) ∧
      ∀ node x, routeOf s node = some n.val → p.control = [] → p.data = [] → p.due = [] →
        (p.buffer.length < 256 → (sendPayload s node false x).ports[n].buffer = p.buffer ++ [makeFlit p.nextSeq (p.expect - 1) 1 x]) ∧
        (256 ≤ p.buffer.length → (sendPayload s node false x).ports[n].data = [x] ∧
          (sendPayload s node false x).ports[n].buffer = p.buffer)

/-- The imposition unit: a doorbell moves TAIL of its queue; a waiting queue takes a free slot; the next record is read and HEAD
advances; decrements count; a ready conditional node reads its predicate and completes; a ready kernel starts on its cores, or
takes them by pre-emption; a node that has ended completes; the end of a timeslice; the kill of a context (R287 to R294, R319,
R361 to R363). Which of these steps comes next is the model's order (log 1); that a kernel has waited for longer than a timeslice once
two have ended, and which cores it may take, is the model's reading (log 51); that a word of a descriptor known bad reads as zero is log
22's, and that one in registered text stays log 93's. -/
def Obligations.UnitEvents : Prop :=
  ∀ s : State,
    (∀ (v : Word) (q a tail n : Nat) (w0 w1 : Word), q = v.toNat % 2 ^ 12 → tail = v.toNat / 2 ^ 12 % 2 ^ 32 → q < queueCount s →
      a = queueAddr s q → w0 = queueWord s q 0 → w1 = queueWord s q 1 → rangeHeld s a 16 = false → s.softMem = [] → w0.getLsbD 44 = true →
      w0.getLsbD 45 = false → n = w0.toNat / 2 ^ 39 % 2 ^ 5 → 1 ≤ n → n ≤ 16 → w1.toNat % 2 ^ 32 = w1.toNat / 2 ^ 32 →
      tail ≠ w1.toNat % 2 ^ 32 → (tail + 2 ^ 32 - w1.toNat % 2 ^ 32) % 2 ^ 32 ≤ 2 ^ n → findQueue s q = none →
      ∃ t, exec (.iuDoorbell v) s = .next t ∧ t.mem = (writeOpen s (a + 12) 4 tail).mem ∧
        (findQueue t q).map (fun i => (i.work, i.slot)) = some (true, false)) ∧
    (∀ i, s.unit.queues.find? (fun i => i.work && !i.slot) = some i → slotsUsed s < 64 →
      ∃ t, exec (.queueSlotGrant i.queue) s = .next t ∧ ∃ j ∈ t.unit.queues, j.queue = i.queue ∧ j.slot = true ∧ j.word0 = i.word0) ∧
    (∃ t, exec .timesliceEnd s = .next t ∧ t.mem = s.mem ∧ t.unit.nodes.map (·.slices) =
      s.unit.nodes.map (fun n => if n.st = .ready then n.slices + 1 else n.slices) ∧
      ((∀ i ∈ s.unit.queues, i.work = true → i.slot = true) → t.unit.queues = s.unit.queues.map fun i => { i with whole := i.slot })) ∧
    (∀ q i a head rec, findQueue s q = some i → i.slot = true → i.work = true → s.unit.nodes.length < 16384 → a = queueAddr s q →
      head = (queueWord s q 1).toNat % 2 ^ 32 → (rec = Vector.ofFn fun k : Fin 16 =>
        wordOfNat (readPhys s (field i.word0 0 39 * 256 + head % 2 ^ field i.word0 39 5 * 128 + 8 * k.val) 8)) → s.softMem = [] →
      (intakeWaits s i = false → ∃ t r, exec (.recordIntake q) s = .next t ∧
        t = (if rangeBad s (recordBase s i) 128 then takeUnreadable r q head rec (rangeBad s (recordBase s i) 64) else
          takeRecord r q head rec) ∧ r.mem = (writeOpen s (a + 8) 4 (head + 1)).mem) ∧
      (intakeWaits s i = true → exec (.recordIntake q) s = .next s)) ∧
    (∀ ctx id real n, (ctx, id, real) ∈ s.unit.decs → findNode s ctx id = some n →
      (n.st = .credit → ∃ t, exec (.decrement ctx id real) s = .next t ∧
        (findNode t ctx id).map (fun m => (m.counter, m.anyReal, m.st)) = some (n.counter + 1, n.anyReal || real, .credit)) ∧
      (n.st = .waiting → 2 ≤ n.counter → ∃ t, exec (.decrement ctx id real) s = .next t ∧
        (findNode t ctx id).map (fun m => (m.counter, m.anyReal, m.st)) = some (n.counter - 1, n.anyReal || real, .waiting)) ∧
      (n.st = .waiting → n.counter = 1 → nodeKind n.record = 0 → (n.anyReal = true ∨ real = true) → coloMoving s n = false →
        ∃ t, exec (.decrement ctx id real) s = .next t ∧ (findNode t ctx id).map (fun m => (m.counter, m.st)) = some (0, .ready))) ∧
    (∀ ctx id n es taken, findNode s ctx id = some n → n.st = .ready → nodeKind n.record = 3 →
      condWaits s n = false → scalarElements s (whoUnit s ctx) 0 (recWord n.record 4) 4 = .ok es → cleanElements s es →
      taken = decide (readPlaces s (es.map (·.place)) ≠ 0) → ∃ t, exec (.conditionalRead ctx id) s = .next t ∧ findNode t ctx id = none ∧
        t.unit.decs = s.unit.decs ++ (List.range (Nat.min 8 (nodeNsucc n.record))).map fun i =>
          (nodeCtx n.record, nodeSucc n.record i % 16384, decide (i < nodeNtrue n.record) == taken)) ∧
    (∀ ctx id n gs c free, findNode s ctx id = some n → s.nextHid ≠ 0 → n.st = .ready → nodeKind n.record = 0 → kernelWaits s n = false →
      placementChecks s n = .ok gs → c = coresNeeded n.record → free = (allowedCores s n.record).filter (coreFree s) →
      (c ≤ free.length → ∃ t, exec (.kernelPlacement ctx id) s = .next t ∧ (findNode t ctx id).map (·.st) = some .running ∧
        ∀ i, i < nodeHarts n.record → ∃ h ∈ allHarts t, h.hid = s.nextHid + i ∧ h.launch = i ∧ h.ctx = n.ctx ∧ h.node = n.id ∧
          h.live = true ∧ h.r.pc = recWord n.record 4 ∧ h.core = free.getD (i / 2 ^ nodeSplit n.record) 0 ∧ h.bank = .active) ∧
      (free.length < c → 2 ≤ n.slices → c ≤ free.length + ((allowedCores s n.record).filter (preemptible s)).length →
        ∃ t, exec (.preemptCores ctx id) s = .next t ∧ (findNode t ctx id).map (·.st) = some .running)) ∧
    (∀ ctx id n, findNode s ctx id = some n → coloMoving s n = false →
      (n.st = .running → nodeKind n.record = 0 → n.ended = nodeHarts n.record → ∃ t, exec (.nodeComplete ctx id) s = .next t ∧
        findNode t ctx id = none ∧ ∀ h ∈ allHarts t, h.hid ≠ 0 → h.ctx = ctx → h.node ≠ id) ∧
      ∀ c, n.st = .ending c → ∃ t, exec (.nodeComplete ctx id) s = .next t ∧ findNode t ctx id = none) ∧
    ∀ (v : Word) (ctx : Nat), ctx = v.toNat % 2 ^ 16 → v.getLsbD 16 = true → ctx < field s.unit.ctxt 39 16 →
      ∃ t, exec (.iuKill v) s = .next t ∧ (∀ h ∈ allHarts t, h.hid ≠ 0 → h.ctx ≠ ctx) ∧ ∀ n ∈ t.unit.nodes, n.ctx ≠ ctx

/-- The host and the root-of-trust core: an access to a register is 8 bytes wide and aligned, or unsuccessful; a host write
reaches memory that exists and is not guarded, and a read returns it; requests queue; an installation is carried out or refused
with its status, a removal takes away one range; a fatal error stops the package, whose dump completes, and package reset leaves
the reset state with memory and the keys as they were (R323, R346 to R350, R357, R359, R360, R364, R386). What the host does is
an argument of the step (log 14); the cases of an installation that the rules do not rank are log 32's. -/
def Obligations.HostEvents : Prop :=
  ∀ s : State,
    (∀ (off size : Nat) (v : Word), (size ≠ 8 ∨ off % 8 ≠ 0 → exec (.registerWrite off size v) s = .next { s with host := .unsuccessful }) ∧
      (s.boot = 0 →
        exec (.registerWrite 0x08 8 v) s = .next { s with unit := { s.unit with slice := BitVec.ofNat 64 (v.toNat % 2 ^ 16) } }) ∧
      (s.boot ≠ 0 → off % 8 = 0 → off < 0x80000 → exec (.registerWrite off 8 v) s = .next s)) ∧
    (∀ (a : Nat) (bs : List Byte), memoriesWf s → noWindows s = true → (∀ i, i < bs.length → exists_ s (a + i) = true ∧ guarded s (a + i) = false) →
      ∃ t, exec (.hostWrite a bs) s = .next t ∧ (∀ i, i < bs.length → readByte t.mem (a + i) = bs.getD i 0) ∧
        (∀ b, b < a ∨ a + bs.length ≤ b → readByte t.mem b = readByte s.mem b) ∧ t.me = s.me ∧ t.rest = s.rest) ∧
    (∀ a n, a + n ≤ 2 ^ 47 → 1 ≤ n → s.fatal = none → noWindows s = true →
      ((∀ i, i < n → exists_ s (a + i) = true ∧ guarded s (a + i) = false ∧ (a + i) / 64 ∉ s.badMem ∧ (a + i) / 64 ∉ s.softMem) →
        exec (.hostRead a n) s = .next { s with host := .data (readBytes s.mem a n) }) ∧
      ((∃ i, i < n ∧ guarded s (a + i) = true) → ∃ t, exec (.hostRead a n) s = .next t ∧ t.host = .unsuccessful)) ∧
    (s.unit.throttle = true → s.unit.again = true → ∃ t, exec .msixVector0Timer s = .next t ∧ t.unit.fired0 = s.unit.fired0 + 1 ∧
      t.unit.again = false) ∧
    (∀ v : Word, v.getLsbD 39 = true → rtFull s = false →
      exec (.rtReqGo v) s = .next { s with rot := { s.rot with queue := s.rot.queue ++ [v.toNat % 2 ^ 39 * 256] } }) ∧
    (∀ a rest q ps, s.rot.queue = a :: rest → q = requestAt s a → resultPlaces s q = .ok (some ps) →
      (field (reqWord q 1) 48 2 ≠ 1 → ∀ st i, planInstall s q = .error (some (st, i)) → ∃ t, exec .installObject s = .next t ∧
        t.mem = (writePlaces s (spread ps (st + 2 ^ 32 * i))).mem ∧ t.rot.queue = rest ∧ t.rot.ranges = s.rot.ranges) ∧
      (field (reqWord q 1) 48 2 ≠ 1 → planInstall s q = .error none → exec .installObject s = .next s) ∧
      (field (reqWord q 1) 48 2 ≠ 1 → ∀ p, planInstall s q = .ok p → ∃ t g, exec .installObject s = .next t ∧ t.rot.queue = rest ∧
        t.rot.ranges = g :: s.rot.ranges ∧ g.ctx = q.ctx ∧ g.handle = handleOf (reqWord q 2) ∧ g.len = secSize p.obj 1 ∧
        t.rot.digests = s.rot.digests ++ [sha256 p.obj.bytes] ∧ t.unit.fired1 = s.unit.fired1 + 1) ∧
      (field (reqWord q 1) 48 2 = 1 → field (reqWord q 1) 50 14 = 0 → ∀ g l, s.rot.ranges = g :: l → g.ctx = q.ctx →
        g.handle = handleOf (reqWord q 2) → g.lo = offsetOf (reqWord q 2) → g.len = field (reqWord q 1) 0 32 →
        ∃ t, exec .removeObject s = .next t ∧ t.rot.queue = rest ∧ t.rot.ranges = l ∧
          t.mem = (writePlaces s (spread ps 1)).mem)) ∧
    (∀ cause die part, s.fatal = none → exec (.fatalError cause die part) s = .next { s with
      fatal := some { cause := cause, die := die, part := part, dumped := false } }) ∧
    (∀ f d, s.fatal = some f → f.dumped = false → dumpDie s = some d → ∃ t, exec .dumpComplete s = .next t ∧
      t.fatal = some { f with dumped := true } ∧ t.me = s.me) ∧
    ∃ t, exec .packageReset s = .next t ∧ t.mem = s.mem ∧ t.rot.keys = s.rot.keys ∧ t.fatal = none ∧ t.me = State.reset.me ∧
      t.rest = [] ∧ t.cores = [] ∧ t.unit = State.reset.unit ∧ t.dies = State.reset.dies ∧ t.clusters = State.reset.clusters ∧ t.boot = 1

/-- Power, heat and gating: the level of a cluster becomes the least of its limits; the power and thermal limits move by one
step; a temperature is refreshed; the rail moves by its errors; a scrub counts a corrected word and reports an uncorrectable
one; an idle cluster holds, then gates, and a write that disables gating ends its hold or asks for its wake; wakes are served in order and bring the arrays up zeroed; a core that is retired uses
the spare or is withdrawn, and harts move to the lowest vacant core (R10, R296, R322, R376 to R385). Measured power, temperature
and errors are arguments of the step, and the evaluations for which the rail is held are counted as log 13 says; which core is vacant is log
84's. -/
def Obligations.PowerEvents : Prop :=
  (∀ (cl : Fin 20) (s : State) (c : Cluster), c = s.clusters[cl] →
    (∃ t, exec (.levelWindowBoundary cl) s = .next t ∧ t.clusters[cl] = { c with elevel := BitVec.ofNat 5 (Nat.min
      (Nat.max 4 (Nat.min 16 c.level.toNat)) (Nat.min c.thermal (Nat.min (dieAt s (cl.val / 10)).power (dieAt s (cl.val / 10)).thermal))) }) ∧
    (∀ v, ∃ t, exec (.tempRefresh cl v) s = .next t ∧ t.clusters[cl] = { c with temp := v } ∧ t.mem = s.mem) ∧
    (c.pstate = .active → c.gateen = true → clusterIdle s cl = true → ∃ t, exec (.gateHoldEnd cl) s = .next t ∧
      t.clusters[cl] = { c with pstate := .hold }) ∧
    (c.pstate = .hold → ∃ t, exec (.gateHoldEnd cl) s = .next t ∧
      t.clusters[cl] = { c with pstate := if clusterIdle s cl then .gated else .active }) ∧
    (c.pstate = .gated → ∃ t, exec (.wakeRequest cl) s = .next t ∧ t.clusters[cl] = { c with pstate := .waking } ∧
      t.arbiter = s.arbiter ++ [cl.val]) ∧
    (c.pstate = .hold → ∃ t, exec (.wakeRequest cl) s = .next t ∧ t.clusters[cl] = { c with pstate := .active }) ∧
    (∃ t, exec (.gateenWrite cl true) s = .next t ∧ t.clusters[cl] = { c with gateen := true } ∧ t.arbiter = s.arbiter) ∧
    (∃ t, exec (.gateenWrite cl false) s = .next t ∧
      t.clusters[cl] = { c with gateen := false, pstate := (match c.pstate with
        | .hold => .active
        | .gated => .waking
        | p => p) } ∧
      t.arbiter = if c.pstate = .gated then s.arbiter ++ [cl.val] else s.arbiter) ∧
    (∀ rest, s.ramping = none → s.arbiter = cl.val :: rest →
      exec .wakeRampStart s = .next { s with ramping := some cl.val, arbiter := rest }) ∧
    (s.ramping = some cl.val → ∃ t, exec .wakeDone s = .next t ∧ t.ramping = none ∧ t.clusters[cl] = { c with pstate := .active } ∧
      ∀ core, core / 16 = cl.val → (getCore t core).scratch = [] ∧ (getCore t core).galleys = Vector.replicate 32 0)) ∧
  (∀ (die : Fin 2) (s : State) (d : Die), d = s.dies[die] →
    (∀ mw, ∃ t, exec (.powerEval die mw) s = .next t ∧ t.dies[die].power =
      (if d.pcap.toNat * 1000 < mw then Nat.max 4 (d.power - 1) else if mw < d.pcap.toNat * 950 then Nat.min 16 (d.power + 1) else d.power)) ∧
    ((∀ cl ∈ clustersOf die, tempOf s cl < 110 ∧ d.thot.toNat < tempOf s cl) →
      ∃ t, exec (.thermalEval die) s = .next t ∧ t.dies[die].thermal = Nat.max 4 (d.thermal - 1)) ∧
    ((∃ cl ∈ clustersOf die, 110 ≤ tempOf s cl) → s.fatal = none → ∃ t, exec (.thermalEval die) s = .next t ∧ t.fatal ≠ none) ∧
    ((∀ cl ∈ clustersOf die, tempOf s cl < 110 ∧ tempOf s cl + 5 ≤ d.thot.toNat) →
      ∃ t, exec (.thermalEval die) s = .next t ∧ t.dies[die].thermal = Nat.min 16 (d.thermal + 1)) ∧
    ∀ core found n, n = (if core / 160 = die.val ∧ clusterActive s (core / 16) = true then found else 0) →
      ∃ t, exec (.vsramEval die core found) s = .next t ∧ t.dies[die].srErrs = 0 ∧ t.dies[die].srUe = false ∧
      (getCore t core).sramce = (getCore s core).sramce + BitVec.ofNat 64 n ∧
      (d.srUe = true → t.dies[die].vnow = d.vmax ∧ t.dies[die].vheld = 99) ∧
      (d.srUe = false → 0 < d.vheld → t.dies[die].vnow = d.vnow ∧ t.dies[die].vheld = d.vheld - 1) ∧
      (d.srUe = false → d.vheld = 0 → t.dies[die].vnow = BitVec.ofNat 10 (
        if d.ceset.toNat < d.srErrs + n then Nat.min d.vmax.toNat (d.vnow.toNat + 10)
        else if 2 * (d.srErrs + n) < d.ceset.toNat then Nat.max (Nat.min d.vmin.toNat d.vmax.toNat) (d.vnow.toNat - 5)
        else d.vnow.toNat))) ∧
  ∀ (core : Nat) (s : State), core < 320 →
    (clusterActive s (core / 16) = true → ∃ t, exec (.sramScrub core 1 0) s = .next t ∧
      (getCore t core).sramce = (getCore s core).sramce + 1 ∧ t.mem = s.mem) ∧
    (∀ pos, clusterActive s (core / 16) = true → pos < 40960 → ∃ t, exec (.sramScrub core 4 pos) s = .next t ∧
      pos ∈ (getCore t core).badWords ∧ (dieAt t (core / 160)).srUe = true ∧ t.mem = s.mem) ∧
    (clusterActive s (core / 16) = false → ∀ what pos, exec (.sramScrub core what pos) s = .next s) ∧
    (∀ target, (getCore s core).leaving = true → moveWaits s core = false → moveTarget s core = some target →
      galleysBusy s target = false → (clusterActive s (target / 16) = true →
        ∃ t, exec (.hartMigration core) s = .next t ∧ (∀ h ∈ allHarts t, h.hid ≠ 0 → h.core ≠ core) ∧
          (getCore t target).scratch = (getCore s core).scratch ∧ (getCore t target).galleys = (getCore s core).galleys ∧
          (getCore t core).leaving = false ∧ t.mem = s.mem) ∧
      ((clusterAt s (target / 16)).pstate = .gated → ∃ t, exec (.hartMigration core) s = .next t ∧
        (clusterAt t (target / 16)).pstate = .waking ∧ getCore t core = getCore s core ∧ getCore t target = getCore s target)) ∧
    ((getCore s core).present = true → (clusterAt s (core / 16)).spareUsed = false → moveWaits s core = false →
      ∃ t, exec (.coreRetire core) s = .next t ∧ (clusterAt t (core / 16)).spareUsed = true ∧ (getCore t core).present = true) ∧
    ((getCore s core).present = true → (clusterAt s (core / 16)).spareUsed = true →
      ∃ t, exec (.coreRetire core) s = .next t ∧ (getCore t core).present = false ∧ (getCore t core).leaving = coreInUse s core)
end

