-- ==== Sys2Proof/Laws/Cells.lean ====
section
/-! SUPPORT. Memory as a list in canonical form: every operation keeps the form, a write is read back, and it leaves every other
byte alone. -/

namespace Sys2Proof.Machine

/-! ## One byte -/

theorem wfFrom_mono : ∀ (m : Cells) (lo lo' : Nat), lo' ≤ lo → wfFrom lo m = true → wfFrom lo' m = true
  | [], _, _, _, _ => rfl
  | (a, b) :: rest, lo, lo', h, w => by
    simp only [wfFrom, Bool.and_eq_true, decide_eq_true_eq] at w ⊢
    exact ⟨⟨by omega, w.1.2⟩, w.2⟩

theorem readByte_below : ∀ (m : Cells) (lo a : Nat), wfFrom lo m = true → a < lo → readByte m a = unlisted
  | [], _, _, _, _ => rfl
  | (a', b') :: rest, lo, a, w, h => by
    simp only [wfFrom, Bool.and_eq_true, decide_eq_true_eq] at w
    have h1 : a ≠ a' := by omega
    have h2 : a < a' := by omega
    simp [readByte, h1, h2]

/-- A write keeps the canonical form. -/
theorem wfFrom_writeByte : ∀ (m : Cells) (lo a : Nat) (b : Byte), lo ≤ a → wfFrom lo m = true →
    wfFrom lo (writeByte m a b) = true
  | [], lo, a, b, h, _ => by
    by_cases hb : b = unlisted <;> simp [writeByte, hb, wfFrom, h]
  | (a', b') :: rest, lo, a, b, h, w => by
    simp only [wfFrom, Bool.and_eq_true, decide_eq_true_eq] at w
    obtain ⟨⟨w1, w2⟩, w3⟩ := w
    unfold writeByte
    by_cases h1 : a < a'
    · by_cases hb : b = unlisted
      · simp [h1, hb, wfFrom, w1, w2, w3]
      · have : a + 1 ≤ a' := h1
        simp [h1, hb, wfFrom, w2, w3, h, this]
    · by_cases h2 : a = a'
      · subst h2
        by_cases hb : b = unlisted
        · simpa [hb] using wfFrom_mono rest (a + 1) lo (by omega) w3
        · simp [hb, wfFrom, w1, w3]
      · have h3 := wfFrom_writeByte rest (a' + 1) a b (by omega) w3
        simp [h1, h2, wfFrom, w1, w2, h3]

theorem wf_writeByte (m : Cells) (a : Nat) (b : Byte) (w : Memory.wf m = true) : Memory.wf (writeByte m a b) = true :=
  wfFrom_writeByte m 0 a b (Nat.zero_le _) w

/-- A byte that is written is read back. -/
theorem readByte_writeByte_same : ∀ (m : Cells) (lo a : Nat) (b : Byte), wfFrom lo m = true →
    readByte (writeByte m a b) a = b
  | [], _, a, b, _ => by by_cases hb : b = unlisted <;> simp [writeByte, readByte, hb]
  | (a', b') :: rest, lo, a, b, w => by
    simp only [wfFrom, Bool.and_eq_true, decide_eq_true_eq] at w
    unfold writeByte
    by_cases h1 : a < a'
    · by_cases hb : b = unlisted
      · have : a ≠ a' := by omega
        simp [h1, hb, readByte, this]
      · simp [h1, hb, readByte]
    · by_cases h2 : a = a'
      · subst h2
        by_cases hb : b = unlisted
        · simpa [hb] using readByte_below rest (a + 1) a w.2 (by omega)
        · simp [hb, readByte]
      · simp [h1, h2, readByte, readByte_writeByte_same rest (a' + 1) a b w.2]

/-- A write leaves every other byte as it was. -/
theorem readByte_writeByte_other : ∀ (m : Cells) (lo a c : Nat) (b : Byte), wfFrom lo m = true → c ≠ a →
    readByte (writeByte m a b) c = readByte m c
  | [], _, a, c, b, _, h => by by_cases hb : b = unlisted <;> simp [writeByte, readByte, hb, h]
  | (a', b') :: rest, lo, a, c, b, w, h => by
    simp only [wfFrom, Bool.and_eq_true, decide_eq_true_eq] at w
    unfold writeByte
    by_cases h1 : a < a'
    · by_cases hb : b = unlisted
      · simp [h1, hb]
      · by_cases hc : c < a
        · have e1 : c ≠ a' := by omega
          have e2 : c < a' := by omega
          simp [h1, hb, readByte, h, hc, e1, e2]
        · simp [h1, hb, readByte, h, hc]
    · by_cases h2 : a = a'
      · subst h2
        by_cases hb : b = unlisted
        · by_cases hc : c < a
          · simpa [hb, readByte, h, hc] using readByte_below rest (a + 1) c w.2 (by omega)
          · simp [hb, readByte, h, hc]
        · simp [hb, readByte, h]
      · simp only [h1, h2, if_false, readByte]
        by_cases e : c = a'
        · simp [e]
        · by_cases e' : c < a'
          · simp [e, e']
          · simp [e, e', readByte_writeByte_other rest (a' + 1) a c b w.2 h]

/-! ## Many bytes -/

theorem wf_writeBytes : ∀ (bs : List Byte) (m : Cells) (a : Nat), Memory.wf m = true → Memory.wf (writeBytes m a bs) = true
  | [], _, _, w => w
  | b :: bs, m, a, w => wf_writeBytes bs (writeByte m a b) (a + 1) (wf_writeByte m a b w)

/-- Writing bytes leaves every byte outside them as it was. -/
theorem readByte_writeBytes_other : ∀ (bs : List Byte) (m : Cells) (a c : Nat), Memory.wf m = true →
    (c < a ∨ a + bs.length ≤ c) → readByte (writeBytes m a bs) c = readByte m c
  | [], _, _, _, _, _ => rfl
  | b :: bs, m, a, c, w, h => by
    have h' : c < a ∨ a + 1 + bs.length ≤ c := by simp only [List.length_cons] at h; omega
    have e : c ≠ a := by rcases h' with h' | h' <;> omega
    show readByte (writeBytes (writeByte m a b) (a + 1) bs) c = _
    rw [readByte_writeBytes_other bs _ _ _ (wf_writeByte m a b w) (by omega), readByte_writeByte_other m 0 a c b w e]

/-- Bytes that are written are read back. -/
theorem readByte_writeBytes_same : ∀ (bs : List Byte) (m : Cells) (a i : Nat), Memory.wf m = true → (h : i < bs.length) →
    readByte (writeBytes m a bs) (a + i) = bs[i]
  | b :: bs, m, a, 0, w, _ => by
    show readByte (writeBytes (writeByte m a b) (a + 1) bs) a = b
    rw [readByte_writeBytes_other bs _ _ _ (wf_writeByte m a b w) (by omega), readByte_writeByte_same m 0 a b w]
  | b :: bs, m, a, i + 1, w, h => by
    show readByte (writeBytes (writeByte m a b) (a + 1) bs) (a + (i + 1)) = bs[i]'(by simpa using h)
    have := readByte_writeBytes_same bs (writeByte m a b) (a + 1) i (wf_writeByte m a b w) (by simpa using h)
    rwa [Nat.add_right_comm, Nat.add_assoc] at this

theorem bytesOf_length : ∀ (n x : Nat), (bytesOf n x).length = n
  | 0, _ => rfl
  | n + 1, x => by simp [bytesOf, bytesOf_length n]

/-- The number of bytes is what they were made of. -/
theorem ofBytes_bytesOf : ∀ (n x : Nat), ofBytes (bytesOf n x) = x % 256 ^ n
  | 0, x => by simp [bytesOf, ofBytes, Nat.mod_one]
  | n + 1, x => by
    simp only [bytesOf, ofBytes, ofBytes_bytesOf n, BitVec.toNat_ofNat]
    have e : x % 256 ^ (n + 1) = x % 256 + 256 * (x / 256 % 256 ^ n) := by
      rw [Nat.pow_succ, Nat.mul_comm (256 ^ n) 256, Nat.mod_mul]
    rw [e]

theorem wf_writeNat (m : Cells) (a n v : Nat) (w : Memory.wf m = true) : Memory.wf (writeNat m a n v) = true :=
  wf_writeBytes _ m a w

theorem readByte_writeNat_other (m : Cells) (a n v c : Nat) (w : Memory.wf m = true) (h : c < a ∨ a + n ≤ c) :
    readByte (writeNat m a n v) c = readByte m c :=
  readByte_writeBytes_other _ m a c w (by rwa [bytesOf_length])

/-- A number that is written is read back. -/
theorem readNat_writeNat_same (m : Cells) (a n v : Nat) (w : Memory.wf m = true) : readNat (writeNat m a n v) a n = v % 256 ^ n := by
  have e : readBytes (writeNat m a n v) a n = bytesOf n v := by
    apply List.ext_getElem
    · simp [readBytes, bytesOf_length]
    · intro i h1 h2
      have := readByte_writeBytes_same (bytesOf n v) m a i w h2
      simpa [readBytes, writeNat] using this
  rw [readNat, e, ofBytes_bytesOf]

theorem wf_writeBits (m : Cells) (p : Place) (v : Nat) (w : Memory.wf m = true) : Memory.wf (writeBits m p v) = true := by
  unfold writeBits
  cases p.next with
  | none => exact wf_writeNat _ _ _ _ w
  | some a => exact wf_writeNat _ _ _ _ (wf_writeNat _ _ _ _ w)

/-- Writing a place leaves every byte outside it as it was. -/
theorem readByte_writeBits_other (m : Cells) (p : Place) (v c : Nat) (w : Memory.wf m = true) (h : c ∉ placeBytes p) :
    readByte (writeBits m p v) c = readByte m c := by
  unfold writeBits
  unfold placeBytes at h
  cases e : p.next with
  | none =>
    simp only [e, List.mem_map, List.mem_range, not_exists, not_and] at h
    refine readByte_writeNat_other _ _ _ _ _ w ?_
    have := h (c - p.addr)
    omega
  | some a =>
    simp only [e, List.mem_cons, List.not_mem_nil, or_false, not_or] at h
    dsimp only
    rw [readByte_writeNat_other _ _ _ _ _ (wf_writeNat _ _ _ _ w) (by omega), readByte_writeNat_other _ _ _ _ _ w (by omega)]

/-- Memories that read alike are equal. -/
theorem wf_ext : ∀ (m m' : Cells) (lo : Nat), wfFrom lo m = true → wfFrom lo m' = true →
    (∀ a, readByte m a = readByte m' a) → m = m'
  | [], [], _, _, _, _ => rfl
  | [], (a, b) :: r, lo, _, w, h => by
    simp only [wfFrom, Bool.and_eq_true, bne_iff_ne, decide_eq_true_eq] at w
    have := h a
    simp [readByte] at this
    exact absurd this.symm w.1.2
  | (a, b) :: r, [], lo, w, _, h => by
    simp only [wfFrom, Bool.and_eq_true, bne_iff_ne, decide_eq_true_eq] at w
    have := h a
    simp [readByte] at this
    exact absurd this w.1.2
  | (a, b) :: r, (a', b') :: r', lo, w, w', h => by
    simp only [wfFrom, Bool.and_eq_true, bne_iff_ne, decide_eq_true_eq] at w w'
    have ha : a = a' := by
      rcases Nat.lt_trichotomy a a' with g | g | g
      · have := h a; simp [readByte, g, Nat.ne_of_lt g] at this; exact absurd this w.1.2
      · exact g
      · have := h a'; simp [readByte, g, Nat.ne_of_lt g] at this; exact absurd this.symm w'.1.2
    subst ha
    have hb : b = b' := by have := h a; simpa [readByte] using this
    subst hb
    congr 1
    refine wf_ext r r' (a + 1) w.2 w'.2 fun c => ?_
    by_cases g : c ≤ a
    · rw [readByte_below r (a + 1) c w.2 (by omega), readByte_below r' (a + 1) c w'.2 (by omega)]
    · have := h c
      have e1 : c ≠ a := by omega
      have e2 : ¬ c < a := by omega
      simpa [readByte, e1, e2] using this

end Sys2Proof.Machine
end

