-- ==== Sys2Proof/Laws/State.lean ====
section
/-! SUPPORT. What each update of the state leaves of each field, one lemma per field and update. -/

set_option Elab.async false

namespace Sys2Proof.Machine

/-! ## The hart in focus replaced, and its registers replaced -/

theorem withMe_rest (s : State) (m : Hart) : ({ s with me := m } : State).rest = s.rest := rfl
theorem withMe_cores (s : State) (m : Hart) : ({ s with me := m } : State).cores = s.cores := rfl
theorem withMe_mem (s : State) (m : Hart) : ({ s with me := m } : State).mem = s.mem := rfl
theorem withMe_badMem (s : State) (m : Hart) : ({ s with me := m } : State).badMem = s.badMem := rfl
theorem withMe_softMem (s : State) (m : Hart) : ({ s with me := m } : State).softMem = s.softMem := rfl
theorem withMe_boot (s : State) (m : Hart) : ({ s with me := m } : State).boot = s.boot := rfl
theorem withMe_transfers (s : State) (m : Hart) : ({ s with me := m } : State).transfers = s.transfers := rfl
theorem withMe_colls (s : State) (m : Hart) : ({ s with me := m } : State).colls = s.colls := rfl
theorem withMe_unit (s : State) (m : Hart) : ({ s with me := m } : State).unit = s.unit := rfl
theorem withMe_dies (s : State) (m : Hart) : ({ s with me := m } : State).dies = s.dies := rfl
theorem withMe_cxw (s : State) (m : Hart) : ({ s with me := m } : State).cxw = s.cxw := rfl
theorem withMe_cxp (s : State) (m : Hart) : ({ s with me := m } : State).cxp = s.cxp := rfl
theorem withMe_stlNode (s : State) (m : Hart) : ({ s with me := m } : State).stlNode = s.stlNode := rfl
theorem withMe_stlRtab (s : State) (m : Hart) : ({ s with me := m } : State).stlRtab = s.stlRtab := rfl
theorem withMe_ports (s : State) (m : Hart) : ({ s with me := m } : State).ports = s.ports := rfl
theorem withMe_rot (s : State) (m : Hart) : ({ s with me := m } : State).rot = s.rot := rfl
theorem withMe_clusters (s : State) (m : Hart) : ({ s with me := m } : State).clusters = s.clusters := rfl
theorem withMe_arbiter (s : State) (m : Hart) : ({ s with me := m } : State).arbiter = s.arbiter := rfl
theorem withMe_ramping (s : State) (m : Hart) : ({ s with me := m } : State).ramping = s.ramping := rfl
theorem withMe_fatal (s : State) (m : Hart) : ({ s with me := m } : State).fatal = s.fatal := rfl
theorem withMe_host (s : State) (m : Hart) : ({ s with me := m } : State).host = s.host := rfl
theorem withMe_nextUid (s : State) (m : Hart) : ({ s with me := m } : State).nextUid = s.nextUid := rfl
theorem withMe_nextHid (s : State) (m : Hart) : ({ s with me := m } : State).nextHid = s.nextHid := rfl
theorem withMe_drawn (s : State) (m : Hart) : ({ s with me := m } : State).drawn = s.drawn := rfl
theorem withMe_agenda (s : State) (m : Hart) : ({ s with me := m } : State).agenda = s.agenda := rfl

theorem withRegs_hid (h : Hart) (r : Regs) (w : Option WaitReason) : ({ h with r := r, wait := w } : Hart).hid = h.hid := rfl
theorem withRegs_live (h : Hart) (r : Regs) (w : Option WaitReason) : ({ h with r := r, wait := w } : Hart).live = h.live := rfl
theorem withRegs_core (h : Hart) (r : Regs) (w : Option WaitReason) : ({ h with r := r, wait := w } : Hart).core = h.core := rfl
theorem withRegs_idx (h : Hart) (r : Regs) (w : Option WaitReason) : ({ h with r := r, wait := w } : Hart).idx = h.idx := rfl
theorem withRegs_nh (h : Hart) (r : Regs) (w : Option WaitReason) : ({ h with r := r, wait := w } : Hart).nh = h.nh := rfl
theorem withRegs_ctx (h : Hart) (r : Regs) (w : Option WaitReason) : ({ h with r := r, wait := w } : Hart).ctx = h.ctx := rfl
theorem withRegs_node (h : Hart) (r : Regs) (w : Option WaitReason) : ({ h with r := r, wait := w } : Hart).node = h.node := rfl
theorem withRegs_launch (h : Hart) (r : Regs) (w : Option WaitReason) : ({ h with r := r, wait := w } : Hart).launch = h.launch := rfl
theorem withRegs_bank (h : Hart) (r : Regs) (w : Option WaitReason) : ({ h with r := r, wait := w } : Hart).bank = h.bank := rfl
theorem withRegs_otb (h : Hart) (r : Regs) (w : Option WaitReason) : ({ h with r := r, wait := w } : Hart).otb = h.otb := rfl
theorem withRegs_gmask (h : Hart) (r : Regs) (w : Option WaitReason) : ({ h with r := r, wait := w } : Hart).gmask = h.gmask := rfl
theorem withRegs_rswap (h : Hart) (r : Regs) (w : Option WaitReason) : ({ h with r := r, wait := w } : Hart).rswap = h.rswap := rfl
theorem withRegs_rtable (h : Hart) (r : Regs) (w : Option WaitReason) : ({ h with r := r, wait := w } : Hart).rtable = h.rtable := rfl
theorem withRegs_trapv (h : Hart) (r : Regs) (w : Option WaitReason) : ({ h with r := r, wait := w } : Hart).trapv = h.trapv := rfl
theorem withRegs_landed (h : Hart) (r : Regs) (w : Option WaitReason) : ({ h with r := r, wait := w } : Hart).landed = h.landed := rfl
theorem withRegs_issued (h : Hart) (r : Regs) (w : Option WaitReason) : ({ h with r := r, wait := w } : Hart).issued = h.issued := rfl
theorem withRegs_perf (h : Hart) (r : Regs) (w : Option WaitReason) : ({ h with r := r, wait := w } : Hart).perf = h.perf := rfl
theorem withRegs_lastTid (h : Hart) (r : Regs) (w : Option WaitReason) : ({ h with r := r, wait := w } : Hart).lastTid = h.lastTid := rfl
theorem withRegs_nextSeq (h : Hart) (r : Regs) (w : Option WaitReason) : ({ h with r := r, wait := w } : Hart).nextSeq = h.nextSeq := rfl
theorem withRegs_flights (h : Hart) (r : Regs) (w : Option WaitReason) : ({ h with r := r, wait := w } : Hart).flights = h.flights := rfl
theorem withRegs_asyncs (h : Hart) (r : Regs) (w : Option WaitReason) : ({ h with r := r, wait := w } : Hart).asyncs = h.asyncs := rfl
theorem withRegs_lent (h : Hart) (r : Regs) (w : Option WaitReason) : ({ h with r := r, wait := w } : Hart).lent = h.lent := rfl
theorem withRegs_late (h : Hart) (r : Regs) (w : Option WaitReason) : ({ h with r := r, wait := w } : Hart).late = h.late := rfl
theorem withRegs_popped (h : Hart) (r : Regs) (w : Option WaitReason) : ({ h with r := r, wait := w } : Hart).popped = h.popped := rfl
theorem withRegs_strong (h : Hart) (r : Regs) (w : Option WaitReason) : ({ h with r := r, wait := w } : Hart).strong = h.strong := rfl
theorem withRegs_pin (h : Hart) (r : Regs) (w : Option WaitReason) : ({ h with r := r, wait := w } : Hart).pin = h.pin := rfl
theorem withRegs_replay (h : Hart) (r : Regs) (w : Option WaitReason) : ({ h with r := r, wait := w } : Hart).replay = h.replay := rfl
theorem withRegs_defer (h : Hart) (r : Regs) (w : Option WaitReason) : ({ h with r := r, wait := w } : Hart).defer = h.defer := rfl
theorem withRegs_firmSeq (h : Hart) (r : Regs) (w : Option WaitReason) : ({ h with r := r, wait := w } : Hart).firmSeq = h.firmSeq := rfl

@[simp] theorem modMe_me (s : State) (f : Hart → Hart) : (modMe s f).me = f s.me := rfl
@[simp] theorem modMe_rest (s : State) (f : Hart → Hart) : (modMe s f).rest = s.rest := rfl
@[simp] theorem modMe_cores (s : State) (f : Hart → Hart) : (modMe s f).cores = s.cores := rfl
@[simp] theorem modMe_mem (s : State) (f : Hart → Hart) : (modMe s f).mem = s.mem := rfl
@[simp] theorem modMe_badMem (s : State) (f : Hart → Hart) : (modMe s f).badMem = s.badMem := rfl
@[simp] theorem modMe_softMem (s : State) (f : Hart → Hart) : (modMe s f).softMem = s.softMem := rfl
@[simp] theorem modMe_boot (s : State) (f : Hart → Hart) : (modMe s f).boot = s.boot := rfl
@[simp] theorem modMe_transfers (s : State) (f : Hart → Hart) : (modMe s f).transfers = s.transfers := rfl
@[simp] theorem modMe_colls (s : State) (f : Hart → Hart) : (modMe s f).colls = s.colls := rfl
@[simp] theorem modMe_unit (s : State) (f : Hart → Hart) : (modMe s f).unit = s.unit := rfl
@[simp] theorem modMe_dies (s : State) (f : Hart → Hart) : (modMe s f).dies = s.dies := rfl
@[simp] theorem modMe_cxw (s : State) (f : Hart → Hart) : (modMe s f).cxw = s.cxw := rfl
@[simp] theorem modMe_cxp (s : State) (f : Hart → Hart) : (modMe s f).cxp = s.cxp := rfl
@[simp] theorem modMe_stlNode (s : State) (f : Hart → Hart) : (modMe s f).stlNode = s.stlNode := rfl
@[simp] theorem modMe_stlRtab (s : State) (f : Hart → Hart) : (modMe s f).stlRtab = s.stlRtab := rfl
@[simp] theorem modMe_ports (s : State) (f : Hart → Hart) : (modMe s f).ports = s.ports := rfl
@[simp] theorem modMe_rot (s : State) (f : Hart → Hart) : (modMe s f).rot = s.rot := rfl
@[simp] theorem modMe_clusters (s : State) (f : Hart → Hart) : (modMe s f).clusters = s.clusters := rfl
@[simp] theorem modMe_arbiter (s : State) (f : Hart → Hart) : (modMe s f).arbiter = s.arbiter := rfl
@[simp] theorem modMe_ramping (s : State) (f : Hart → Hart) : (modMe s f).ramping = s.ramping := rfl
@[simp] theorem modMe_fatal (s : State) (f : Hart → Hart) : (modMe s f).fatal = s.fatal := rfl
@[simp] theorem modMe_host (s : State) (f : Hart → Hart) : (modMe s f).host = s.host := rfl
@[simp] theorem modMe_nextUid (s : State) (f : Hart → Hart) : (modMe s f).nextUid = s.nextUid := rfl
@[simp] theorem modMe_nextHid (s : State) (f : Hart → Hart) : (modMe s f).nextHid = s.nextHid := rfl
@[simp] theorem modMe_drawn (s : State) (f : Hart → Hart) : (modMe s f).drawn = s.drawn := rfl
@[simp] theorem modMe_agenda (s : State) (f : Hart → Hart) : (modMe s f).agenda = s.agenda := rfl

@[simp] theorem modRegs_me (s : State) (f : Regs → Regs) : (modRegs s f).me = { s.me with r := f s.me.r } := rfl
@[simp] theorem modRegs_rest (s : State) (f : Regs → Regs) : (modRegs s f).rest = s.rest := rfl
@[simp] theorem modRegs_cores (s : State) (f : Regs → Regs) : (modRegs s f).cores = s.cores := rfl
@[simp] theorem modRegs_mem (s : State) (f : Regs → Regs) : (modRegs s f).mem = s.mem := rfl
@[simp] theorem modRegs_badMem (s : State) (f : Regs → Regs) : (modRegs s f).badMem = s.badMem := rfl
@[simp] theorem modRegs_softMem (s : State) (f : Regs → Regs) : (modRegs s f).softMem = s.softMem := rfl
@[simp] theorem modRegs_boot (s : State) (f : Regs → Regs) : (modRegs s f).boot = s.boot := rfl
@[simp] theorem modRegs_transfers (s : State) (f : Regs → Regs) : (modRegs s f).transfers = s.transfers := rfl
@[simp] theorem modRegs_colls (s : State) (f : Regs → Regs) : (modRegs s f).colls = s.colls := rfl
@[simp] theorem modRegs_unit (s : State) (f : Regs → Regs) : (modRegs s f).unit = s.unit := rfl
@[simp] theorem modRegs_dies (s : State) (f : Regs → Regs) : (modRegs s f).dies = s.dies := rfl
@[simp] theorem modRegs_cxw (s : State) (f : Regs → Regs) : (modRegs s f).cxw = s.cxw := rfl
@[simp] theorem modRegs_cxp (s : State) (f : Regs → Regs) : (modRegs s f).cxp = s.cxp := rfl
@[simp] theorem modRegs_stlNode (s : State) (f : Regs → Regs) : (modRegs s f).stlNode = s.stlNode := rfl
@[simp] theorem modRegs_stlRtab (s : State) (f : Regs → Regs) : (modRegs s f).stlRtab = s.stlRtab := rfl
@[simp] theorem modRegs_ports (s : State) (f : Regs → Regs) : (modRegs s f).ports = s.ports := rfl
@[simp] theorem modRegs_rot (s : State) (f : Regs → Regs) : (modRegs s f).rot = s.rot := rfl
@[simp] theorem modRegs_clusters (s : State) (f : Regs → Regs) : (modRegs s f).clusters = s.clusters := rfl
@[simp] theorem modRegs_arbiter (s : State) (f : Regs → Regs) : (modRegs s f).arbiter = s.arbiter := rfl
@[simp] theorem modRegs_ramping (s : State) (f : Regs → Regs) : (modRegs s f).ramping = s.ramping := rfl
@[simp] theorem modRegs_fatal (s : State) (f : Regs → Regs) : (modRegs s f).fatal = s.fatal := rfl
@[simp] theorem modRegs_host (s : State) (f : Regs → Regs) : (modRegs s f).host = s.host := rfl
@[simp] theorem modRegs_nextUid (s : State) (f : Regs → Regs) : (modRegs s f).nextUid = s.nextUid := rfl
@[simp] theorem modRegs_nextHid (s : State) (f : Regs → Regs) : (modRegs s f).nextHid = s.nextHid := rfl
@[simp] theorem modRegs_drawn (s : State) (f : Regs → Regs) : (modRegs s f).drawn = s.drawn := rfl
@[simp] theorem modRegs_agenda (s : State) (f : Regs → Regs) : (modRegs s f).agenda = s.agenda := rfl

@[simp] theorem setCore_me (s : State) (n : Nat) (c : Core) : (setCore s n c).me = s.me := rfl
@[simp] theorem setCore_rest (s : State) (n : Nat) (c : Core) : (setCore s n c).rest = s.rest := rfl
@[simp] theorem setCore_mem (s : State) (n : Nat) (c : Core) : (setCore s n c).mem = s.mem := rfl
@[simp] theorem setCore_badMem (s : State) (n : Nat) (c : Core) : (setCore s n c).badMem = s.badMem := rfl
@[simp] theorem setCore_softMem (s : State) (n : Nat) (c : Core) : (setCore s n c).softMem = s.softMem := rfl
@[simp] theorem setCore_boot (s : State) (n : Nat) (c : Core) : (setCore s n c).boot = s.boot := rfl
@[simp] theorem setCore_transfers (s : State) (n : Nat) (c : Core) : (setCore s n c).transfers = s.transfers := rfl
@[simp] theorem setCore_colls (s : State) (n : Nat) (c : Core) : (setCore s n c).colls = s.colls := rfl
@[simp] theorem setCore_unit (s : State) (n : Nat) (c : Core) : (setCore s n c).unit = s.unit := rfl
@[simp] theorem setCore_dies (s : State) (n : Nat) (c : Core) : (setCore s n c).dies = s.dies := rfl
@[simp] theorem setCore_cxw (s : State) (n : Nat) (c : Core) : (setCore s n c).cxw = s.cxw := rfl
@[simp] theorem setCore_cxp (s : State) (n : Nat) (c : Core) : (setCore s n c).cxp = s.cxp := rfl
@[simp] theorem setCore_stlNode (s : State) (n : Nat) (c : Core) : (setCore s n c).stlNode = s.stlNode := rfl
@[simp] theorem setCore_stlRtab (s : State) (n : Nat) (c : Core) : (setCore s n c).stlRtab = s.stlRtab := rfl
@[simp] theorem setCore_ports (s : State) (n : Nat) (c : Core) : (setCore s n c).ports = s.ports := rfl
@[simp] theorem setCore_rot (s : State) (n : Nat) (c : Core) : (setCore s n c).rot = s.rot := rfl
@[simp] theorem setCore_clusters (s : State) (n : Nat) (c : Core) : (setCore s n c).clusters = s.clusters := rfl
@[simp] theorem setCore_arbiter (s : State) (n : Nat) (c : Core) : (setCore s n c).arbiter = s.arbiter := rfl
@[simp] theorem setCore_ramping (s : State) (n : Nat) (c : Core) : (setCore s n c).ramping = s.ramping := rfl
@[simp] theorem setCore_fatal (s : State) (n : Nat) (c : Core) : (setCore s n c).fatal = s.fatal := rfl
@[simp] theorem setCore_host (s : State) (n : Nat) (c : Core) : (setCore s n c).host = s.host := rfl
@[simp] theorem setCore_nextUid (s : State) (n : Nat) (c : Core) : (setCore s n c).nextUid = s.nextUid := rfl
@[simp] theorem setCore_nextHid (s : State) (n : Nat) (c : Core) : (setCore s n c).nextHid = s.nextHid := rfl
@[simp] theorem setCore_drawn (s : State) (n : Nat) (c : Core) : (setCore s n c).drawn = s.drawn := rfl
@[simp] theorem setCore_agenda (s : State) (n : Nat) (c : Core) : (setCore s n c).agenda = s.agenda := rfl

@[simp] theorem modCore_me (s : State) (n : Nat) (f : Core → Core) : (modCore s n f).me = s.me := rfl
@[simp] theorem modCore_rest (s : State) (n : Nat) (f : Core → Core) : (modCore s n f).rest = s.rest := rfl
@[simp] theorem modCore_mem (s : State) (n : Nat) (f : Core → Core) : (modCore s n f).mem = s.mem := rfl
@[simp] theorem modCore_badMem (s : State) (n : Nat) (f : Core → Core) : (modCore s n f).badMem = s.badMem := rfl
@[simp] theorem modCore_softMem (s : State) (n : Nat) (f : Core → Core) : (modCore s n f).softMem = s.softMem := rfl
@[simp] theorem modCore_boot (s : State) (n : Nat) (f : Core → Core) : (modCore s n f).boot = s.boot := rfl
@[simp] theorem modCore_transfers (s : State) (n : Nat) (f : Core → Core) : (modCore s n f).transfers = s.transfers := rfl
@[simp] theorem modCore_colls (s : State) (n : Nat) (f : Core → Core) : (modCore s n f).colls = s.colls := rfl
@[simp] theorem modCore_unit (s : State) (n : Nat) (f : Core → Core) : (modCore s n f).unit = s.unit := rfl
@[simp] theorem modCore_dies (s : State) (n : Nat) (f : Core → Core) : (modCore s n f).dies = s.dies := rfl
@[simp] theorem modCore_cxw (s : State) (n : Nat) (f : Core → Core) : (modCore s n f).cxw = s.cxw := rfl
@[simp] theorem modCore_cxp (s : State) (n : Nat) (f : Core → Core) : (modCore s n f).cxp = s.cxp := rfl
@[simp] theorem modCore_stlNode (s : State) (n : Nat) (f : Core → Core) : (modCore s n f).stlNode = s.stlNode := rfl
@[simp] theorem modCore_stlRtab (s : State) (n : Nat) (f : Core → Core) : (modCore s n f).stlRtab = s.stlRtab := rfl
@[simp] theorem modCore_ports (s : State) (n : Nat) (f : Core → Core) : (modCore s n f).ports = s.ports := rfl
@[simp] theorem modCore_rot (s : State) (n : Nat) (f : Core → Core) : (modCore s n f).rot = s.rot := rfl
@[simp] theorem modCore_clusters (s : State) (n : Nat) (f : Core → Core) : (modCore s n f).clusters = s.clusters := rfl
@[simp] theorem modCore_arbiter (s : State) (n : Nat) (f : Core → Core) : (modCore s n f).arbiter = s.arbiter := rfl
@[simp] theorem modCore_ramping (s : State) (n : Nat) (f : Core → Core) : (modCore s n f).ramping = s.ramping := rfl
@[simp] theorem modCore_fatal (s : State) (n : Nat) (f : Core → Core) : (modCore s n f).fatal = s.fatal := rfl
@[simp] theorem modCore_host (s : State) (n : Nat) (f : Core → Core) : (modCore s n f).host = s.host := rfl
@[simp] theorem modCore_nextUid (s : State) (n : Nat) (f : Core → Core) : (modCore s n f).nextUid = s.nextUid := rfl
@[simp] theorem modCore_nextHid (s : State) (n : Nat) (f : Core → Core) : (modCore s n f).nextHid = s.nextHid := rfl
@[simp] theorem modCore_drawn (s : State) (n : Nat) (f : Core → Core) : (modCore s n f).drawn = s.drawn := rfl
@[simp] theorem modCore_agenda (s : State) (n : Nat) (f : Core → Core) : (modCore s n f).agenda = s.agenda := rfl

@[simp] theorem modHart_cores (s : State) (hid : Nat) (f : Hart → Hart) : (modHart s hid f).cores = s.cores := rfl
@[simp] theorem modHart_mem (s : State) (hid : Nat) (f : Hart → Hart) : (modHart s hid f).mem = s.mem := rfl
@[simp] theorem modHart_badMem (s : State) (hid : Nat) (f : Hart → Hart) : (modHart s hid f).badMem = s.badMem := rfl
@[simp] theorem modHart_softMem (s : State) (hid : Nat) (f : Hart → Hart) : (modHart s hid f).softMem = s.softMem := rfl
@[simp] theorem modHart_boot (s : State) (hid : Nat) (f : Hart → Hart) : (modHart s hid f).boot = s.boot := rfl
@[simp] theorem modHart_transfers (s : State) (hid : Nat) (f : Hart → Hart) : (modHart s hid f).transfers = s.transfers := rfl
@[simp] theorem modHart_colls (s : State) (hid : Nat) (f : Hart → Hart) : (modHart s hid f).colls = s.colls := rfl
@[simp] theorem modHart_unit (s : State) (hid : Nat) (f : Hart → Hart) : (modHart s hid f).unit = s.unit := rfl
@[simp] theorem modHart_dies (s : State) (hid : Nat) (f : Hart → Hart) : (modHart s hid f).dies = s.dies := rfl
@[simp] theorem modHart_cxw (s : State) (hid : Nat) (f : Hart → Hart) : (modHart s hid f).cxw = s.cxw := rfl
@[simp] theorem modHart_cxp (s : State) (hid : Nat) (f : Hart → Hart) : (modHart s hid f).cxp = s.cxp := rfl
@[simp] theorem modHart_stlNode (s : State) (hid : Nat) (f : Hart → Hart) : (modHart s hid f).stlNode = s.stlNode := rfl
@[simp] theorem modHart_stlRtab (s : State) (hid : Nat) (f : Hart → Hart) : (modHart s hid f).stlRtab = s.stlRtab := rfl
@[simp] theorem modHart_ports (s : State) (hid : Nat) (f : Hart → Hart) : (modHart s hid f).ports = s.ports := rfl
@[simp] theorem modHart_rot (s : State) (hid : Nat) (f : Hart → Hart) : (modHart s hid f).rot = s.rot := rfl
@[simp] theorem modHart_clusters (s : State) (hid : Nat) (f : Hart → Hart) : (modHart s hid f).clusters = s.clusters := rfl
@[simp] theorem modHart_arbiter (s : State) (hid : Nat) (f : Hart → Hart) : (modHart s hid f).arbiter = s.arbiter := rfl
@[simp] theorem modHart_ramping (s : State) (hid : Nat) (f : Hart → Hart) : (modHart s hid f).ramping = s.ramping := rfl
@[simp] theorem modHart_fatal (s : State) (hid : Nat) (f : Hart → Hart) : (modHart s hid f).fatal = s.fatal := rfl
@[simp] theorem modHart_host (s : State) (hid : Nat) (f : Hart → Hart) : (modHart s hid f).host = s.host := rfl
@[simp] theorem modHart_nextUid (s : State) (hid : Nat) (f : Hart → Hart) : (modHart s hid f).nextUid = s.nextUid := rfl
@[simp] theorem modHart_nextHid (s : State) (hid : Nat) (f : Hart → Hart) : (modHart s hid f).nextHid = s.nextHid := rfl
@[simp] theorem modHart_drawn (s : State) (hid : Nat) (f : Hart → Hart) : (modHart s hid f).drawn = s.drawn := rfl
@[simp] theorem modHart_agenda (s : State) (hid : Nat) (f : Hart → Hart) : (modHart s hid f).agenda = s.agenda := rfl

@[simp] theorem modHarts_me (s : State) (f : Hart → Hart) : (modHarts s f).me = f s.me := rfl
@[simp] theorem modHarts_rest (s : State) (f : Hart → Hart) : (modHarts s f).rest = s.rest.map f := rfl
@[simp] theorem modHarts_cores (s : State) (f : Hart → Hart) : (modHarts s f).cores = s.cores := rfl
@[simp] theorem modHarts_mem (s : State) (f : Hart → Hart) : (modHarts s f).mem = s.mem := rfl
@[simp] theorem modHarts_badMem (s : State) (f : Hart → Hart) : (modHarts s f).badMem = s.badMem := rfl
@[simp] theorem modHarts_softMem (s : State) (f : Hart → Hart) : (modHarts s f).softMem = s.softMem := rfl
@[simp] theorem modHarts_boot (s : State) (f : Hart → Hart) : (modHarts s f).boot = s.boot := rfl
@[simp] theorem modHarts_transfers (s : State) (f : Hart → Hart) : (modHarts s f).transfers = s.transfers := rfl
@[simp] theorem modHarts_colls (s : State) (f : Hart → Hart) : (modHarts s f).colls = s.colls := rfl
@[simp] theorem modHarts_unit (s : State) (f : Hart → Hart) : (modHarts s f).unit = s.unit := rfl
@[simp] theorem modHarts_dies (s : State) (f : Hart → Hart) : (modHarts s f).dies = s.dies := rfl
@[simp] theorem modHarts_cxw (s : State) (f : Hart → Hart) : (modHarts s f).cxw = s.cxw := rfl
@[simp] theorem modHarts_cxp (s : State) (f : Hart → Hart) : (modHarts s f).cxp = s.cxp := rfl
@[simp] theorem modHarts_stlNode (s : State) (f : Hart → Hart) : (modHarts s f).stlNode = s.stlNode := rfl
@[simp] theorem modHarts_stlRtab (s : State) (f : Hart → Hart) : (modHarts s f).stlRtab = s.stlRtab := rfl
@[simp] theorem modHarts_ports (s : State) (f : Hart → Hart) : (modHarts s f).ports = s.ports := rfl
@[simp] theorem modHarts_rot (s : State) (f : Hart → Hart) : (modHarts s f).rot = s.rot := rfl
@[simp] theorem modHarts_clusters (s : State) (f : Hart → Hart) : (modHarts s f).clusters = s.clusters := rfl
@[simp] theorem modHarts_arbiter (s : State) (f : Hart → Hart) : (modHarts s f).arbiter = s.arbiter := rfl
@[simp] theorem modHarts_ramping (s : State) (f : Hart → Hart) : (modHarts s f).ramping = s.ramping := rfl
@[simp] theorem modHarts_fatal (s : State) (f : Hart → Hart) : (modHarts s f).fatal = s.fatal := rfl
@[simp] theorem modHarts_host (s : State) (f : Hart → Hart) : (modHarts s f).host = s.host := rfl
@[simp] theorem modHarts_nextUid (s : State) (f : Hart → Hart) : (modHarts s f).nextUid = s.nextUid := rfl
@[simp] theorem modHarts_nextHid (s : State) (f : Hart → Hart) : (modHarts s f).nextHid = s.nextHid := rfl
@[simp] theorem modHarts_drawn (s : State) (f : Hart → Hart) : (modHarts s f).drawn = s.drawn := rfl
@[simp] theorem modHarts_agenda (s : State) (f : Hart → Hart) : (modHarts s f).agenda = s.agenda := rfl

@[simp] theorem modUnit_me (s : State) (f : Unit_ → Unit_) : (modUnit s f).me = s.me := rfl
@[simp] theorem modUnit_rest (s : State) (f : Unit_ → Unit_) : (modUnit s f).rest = s.rest := rfl
@[simp] theorem modUnit_cores (s : State) (f : Unit_ → Unit_) : (modUnit s f).cores = s.cores := rfl
@[simp] theorem modUnit_mem (s : State) (f : Unit_ → Unit_) : (modUnit s f).mem = s.mem := rfl
@[simp] theorem modUnit_badMem (s : State) (f : Unit_ → Unit_) : (modUnit s f).badMem = s.badMem := rfl
@[simp] theorem modUnit_softMem (s : State) (f : Unit_ → Unit_) : (modUnit s f).softMem = s.softMem := rfl
@[simp] theorem modUnit_boot (s : State) (f : Unit_ → Unit_) : (modUnit s f).boot = s.boot := rfl
@[simp] theorem modUnit_transfers (s : State) (f : Unit_ → Unit_) : (modUnit s f).transfers = s.transfers := rfl
@[simp] theorem modUnit_colls (s : State) (f : Unit_ → Unit_) : (modUnit s f).colls = s.colls := rfl
@[simp] theorem modUnit_unit (s : State) (f : Unit_ → Unit_) : (modUnit s f).unit = f s.unit := rfl
@[simp] theorem modUnit_dies (s : State) (f : Unit_ → Unit_) : (modUnit s f).dies = s.dies := rfl
@[simp] theorem modUnit_cxw (s : State) (f : Unit_ → Unit_) : (modUnit s f).cxw = s.cxw := rfl
@[simp] theorem modUnit_cxp (s : State) (f : Unit_ → Unit_) : (modUnit s f).cxp = s.cxp := rfl
@[simp] theorem modUnit_stlNode (s : State) (f : Unit_ → Unit_) : (modUnit s f).stlNode = s.stlNode := rfl
@[simp] theorem modUnit_stlRtab (s : State) (f : Unit_ → Unit_) : (modUnit s f).stlRtab = s.stlRtab := rfl
@[simp] theorem modUnit_ports (s : State) (f : Unit_ → Unit_) : (modUnit s f).ports = s.ports := rfl
@[simp] theorem modUnit_rot (s : State) (f : Unit_ → Unit_) : (modUnit s f).rot = s.rot := rfl
@[simp] theorem modUnit_clusters (s : State) (f : Unit_ → Unit_) : (modUnit s f).clusters = s.clusters := rfl
@[simp] theorem modUnit_arbiter (s : State) (f : Unit_ → Unit_) : (modUnit s f).arbiter = s.arbiter := rfl
@[simp] theorem modUnit_ramping (s : State) (f : Unit_ → Unit_) : (modUnit s f).ramping = s.ramping := rfl
@[simp] theorem modUnit_fatal (s : State) (f : Unit_ → Unit_) : (modUnit s f).fatal = s.fatal := rfl
@[simp] theorem modUnit_host (s : State) (f : Unit_ → Unit_) : (modUnit s f).host = s.host := rfl
@[simp] theorem modUnit_nextUid (s : State) (f : Unit_ → Unit_) : (modUnit s f).nextUid = s.nextUid := rfl
@[simp] theorem modUnit_nextHid (s : State) (f : Unit_ → Unit_) : (modUnit s f).nextHid = s.nextHid := rfl
@[simp] theorem modUnit_drawn (s : State) (f : Unit_ → Unit_) : (modUnit s f).drawn = s.drawn := rfl
@[simp] theorem modUnit_agenda (s : State) (f : Unit_ → Unit_) : (modUnit s f).agenda = s.agenda := rfl

@[simp] theorem retire_rest (s : State) : (retire s).rest = s.rest := by
  unfold retire; exact withMe_rest s _
@[simp] theorem retire_cores (s : State) : (retire s).cores = s.cores := by
  unfold retire; exact withMe_cores s _
@[simp] theorem retire_mem (s : State) : (retire s).mem = s.mem := by
  unfold retire; exact withMe_mem s _
@[simp] theorem retire_badMem (s : State) : (retire s).badMem = s.badMem := by
  unfold retire; exact withMe_badMem s _
@[simp] theorem retire_softMem (s : State) : (retire s).softMem = s.softMem := by
  unfold retire; exact withMe_softMem s _
@[simp] theorem retire_boot (s : State) : (retire s).boot = s.boot := by
  unfold retire; exact withMe_boot s _
@[simp] theorem retire_transfers (s : State) : (retire s).transfers = s.transfers := by
  unfold retire; exact withMe_transfers s _
@[simp] theorem retire_colls (s : State) : (retire s).colls = s.colls := by
  unfold retire; exact withMe_colls s _
@[simp] theorem retire_unit (s : State) : (retire s).unit = s.unit := by
  unfold retire; exact withMe_unit s _
@[simp] theorem retire_dies (s : State) : (retire s).dies = s.dies := by
  unfold retire; exact withMe_dies s _
@[simp] theorem retire_cxw (s : State) : (retire s).cxw = s.cxw := by
  unfold retire; exact withMe_cxw s _
@[simp] theorem retire_cxp (s : State) : (retire s).cxp = s.cxp := by
  unfold retire; exact withMe_cxp s _
@[simp] theorem retire_stlNode (s : State) : (retire s).stlNode = s.stlNode := by
  unfold retire; exact withMe_stlNode s _
@[simp] theorem retire_stlRtab (s : State) : (retire s).stlRtab = s.stlRtab := by
  unfold retire; exact withMe_stlRtab s _
@[simp] theorem retire_ports (s : State) : (retire s).ports = s.ports := by
  unfold retire; exact withMe_ports s _
@[simp] theorem retire_rot (s : State) : (retire s).rot = s.rot := by
  unfold retire; exact withMe_rot s _
@[simp] theorem retire_clusters (s : State) : (retire s).clusters = s.clusters := by
  unfold retire; exact withMe_clusters s _
@[simp] theorem retire_arbiter (s : State) : (retire s).arbiter = s.arbiter := by
  unfold retire; exact withMe_arbiter s _
@[simp] theorem retire_ramping (s : State) : (retire s).ramping = s.ramping := by
  unfold retire; exact withMe_ramping s _
@[simp] theorem retire_fatal (s : State) : (retire s).fatal = s.fatal := by
  unfold retire; exact withMe_fatal s _
@[simp] theorem retire_host (s : State) : (retire s).host = s.host := by
  unfold retire; exact withMe_host s _
@[simp] theorem retire_nextUid (s : State) : (retire s).nextUid = s.nextUid := by
  unfold retire; exact withMe_nextUid s _
@[simp] theorem retire_nextHid (s : State) : (retire s).nextHid = s.nextHid := by
  unfold retire; exact withMe_nextHid s _
@[simp] theorem retire_drawn (s : State) : (retire s).drawn = s.drawn := by
  unfold retire; exact withMe_drawn s _
@[simp] theorem retire_agenda (s : State) : (retire s).agenda = s.agenda := by
  unfold retire; exact withMe_agenda s _

@[simp] theorem retireTo_rest (s : State) (pc : Word) : (retireTo s pc).rest = s.rest := by
  unfold retireTo; exact withMe_rest s _
@[simp] theorem retireTo_cores (s : State) (pc : Word) : (retireTo s pc).cores = s.cores := by
  unfold retireTo; exact withMe_cores s _
@[simp] theorem retireTo_mem (s : State) (pc : Word) : (retireTo s pc).mem = s.mem := by
  unfold retireTo; exact withMe_mem s _
@[simp] theorem retireTo_badMem (s : State) (pc : Word) : (retireTo s pc).badMem = s.badMem := by
  unfold retireTo; exact withMe_badMem s _
@[simp] theorem retireTo_softMem (s : State) (pc : Word) : (retireTo s pc).softMem = s.softMem := by
  unfold retireTo; exact withMe_softMem s _
@[simp] theorem retireTo_boot (s : State) (pc : Word) : (retireTo s pc).boot = s.boot := by
  unfold retireTo; exact withMe_boot s _
@[simp] theorem retireTo_transfers (s : State) (pc : Word) : (retireTo s pc).transfers = s.transfers := by
  unfold retireTo; exact withMe_transfers s _
@[simp] theorem retireTo_colls (s : State) (pc : Word) : (retireTo s pc).colls = s.colls := by
  unfold retireTo; exact withMe_colls s _
@[simp] theorem retireTo_unit (s : State) (pc : Word) : (retireTo s pc).unit = s.unit := by
  unfold retireTo; exact withMe_unit s _
@[simp] theorem retireTo_dies (s : State) (pc : Word) : (retireTo s pc).dies = s.dies := by
  unfold retireTo; exact withMe_dies s _
@[simp] theorem retireTo_cxw (s : State) (pc : Word) : (retireTo s pc).cxw = s.cxw := by
  unfold retireTo; exact withMe_cxw s _
@[simp] theorem retireTo_cxp (s : State) (pc : Word) : (retireTo s pc).cxp = s.cxp := by
  unfold retireTo; exact withMe_cxp s _
@[simp] theorem retireTo_stlNode (s : State) (pc : Word) : (retireTo s pc).stlNode = s.stlNode := by
  unfold retireTo; exact withMe_stlNode s _
@[simp] theorem retireTo_stlRtab (s : State) (pc : Word) : (retireTo s pc).stlRtab = s.stlRtab := by
  unfold retireTo; exact withMe_stlRtab s _
@[simp] theorem retireTo_ports (s : State) (pc : Word) : (retireTo s pc).ports = s.ports := by
  unfold retireTo; exact withMe_ports s _
@[simp] theorem retireTo_rot (s : State) (pc : Word) : (retireTo s pc).rot = s.rot := by
  unfold retireTo; exact withMe_rot s _
@[simp] theorem retireTo_clusters (s : State) (pc : Word) : (retireTo s pc).clusters = s.clusters := by
  unfold retireTo; exact withMe_clusters s _
@[simp] theorem retireTo_arbiter (s : State) (pc : Word) : (retireTo s pc).arbiter = s.arbiter := by
  unfold retireTo; exact withMe_arbiter s _
@[simp] theorem retireTo_ramping (s : State) (pc : Word) : (retireTo s pc).ramping = s.ramping := by
  unfold retireTo; exact withMe_ramping s _
@[simp] theorem retireTo_fatal (s : State) (pc : Word) : (retireTo s pc).fatal = s.fatal := by
  unfold retireTo; exact withMe_fatal s _
@[simp] theorem retireTo_host (s : State) (pc : Word) : (retireTo s pc).host = s.host := by
  unfold retireTo; exact withMe_host s _
@[simp] theorem retireTo_nextUid (s : State) (pc : Word) : (retireTo s pc).nextUid = s.nextUid := by
  unfold retireTo; exact withMe_nextUid s _
@[simp] theorem retireTo_nextHid (s : State) (pc : Word) : (retireTo s pc).nextHid = s.nextHid := by
  unfold retireTo; exact withMe_nextHid s _
@[simp] theorem retireTo_drawn (s : State) (pc : Word) : (retireTo s pc).drawn = s.drawn := by
  unfold retireTo; exact withMe_drawn s _
@[simp] theorem retireTo_agenda (s : State) (pc : Word) : (retireTo s pc).agenda = s.agenda := by
  unfold retireTo; exact withMe_agenda s _

@[simp] theorem retire_me_hid (s : State) : (retire s).me.hid = s.me.hid := by
  unfold retire; exact withRegs_hid s.me _ _
@[simp] theorem retireTo_me_hid (s : State) (pc : Word) : (retireTo s pc).me.hid = s.me.hid := by
  unfold retireTo; exact withRegs_hid s.me _ _
@[simp] theorem retire_me_live (s : State) : (retire s).me.live = s.me.live := by
  unfold retire; exact withRegs_live s.me _ _
@[simp] theorem retireTo_me_live (s : State) (pc : Word) : (retireTo s pc).me.live = s.me.live := by
  unfold retireTo; exact withRegs_live s.me _ _
@[simp] theorem retire_me_core (s : State) : (retire s).me.core = s.me.core := by
  unfold retire; exact withRegs_core s.me _ _
@[simp] theorem retireTo_me_core (s : State) (pc : Word) : (retireTo s pc).me.core = s.me.core := by
  unfold retireTo; exact withRegs_core s.me _ _
@[simp] theorem retire_me_idx (s : State) : (retire s).me.idx = s.me.idx := by
  unfold retire; exact withRegs_idx s.me _ _
@[simp] theorem retireTo_me_idx (s : State) (pc : Word) : (retireTo s pc).me.idx = s.me.idx := by
  unfold retireTo; exact withRegs_idx s.me _ _
@[simp] theorem retire_me_nh (s : State) : (retire s).me.nh = s.me.nh := by
  unfold retire; exact withRegs_nh s.me _ _
@[simp] theorem retireTo_me_nh (s : State) (pc : Word) : (retireTo s pc).me.nh = s.me.nh := by
  unfold retireTo; exact withRegs_nh s.me _ _
@[simp] theorem retire_me_ctx (s : State) : (retire s).me.ctx = s.me.ctx := by
  unfold retire; exact withRegs_ctx s.me _ _
@[simp] theorem retireTo_me_ctx (s : State) (pc : Word) : (retireTo s pc).me.ctx = s.me.ctx := by
  unfold retireTo; exact withRegs_ctx s.me _ _
@[simp] theorem retire_me_node (s : State) : (retire s).me.node = s.me.node := by
  unfold retire; exact withRegs_node s.me _ _
@[simp] theorem retireTo_me_node (s : State) (pc : Word) : (retireTo s pc).me.node = s.me.node := by
  unfold retireTo; exact withRegs_node s.me _ _
@[simp] theorem retire_me_launch (s : State) : (retire s).me.launch = s.me.launch := by
  unfold retire; exact withRegs_launch s.me _ _
@[simp] theorem retireTo_me_launch (s : State) (pc : Word) : (retireTo s pc).me.launch = s.me.launch := by
  unfold retireTo; exact withRegs_launch s.me _ _
@[simp] theorem retire_me_bank (s : State) : (retire s).me.bank = s.me.bank := by
  unfold retire; exact withRegs_bank s.me _ _
@[simp] theorem retireTo_me_bank (s : State) (pc : Word) : (retireTo s pc).me.bank = s.me.bank := by
  unfold retireTo; exact withRegs_bank s.me _ _
@[simp] theorem retire_me_otb (s : State) : (retire s).me.otb = s.me.otb := by
  unfold retire; exact withRegs_otb s.me _ _
@[simp] theorem retireTo_me_otb (s : State) (pc : Word) : (retireTo s pc).me.otb = s.me.otb := by
  unfold retireTo; exact withRegs_otb s.me _ _
@[simp] theorem retire_me_gmask (s : State) : (retire s).me.gmask = s.me.gmask := by
  unfold retire; exact withRegs_gmask s.me _ _
@[simp] theorem retireTo_me_gmask (s : State) (pc : Word) : (retireTo s pc).me.gmask = s.me.gmask := by
  unfold retireTo; exact withRegs_gmask s.me _ _
@[simp] theorem retire_me_rswap (s : State) : (retire s).me.rswap = s.me.rswap := by
  unfold retire; exact withRegs_rswap s.me _ _
@[simp] theorem retireTo_me_rswap (s : State) (pc : Word) : (retireTo s pc).me.rswap = s.me.rswap := by
  unfold retireTo; exact withRegs_rswap s.me _ _
@[simp] theorem retire_me_rtable (s : State) : (retire s).me.rtable = s.me.rtable := by
  unfold retire; exact withRegs_rtable s.me _ _
@[simp] theorem retireTo_me_rtable (s : State) (pc : Word) : (retireTo s pc).me.rtable = s.me.rtable := by
  unfold retireTo; exact withRegs_rtable s.me _ _
@[simp] theorem retire_me_trapv (s : State) : (retire s).me.trapv = s.me.trapv := by
  unfold retire; exact withRegs_trapv s.me _ _
@[simp] theorem retireTo_me_trapv (s : State) (pc : Word) : (retireTo s pc).me.trapv = s.me.trapv := by
  unfold retireTo; exact withRegs_trapv s.me _ _
@[simp] theorem retire_me_landed (s : State) : (retire s).me.landed = s.me.landed := by
  unfold retire; exact withRegs_landed s.me _ _
@[simp] theorem retireTo_me_landed (s : State) (pc : Word) : (retireTo s pc).me.landed = s.me.landed := by
  unfold retireTo; exact withRegs_landed s.me _ _
@[simp] theorem retire_me_issued (s : State) : (retire s).me.issued = s.me.issued := by
  unfold retire; exact withRegs_issued s.me _ _
@[simp] theorem retireTo_me_issued (s : State) (pc : Word) : (retireTo s pc).me.issued = s.me.issued := by
  unfold retireTo; exact withRegs_issued s.me _ _
@[simp] theorem retire_me_perf (s : State) : (retire s).me.perf = s.me.perf := by
  unfold retire; exact withRegs_perf s.me _ _
@[simp] theorem retireTo_me_perf (s : State) (pc : Word) : (retireTo s pc).me.perf = s.me.perf := by
  unfold retireTo; exact withRegs_perf s.me _ _
@[simp] theorem retire_me_lastTid (s : State) : (retire s).me.lastTid = s.me.lastTid := by
  unfold retire; exact withRegs_lastTid s.me _ _
@[simp] theorem retireTo_me_lastTid (s : State) (pc : Word) : (retireTo s pc).me.lastTid = s.me.lastTid := by
  unfold retireTo; exact withRegs_lastTid s.me _ _
@[simp] theorem retire_me_nextSeq (s : State) : (retire s).me.nextSeq = s.me.nextSeq := by
  unfold retire; exact withRegs_nextSeq s.me _ _
@[simp] theorem retireTo_me_nextSeq (s : State) (pc : Word) : (retireTo s pc).me.nextSeq = s.me.nextSeq := by
  unfold retireTo; exact withRegs_nextSeq s.me _ _
@[simp] theorem retire_me_flights (s : State) : (retire s).me.flights = s.me.flights := by
  unfold retire; exact withRegs_flights s.me _ _
@[simp] theorem retireTo_me_flights (s : State) (pc : Word) : (retireTo s pc).me.flights = s.me.flights := by
  unfold retireTo; exact withRegs_flights s.me _ _
@[simp] theorem retire_me_asyncs (s : State) : (retire s).me.asyncs = s.me.asyncs := by
  unfold retire; exact withRegs_asyncs s.me _ _
@[simp] theorem retire_me_lent (s : State) : (retire s).me.lent = s.me.lent := by
  unfold retire; exact withRegs_lent s.me _ _
@[simp] theorem retire_me_late (s : State) : (retire s).me.late = s.me.late := by
  unfold retire; exact withRegs_late s.me _ _
@[simp] theorem retire_me_popped (s : State) : (retire s).me.popped = s.me.popped := by
  unfold retire; exact withRegs_popped s.me _ _
@[simp] theorem retire_me_strong (s : State) : (retire s).me.strong = s.me.strong := by
  unfold retire; exact withRegs_strong s.me _ _
@[simp] theorem retireTo_me_asyncs (s : State) (pc : Word) : (retireTo s pc).me.asyncs = s.me.asyncs := by
  unfold retireTo; exact withRegs_asyncs s.me _ _
@[simp] theorem retireTo_me_lent (s : State) (pc : Word) : (retireTo s pc).me.lent = s.me.lent := by
  unfold retireTo; exact withRegs_lent s.me _ _
@[simp] theorem retireTo_me_late (s : State) (pc : Word) : (retireTo s pc).me.late = s.me.late := by
  unfold retireTo; exact withRegs_late s.me _ _
@[simp] theorem retireTo_me_popped (s : State) (pc : Word) : (retireTo s pc).me.popped = s.me.popped := by
  unfold retireTo; exact withRegs_popped s.me _ _
@[simp] theorem retireTo_me_strong (s : State) (pc : Word) : (retireTo s pc).me.strong = s.me.strong := by
  unfold retireTo; exact withRegs_strong s.me _ _
@[simp] theorem retire_me_pin (s : State) : (retire s).me.pin = s.me.pin := by
  unfold retire; exact withRegs_pin s.me _ _
@[simp] theorem retireTo_me_pin (s : State) (pc : Word) : (retireTo s pc).me.pin = s.me.pin := by
  unfold retireTo; exact withRegs_pin s.me _ _
@[simp] theorem retire_me_wait (s : State) : (retire s).me.wait = none := by simp only [retire]
@[simp] theorem retireTo_me_wait (s : State) (pc : Word) : (retireTo s pc).me.wait = none := by simp only [retireTo]
@[simp] theorem retire_me_replay (s : State) : (retire s).me.replay = s.me.replay := by
  unfold retire; exact withRegs_replay s.me _ _
@[simp] theorem retireTo_me_replay (s : State) (pc : Word) : (retireTo s pc).me.replay = s.me.replay := by
  unfold retireTo; exact withRegs_replay s.me _ _
@[simp] theorem retire_me_defer (s : State) : (retire s).me.defer = s.me.defer := by
  unfold retire; exact withRegs_defer s.me _ _
@[simp] theorem retire_me_firmSeq (s : State) : (retire s).me.firmSeq = s.me.firmSeq := by
  unfold retire; exact withRegs_firmSeq s.me _ _
@[simp] theorem retireTo_me_defer (s : State) (pc : Word) : (retireTo s pc).me.defer = s.me.defer := by
  unfold retireTo; exact withRegs_defer s.me _ _
@[simp] theorem retireTo_me_firmSeq (s : State) (pc : Word) : (retireTo s pc).me.firmSeq = s.me.firmSeq := by
  unfold retireTo; exact withRegs_firmSeq s.me _ _

@[simp] theorem retire_r_pc (s : State) : (retire s).me.r.pc = nextPc s.me.r.pc := by
  simp only [retire, countRetired, Bool.false_and, Bool.false_eq_true, if_false]
@[simp] theorem retireTo_r_pc (s : State) (pc : Word) : (retireTo s pc).me.r.pc = pc := by
  simp only [retireTo, countRetired, Bool.false_and, Bool.false_eq_true, if_false]
@[simp] theorem retire_r_x (s : State) : (retire s).me.r.x = s.me.r.x := by
  simp only [retire, countRetired, Bool.false_and, Bool.false_eq_true, if_false]
@[simp] theorem retireTo_r_x (s : State) (pc : Word) : (retireTo s pc).me.r.x = s.me.r.x := by
  simp only [retireTo, countRetired, Bool.false_and, Bool.false_eq_true, if_false]
@[simp] theorem retire_r_v (s : State) : (retire s).me.r.v = s.me.r.v := by
  simp only [retire, countRetired, Bool.false_and, Bool.false_eq_true, if_false]
@[simp] theorem retireTo_r_v (s : State) (pc : Word) : (retireTo s pc).me.r.v = s.me.r.v := by
  simp only [retireTo, countRetired, Bool.false_and, Bool.false_eq_true, if_false]
@[simp] theorem retire_r_w (s : State) : (retire s).me.r.w = s.me.r.w := by
  simp only [retire, countRetired, Bool.false_and, Bool.false_eq_true, if_false]
@[simp] theorem retireTo_r_w (s : State) (pc : Word) : (retireTo s pc).me.r.w = s.me.r.w := by
  simp only [retireTo, countRetired, Bool.false_and, Bool.false_eq_true, if_false]
@[simp] theorem retire_r_z (s : State) : (retire s).me.r.z = s.me.r.z := by
  simp only [retire, countRetired, Bool.false_and, Bool.false_eq_true, if_false]
@[simp] theorem retireTo_r_z (s : State) (pc : Word) : (retireTo s pc).me.r.z = s.me.r.z := by
  simp only [retireTo, countRetired, Bool.false_and, Bool.false_eq_true, if_false]
@[simp] theorem retire_r_m (s : State) : (retire s).me.r.m = s.me.r.m := by
  simp only [retire, countRetired, Bool.false_and, Bool.false_eq_true, if_false]
@[simp] theorem retireTo_r_m (s : State) (pc : Word) : (retireTo s pc).me.r.m = s.me.r.m := by
  simp only [retireTo, countRetired, Bool.false_and, Bool.false_eq_true, if_false]
@[simp] theorem retire_r_g (s : State) : (retire s).me.r.g = s.me.r.g := by
  simp only [retire, countRetired, Bool.false_and, Bool.false_eq_true, if_false]
@[simp] theorem retireTo_r_g (s : State) (pc : Word) : (retireTo s pc).me.r.g = s.me.r.g := by
  simp only [retireTo, countRetired, Bool.false_and, Bool.false_eq_true, if_false]
@[simp] theorem retire_r_fm (s : State) : (retire s).me.r.fm = s.me.r.fm := by
  simp only [retire, countRetired, Bool.false_and, Bool.false_eq_true, if_false]
@[simp] theorem retireTo_r_fm (s : State) (pc : Word) : (retireTo s pc).me.r.fm = s.me.r.fm := by
  simp only [retireTo, countRetired, Bool.false_and, Bool.false_eq_true, if_false]
@[simp] theorem retire_r_c (s : State) : (retire s).me.r.c = s.me.r.c := by
  simp only [retire, countRetired, Bool.false_and, Bool.false_eq_true, if_false]
@[simp] theorem retireTo_r_c (s : State) (pc : Word) : (retireTo s pc).me.r.c = s.me.r.c := by
  simp only [retireTo, countRetired, Bool.false_and, Bool.false_eq_true, if_false]
@[simp] theorem retire_r_q (s : State) : (retire s).me.r.q = s.me.r.q := by
  simp only [retire, countRetired, Bool.false_and, Bool.false_eq_true, if_false]
@[simp] theorem retireTo_r_q (s : State) (pc : Word) : (retireTo s pc).me.r.q = s.me.r.q := by
  simp only [retireTo, countRetired, Bool.false_and, Bool.false_eq_true, if_false]
@[simp] theorem retire_r_vl (s : State) : (retire s).me.r.vl = s.me.r.vl := by
  simp only [retire, countRetired, Bool.false_and, Bool.false_eq_true, if_false]
@[simp] theorem retireTo_r_vl (s : State) (pc : Word) : (retireTo s pc).me.r.vl = s.me.r.vl := by
  simp only [retireTo, countRetired, Bool.false_and, Bool.false_eq_true, if_false]
@[simp] theorem retire_r_vstart (s : State) : (retire s).me.r.vstart = s.me.r.vstart := by
  simp only [retire, countRetired, Bool.false_and, Bool.false_eq_true, if_false]
@[simp] theorem retireTo_r_vstart (s : State) (pc : Word) : (retireTo s pc).me.r.vstart = s.me.r.vstart := by
  simp only [retireTo, countRetired, Bool.false_and, Bool.false_eq_true, if_false]
@[simp] theorem retire_r_prog (s : State) : (retire s).me.r.prog = s.me.r.prog := by
  simp only [retire, countRetired, Bool.false_and, Bool.false_eq_true, if_false]
@[simp] theorem retireTo_r_prog (s : State) (pc : Word) : (retireTo s pc).me.r.prog = s.me.r.prog := by
  simp only [retireTo, countRetired, Bool.false_and, Bool.false_eq_true, if_false]
@[simp] theorem retire_r_rows (s : State) : (retire s).me.r.rows = s.me.r.rows := by
  simp only [retire, countRetired, Bool.false_and, Bool.false_eq_true, if_false]
@[simp] theorem retireTo_r_rows (s : State) (pc : Word) : (retireTo s pc).me.r.rows = s.me.r.rows := by
  simp only [retireTo, countRetired, Bool.false_and, Bool.false_eq_true, if_false]
@[simp] theorem retire_r_pitch (s : State) : (retire s).me.r.pitch = s.me.r.pitch := by
  simp only [retire, countRetired, Bool.false_and, Bool.false_eq_true, if_false]
@[simp] theorem retireTo_r_pitch (s : State) (pc : Word) : (retireTo s pc).me.r.pitch = s.me.r.pitch := by
  simp only [retireTo, countRetired, Bool.false_and, Bool.false_eq_true, if_false]
@[simp] theorem retire_r_wpos (s : State) : (retire s).me.r.wpos = s.me.r.wpos := by
  simp only [retire, countRetired, Bool.false_and, Bool.false_eq_true, if_false]
@[simp] theorem retireTo_r_wpos (s : State) (pc : Word) : (retireTo s pc).me.r.wpos = s.me.r.wpos := by
  simp only [retireTo, countRetired, Bool.false_and, Bool.false_eq_true, if_false]
@[simp] theorem retire_r_fflags (s : State) : (retire s).me.r.fflags = s.me.r.fflags := by
  simp only [retire, countRetired, Bool.false_and, Bool.false_eq_true, if_false]
@[simp] theorem retireTo_r_fflags (s : State) (pc : Word) : (retireTo s pc).me.r.fflags = s.me.r.fflags := by
  simp only [retireTo, countRetired, Bool.false_and, Bool.false_eq_true, if_false]
@[simp] theorem retire_r_dphase (s : State) : (retire s).me.r.dphase = s.me.r.dphase := by
  simp only [retire, countRetired, Bool.false_and, Bool.false_eq_true, if_false]
@[simp] theorem retireTo_r_dphase (s : State) (pc : Word) : (retireTo s pc).me.r.dphase = s.me.r.dphase := by
  simp only [retireTo, countRetired, Bool.false_and, Bool.false_eq_true, if_false]
@[simp] theorem retire_r_token (s : State) : (retire s).me.r.token = s.me.r.token := by
  simp only [retire, countRetired, Bool.false_and, Bool.false_eq_true, if_false]
@[simp] theorem retireTo_r_token (s : State) (pc : Word) : (retireTo s pc).me.r.token = s.me.r.token := by
  simp only [retireTo, countRetired, Bool.false_and, Bool.false_eq_true, if_false]
@[simp] theorem retire_r_stick (s : State) : (retire s).me.r.stick = stickNext s.me.r.stick := by
  simp only [retire, countRetired, Bool.false_and, Bool.false_eq_true, if_false]
@[simp] theorem retireTo_r_stick (s : State) (pc : Word) : (retireTo s pc).me.r.stick = s.me.r.stick := by
  simp only [retireTo, countRetired, Bool.false_and, Bool.false_eq_true, if_false]
@[simp] theorem retire_r_strip (s : State) : (retire s).me.r.strip = s.me.r.strip := by
  simp only [retire, countRetired, Bool.false_and, Bool.false_eq_true, if_false]
@[simp] theorem retireTo_r_strip (s : State) (pc : Word) : (retireTo s pc).me.r.strip = s.me.r.strip := by
  simp only [retireTo, countRetired, Bool.false_and, Bool.false_eq_true, if_false]
@[simp] theorem retire_r_frame (s : State) : (retire s).me.r.frame = s.me.r.frame := by
  simp only [retire, countRetired, Bool.false_and, Bool.false_eq_true, if_false]
@[simp] theorem retireTo_r_frame (s : State) (pc : Word) : (retireTo s pc).me.r.frame = s.me.r.frame := by
  simp only [retireTo, countRetired, Bool.false_and, Bool.false_eq_true, if_false]
@[simp] theorem retire_r_armed (s : State) : (retire s).me.r.armed = false := by
  simp only [retire, countRetired, Bool.false_and, Bool.false_eq_true, if_false]
@[simp] theorem retireTo_r_armed (s : State) (pc : Word) : (retireTo s pc).me.r.armed = false := by
  simp only [retireTo, countRetired, Bool.false_and, Bool.false_eq_true, if_false]
@[simp] theorem retire_r_retired (s : State) : (retire s).me.r.retired = s.me.r.retired + 1 := by
  simp only [retire, countRetired, Bool.false_and, Bool.false_eq_true, if_false]
@[simp] theorem retireTo_r_retired (s : State) (pc : Word) : (retireTo s pc).me.r.retired = s.me.r.retired + 1 := by
  simp only [retireTo, countRetired, Bool.false_and, Bool.false_eq_true, if_false]
@[simp] theorem retire_r_counts (s : State) : (retire s).me.r.counts = s.me.r.counts := by
  simp only [retire, countRetired, Bool.false_and, Bool.false_eq_true, if_false]
@[simp] theorem retireTo_r_counts (s : State) (pc : Word) : (retireTo s pc).me.r.counts = s.me.r.counts := by
  simp only [retireTo, countRetired, Bool.false_and, Bool.false_eq_true, if_false]

@[simp] theorem setX_pc (r : Regs) (i : Nat) (v : Word) : (setX r i v).pc = r.pc := by
  unfold setX; split <;> rfl
@[simp] theorem setX_v (r : Regs) (i : Nat) (v : Word) : (setX r i v).v = r.v := by
  unfold setX; split <;> rfl
@[simp] theorem setX_w (r : Regs) (i : Nat) (v : Word) : (setX r i v).w = r.w := by
  unfold setX; split <;> rfl
@[simp] theorem setX_z (r : Regs) (i : Nat) (v : Word) : (setX r i v).z = r.z := by
  unfold setX; split <;> rfl
@[simp] theorem setX_m (r : Regs) (i : Nat) (v : Word) : (setX r i v).m = r.m := by
  unfold setX; split <;> rfl
@[simp] theorem setX_g (r : Regs) (i : Nat) (v : Word) : (setX r i v).g = r.g := by
  unfold setX; split <;> rfl
@[simp] theorem setX_fm (r : Regs) (i : Nat) (v : Word) : (setX r i v).fm = r.fm := by
  unfold setX; split <;> rfl
@[simp] theorem setX_c (r : Regs) (i : Nat) (v : Word) : (setX r i v).c = r.c := by
  unfold setX; split <;> rfl
@[simp] theorem setX_q (r : Regs) (i : Nat) (v : Word) : (setX r i v).q = r.q := by
  unfold setX; split <;> rfl
@[simp] theorem setX_vl (r : Regs) (i : Nat) (v : Word) : (setX r i v).vl = r.vl := by
  unfold setX; split <;> rfl
@[simp] theorem setX_vstart (r : Regs) (i : Nat) (v : Word) : (setX r i v).vstart = r.vstart := by
  unfold setX; split <;> rfl
@[simp] theorem setX_prog (r : Regs) (i : Nat) (v : Word) : (setX r i v).prog = r.prog := by
  unfold setX; split <;> rfl
@[simp] theorem setX_rows (r : Regs) (i : Nat) (v : Word) : (setX r i v).rows = r.rows := by
  unfold setX; split <;> rfl
@[simp] theorem setX_pitch (r : Regs) (i : Nat) (v : Word) : (setX r i v).pitch = r.pitch := by
  unfold setX; split <;> rfl
@[simp] theorem setX_wpos (r : Regs) (i : Nat) (v : Word) : (setX r i v).wpos = r.wpos := by
  unfold setX; split <;> rfl
@[simp] theorem setX_fflags (r : Regs) (i : Nat) (v : Word) : (setX r i v).fflags = r.fflags := by
  unfold setX; split <;> rfl
@[simp] theorem setX_dphase (r : Regs) (i : Nat) (v : Word) : (setX r i v).dphase = r.dphase := by
  unfold setX; split <;> rfl
@[simp] theorem setX_token (r : Regs) (i : Nat) (v : Word) : (setX r i v).token = r.token := by
  unfold setX; split <;> rfl
@[simp] theorem setX_stick (r : Regs) (i : Nat) (v : Word) : (setX r i v).stick = r.stick := by
  unfold setX; split <;> rfl
@[simp] theorem setX_strip (r : Regs) (i : Nat) (v : Word) : (setX r i v).strip = r.strip := by
  unfold setX; split <;> rfl
@[simp] theorem setX_frame (r : Regs) (i : Nat) (v : Word) : (setX r i v).frame = r.frame := by
  unfold setX; split <;> rfl
@[simp] theorem setX_armed (r : Regs) (i : Nat) (v : Word) : (setX r i v).armed = r.armed := by
  unfold setX; split <;> rfl
@[simp] theorem setX_retired (r : Regs) (i : Nat) (v : Word) : (setX r i v).retired = r.retired := by
  unfold setX; split <;> rfl
@[simp] theorem setX_counts (r : Regs) (i : Nat) (v : Word) : (setX r i v).counts = r.counts := by
  unfold setX; split <;> rfl

/-- s0 keeps nothing (R107). -/
@[simp] theorem setX_zero (r : Regs) (v : Word) : setX r 0 v = r := rfl

/-- A register that is written holds the value (R107). -/
theorem setX_x_same (r : Regs) (i : Fin 24) (v : Word) (h : i.val ≠ 0) : (setX r i.val v).x[i] = v := by
  simp [setX, h, vset]

/-- A write of one register leaves the others as they were. -/
theorem setX_x_other (r : Regs) (i j : Fin 24) (v : Word) (h : j ≠ i) : (setX r i.val v).x[j] = r.x[j] := by
  have e : i.val ≠ j.val := fun g => h (Fin.ext g.symm)
  unfold setX
  split
  · rfl
  · simp [vset, e]

/-! ## Cores -/

@[simp] theorem getCore_modMe (s : State) (f : Hart → Hart) (n : Nat) : getCore (modMe s f) n = getCore s n := rfl
@[simp] theorem getCore_modRegs (s : State) (f : Regs → Regs) (n : Nat) : getCore (modRegs s f) n = getCore s n := rfl
@[simp] theorem getCore_retire (s : State) (n : Nat) : getCore (retire s) n = getCore s n := by
  simp only [getCore, retire_cores]

/-- A core that is replaced is read back. -/
@[simp] theorem getCore_setCore_same (s : State) (n : Nat) (c : Core) : getCore (setCore s n c) n = c := by
  simp [getCore, setCore]

/-- Replacing a core leaves the others as they were. -/
theorem getCore_setCore_other (s : State) (n m : Nat) (c : Core) (h : m ≠ n) : getCore (setCore s n c) m = getCore s m := by
  have e : ((n == m) = false) := by simp [Ne.symm h]
  simp only [getCore, setCore, List.find?_cons, e, List.find?_filter]
  congr 1
  apply List.find?_congr
  intro x _
  by_cases g : x.1 = m
  · simp [g, h]
  · simp [g]

@[simp] theorem getCore_modCore_same (s : State) (n : Nat) (f : Core → Core) : getCore (modCore s n f) n = f (getCore s n) :=
  getCore_setCore_same s n _

theorem getCore_modCore_other (s : State) (n m : Nat) (f : Core → Core) (h : m ≠ n) :
    getCore (modCore s n f) m = getCore s m := getCore_setCore_other s n m _ h

end Sys2Proof.Machine
end

