-- ==== Sys2Proof/Laws/Links.lean ====
section
/-! SUPPORT. A flit passes its own check and gives its fields back (R367), and what sending leaves of a port: what it has received, and
where it stands in the sequence it expects (R368). -/

namespace Sys2Proof.Machine

/-! ## A flit as it is made (R367) -/

/-- A flit is its CRC above its body. -/
theorem makeFlit_body (seq ack : BitVec 12) (ty : BitVec 4) (x : BitVec 1920) :
    (makeFlit seq ack ty x).extractLsb' 0 1984 = x ++ (0#36 ++ ty ++ ack ++ seq : BitVec 64) := by
  unfold makeFlit
  exact BitVec.extractLsb'_append_eq_right

theorem crcOk_makeFlit (seq ack : BitVec 12) (ty : BitVec 4) (x : BitVec 1920) : crcOk (makeFlit seq ack ty x) = true := by
  unfold crcOk
  rw [makeFlit_body]
  unfold makeFlit
  simp only [BitVec.extractLsb'_append_eq_left, beq_self_eq_true]

/-- The fields of the header of a flit. -/
theorem makeFlit_header (seq ack : BitVec 12) (ty : BitVec 4) (x : BitVec 1920) :
    flitSeq (makeFlit seq ack ty x) = seq ∧ flitAck (makeFlit seq ack ty x) = ack ∧ flitType (makeFlit seq ack ty x) = ty.toNat := by
  refine ⟨?_, ?_, ?_⟩
  · apply BitVec.eq_of_getLsbD_eq
    intro j hj
    simp only [flitSeq, makeFlit, BitVec.getLsbD_extractLsb', BitVec.getLsbD_append, hj, decide_true, Bool.true_and,
      show 0 + j < 1984 by omega, show 0 + j < 64 by omega, show 0 + j < 12 by omega, if_true]
    simp
  · apply BitVec.eq_of_getLsbD_eq
    intro j hj
    simp only [flitAck, makeFlit, BitVec.getLsbD_extractLsb', BitVec.getLsbD_append, hj, decide_true, Bool.true_and,
      show 12 + j < 1984 by omega, show 12 + j < 64 by omega, show ¬12 + j < 12 by omega, show 12 + j - 12 < 12 by omega, if_true, if_false]
    simp
  · have e : (makeFlit seq ack ty x).extractLsb' 24 4 = ty := by
      apply BitVec.eq_of_getLsbD_eq
      intro j hj
      simp only [makeFlit, BitVec.getLsbD_extractLsb', BitVec.getLsbD_append, hj, decide_true, Bool.true_and,
        show 24 + j < 1984 by omega, show 24 + j < 64 by omega, show ¬24 + j < 12 by omega, show ¬24 + j - 12 < 12 by omega,
        show 24 + j - 12 - 12 < 4 by omega, if_true, if_false]
      congr 1
      omega
    unfold flitType
    rw [e]

/-! ## Sending -/

/-- What a port has received is as it was. -/
def Port.sameReceived (p q : Port) : Prop :=
  q.expect = p.expect ∧ q.last = p.last ∧ q.failed = p.failed ∧ q.crcerr = p.crcerr ∧ q.st = p.st ∧ q.width = p.width

theorem Port.sameReceived.trans {p q r : Port} (h : p.sameReceived q) (k : q.sameReceived r) : p.sameReceived r := by
  obtain ⟨h1, h2, h3, h4, h5, h6⟩ := h
  obtain ⟨k1, k2, k3, k4, k5, k6⟩ := k
  exact ⟨k1.trans h1, k2.trans h2, k3.trans h3, k4.trans h4, k5.trans h5, k6.trans h6⟩

theorem Port.sameReceived.refl (p : Port) : p.sameReceived p := ⟨rfl, rfl, rfl, rfl, rfl, rfl⟩

theorem pumpPort_received (n : Nat) (p : Port) : p.sameReceived (pumpPort n p) := by
  induction n generalizing p with
  | zero => exact .refl p
  | succ n ih =>
    unfold pumpPort
    split
    · exact .refl p
    · simp only
      split
      · exact Port.sameReceived.trans ⟨rfl, rfl, rfl, rfl, rfl, rfl⟩ (ih _)
      · exact Port.sameReceived.trans ⟨rfl, rfl, rfl, rfl, rfl, rfl⟩ (ih _)
      · exact .refl p

theorem portAt_setPort (s : State) (j k : Nat) (p : Port) : portAt (setPort s k p) j = if j = k ∧ k < 16 then p else portAt s j := by
  unfold portAt setPort
  simp only [vget, vset]
  by_cases hk : k < 16
  · by_cases h : j = k
    · subst h; simp [hk]
    · simp [hk, h, Ne.symm h]
  · have hl : s.ports.toList.length ≤ k := by simpa using hk
    simp [hk, List.set_eq_of_length_le hl]

theorem setPort_received (s : State) (j k : Nat) (p : Port) (h : (portAt s k).sameReceived p) :
    (portAt s j).sameReceived (portAt (setPort s k p) j) := by
  rw [portAt_setPort]
  split
  · next hj => exact hj.1 ▸ h
  · exact .refl _

theorem sendQueued_received (s : State) (j k : Nat) : (portAt s j).sameReceived (portAt (sendQueued s k) j) := by
  unfold sendQueued
  simp only
  split
  · exact .refl _
  · exact setPort_received s j k _ (pumpPort_received 256 _)

theorem sendPayload_received (s : State) (j node : Nat) (control : Bool) (x : BitVec 1920) :
    (portAt s j).sameReceived (portAt (sendPayload s node control x) j) := by
  unfold sendPayload
  split
  · next k _ =>
    unfold queuePayload
    simp only
    refine .trans (setPort_received s j k _ ?_) (sendQueued_received _ j k)
    split <;> exact ⟨rfl, rfl, rfl, rfl, rfl, rfl⟩
  · exact .refl _

theorem forwardFlit_received (s : State) (j : Nat) (f : BitVec 2048) : (portAt s j).sameReceived (portAt (forwardFlit s f) j) := by
  unfold forwardFlit
  simp only
  split
  · exact .refl _
  · exact sendPayload_received s j _ _ _

end Sys2Proof.Machine
end

