-- ==== Sys2Proof/Laws/Memory.lean ====
section
/-! SUPPORT. Every operation of the machine that writes memory keeps main memory and every scratchpad in canonical form, and leaves
everything but memory, the known errors and their counts as it was. -/

namespace Sys2Proof.Machine

/-- The memory that a place lies in is in canonical form. -/
theorem cellsOf_wf {s : State} (w : memoriesWf s) (core : Option Nat) : Memory.wf (cellsOf s core) = true := by
  cases core with
  | none => exact w.1
  | some c =>
    show Memory.wf (getCore s c).scratch = true
    unfold getCore
    split
    · rename_i e h
      exact w.2 e (List.mem_of_find?_eq_some h)
    · rfl

/-- Replacing the cells of a space by cells in canonical form keeps the form. -/
theorem setCells_wf {s : State} (w : memoriesWf s) (core : Option Nat) {m : Cells} (h : Memory.wf m = true) :
    memoriesWf (setCells s core m) := by
  cases core with
  | none => exact ⟨h, w.2⟩
  | some c =>
    refine ⟨w.1, fun e he => ?_⟩
    have he : e ∈ (c, { getCore s c with scratch := m }) :: s.cores.filter (fun d => d.1 != c) := he
    rcases List.mem_cons.1 he with rfl | he
    · exact h
    · exact w.2 e (List.mem_filter.1 he).1

/-- A core of which the scratchpad stays as it was, or is empty, keeps the form. -/
theorem modCore_wf {s : State} (w : memoriesWf s) (n : Nat) (f : Core → Core)
    (h : Memory.wf (getCore s n).scratch = true → Memory.wf (f (getCore s n)).scratch = true) : memoriesWf (modCore s n f) := by
  refine ⟨w.1, fun e he => ?_⟩
  have he : e ∈ (n, f (getCore s n)) :: s.cores.filter (fun d => d.1 != n) := he
  rcases List.mem_cons.1 he with rfl | he
  · exact h (cellsOf_wf w (some n))
  · exact w.2 e (List.mem_filter.1 he).1

/-- The form is a matter of the two fields that hold memory. -/
theorem memoriesWf_of_eq {s t : State} (w : memoriesWf s) (hm : t.mem = s.mem) (hc : t.cores = s.cores) : memoriesWf t := by
  unfold memoriesWf
  rw [hm, hc]
  exact w

theorem modRegs_wf {s : State} (w : memoriesWf s) (f : Regs → Regs) : memoriesWf (modRegs s f) :=
  memoriesWf_of_eq w (modRegs_mem ..) (modRegs_cores ..)

theorem modMe_wf {s : State} (w : memoriesWf s) (f : Hart → Hart) : memoriesWf (modMe s f) :=
  memoriesWf_of_eq w (modMe_mem ..) (modMe_cores ..)

theorem modHart_wf {s : State} (w : memoriesWf s) (hid : Nat) (f : Hart → Hart) : memoriesWf (modHart s hid f) :=
  memoriesWf_of_eq w (modHart_mem ..) (modHart_cores ..)

theorem modHarts_wf {s : State} (w : memoriesWf s) (f : Hart → Hart) : memoriesWf (modHarts s f) :=
  memoriesWf_of_eq w (modHarts_mem ..) (modHarts_cores ..)

theorem retire_wf {s : State} (w : memoriesWf s) : memoriesWf (retire s) :=
  memoriesWf_of_eq w (retire_mem ..) (retire_cores ..)

theorem retireTo_wf {s : State} (w : memoriesWf s) (pc : Word) : memoriesWf (retireTo s pc) :=
  memoriesWf_of_eq w (retireTo_mem ..) (retireTo_cores ..)

/-- A change of a die leaves memory as it was. -/
theorem modDie_memory (s : State) (d : Nat) (f : Die → Die) : (modDie s d f).mem = s.mem ∧ (modDie s d f).cores = s.cores := by
  unfold modDie
  split <;> exact ⟨rfl, rfl⟩

/-- A change of a memory control block leaves memory as it was. -/
theorem modMcb_memory (s : State) (d : Nat) (f : Mcb → Mcb) : (modMcb s d f).mem = s.mem ∧ (modMcb s d f).cores = s.cores :=
  modDie_memory s d _

/-- Error correction leaves memory as it was. -/
theorem settleEcc_memory (s : State) (l : List Nat) : (settleEcc s l).mem = s.mem ∧ (settleEcc s l).cores = s.cores := by
  unfold settleEcc
  dsimp only
  suffices h : ∀ (ws : List Nat) (t : State), t.mem = s.mem ∧ t.cores = s.cores →
      let u := ws.foldl (fun s w => match hbmUnit (w * 64) with
        | some (d, u) => modMcb s d fun m => { m with ue := bump m.ue (channelOf m u) }
        | none => s) t
      u.mem = s.mem ∧ u.cores = s.cores from h _ _ ⟨rfl, rfl⟩
  intro ws
  induction ws with
  | nil => exact fun t ht => ht
  | cons w ws ih =>
    intro t ht
    refine ih _ ?_
    dsimp only
    split
    · exact ⟨(modMcb_memory t _ _).1.trans ht.1, (modMcb_memory t _ _).2.trans ht.2⟩
    · exact ht

/-- The same in scratchpads: memory stays, and so does every scratchpad. -/
theorem settleScratch_wf {s : State} (w : memoriesWf s) (ws : List (Place × Nat)) : memoriesWf (settleScratch s ws) := by
  refine ⟨w.1, fun e he => ?_⟩
  obtain ⟨c, hc, rfl⟩ := List.mem_map.1 he
  have hw := w.2 c hc
  split
  · exact hw
  · exact hw

/-- Writing places keeps the form. -/
theorem writePlaces_wf {s : State} (w : memoriesWf s) (ws : List (Place × Nat)) : memoriesWf (writePlaces s ws) := by
  have h : ∀ (ws : List (Place × Nat)) (t : State), memoriesWf t →
      memoriesWf (ws.foldl (fun t w => setCells t w.1.core (writeBits (cellsOf t w.1.core) w.1 w.2)) t) := by
    intro ws
    induction ws with
    | nil => exact fun t ht => ht
    | cons x ws ih => exact fun t ht => ih _ (setCells_wf ht _ (wf_writeBits _ _ _ (cellsOf_wf ht _)))
  have hf := h ws s w
  unfold writePlaces
  dsimp only
  have he : ∀ (t : State) (l : List Nat), memoriesWf t →
      memoriesWf (if t.badMem.isEmpty && t.softMem.isEmpty then t else settleEcc t l) := by
    intro t l ht
    split
    · exact ht
    · exact memoriesWf_of_eq ht (settleEcc_memory _ _).1 (settleEcc_memory _ _).2
  split
  · exact he _ _ hf
  · exact he _ _ (settleScratch_wf hf ws)

/-- A write at a physical address keeps the form. -/
theorem writePhys_wf {s : State} (w : memoriesWf s) (a n v : Nat) : memoriesWf (writePhys s a n v) := writePlaces_wf w _

end Sys2Proof.Machine
end

