-- ==== Sys2Proof/Laws/Ops.lean ====
section
/-! SUPPORT. What each shared operation can do, said once: reading and writing a scalar field, forming an address, stopping,
retiring, and the outcome of a meaning. -/

namespace Sys2Proof.Machine

/-! ## The checks -/

/-- A check passes exactly when its condition holds. -/
@[simp] theorem ensure_ok (b : Bool) (c : Nat) : ensure b c = .ok ⟨⟩ ↔ b = true := by
  cases b <;> simp [ensure, trapOf]

/-- A wait is over exactly when its condition holds. -/
@[simp] theorem holds_ok (b : Bool) (r : WaitReason) : holds b r = .ok ⟨⟩ ↔ b = true := by
  cases b <;> simp [holds, waitFor]

/-- The fields of a scalar instruction are legal exactly when each names what it may (R110). -/
theorem legal_ok (srcs dsts : List SOp) : legal srcs dsts = .ok ⟨⟩ ↔ srcs.all srcOk = true ∧ dsts.all dstOk = true := by
  simp [legal]

/-- A register can be used when nothing is pending into it (R87). -/
theorem useX_ok (s : State) (n : Fin 24) : useX s n = .ok ⟨⟩ ↔ pendingX s n = false := by
  unfold useX
  cases pendingX s n
  · simp
  · cases stripHolds s n <;> simp [trapOf, waitFor]

/-- A queue can be used when nothing is still to be pushed into it (R111). -/
theorem useQ_ok (s : State) (k : Fin 8) : useQ s k = .ok ⟨⟩ ↔ pendingQ s k = false := by
  unfold useQ
  cases pendingQ s k
  · simp
  · simp only [if_true]
    split <;> simp [trapOf, waitFor]

/-- s0 is never pending. -/
@[simp] theorem pendingX_zero (s : State) : pendingX s 0 = false := rfl

/-! ## Scalar fields (R130) -/

/-- What reading a field can do: it reads a register and changes nothing, or takes what its instruction has popped before it waited, or
pops the head of a queue. -/
theorem readSrc_cases {o : SOp} {s t : State} {v : Word} (h : readSrc o s = .ok (v, t)) :
    (∃ n, o = .s n ∧ t = s ∧ pendingX s n = false ∧ v = if n.val = 0 then 0 else s.me.r.x[n]) ∨
    (∃ k : Fin 8, o = .q k ∧ (k.val, v) ∈ s.me.popped ∧ t = modMe s fun h => { h with popped := h.popped.erase (k.val, v) }) ∨
    (∃ k rest, o = .q k ∧ (∀ e ∈ s.me.popped, e.1 ≠ k.val) ∧ s.me.r.q[k] = v :: rest ∧
      t = modRegs s fun r => { r with q := r.q.set k rest }) := by
  cases o with
  | s n =>
    left
    cases e : useX s n with
    | error x => simp [readSrc, e, bind, Except.bind] at h
    | ok u =>
      simp only [readSrc, e, bind, Except.bind, pure, Except.pure, Except.ok.injEq, Prod.mk.injEq] at h
      exact ⟨n, rfl, h.2.symm, (useX_ok s n).1 e, h.1.symm⟩
  | q k =>
    right
    simp only [readSrc, popQ] at h
    cases f : s.me.popped.find? fun e => e.1 == k.val with
    | some e =>
      left
      simp only [f, Except.ok.injEq, Prod.mk.injEq] at h
      have ek : e = (k.val, v) := Prod.ext (by simpa using List.find?_some f) h.1
      exact ⟨k, rfl, ek ▸ List.mem_of_find?_eq_some f, ek ▸ h.2.symm⟩
    | none =>
      right
      simp only [f] at h
      split at h
      · simp [waitFor] at h
      · rename_i w rest e
        simp only [Except.ok.injEq, Prod.mk.injEq] at h
        exact ⟨k, rest, rfl, by simpa using List.find?_eq_none.1 f, h.1 ▸ e, h.2.symm⟩

/-- What writing a field can do: it writes a register, s0 discarding the value, or it pushes at the tail of a queue. -/
theorem writeDst_cases {o : SOp} {s t : State} {v : Word} (h : writeDst o v s = .ok t) :
    (∃ n, o = .s n ∧ pendingX s n = false ∧ t = modRegs s fun r => setX r n.val v) ∨
    (∃ k, o = .q k ∧ pendingQ s k = false ∧ s.me.r.q[k].length < queueDepth k.val ∧
      t = modRegs s fun r => { r with q := r.q.set k (r.q[k] ++ [v]) }) := by
  cases o with
  | s n =>
    left
    cases e : useX s n with
    | error x => simp [writeDst, e, bind, Except.bind] at h
    | ok u =>
      simp only [writeDst, e, bind, Except.bind, pure, Except.pure, Except.ok.injEq] at h
      exact ⟨n, rfl, (useX_ok s n).1 e, h.symm⟩
  | q k =>
    right
    simp only [writeDst, pushQ] at h
    cases e : useQ s k with
    | error x => simp [e, bind, Except.bind] at h
    | ok u =>
      simp only [e, roomQ, bind, Except.bind, pure, Except.pure] at h
      split at h
      · simp at h
      · rename_i f
        split at f
        · simp at f
        · rename_i g
          simp only [Except.ok.injEq] at h
          exact ⟨k, rfl, (useQ_ok s k).1 e, by omega, h.symm⟩

/-- Reading a field changes queues of the hart in focus, with what it has popped, and nothing else. -/
theorem readSrc_frame {o : SOp} {s t : State} {v : Word} (h : readSrc o s = .ok (v, t)) :
    ∃ q p, t = modMe s fun h => { h with popped := p, r := { h.r with q := q } } := by
  obtain ⟨n, -, rfl, -, -⟩ | ⟨k, -, -, rfl⟩ | ⟨k, rest, -, -, -, rfl⟩ := readSrc_cases h
  · exact ⟨t.me.r.q, t.me.popped, rfl⟩
  · exact ⟨s.me.r.q, s.me.popped.erase (k.val, v), rfl⟩
  · exact ⟨s.me.r.q.set k rest, s.me.popped, rfl⟩

/-- Writing a field changes s registers and queues of the hart in focus and nothing else. -/
theorem writeDst_frame {o : SOp} {s t : State} {v : Word} (h : writeDst o v s = .ok t) :
    ∃ x q, t = modRegs s fun r => { r with x := x, q := q } := by
  obtain ⟨n, -, -, rfl⟩ | ⟨k, -, -, -, rfl⟩ := writeDst_cases h
  · refine ⟨(setX s.me.r n.val v).x, s.me.r.q, ?_⟩
    unfold modRegs setX
    split <;> rfl
  · exact ⟨s.me.r.x, s.me.r.q.set k (s.me.r.q[k] ++ [v]), rfl⟩

/-! ## Addresses (R131) -/

/-- An address that an instruction forms: the handle of the base and the offset moved by the displacement. -/
theorem effAddr_ok {b a : Word} {d : Int} (h : effAddr b d = .ok a) :
    0 ≤ (offsetOf b : Int) + d ∧ (offsetOf b : Int) + d < (2 ^ 44 : Nat) ∧
      a = wordOfNat (handleOf b * 2 ^ 44 + ((offsetOf b : Int) + d).toNat) := by
  unfold effAddr effAddr? at h
  dsimp only at h
  split at h
  · rename_i x e
    split at e
    · exact absurd e (by simp)
    · rename_i g
      simp only [Option.some.injEq] at e
      simp only [Except.ok.injEq] at h
      subst h
      exact ⟨by omega, by omega, e.symm⟩
  · exact absurd h (by simp)

/-- An address out of range is the precise ADDRFORM fault. -/
theorem effAddr_error {b : Word} {d : Int} {st : Stop} (h : effAddr b d = .error st) :
    ((offsetOf b : Int) + d < 0 ∨ (2 ^ 44 : Nat) ≤ (offsetOf b : Int) + d) ∧
      st = .trap { code := cAddrForm, info := addrInfo (handleOf b) 0 0 0 } := by
  unfold effAddr effAddr? at h
  dsimp only at h
  split at h
  · exact absurd h (by simp)
  · rename_i e
    split at e
    · rename_i g
      exact ⟨g, (Except.error.inj h).symm⟩
    · exact absurd e (by simp)

/-! ## Outcomes -/

@[simp] theorem finish_ok (s t : State) : finish s (.ok t) = .next t := rfl
@[simp] theorem finish_error (s : State) (st : Stop) : finish s (.error st) = .next (stopAt s st none) := rfl
@[simp] theorem finishSlot_ok (s t : State) (g : Word) : finishSlot s g (.ok t) = .next t := rfl
@[simp] theorem finishSlot_error (s : State) (g : Word) (st : Stop) :
    finishSlot s g (.error st) = .next (stopAt s st (some g)) := rfl
@[simp] theorem eventOut_none (s : State) : eventOut s none = .next s := rfl
@[simp] theorem eventOut_some (s t : State) : eventOut s (some t) = .next t := rfl

/-- A scalar meaning always answers a next state. -/
theorem finish_next (s : State) (r : Except Stop State) : ∃ t, finish s r = .next t := by
  cases r <;> exact ⟨_, rfl⟩

/-- A scalar meaning under a slot always answers a next state. -/
theorem finishSlot_next (s : State) (g : Word) (r : Except Stop State) : ∃ t, finishSlot s g r = .next t := by
  cases r <;> exact ⟨_, rfl⟩

/-- The step of another agent always answers a next state. -/
theorem eventOut_next (s : State) (r : Option State) : ∃ t, eventOut s r = .next t := ⟨_, rfl⟩

/-- An instruction of the vector or access stream always answers a next state. -/
theorem runStream_next (i : Instr) (mem : Nat) (tile : Bool) (g : Fin 8) (sa sb : Option SOp) (body : Env → State → StreamResult)
    (s : State) : ∃ t, runStream i mem tile g sa sb body s = .next t := by
  unfold runStream
  dsimp only
  repeat' split
  all_goals exact ⟨_, rfl⟩

/-- What stopping can do: the hart waits, and nothing changes but the reason and, where it waits at retirement, its queues and what has been
popped from them; or its trap is taken. -/
theorem stopAt_cases (s : State) (st : Stop) (slot : Option Word) :
    (∃ w, stopAt s st slot = modMe s fun h => { h with wait := w }) ∨
    (∃ k q p, stopAt s st slot = modMe s fun h => { h with wait := some (.queueFull k), popped := p, r := { h.r with q := q } }) ∨
    (∃ t, st = .trap t ∧ anyParked s = false ∧ stopAt s st slot = preciseTrap s t slot false false) := by
  cases st with
  | wait r => exact .inl ⟨some r, rfl⟩
  | full k q => exact .inr (.inl ⟨k, q, _, rfl⟩)
  | trap t =>
    cases e : anyParked s
    · exact .inr (.inr ⟨t, rfl, rfl, by simp [stopAt, e]⟩)
    · exact .inl ⟨some .earlier, by simp [stopAt, e]⟩

/-- A trap with nothing before it that has not retired is taken. -/
theorem stopAt_trap (s : State) (t : TrapInfo) (slot : Option Word) (h : anyParked s = false) :
    stopAt s (.trap t) slot = preciseTrap s t slot false false := by
  simp [stopAt, h]

/-- Out of a strip, or for a cause other than uncorrectable data, the cause stays. -/
theorem preciseTrap_plain (s : State) (t : TrapInfo) (part arms : Bool) (h : t.code ≠ cStripLost) :
    preciseTrap s t none part arms = takeTrap s t false part (arms && decide (0x06 ≤ t.code) && decide (t.code ≤ 0x10)) := by
  have e : (t.code == cStripLost) = false := by simpa using h
  simp only [preciseTrap, stripLoss, e, Bool.false_and]
  rfl

/-- Taking a trap while a frame is active kills the context, and both causes are logged (R309). -/
theorem takeTrap_active (s : State) (t : TrapInfo) (async part arms : Bool) (h : bitAt (vget s.me.r.frame 0x14 0) 0 = true) :
    takeTrap s t async part arms = killLogged s (field (vget s.me.r.frame 0 0) 0 8) (some t.code) := by
  unfold takeTrap
  rw [if_pos h]

/-- Taking a trap without a handler kills the context (R302). -/
theorem takeTrap_missing (s : State) (t : TrapInfo) (async part arms : Bool) (c : Option Nat)
    (h : bitAt (vget s.me.r.frame 0x14 0) 0 = false) (m : vectorMoving s t.code = false) (v : vectorEntry s t.code = .error c) :
    takeTrap s t async part arms = killLogged s t.code c := by
  unfold takeTrap
  dsimp only
  rw [if_neg (ne_true_of_eq_false h), if_neg (ne_true_of_eq_false m), v]

/-! ## Scalar shapes -/

/-- What an instruction of one source and one destination does: it stops, or it reads, writes and retires (R130). -/
theorem scalar1_cases (sd sa : SOp) (f : Word → Word) (s : State) :
    (∃ st, scalar1 sd sa f s = .next (stopAt s st none)) ∨
    (∃ a s1 s2, readSrc sa s = .ok (a, s1) ∧ writeDst sd (f a) s1 = .ok s2 ∧ scalar1 sd sa f s = .next (retire s2)) := by
  unfold scalar1
  cases legal [sa] [sd] with
  | error st => exact .inl ⟨st, rfl⟩
  | ok u =>
    cases ha : readSrc sa s with
    | error st => exact .inl ⟨st, rfl⟩
    | ok p =>
      obtain ⟨a, s1⟩ := p
      cases hd : writeDst sd (f a) s1 with
      | error st => exact .inl ⟨st, by simp [bind, Except.bind, hd]⟩
      | ok s2 => exact .inr ⟨a, s1, s2, rfl, hd, by simp [bind, Except.bind, hd, pure, Except.pure]⟩

/-- What an instruction of two sources and one destination does: it stops, or it reads, writes and retires (R130, R132). -/
theorem scalar2_cases (sd sa sb : SOp) (f : Word → Word → Word) (s : State) :
    (∃ st, scalar2 sd sa sb f s = .next (stopAt s st none)) ∨
    (∃ a b s1 s2 s3, readSrc sa s = .ok (a, s1) ∧ readSrc sb s1 = .ok (b, s2) ∧ writeDst sd (f a b) s2 = .ok s3 ∧
      scalar2 sd sa sb f s = .next (retire s3)) := by
  unfold scalar2
  cases legal [sa, sb] [sd] with
  | error st => exact .inl ⟨st, rfl⟩
  | ok u =>
    cases ha : readSrc sa s with
    | error st => exact .inl ⟨st, rfl⟩
    | ok p =>
      obtain ⟨a, s1⟩ := p
      cases hb : readSrc sb s1 with
      | error st => exact .inl ⟨st, by simp [bind, Except.bind, hb]⟩
      | ok p =>
        obtain ⟨b, s2⟩ := p
        cases hd : writeDst sd (f a b) s2 with
        | error st => exact .inl ⟨st, by simp [bind, Except.bind, hb, hd]⟩
        | ok s3 => exact .inr ⟨a, b, s1, s2, s3, rfl, hb, hd, by simp [bind, Except.bind, hb, hd, pure, Except.pure]⟩

end Sys2Proof.Machine
end

