-- ==== Sys2Proof/Laws/Words.lean ====
section
/-! SUPPORT. The fields of an encoded word (R123) and the operand codes (R126): what the encoder puts in, the decoder takes out. -/

namespace Sys2Proof

/-- Bits above the low part of a concatenation. -/
theorem cutHi {n k : Nat} (x : BitVec n) (y : BitVec k) (lo m : Nat) (h : k ≤ lo) :
    (x ++ y).extractLsb' lo m = x.extractLsb' (lo - k) m := BitVec.extractLsb'_append_eq_of_le h

/-- Bits within the low part of a concatenation. -/
theorem cutLo {n k : Nat} (x : BitVec n) (y : BitVec k) (lo m : Nat) (h : lo + m ≤ k) :
    (x ++ y).extractLsb' lo m = y.extractLsb' lo m := BitVec.extractLsb'_append_eq_of_add_le h

/-- All bits of a field. -/
theorem cutAll {n : Nat} (x : BitVec n) : x.extractLsb' 0 n = x := by simp

theorem amoWord_zero_0 (sd : BitVec 5) (sa : BitVec 5) (sb : BitVec 5) (g : BitVec 3) (fn : BitVec 4) (lo n : Nat) (h' : lo + n ≤ 3) : fld (amoWord sd sa sb g fn) lo n = (0#3).extractLsb' lo n := by
  show BitVec.extractLsb' lo n ((0x14#7) ++ sd ++ sa ++ sb ++ g ++ fn ++ (0#3)) = _
  rw [cutLo _ _ _ _ (by omega)]

theorem amoWord_fn_3 (sd : BitVec 5) (sa : BitVec 5) (sb : BitVec 5) (g : BitVec 3) (fn : BitVec 4) (lo n : Nat) (h : 3 ≤ lo) (h' : lo + n ≤ 7) : fld (amoWord sd sa sb g fn) lo n = fn.extractLsb' (lo - 3) n := by
  show BitVec.extractLsb' lo n ((0x14#7) ++ sd ++ sa ++ sb ++ g ++ fn ++ (0#3)) = _
  rw [cutHi _ _ _ _ (by omega), cutLo _ _ _ _ (by omega)]

theorem amoWord_g_7 (sd : BitVec 5) (sa : BitVec 5) (sb : BitVec 5) (g : BitVec 3) (fn : BitVec 4) (lo n : Nat) (h : 7 ≤ lo) (h' : lo + n ≤ 10) : fld (amoWord sd sa sb g fn) lo n = g.extractLsb' (lo - 7) n := by
  show BitVec.extractLsb' lo n ((0x14#7) ++ sd ++ sa ++ sb ++ g ++ fn ++ (0#3)) = _
  rw [cutHi _ _ _ _ (by omega), cutHi _ _ _ _ (by omega), cutLo _ _ _ _ (by omega)]
  congr 1

theorem amoWord_sb_10 (sd : BitVec 5) (sa : BitVec 5) (sb : BitVec 5) (g : BitVec 3) (fn : BitVec 4) (lo n : Nat) (h : 10 ≤ lo) (h' : lo + n ≤ 15) : fld (amoWord sd sa sb g fn) lo n = sb.extractLsb' (lo - 10) n := by
  show BitVec.extractLsb' lo n ((0x14#7) ++ sd ++ sa ++ sb ++ g ++ fn ++ (0#3)) = _
  rw [cutHi _ _ _ _ (by omega), cutHi _ _ _ _ (by omega), cutHi _ _ _ _ (by omega), cutLo _ _ _ _ (by omega)]
  congr 1

theorem amoWord_sa_15 (sd : BitVec 5) (sa : BitVec 5) (sb : BitVec 5) (g : BitVec 3) (fn : BitVec 4) (lo n : Nat) (h : 15 ≤ lo) (h' : lo + n ≤ 20) : fld (amoWord sd sa sb g fn) lo n = sa.extractLsb' (lo - 15) n := by
  show BitVec.extractLsb' lo n ((0x14#7) ++ sd ++ sa ++ sb ++ g ++ fn ++ (0#3)) = _
  rw [cutHi _ _ _ _ (by omega), cutHi _ _ _ _ (by omega), cutHi _ _ _ _ (by omega), cutHi _ _ _ _ (by omega), cutLo _ _ _ _ (by omega)]
  congr 1

theorem amoWord_sd_20 (sd : BitVec 5) (sa : BitVec 5) (sb : BitVec 5) (g : BitVec 3) (fn : BitVec 4) (lo n : Nat) (h : 20 ≤ lo) (h' : lo + n ≤ 25) : fld (amoWord sd sa sb g fn) lo n = sd.extractLsb' (lo - 20) n := by
  show BitVec.extractLsb' lo n ((0x14#7) ++ sd ++ sa ++ sb ++ g ++ fn ++ (0#3)) = _
  rw [cutHi _ _ _ _ (by omega), cutHi _ _ _ _ (by omega), cutHi _ _ _ _ (by omega), cutHi _ _ _ _ (by omega), cutHi _ _ _ _ (by omega), cutLo _ _ _ _ (by omega)]
  congr 1

theorem amoWord_op_25 (sd : BitVec 5) (sa : BitVec 5) (sb : BitVec 5) (g : BitVec 3) (fn : BitVec 4) (lo n : Nat) (h : 25 ≤ lo) (_ : lo + n ≤ 32) : fld (amoWord sd sa sb g fn) lo n = (0x14#7).extractLsb' (lo - 25) n := by
  show BitVec.extractLsb' lo n ((0x14#7) ++ sd ++ sa ++ sb ++ g ++ fn ++ (0#3)) = _
  rw [cutHi _ _ _ _ (by omega), cutHi _ _ _ _ (by omega), cutHi _ _ _ _ (by omega), cutHi _ _ _ _ (by omega), cutHi _ _ _ _ (by omega), cutHi _ _ _ _ (by omega)]
  congr 1

theorem shWord_sh_0 (sd : BitVec 5) (sa : BitVec 5) (kind : BitVec 2) (sh : BitVec 6) (lo n : Nat) (h' : lo + n ≤ 6) : fld (shWord sd sa kind sh) lo n = sh.extractLsb' lo n := by
  show BitVec.extractLsb' lo n ((0x03#7) ++ sd ++ sa ++ (6#3) ++ kind ++ (0#4) ++ sh) = _
  rw [cutLo _ _ _ _ (by omega)]

theorem shWord_zero_6 (sd : BitVec 5) (sa : BitVec 5) (kind : BitVec 2) (sh : BitVec 6) (lo n : Nat) (h : 6 ≤ lo) (h' : lo + n ≤ 10) : fld (shWord sd sa kind sh) lo n = (0#4).extractLsb' (lo - 6) n := by
  show BitVec.extractLsb' lo n ((0x03#7) ++ sd ++ sa ++ (6#3) ++ kind ++ (0#4) ++ sh) = _
  rw [cutHi _ _ _ _ (by omega), cutLo _ _ _ _ (by omega)]

theorem shWord_kind_10 (sd : BitVec 5) (sa : BitVec 5) (kind : BitVec 2) (sh : BitVec 6) (lo n : Nat) (h : 10 ≤ lo) (h' : lo + n ≤ 12) : fld (shWord sd sa kind sh) lo n = kind.extractLsb' (lo - 10) n := by
  show BitVec.extractLsb' lo n ((0x03#7) ++ sd ++ sa ++ (6#3) ++ kind ++ (0#4) ++ sh) = _
  rw [cutHi _ _ _ _ (by omega), cutHi _ _ _ _ (by omega), cutLo _ _ _ _ (by omega)]
  congr 1

theorem shWord_f3_12 (sd : BitVec 5) (sa : BitVec 5) (kind : BitVec 2) (sh : BitVec 6) (lo n : Nat) (h : 12 ≤ lo) (h' : lo + n ≤ 15) : fld (shWord sd sa kind sh) lo n = (6#3).extractLsb' (lo - 12) n := by
  show BitVec.extractLsb' lo n ((0x03#7) ++ sd ++ sa ++ (6#3) ++ kind ++ (0#4) ++ sh) = _
  rw [cutHi _ _ _ _ (by omega), cutHi _ _ _ _ (by omega), cutHi _ _ _ _ (by omega), cutLo _ _ _ _ (by omega)]
  congr 1

theorem shWord_sa_15 (sd : BitVec 5) (sa : BitVec 5) (kind : BitVec 2) (sh : BitVec 6) (lo n : Nat) (h : 15 ≤ lo) (h' : lo + n ≤ 20) : fld (shWord sd sa kind sh) lo n = sa.extractLsb' (lo - 15) n := by
  show BitVec.extractLsb' lo n ((0x03#7) ++ sd ++ sa ++ (6#3) ++ kind ++ (0#4) ++ sh) = _
  rw [cutHi _ _ _ _ (by omega), cutHi _ _ _ _ (by omega), cutHi _ _ _ _ (by omega), cutHi _ _ _ _ (by omega), cutLo _ _ _ _ (by omega)]
  congr 1

theorem shWord_sd_20 (sd : BitVec 5) (sa : BitVec 5) (kind : BitVec 2) (sh : BitVec 6) (lo n : Nat) (h : 20 ≤ lo) (h' : lo + n ≤ 25) : fld (shWord sd sa kind sh) lo n = sd.extractLsb' (lo - 20) n := by
  show BitVec.extractLsb' lo n ((0x03#7) ++ sd ++ sa ++ (6#3) ++ kind ++ (0#4) ++ sh) = _
  rw [cutHi _ _ _ _ (by omega), cutHi _ _ _ _ (by omega), cutHi _ _ _ _ (by omega), cutHi _ _ _ _ (by omega), cutHi _ _ _ _ (by omega), cutLo _ _ _ _ (by omega)]
  congr 1

theorem shWord_op_25 (sd : BitVec 5) (sa : BitVec 5) (kind : BitVec 2) (sh : BitVec 6) (lo n : Nat) (h : 25 ≤ lo) (_ : lo + n ≤ 32) : fld (shWord sd sa kind sh) lo n = (0x03#7).extractLsb' (lo - 25) n := by
  show BitVec.extractLsb' lo n ((0x03#7) ++ sd ++ sa ++ (6#3) ++ kind ++ (0#4) ++ sh) = _
  rw [cutHi _ _ _ _ (by omega), cutHi _ _ _ _ (by omega), cutHi _ _ _ _ (by omega), cutHi _ _ _ _ (by omega), cutHi _ _ _ _ (by omega), cutHi _ _ _ _ (by omega)]
  congr 1

theorem sWord_imm_0 (op : BitVec 7) (imm : BitVec 12) (sa : BitVec 5) (sb : BitVec 5) (g : BitVec 3) (lo n : Nat) (h' : lo + n ≤ 7) : fld (sWord op imm sa sb g) lo n = (imm.extractLsb' 0 7).extractLsb' lo n := by
  show BitVec.extractLsb' lo n (op ++ (imm.extractLsb' 7 5) ++ sa ++ sb ++ g ++ (imm.extractLsb' 0 7)) = _
  rw [cutLo _ _ _ _ (by omega)]

theorem sWord_g_7 (op : BitVec 7) (imm : BitVec 12) (sa : BitVec 5) (sb : BitVec 5) (g : BitVec 3) (lo n : Nat) (h : 7 ≤ lo) (h' : lo + n ≤ 10) : fld (sWord op imm sa sb g) lo n = g.extractLsb' (lo - 7) n := by
  show BitVec.extractLsb' lo n (op ++ (imm.extractLsb' 7 5) ++ sa ++ sb ++ g ++ (imm.extractLsb' 0 7)) = _
  rw [cutHi _ _ _ _ (by omega), cutLo _ _ _ _ (by omega)]

theorem sWord_sb_10 (op : BitVec 7) (imm : BitVec 12) (sa : BitVec 5) (sb : BitVec 5) (g : BitVec 3) (lo n : Nat) (h : 10 ≤ lo) (h' : lo + n ≤ 15) : fld (sWord op imm sa sb g) lo n = sb.extractLsb' (lo - 10) n := by
  show BitVec.extractLsb' lo n (op ++ (imm.extractLsb' 7 5) ++ sa ++ sb ++ g ++ (imm.extractLsb' 0 7)) = _
  rw [cutHi _ _ _ _ (by omega), cutHi _ _ _ _ (by omega), cutLo _ _ _ _ (by omega)]
  congr 1

theorem sWord_sa_15 (op : BitVec 7) (imm : BitVec 12) (sa : BitVec 5) (sb : BitVec 5) (g : BitVec 3) (lo n : Nat) (h : 15 ≤ lo) (h' : lo + n ≤ 20) : fld (sWord op imm sa sb g) lo n = sa.extractLsb' (lo - 15) n := by
  show BitVec.extractLsb' lo n (op ++ (imm.extractLsb' 7 5) ++ sa ++ sb ++ g ++ (imm.extractLsb' 0 7)) = _
  rw [cutHi _ _ _ _ (by omega), cutHi _ _ _ _ (by omega), cutHi _ _ _ _ (by omega), cutLo _ _ _ _ (by omega)]
  congr 1

theorem sWord_imm_20 (op : BitVec 7) (imm : BitVec 12) (sa : BitVec 5) (sb : BitVec 5) (g : BitVec 3) (lo n : Nat) (h : 20 ≤ lo) (h' : lo + n ≤ 25) : fld (sWord op imm sa sb g) lo n = (imm.extractLsb' 7 5).extractLsb' (lo - 20) n := by
  show BitVec.extractLsb' lo n (op ++ (imm.extractLsb' 7 5) ++ sa ++ sb ++ g ++ (imm.extractLsb' 0 7)) = _
  rw [cutHi _ _ _ _ (by omega), cutHi _ _ _ _ (by omega), cutHi _ _ _ _ (by omega), cutHi _ _ _ _ (by omega), cutLo _ _ _ _ (by omega)]
  congr 1

theorem sWord_op_25 (op : BitVec 7) (imm : BitVec 12) (sa : BitVec 5) (sb : BitVec 5) (g : BitVec 3) (lo n : Nat) (h : 25 ≤ lo) (_ : lo + n ≤ 32) : fld (sWord op imm sa sb g) lo n = op.extractLsb' (lo - 25) n := by
  show BitVec.extractLsb' lo n (op ++ (imm.extractLsb' 7 5) ++ sa ++ sb ++ g ++ (imm.extractLsb' 0 7)) = _
  rw [cutHi _ _ _ _ (by omega), cutHi _ _ _ _ (by omega), cutHi _ _ _ _ (by omega), cutHi _ _ _ _ (by omega), cutHi _ _ _ _ (by omega)]
  congr 1

theorem rWord_fn_0 (op : BitVec 7) (sd : BitVec 5) (sa : BitVec 5) (sb : BitVec 5) (fx : BitVec 5) (fn : BitVec 5) (lo n : Nat) (h' : lo + n ≤ 5) : fld (rWord op sd sa sb fx fn) lo n = fn.extractLsb' lo n := by
  show BitVec.extractLsb' lo n (op ++ sd ++ sa ++ sb ++ fx ++ fn) = _
  rw [cutLo _ _ _ _ (by omega)]

theorem rWord_fx_5 (op : BitVec 7) (sd : BitVec 5) (sa : BitVec 5) (sb : BitVec 5) (fx : BitVec 5) (fn : BitVec 5) (lo n : Nat) (h : 5 ≤ lo) (h' : lo + n ≤ 10) : fld (rWord op sd sa sb fx fn) lo n = fx.extractLsb' (lo - 5) n := by
  show BitVec.extractLsb' lo n (op ++ sd ++ sa ++ sb ++ fx ++ fn) = _
  rw [cutHi _ _ _ _ (by omega), cutLo _ _ _ _ (by omega)]

theorem rWord_sb_10 (op : BitVec 7) (sd : BitVec 5) (sa : BitVec 5) (sb : BitVec 5) (fx : BitVec 5) (fn : BitVec 5) (lo n : Nat) (h : 10 ≤ lo) (h' : lo + n ≤ 15) : fld (rWord op sd sa sb fx fn) lo n = sb.extractLsb' (lo - 10) n := by
  show BitVec.extractLsb' lo n (op ++ sd ++ sa ++ sb ++ fx ++ fn) = _
  rw [cutHi _ _ _ _ (by omega), cutHi _ _ _ _ (by omega), cutLo _ _ _ _ (by omega)]
  congr 1

theorem rWord_sa_15 (op : BitVec 7) (sd : BitVec 5) (sa : BitVec 5) (sb : BitVec 5) (fx : BitVec 5) (fn : BitVec 5) (lo n : Nat) (h : 15 ≤ lo) (h' : lo + n ≤ 20) : fld (rWord op sd sa sb fx fn) lo n = sa.extractLsb' (lo - 15) n := by
  show BitVec.extractLsb' lo n (op ++ sd ++ sa ++ sb ++ fx ++ fn) = _
  rw [cutHi _ _ _ _ (by omega), cutHi _ _ _ _ (by omega), cutHi _ _ _ _ (by omega), cutLo _ _ _ _ (by omega)]
  congr 1

theorem rWord_sd_20 (op : BitVec 7) (sd : BitVec 5) (sa : BitVec 5) (sb : BitVec 5) (fx : BitVec 5) (fn : BitVec 5) (lo n : Nat) (h : 20 ≤ lo) (h' : lo + n ≤ 25) : fld (rWord op sd sa sb fx fn) lo n = sd.extractLsb' (lo - 20) n := by
  show BitVec.extractLsb' lo n (op ++ sd ++ sa ++ sb ++ fx ++ fn) = _
  rw [cutHi _ _ _ _ (by omega), cutHi _ _ _ _ (by omega), cutHi _ _ _ _ (by omega), cutHi _ _ _ _ (by omega), cutLo _ _ _ _ (by omega)]
  congr 1

theorem rWord_op_25 (op : BitVec 7) (sd : BitVec 5) (sa : BitVec 5) (sb : BitVec 5) (fx : BitVec 5) (fn : BitVec 5) (lo n : Nat) (h : 25 ≤ lo) (_ : lo + n ≤ 32) : fld (rWord op sd sa sb fx fn) lo n = op.extractLsb' (lo - 25) n := by
  show BitVec.extractLsb' lo n (op ++ sd ++ sa ++ sb ++ fx ++ fn) = _
  rw [cutHi _ _ _ _ (by omega), cutHi _ _ _ _ (by omega), cutHi _ _ _ _ (by omega), cutHi _ _ _ _ (by omega), cutHi _ _ _ _ (by omega)]
  congr 1

theorem iWord_imm_0 (op : BitVec 7) (sd : BitVec 5) (sa : BitVec 5) (f3 : BitVec 3) (imm : BitVec 12) (lo n : Nat) (h' : lo + n ≤ 12) : fld (iWord op sd sa f3 imm) lo n = imm.extractLsb' lo n := by
  show BitVec.extractLsb' lo n (op ++ sd ++ sa ++ f3 ++ imm) = _
  rw [cutLo _ _ _ _ (by omega)]

theorem iWord_f3_12 (op : BitVec 7) (sd : BitVec 5) (sa : BitVec 5) (f3 : BitVec 3) (imm : BitVec 12) (lo n : Nat) (h : 12 ≤ lo) (h' : lo + n ≤ 15) : fld (iWord op sd sa f3 imm) lo n = f3.extractLsb' (lo - 12) n := by
  show BitVec.extractLsb' lo n (op ++ sd ++ sa ++ f3 ++ imm) = _
  rw [cutHi _ _ _ _ (by omega), cutLo _ _ _ _ (by omega)]

theorem iWord_sa_15 (op : BitVec 7) (sd : BitVec 5) (sa : BitVec 5) (f3 : BitVec 3) (imm : BitVec 12) (lo n : Nat) (h : 15 ≤ lo) (h' : lo + n ≤ 20) : fld (iWord op sd sa f3 imm) lo n = sa.extractLsb' (lo - 15) n := by
  show BitVec.extractLsb' lo n (op ++ sd ++ sa ++ f3 ++ imm) = _
  rw [cutHi _ _ _ _ (by omega), cutHi _ _ _ _ (by omega), cutLo _ _ _ _ (by omega)]
  congr 1

theorem iWord_sd_20 (op : BitVec 7) (sd : BitVec 5) (sa : BitVec 5) (f3 : BitVec 3) (imm : BitVec 12) (lo n : Nat) (h : 20 ≤ lo) (h' : lo + n ≤ 25) : fld (iWord op sd sa f3 imm) lo n = sd.extractLsb' (lo - 20) n := by
  show BitVec.extractLsb' lo n (op ++ sd ++ sa ++ f3 ++ imm) = _
  rw [cutHi _ _ _ _ (by omega), cutHi _ _ _ _ (by omega), cutHi _ _ _ _ (by omega), cutLo _ _ _ _ (by omega)]
  congr 1

theorem iWord_op_25 (op : BitVec 7) (sd : BitVec 5) (sa : BitVec 5) (f3 : BitVec 3) (imm : BitVec 12) (lo n : Nat) (h : 25 ≤ lo) (_ : lo + n ≤ 32) : fld (iWord op sd sa f3 imm) lo n = op.extractLsb' (lo - 25) n := by
  show BitVec.extractLsb' lo n (op ++ sd ++ sa ++ f3 ++ imm) = _
  rw [cutHi _ _ _ _ (by omega), cutHi _ _ _ _ (by omega), cutHi _ _ _ _ (by omega), cutHi _ _ _ _ (by omega)]
  congr 1

theorem uWord_imm_0 (op : BitVec 7) (sd : BitVec 5) (imm : BitVec 20) (lo n : Nat) (h' : lo + n ≤ 20) : fld (uWord op sd imm) lo n = imm.extractLsb' lo n := by
  show BitVec.extractLsb' lo n (op ++ sd ++ imm) = _
  rw [cutLo _ _ _ _ (by omega)]

theorem uWord_sd_20 (op : BitVec 7) (sd : BitVec 5) (imm : BitVec 20) (lo n : Nat) (h : 20 ≤ lo) (h' : lo + n ≤ 25) : fld (uWord op sd imm) lo n = sd.extractLsb' (lo - 20) n := by
  show BitVec.extractLsb' lo n (op ++ sd ++ imm) = _
  rw [cutHi _ _ _ _ (by omega), cutLo _ _ _ _ (by omega)]

theorem uWord_op_25 (op : BitVec 7) (sd : BitVec 5) (imm : BitVec 20) (lo n : Nat) (h : 25 ≤ lo) (_ : lo + n ≤ 32) : fld (uWord op sd imm) lo n = op.extractLsb' (lo - 25) n := by
  show BitVec.extractLsb' lo n (op ++ sd ++ imm) = _
  rw [cutHi _ _ _ _ (by omega), cutHi _ _ _ _ (by omega)]
  congr 1

theorem bWord_off_0 (op : BitVec 7) (sa : BitVec 5) (sb : BitVec 5) (cond : BitVec 3) (off : BitVec 12) (lo n : Nat) (h' : lo + n ≤ 12) : fld (bWord op sa sb cond off) lo n = off.extractLsb' lo n := by
  show BitVec.extractLsb' lo n (op ++ sa ++ sb ++ cond ++ off) = _
  rw [cutLo _ _ _ _ (by omega)]

theorem bWord_cond_12 (op : BitVec 7) (sa : BitVec 5) (sb : BitVec 5) (cond : BitVec 3) (off : BitVec 12) (lo n : Nat) (h : 12 ≤ lo) (h' : lo + n ≤ 15) : fld (bWord op sa sb cond off) lo n = cond.extractLsb' (lo - 12) n := by
  show BitVec.extractLsb' lo n (op ++ sa ++ sb ++ cond ++ off) = _
  rw [cutHi _ _ _ _ (by omega), cutLo _ _ _ _ (by omega)]

theorem bWord_sb_15 (op : BitVec 7) (sa : BitVec 5) (sb : BitVec 5) (cond : BitVec 3) (off : BitVec 12) (lo n : Nat) (h : 15 ≤ lo) (h' : lo + n ≤ 20) : fld (bWord op sa sb cond off) lo n = sb.extractLsb' (lo - 15) n := by
  show BitVec.extractLsb' lo n (op ++ sa ++ sb ++ cond ++ off) = _
  rw [cutHi _ _ _ _ (by omega), cutHi _ _ _ _ (by omega), cutLo _ _ _ _ (by omega)]
  congr 1

theorem bWord_sa_20 (op : BitVec 7) (sa : BitVec 5) (sb : BitVec 5) (cond : BitVec 3) (off : BitVec 12) (lo n : Nat) (h : 20 ≤ lo) (h' : lo + n ≤ 25) : fld (bWord op sa sb cond off) lo n = sa.extractLsb' (lo - 20) n := by
  show BitVec.extractLsb' lo n (op ++ sa ++ sb ++ cond ++ off) = _
  rw [cutHi _ _ _ _ (by omega), cutHi _ _ _ _ (by omega), cutHi _ _ _ _ (by omega), cutLo _ _ _ _ (by omega)]
  congr 1

theorem bWord_op_25 (op : BitVec 7) (sa : BitVec 5) (sb : BitVec 5) (cond : BitVec 3) (off : BitVec 12) (lo n : Nat) (h : 25 ≤ lo) (_ : lo + n ≤ 32) : fld (bWord op sa sb cond off) lo n = op.extractLsb' (lo - 25) n := by
  show BitVec.extractLsb' lo n (op ++ sa ++ sb ++ cond ++ off) = _
  rw [cutHi _ _ _ _ (by omega), cutHi _ _ _ _ (by omega), cutHi _ _ _ _ (by omega), cutHi _ _ _ _ (by omega)]
  congr 1

theorem vWord_vb_0 (op : BitVec 7) (d : BitVec 1) (g : BitVec 3) (vd : BitVec 7) (va : BitVec 7) (vb : BitVec 7) (lo n : Nat) (h' : lo + n ≤ 7) : fld (vWord op d g vd va vb) lo n = vb.extractLsb' lo n := by
  show BitVec.extractLsb' lo n (op ++ d ++ g ++ vd ++ va ++ vb) = _
  rw [cutLo _ _ _ _ (by omega)]

theorem vWord_va_7 (op : BitVec 7) (d : BitVec 1) (g : BitVec 3) (vd : BitVec 7) (va : BitVec 7) (vb : BitVec 7) (lo n : Nat) (h : 7 ≤ lo) (h' : lo + n ≤ 14) : fld (vWord op d g vd va vb) lo n = va.extractLsb' (lo - 7) n := by
  show BitVec.extractLsb' lo n (op ++ d ++ g ++ vd ++ va ++ vb) = _
  rw [cutHi _ _ _ _ (by omega), cutLo _ _ _ _ (by omega)]

theorem vWord_vd_14 (op : BitVec 7) (d : BitVec 1) (g : BitVec 3) (vd : BitVec 7) (va : BitVec 7) (vb : BitVec 7) (lo n : Nat) (h : 14 ≤ lo) (h' : lo + n ≤ 21) : fld (vWord op d g vd va vb) lo n = vd.extractLsb' (lo - 14) n := by
  show BitVec.extractLsb' lo n (op ++ d ++ g ++ vd ++ va ++ vb) = _
  rw [cutHi _ _ _ _ (by omega), cutHi _ _ _ _ (by omega), cutLo _ _ _ _ (by omega)]
  congr 1

theorem vWord_g_21 (op : BitVec 7) (d : BitVec 1) (g : BitVec 3) (vd : BitVec 7) (va : BitVec 7) (vb : BitVec 7) (lo n : Nat) (h : 21 ≤ lo) (h' : lo + n ≤ 24) : fld (vWord op d g vd va vb) lo n = g.extractLsb' (lo - 21) n := by
  show BitVec.extractLsb' lo n (op ++ d ++ g ++ vd ++ va ++ vb) = _
  rw [cutHi _ _ _ _ (by omega), cutHi _ _ _ _ (by omega), cutHi _ _ _ _ (by omega), cutLo _ _ _ _ (by omega)]
  congr 1

theorem vWord_d_24 (op : BitVec 7) (d : BitVec 1) (g : BitVec 3) (vd : BitVec 7) (va : BitVec 7) (vb : BitVec 7) (lo n : Nat) (h : 24 ≤ lo) (h' : lo + n ≤ 25) : fld (vWord op d g vd va vb) lo n = d.extractLsb' (lo - 24) n := by
  show BitVec.extractLsb' lo n (op ++ d ++ g ++ vd ++ va ++ vb) = _
  rw [cutHi _ _ _ _ (by omega), cutHi _ _ _ _ (by omega), cutHi _ _ _ _ (by omega), cutHi _ _ _ _ (by omega), cutLo _ _ _ _ (by omega)]
  congr 1

theorem vWord_op_25 (op : BitVec 7) (d : BitVec 1) (g : BitVec 3) (vd : BitVec 7) (va : BitVec 7) (vb : BitVec 7) (lo n : Nat) (h : 25 ≤ lo) (_ : lo + n ≤ 32) : fld (vWord op d g vd va vb) lo n = op.extractLsb' (lo - 25) n := by
  show BitVec.extractLsb' lo n (op ++ d ++ g ++ vd ++ va ++ vb) = _
  rw [cutHi _ _ _ _ (by omega), cutHi _ _ _ _ (by omega), cutHi _ _ _ _ (by omega), cutHi _ _ _ _ (by omega), cutHi _ _ _ _ (by omega)]
  congr 1

theorem vmWord_fn_0 (op : BitVec 7) (d : BitVec 1) (g : BitVec 3) (vd : BitVec 7) (sa : BitVec 5) (sb : BitVec 5) (fn : BitVec 4) (lo n : Nat) (h' : lo + n ≤ 4) : fld (vmWord op d g vd sa sb fn) lo n = fn.extractLsb' lo n := by
  show BitVec.extractLsb' lo n (op ++ d ++ g ++ vd ++ sa ++ sb ++ fn) = _
  rw [cutLo _ _ _ _ (by omega)]

theorem vmWord_sb_4 (op : BitVec 7) (d : BitVec 1) (g : BitVec 3) (vd : BitVec 7) (sa : BitVec 5) (sb : BitVec 5) (fn : BitVec 4) (lo n : Nat) (h : 4 ≤ lo) (h' : lo + n ≤ 9) : fld (vmWord op d g vd sa sb fn) lo n = sb.extractLsb' (lo - 4) n := by
  show BitVec.extractLsb' lo n (op ++ d ++ g ++ vd ++ sa ++ sb ++ fn) = _
  rw [cutHi _ _ _ _ (by omega), cutLo _ _ _ _ (by omega)]

theorem vmWord_sa_9 (op : BitVec 7) (d : BitVec 1) (g : BitVec 3) (vd : BitVec 7) (sa : BitVec 5) (sb : BitVec 5) (fn : BitVec 4) (lo n : Nat) (h : 9 ≤ lo) (h' : lo + n ≤ 14) : fld (vmWord op d g vd sa sb fn) lo n = sa.extractLsb' (lo - 9) n := by
  show BitVec.extractLsb' lo n (op ++ d ++ g ++ vd ++ sa ++ sb ++ fn) = _
  rw [cutHi _ _ _ _ (by omega), cutHi _ _ _ _ (by omega), cutLo _ _ _ _ (by omega)]
  congr 1

theorem vmWord_vd_14 (op : BitVec 7) (d : BitVec 1) (g : BitVec 3) (vd : BitVec 7) (sa : BitVec 5) (sb : BitVec 5) (fn : BitVec 4) (lo n : Nat) (h : 14 ≤ lo) (h' : lo + n ≤ 21) : fld (vmWord op d g vd sa sb fn) lo n = vd.extractLsb' (lo - 14) n := by
  show BitVec.extractLsb' lo n (op ++ d ++ g ++ vd ++ sa ++ sb ++ fn) = _
  rw [cutHi _ _ _ _ (by omega), cutHi _ _ _ _ (by omega), cutHi _ _ _ _ (by omega), cutLo _ _ _ _ (by omega)]
  congr 1

theorem vmWord_g_21 (op : BitVec 7) (d : BitVec 1) (g : BitVec 3) (vd : BitVec 7) (sa : BitVec 5) (sb : BitVec 5) (fn : BitVec 4) (lo n : Nat) (h : 21 ≤ lo) (h' : lo + n ≤ 24) : fld (vmWord op d g vd sa sb fn) lo n = g.extractLsb' (lo - 21) n := by
  show BitVec.extractLsb' lo n (op ++ d ++ g ++ vd ++ sa ++ sb ++ fn) = _
  rw [cutHi _ _ _ _ (by omega), cutHi _ _ _ _ (by omega), cutHi _ _ _ _ (by omega), cutHi _ _ _ _ (by omega), cutLo _ _ _ _ (by omega)]
  congr 1

theorem vmWord_d_24 (op : BitVec 7) (d : BitVec 1) (g : BitVec 3) (vd : BitVec 7) (sa : BitVec 5) (sb : BitVec 5) (fn : BitVec 4) (lo n : Nat) (h : 24 ≤ lo) (h' : lo + n ≤ 25) : fld (vmWord op d g vd sa sb fn) lo n = d.extractLsb' (lo - 24) n := by
  show BitVec.extractLsb' lo n (op ++ d ++ g ++ vd ++ sa ++ sb ++ fn) = _
  rw [cutHi _ _ _ _ (by omega), cutHi _ _ _ _ (by omega), cutHi _ _ _ _ (by omega), cutHi _ _ _ _ (by omega), cutHi _ _ _ _ (by omega), cutLo _ _ _ _ (by omega)]
  congr 1

theorem vmWord_op_25 (op : BitVec 7) (d : BitVec 1) (g : BitVec 3) (vd : BitVec 7) (sa : BitVec 5) (sb : BitVec 5) (fn : BitVec 4) (lo n : Nat) (h : 25 ≤ lo) (_ : lo + n ≤ 32) : fld (vmWord op d g vd sa sb fn) lo n = op.extractLsb' (lo - 25) n := by
  show BitVec.extractLsb' lo n (op ++ d ++ g ++ vd ++ sa ++ sb ++ fn) = _
  rw [cutHi _ _ _ _ (by omega), cutHi _ _ _ _ (by omega), cutHi _ _ _ _ (by omega), cutHi _ _ _ _ (by omega), cutHi _ _ _ _ (by omega), cutHi _ _ _ _ (by omega)]
  congr 1

theorem vmxWord_fn_0 (op : BitVec 7) (d : BitVec 1) (g : BitVec 3) (vd : BitVec 7) (sa : BitVec 5) (vi : BitVec 7) (fn : BitVec 2) (lo n : Nat) (h' : lo + n ≤ 2) : fld (vmxWord op d g vd sa vi fn) lo n = fn.extractLsb' lo n := by
  show BitVec.extractLsb' lo n (op ++ d ++ g ++ vd ++ sa ++ vi ++ fn) = _
  rw [cutLo _ _ _ _ (by omega)]

theorem vmxWord_vi_2 (op : BitVec 7) (d : BitVec 1) (g : BitVec 3) (vd : BitVec 7) (sa : BitVec 5) (vi : BitVec 7) (fn : BitVec 2) (lo n : Nat) (h : 2 ≤ lo) (h' : lo + n ≤ 9) : fld (vmxWord op d g vd sa vi fn) lo n = vi.extractLsb' (lo - 2) n := by
  show BitVec.extractLsb' lo n (op ++ d ++ g ++ vd ++ sa ++ vi ++ fn) = _
  rw [cutHi _ _ _ _ (by omega), cutLo _ _ _ _ (by omega)]

theorem vmxWord_sa_9 (op : BitVec 7) (d : BitVec 1) (g : BitVec 3) (vd : BitVec 7) (sa : BitVec 5) (vi : BitVec 7) (fn : BitVec 2) (lo n : Nat) (h : 9 ≤ lo) (h' : lo + n ≤ 14) : fld (vmxWord op d g vd sa vi fn) lo n = sa.extractLsb' (lo - 9) n := by
  show BitVec.extractLsb' lo n (op ++ d ++ g ++ vd ++ sa ++ vi ++ fn) = _
  rw [cutHi _ _ _ _ (by omega), cutHi _ _ _ _ (by omega), cutLo _ _ _ _ (by omega)]
  congr 1

theorem vmxWord_vd_14 (op : BitVec 7) (d : BitVec 1) (g : BitVec 3) (vd : BitVec 7) (sa : BitVec 5) (vi : BitVec 7) (fn : BitVec 2) (lo n : Nat) (h : 14 ≤ lo) (h' : lo + n ≤ 21) : fld (vmxWord op d g vd sa vi fn) lo n = vd.extractLsb' (lo - 14) n := by
  show BitVec.extractLsb' lo n (op ++ d ++ g ++ vd ++ sa ++ vi ++ fn) = _
  rw [cutHi _ _ _ _ (by omega), cutHi _ _ _ _ (by omega), cutHi _ _ _ _ (by omega), cutLo _ _ _ _ (by omega)]
  congr 1

theorem vmxWord_g_21 (op : BitVec 7) (d : BitVec 1) (g : BitVec 3) (vd : BitVec 7) (sa : BitVec 5) (vi : BitVec 7) (fn : BitVec 2) (lo n : Nat) (h : 21 ≤ lo) (h' : lo + n ≤ 24) : fld (vmxWord op d g vd sa vi fn) lo n = g.extractLsb' (lo - 21) n := by
  show BitVec.extractLsb' lo n (op ++ d ++ g ++ vd ++ sa ++ vi ++ fn) = _
  rw [cutHi _ _ _ _ (by omega), cutHi _ _ _ _ (by omega), cutHi _ _ _ _ (by omega), cutHi _ _ _ _ (by omega), cutLo _ _ _ _ (by omega)]
  congr 1

theorem vmxWord_d_24 (op : BitVec 7) (d : BitVec 1) (g : BitVec 3) (vd : BitVec 7) (sa : BitVec 5) (vi : BitVec 7) (fn : BitVec 2) (lo n : Nat) (h : 24 ≤ lo) (h' : lo + n ≤ 25) : fld (vmxWord op d g vd sa vi fn) lo n = d.extractLsb' (lo - 24) n := by
  show BitVec.extractLsb' lo n (op ++ d ++ g ++ vd ++ sa ++ vi ++ fn) = _
  rw [cutHi _ _ _ _ (by omega), cutHi _ _ _ _ (by omega), cutHi _ _ _ _ (by omega), cutHi _ _ _ _ (by omega), cutHi _ _ _ _ (by omega), cutLo _ _ _ _ (by omega)]
  congr 1

theorem vmxWord_op_25 (op : BitVec 7) (d : BitVec 1) (g : BitVec 3) (vd : BitVec 7) (sa : BitVec 5) (vi : BitVec 7) (fn : BitVec 2) (lo n : Nat) (h : 25 ≤ lo) (_ : lo + n ≤ 32) : fld (vmxWord op d g vd sa vi fn) lo n = op.extractLsb' (lo - 25) n := by
  show BitVec.extractLsb' lo n (op ++ d ++ g ++ vd ++ sa ++ vi ++ fn) = _
  rw [cutHi _ _ _ _ (by omega), cutHi _ _ _ _ (by omega), cutHi _ _ _ _ (by omega), cutHi _ _ _ _ (by omega), cutHi _ _ _ _ (by omega), cutHi _ _ _ _ (by omega)]
  congr 1

theorem amoWord_op (sd : BitVec 5) (sa : BitVec 5) (sb : BitVec 5) (g : BitVec 3) (fn : BitVec 4) : fld (amoWord sd sa sb g fn) 25 7 = (0x14#7) := by
  simp (disch := decide) only [amoWord_op_25, Nat.sub_self, cutAll]

theorem shWord_op (sd : BitVec 5) (sa : BitVec 5) (kind : BitVec 2) (sh : BitVec 6) : fld (shWord sd sa kind sh) 25 7 = (0x03#7) := by
  simp (disch := decide) only [shWord_op_25, Nat.sub_self, cutAll]

theorem sWord_op (op : BitVec 7) (imm : BitVec 12) (sa : BitVec 5) (sb : BitVec 5) (g : BitVec 3) : fld (sWord op imm sa sb g) 25 7 = op := by
  simp (disch := decide) only [sWord_op_25, Nat.sub_self, cutAll]

theorem rWord_op (op : BitVec 7) (sd : BitVec 5) (sa : BitVec 5) (sb : BitVec 5) (fx : BitVec 5) (fn : BitVec 5) : fld (rWord op sd sa sb fx fn) 25 7 = op := by
  simp (disch := decide) only [rWord_op_25, Nat.sub_self, cutAll]

theorem iWord_op (op : BitVec 7) (sd : BitVec 5) (sa : BitVec 5) (f3 : BitVec 3) (imm : BitVec 12) : fld (iWord op sd sa f3 imm) 25 7 = op := by
  simp (disch := decide) only [iWord_op_25, Nat.sub_self, cutAll]

theorem uWord_op (op : BitVec 7) (sd : BitVec 5) (imm : BitVec 20) : fld (uWord op sd imm) 25 7 = op := by
  simp (disch := decide) only [uWord_op_25, Nat.sub_self, cutAll]

theorem bWord_op (op : BitVec 7) (sa : BitVec 5) (sb : BitVec 5) (cond : BitVec 3) (off : BitVec 12) : fld (bWord op sa sb cond off) 25 7 = op := by
  simp (disch := decide) only [bWord_op_25, Nat.sub_self, cutAll]

theorem vWord_op (op : BitVec 7) (d : BitVec 1) (g : BitVec 3) (vd : BitVec 7) (va : BitVec 7) (vb : BitVec 7) : fld (vWord op d g vd va vb) 25 7 = op := by
  simp (disch := decide) only [vWord_op_25, Nat.sub_self, cutAll]

theorem vmWord_op (op : BitVec 7) (d : BitVec 1) (g : BitVec 3) (vd : BitVec 7) (sa : BitVec 5) (sb : BitVec 5) (fn : BitVec 4) : fld (vmWord op d g vd sa sb fn) 25 7 = op := by
  simp (disch := decide) only [vmWord_op_25, Nat.sub_self, cutAll]

theorem vmxWord_op (op : BitVec 7) (d : BitVec 1) (g : BitVec 3) (vd : BitVec 7) (sa : BitVec 5) (vi : BitVec 7) (fn : BitVec 2) : fld (vmxWord op d g vd sa vi fn) 25 7 = op := by
  simp (disch := decide) only [vmxWord_op_25, Nat.sub_self, cutAll]

theorem SOp.ofBits_bits (o : SOp) : SOp.ofBits o.bits = o := by
  cases o with
  | s n => revert n; decide
  | q n => revert n; decide

theorem VOp.ofBits_bits (o : VOp) : VOp.ofBits o.bits = some o := by
  cases o with
  | v n => revert n; decide
  | w n => revert n; decide
  | z n => revert n; decide
  | q n => revert n; decide
  | m n => revert n; decide
  | none => decide

theorem slotBits_toFin (g : Fin 8) : (slotBits g).toFin = g := rfl

theorem fx3_low (g : Fin 8) : (fx3 g).extractLsb' 0 3 = slotBits g := by
  unfold fx3; rw [cutLo _ _ _ _ (by omega), cutAll]

theorem fx3_high (g : Fin 8) : (fx3 g).extractLsb' 3 2 = 0#2 := by
  unfold fx3; rw [cutHi _ _ _ _ (by omega)]; rfl

theorem fx4_low (n : BitVec 4) : (fx4 n).extractLsb' 0 4 = n := by
  unfold fx4; rw [cutLo _ _ _ _ (by omega), cutAll]

theorem fx4_high (n : BitVec 4) : (fx4 n).extractLsb' 4 1 = 0#1 := by
  unfold fx4; rw [cutHi _ _ _ _ (by omega)]; rfl

theorem dBits_bit (dt : Bool) : (dBits dt == 1#1) = dt := by cases dt <;> decide

/-- The two parts of the S-format immediate make it whole (R124). -/
theorem simm_parts (imm : BitVec 12) : (imm.extractLsb' 7 5 ++ imm.extractLsb' 0 7 : BitVec 12) = imm := by
  apply BitVec.eq_of_toNat_eq
  simp only [BitVec.toNat_append, BitVec.extractLsb'_toNat, Nat.shiftRight_zero]
  rw [← Nat.shiftLeft_add_eq_or_of_lt (Nat.mod_lt _ (by decide))]
  have := imm.isLt
  simp only [Nat.shiftRight_eq_div_pow, Nat.shiftLeft_eq]
  omega

end Sys2Proof
end

