-- ==== Sys2Proof/Laws/PerInstr.lean ====
section
/-! SUPPORT. RoundTrip, instruction by instruction: the decoder reads from the word of an instruction that instruction. -/

set_option linter.unusedSimpArgs false
set_option linter.unusedVariables false
set_option Elab.async false

namespace Sys2Proof.Laws.RoundTrip

/-- The word of a well-formed instruction, where it has one, decodes to it. -/
def Statement (i : Instr) : Prop := wellFormed i = true → ∀ w, encodeWord i = some w → decode w = .ok i

theorem add (sd sa sb : SOp) : Statement (.add sd sa sb) := by
  intro _ w h
  simp only [encodeWord, Option.some.injEq] at h
  subst h
  unfold decode
  rw [rWord_op]
  show decodeOp01 _ = _
  simp (disch := decide) [decodeOp01, sop, slot, dbit, need, zero, v1, v2, v3, vx, simm, fx3_low, fx3_high, fx4_low, fx4_high, cutAll, cutLo,
    cutHi, rWord_fn_0, rWord_fx_5, rWord_sb_10, rWord_sa_15, rWord_sd_20, rWord_op_25, SOp.ofBits_bits, VOp.ofBits_bits,
    slotBits_toFin, dBits_bit, simm_parts]

theorem sub (sd sa sb : SOp) : Statement (.sub sd sa sb) := by
  intro _ w h
  simp only [encodeWord, Option.some.injEq] at h
  subst h
  unfold decode
  rw [rWord_op]
  show decodeOp01 _ = _
  simp (disch := decide) [decodeOp01, sop, slot, dbit, need, zero, v1, v2, v3, vx, simm, fx3_low, fx3_high, fx4_low, fx4_high, cutAll, cutLo,
    cutHi, rWord_fn_0, rWord_fx_5, rWord_sb_10, rWord_sa_15, rWord_sd_20, rWord_op_25, SOp.ofBits_bits, VOp.ofBits_bits,
    slotBits_toFin, dBits_bit, simm_parts]

theorem and (sd sa sb : SOp) : Statement (.and sd sa sb) := by
  intro _ w h
  simp only [encodeWord, Option.some.injEq] at h
  subst h
  unfold decode
  rw [rWord_op]
  show decodeOp01 _ = _
  simp (disch := decide) [decodeOp01, sop, slot, dbit, need, zero, v1, v2, v3, vx, simm, fx3_low, fx3_high, fx4_low, fx4_high, cutAll, cutLo,
    cutHi, rWord_fn_0, rWord_fx_5, rWord_sb_10, rWord_sa_15, rWord_sd_20, rWord_op_25, SOp.ofBits_bits, VOp.ofBits_bits,
    slotBits_toFin, dBits_bit, simm_parts]

theorem or (sd sa sb : SOp) : Statement (.or sd sa sb) := by
  intro _ w h
  simp only [encodeWord, Option.some.injEq] at h
  subst h
  unfold decode
  rw [rWord_op]
  show decodeOp01 _ = _
  simp (disch := decide) [decodeOp01, sop, slot, dbit, need, zero, v1, v2, v3, vx, simm, fx3_low, fx3_high, fx4_low, fx4_high, cutAll, cutLo,
    cutHi, rWord_fn_0, rWord_fx_5, rWord_sb_10, rWord_sa_15, rWord_sd_20, rWord_op_25, SOp.ofBits_bits, VOp.ofBits_bits,
    slotBits_toFin, dBits_bit, simm_parts]

theorem xor (sd sa sb : SOp) : Statement (.xor sd sa sb) := by
  intro _ w h
  simp only [encodeWord, Option.some.injEq] at h
  subst h
  unfold decode
  rw [rWord_op]
  show decodeOp01 _ = _
  simp (disch := decide) [decodeOp01, sop, slot, dbit, need, zero, v1, v2, v3, vx, simm, fx3_low, fx3_high, fx4_low, fx4_high, cutAll, cutLo,
    cutHi, rWord_fn_0, rWord_fx_5, rWord_sb_10, rWord_sa_15, rWord_sd_20, rWord_op_25, SOp.ofBits_bits, VOp.ofBits_bits,
    slotBits_toFin, dBits_bit, simm_parts]

theorem sll (sd sa sb : SOp) : Statement (.sll sd sa sb) := by
  intro _ w h
  simp only [encodeWord, Option.some.injEq] at h
  subst h
  unfold decode
  rw [rWord_op]
  show decodeOp01 _ = _
  simp (disch := decide) [decodeOp01, sop, slot, dbit, need, zero, v1, v2, v3, vx, simm, fx3_low, fx3_high, fx4_low, fx4_high, cutAll, cutLo,
    cutHi, rWord_fn_0, rWord_fx_5, rWord_sb_10, rWord_sa_15, rWord_sd_20, rWord_op_25, SOp.ofBits_bits, VOp.ofBits_bits,
    slotBits_toFin, dBits_bit, simm_parts]

theorem srl (sd sa sb : SOp) : Statement (.srl sd sa sb) := by
  intro _ w h
  simp only [encodeWord, Option.some.injEq] at h
  subst h
  unfold decode
  rw [rWord_op]
  show decodeOp01 _ = _
  simp (disch := decide) [decodeOp01, sop, slot, dbit, need, zero, v1, v2, v3, vx, simm, fx3_low, fx3_high, fx4_low, fx4_high, cutAll, cutLo,
    cutHi, rWord_fn_0, rWord_fx_5, rWord_sb_10, rWord_sa_15, rWord_sd_20, rWord_op_25, SOp.ofBits_bits, VOp.ofBits_bits,
    slotBits_toFin, dBits_bit, simm_parts]

theorem sra (sd sa sb : SOp) : Statement (.sra sd sa sb) := by
  intro _ w h
  simp only [encodeWord, Option.some.injEq] at h
  subst h
  unfold decode
  rw [rWord_op]
  show decodeOp01 _ = _
  simp (disch := decide) [decodeOp01, sop, slot, dbit, need, zero, v1, v2, v3, vx, simm, fx3_low, fx3_high, fx4_low, fx4_high, cutAll, cutLo,
    cutHi, rWord_fn_0, rWord_fx_5, rWord_sb_10, rWord_sa_15, rWord_sd_20, rWord_op_25, SOp.ofBits_bits, VOp.ofBits_bits,
    slotBits_toFin, dBits_bit, simm_parts]

theorem slt (sd sa sb : SOp) : Statement (.slt sd sa sb) := by
  intro _ w h
  simp only [encodeWord, Option.some.injEq] at h
  subst h
  unfold decode
  rw [rWord_op]
  show decodeOp01 _ = _
  simp (disch := decide) [decodeOp01, sop, slot, dbit, need, zero, v1, v2, v3, vx, simm, fx3_low, fx3_high, fx4_low, fx4_high, cutAll, cutLo,
    cutHi, rWord_fn_0, rWord_fx_5, rWord_sb_10, rWord_sa_15, rWord_sd_20, rWord_op_25, SOp.ofBits_bits, VOp.ofBits_bits,
    slotBits_toFin, dBits_bit, simm_parts]

theorem sltu (sd sa sb : SOp) : Statement (.sltu sd sa sb) := by
  intro _ w h
  simp only [encodeWord, Option.some.injEq] at h
  subst h
  unfold decode
  rw [rWord_op]
  show decodeOp01 _ = _
  simp (disch := decide) [decodeOp01, sop, slot, dbit, need, zero, v1, v2, v3, vx, simm, fx3_low, fx3_high, fx4_low, fx4_high, cutAll, cutLo,
    cutHi, rWord_fn_0, rWord_fx_5, rWord_sb_10, rWord_sa_15, rWord_sd_20, rWord_op_25, SOp.ofBits_bits, VOp.ofBits_bits,
    slotBits_toFin, dBits_bit, simm_parts]

theorem min (sd sa sb : SOp) : Statement (.min sd sa sb) := by
  intro _ w h
  simp only [encodeWord, Option.some.injEq] at h
  subst h
  unfold decode
  rw [rWord_op]
  show decodeOp01 _ = _
  simp (disch := decide) [decodeOp01, sop, slot, dbit, need, zero, v1, v2, v3, vx, simm, fx3_low, fx3_high, fx4_low, fx4_high, cutAll, cutLo,
    cutHi, rWord_fn_0, rWord_fx_5, rWord_sb_10, rWord_sa_15, rWord_sd_20, rWord_op_25, SOp.ofBits_bits, VOp.ofBits_bits,
    slotBits_toFin, dBits_bit, simm_parts]

theorem max (sd sa sb : SOp) : Statement (.max sd sa sb) := by
  intro _ w h
  simp only [encodeWord, Option.some.injEq] at h
  subst h
  unfold decode
  rw [rWord_op]
  show decodeOp01 _ = _
  simp (disch := decide) [decodeOp01, sop, slot, dbit, need, zero, v1, v2, v3, vx, simm, fx3_low, fx3_high, fx4_low, fx4_high, cutAll, cutLo,
    cutHi, rWord_fn_0, rWord_fx_5, rWord_sb_10, rWord_sa_15, rWord_sd_20, rWord_op_25, SOp.ofBits_bits, VOp.ofBits_bits,
    slotBits_toFin, dBits_bit, simm_parts]

theorem minu (sd sa sb : SOp) : Statement (.minu sd sa sb) := by
  intro _ w h
  simp only [encodeWord, Option.some.injEq] at h
  subst h
  unfold decode
  rw [rWord_op]
  show decodeOp01 _ = _
  simp (disch := decide) [decodeOp01, sop, slot, dbit, need, zero, v1, v2, v3, vx, simm, fx3_low, fx3_high, fx4_low, fx4_high, cutAll, cutLo,
    cutHi, rWord_fn_0, rWord_fx_5, rWord_sb_10, rWord_sa_15, rWord_sd_20, rWord_op_25, SOp.ofBits_bits, VOp.ofBits_bits,
    slotBits_toFin, dBits_bit, simm_parts]

theorem maxu (sd sa sb : SOp) : Statement (.maxu sd sa sb) := by
  intro _ w h
  simp only [encodeWord, Option.some.injEq] at h
  subst h
  unfold decode
  rw [rWord_op]
  show decodeOp01 _ = _
  simp (disch := decide) [decodeOp01, sop, slot, dbit, need, zero, v1, v2, v3, vx, simm, fx3_low, fx3_high, fx4_low, fx4_high, cutAll, cutLo,
    cutHi, rWord_fn_0, rWord_fx_5, rWord_sb_10, rWord_sa_15, rWord_sd_20, rWord_op_25, SOp.ofBits_bits, VOp.ofBits_bits,
    slotBits_toFin, dBits_bit, simm_parts]

theorem clz (sd sa : SOp) : Statement (.clz sd sa) := by
  intro _ w h
  simp only [encodeWord, Option.some.injEq] at h
  subst h
  unfold decode
  rw [rWord_op]
  show decodeOp01 _ = _
  simp (disch := decide) [decodeOp01, sop, slot, dbit, need, zero, v1, v2, v3, vx, simm, fx3_low, fx3_high, fx4_low, fx4_high, cutAll, cutLo,
    cutHi, rWord_fn_0, rWord_fx_5, rWord_sb_10, rWord_sa_15, rWord_sd_20, rWord_op_25, SOp.ofBits_bits, VOp.ofBits_bits,
    slotBits_toFin, dBits_bit, simm_parts]

theorem ctz (sd sa : SOp) : Statement (.ctz sd sa) := by
  intro _ w h
  simp only [encodeWord, Option.some.injEq] at h
  subst h
  unfold decode
  rw [rWord_op]
  show decodeOp01 _ = _
  simp (disch := decide) [decodeOp01, sop, slot, dbit, need, zero, v1, v2, v3, vx, simm, fx3_low, fx3_high, fx4_low, fx4_high, cutAll, cutLo,
    cutHi, rWord_fn_0, rWord_fx_5, rWord_sb_10, rWord_sa_15, rWord_sd_20, rWord_op_25, SOp.ofBits_bits, VOp.ofBits_bits,
    slotBits_toFin, dBits_bit, simm_parts]

theorem popc (sd sa : SOp) : Statement (.popc sd sa) := by
  intro _ w h
  simp only [encodeWord, Option.some.injEq] at h
  subst h
  unfold decode
  rw [rWord_op]
  show decodeOp01 _ = _
  simp (disch := decide) [decodeOp01, sop, slot, dbit, need, zero, v1, v2, v3, vx, simm, fx3_low, fx3_high, fx4_low, fx4_high, cutAll, cutLo,
    cutHi, rWord_fn_0, rWord_fx_5, rWord_sb_10, rWord_sa_15, rWord_sd_20, rWord_op_25, SOp.ofBits_bits, VOp.ofBits_bits,
    slotBits_toFin, dBits_bit, simm_parts]

theorem mul (sd sa sb : SOp) : Statement (.mul sd sa sb) := by
  intro _ w h
  simp only [encodeWord, Option.some.injEq] at h
  subst h
  unfold decode
  rw [rWord_op]
  show decodeOp02 _ = _
  simp (disch := decide) [decodeOp02, sop, slot, dbit, need, zero, v1, v2, v3, vx, simm, fx3_low, fx3_high, fx4_low, fx4_high, cutAll, cutLo,
    cutHi, rWord_fn_0, rWord_fx_5, rWord_sb_10, rWord_sa_15, rWord_sd_20, rWord_op_25, SOp.ofBits_bits, VOp.ofBits_bits,
    slotBits_toFin, dBits_bit, simm_parts]

theorem mulh (sd sa sb : SOp) : Statement (.mulh sd sa sb) := by
  intro _ w h
  simp only [encodeWord, Option.some.injEq] at h
  subst h
  unfold decode
  rw [rWord_op]
  show decodeOp02 _ = _
  simp (disch := decide) [decodeOp02, sop, slot, dbit, need, zero, v1, v2, v3, vx, simm, fx3_low, fx3_high, fx4_low, fx4_high, cutAll, cutLo,
    cutHi, rWord_fn_0, rWord_fx_5, rWord_sb_10, rWord_sa_15, rWord_sd_20, rWord_op_25, SOp.ofBits_bits, VOp.ofBits_bits,
    slotBits_toFin, dBits_bit, simm_parts]

theorem mulhu (sd sa sb : SOp) : Statement (.mulhu sd sa sb) := by
  intro _ w h
  simp only [encodeWord, Option.some.injEq] at h
  subst h
  unfold decode
  rw [rWord_op]
  show decodeOp02 _ = _
  simp (disch := decide) [decodeOp02, sop, slot, dbit, need, zero, v1, v2, v3, vx, simm, fx3_low, fx3_high, fx4_low, fx4_high, cutAll, cutLo,
    cutHi, rWord_fn_0, rWord_fx_5, rWord_sb_10, rWord_sa_15, rWord_sd_20, rWord_op_25, SOp.ofBits_bits, VOp.ofBits_bits,
    slotBits_toFin, dBits_bit, simm_parts]

theorem div (sd sa sb : SOp) : Statement (.div sd sa sb) := by
  intro _ w h
  simp only [encodeWord, Option.some.injEq] at h
  subst h
  unfold decode
  rw [rWord_op]
  show decodeOp02 _ = _
  simp (disch := decide) [decodeOp02, sop, slot, dbit, need, zero, v1, v2, v3, vx, simm, fx3_low, fx3_high, fx4_low, fx4_high, cutAll, cutLo,
    cutHi, rWord_fn_0, rWord_fx_5, rWord_sb_10, rWord_sa_15, rWord_sd_20, rWord_op_25, SOp.ofBits_bits, VOp.ofBits_bits,
    slotBits_toFin, dBits_bit, simm_parts]

theorem divu (sd sa sb : SOp) : Statement (.divu sd sa sb) := by
  intro _ w h
  simp only [encodeWord, Option.some.injEq] at h
  subst h
  unfold decode
  rw [rWord_op]
  show decodeOp02 _ = _
  simp (disch := decide) [decodeOp02, sop, slot, dbit, need, zero, v1, v2, v3, vx, simm, fx3_low, fx3_high, fx4_low, fx4_high, cutAll, cutLo,
    cutHi, rWord_fn_0, rWord_fx_5, rWord_sb_10, rWord_sa_15, rWord_sd_20, rWord_op_25, SOp.ofBits_bits, VOp.ofBits_bits,
    slotBits_toFin, dBits_bit, simm_parts]

theorem rem (sd sa sb : SOp) : Statement (.rem sd sa sb) := by
  intro _ w h
  simp only [encodeWord, Option.some.injEq] at h
  subst h
  unfold decode
  rw [rWord_op]
  show decodeOp02 _ = _
  simp (disch := decide) [decodeOp02, sop, slot, dbit, need, zero, v1, v2, v3, vx, simm, fx3_low, fx3_high, fx4_low, fx4_high, cutAll, cutLo,
    cutHi, rWord_fn_0, rWord_fx_5, rWord_sb_10, rWord_sa_15, rWord_sd_20, rWord_op_25, SOp.ofBits_bits, VOp.ofBits_bits,
    slotBits_toFin, dBits_bit, simm_parts]

theorem remu (sd sa sb : SOp) : Statement (.remu sd sa sb) := by
  intro _ w h
  simp only [encodeWord, Option.some.injEq] at h
  subst h
  unfold decode
  rw [rWord_op]
  show decodeOp02 _ = _
  simp (disch := decide) [decodeOp02, sop, slot, dbit, need, zero, v1, v2, v3, vx, simm, fx3_low, fx3_high, fx4_low, fx4_high, cutAll, cutLo,
    cutHi, rWord_fn_0, rWord_fx_5, rWord_sb_10, rWord_sa_15, rWord_sd_20, rWord_op_25, SOp.ofBits_bits, VOp.ofBits_bits,
    slotBits_toFin, dBits_bit, simm_parts]

theorem addi (sd sa : SOp) (imm : BitVec 12) : Statement (.addi sd sa imm) := by
  intro _ w h
  simp only [encodeWord, Option.some.injEq] at h
  subst h
  unfold decode
  rw [iWord_op]
  show decodeOp03 _ = _
  simp (disch := decide) [decodeOp03, sop, slot, dbit, need, zero, v1, v2, v3, vx, simm, fx3_low, fx3_high, fx4_low, fx4_high, cutAll, cutLo,
    cutHi, iWord_imm_0, iWord_f3_12, iWord_sa_15, iWord_sd_20, iWord_op_25, SOp.ofBits_bits, VOp.ofBits_bits,
    slotBits_toFin, dBits_bit, simm_parts]

theorem andi (sd sa : SOp) (imm : BitVec 12) : Statement (.andi sd sa imm) := by
  intro _ w h
  simp only [encodeWord, Option.some.injEq] at h
  subst h
  unfold decode
  rw [iWord_op]
  show decodeOp03 _ = _
  simp (disch := decide) [decodeOp03, sop, slot, dbit, need, zero, v1, v2, v3, vx, simm, fx3_low, fx3_high, fx4_low, fx4_high, cutAll, cutLo,
    cutHi, iWord_imm_0, iWord_f3_12, iWord_sa_15, iWord_sd_20, iWord_op_25, SOp.ofBits_bits, VOp.ofBits_bits,
    slotBits_toFin, dBits_bit, simm_parts]

theorem ori (sd sa : SOp) (imm : BitVec 12) : Statement (.ori sd sa imm) := by
  intro _ w h
  simp only [encodeWord, Option.some.injEq] at h
  subst h
  unfold decode
  rw [iWord_op]
  show decodeOp03 _ = _
  simp (disch := decide) [decodeOp03, sop, slot, dbit, need, zero, v1, v2, v3, vx, simm, fx3_low, fx3_high, fx4_low, fx4_high, cutAll, cutLo,
    cutHi, iWord_imm_0, iWord_f3_12, iWord_sa_15, iWord_sd_20, iWord_op_25, SOp.ofBits_bits, VOp.ofBits_bits,
    slotBits_toFin, dBits_bit, simm_parts]

theorem xori (sd sa : SOp) (imm : BitVec 12) : Statement (.xori sd sa imm) := by
  intro _ w h
  simp only [encodeWord, Option.some.injEq] at h
  subst h
  unfold decode
  rw [iWord_op]
  show decodeOp03 _ = _
  simp (disch := decide) [decodeOp03, sop, slot, dbit, need, zero, v1, v2, v3, vx, simm, fx3_low, fx3_high, fx4_low, fx4_high, cutAll, cutLo,
    cutHi, iWord_imm_0, iWord_f3_12, iWord_sa_15, iWord_sd_20, iWord_op_25, SOp.ofBits_bits, VOp.ofBits_bits,
    slotBits_toFin, dBits_bit, simm_parts]

theorem slti (sd sa : SOp) (imm : BitVec 12) : Statement (.slti sd sa imm) := by
  intro _ w h
  simp only [encodeWord, Option.some.injEq] at h
  subst h
  unfold decode
  rw [iWord_op]
  show decodeOp03 _ = _
  simp (disch := decide) [decodeOp03, sop, slot, dbit, need, zero, v1, v2, v3, vx, simm, fx3_low, fx3_high, fx4_low, fx4_high, cutAll, cutLo,
    cutHi, iWord_imm_0, iWord_f3_12, iWord_sa_15, iWord_sd_20, iWord_op_25, SOp.ofBits_bits, VOp.ofBits_bits,
    slotBits_toFin, dBits_bit, simm_parts]

theorem sltiu (sd sa : SOp) (imm : BitVec 12) : Statement (.sltiu sd sa imm) := by
  intro _ w h
  simp only [encodeWord, Option.some.injEq] at h
  subst h
  unfold decode
  rw [iWord_op]
  show decodeOp03 _ = _
  simp (disch := decide) [decodeOp03, sop, slot, dbit, need, zero, v1, v2, v3, vx, simm, fx3_low, fx3_high, fx4_low, fx4_high, cutAll, cutLo,
    cutHi, iWord_imm_0, iWord_f3_12, iWord_sa_15, iWord_sd_20, iWord_op_25, SOp.ofBits_bits, VOp.ofBits_bits,
    slotBits_toFin, dBits_bit, simm_parts]

theorem slli (sd sa : SOp) (sh : BitVec 6) : Statement (.slli sd sa sh) := by
  intro _ w h
  simp only [encodeWord, Option.some.injEq] at h
  subst h
  unfold decode
  rw [shWord_op]
  show decodeOp03 _ = _
  simp (disch := decide) [decodeOp03, sop, slot, dbit, need, zero, v1, v2, v3, vx, simm, fx3_low, fx3_high, fx4_low, fx4_high, cutAll, cutLo,
    cutHi, shWord_sh_0, shWord_zero_6, shWord_kind_10, shWord_f3_12, shWord_sa_15, shWord_sd_20, shWord_op_25, SOp.ofBits_bits, VOp.ofBits_bits,
    slotBits_toFin, dBits_bit, simm_parts]

theorem srli (sd sa : SOp) (sh : BitVec 6) : Statement (.srli sd sa sh) := by
  intro _ w h
  simp only [encodeWord, Option.some.injEq] at h
  subst h
  unfold decode
  rw [shWord_op]
  show decodeOp03 _ = _
  simp (disch := decide) [decodeOp03, sop, slot, dbit, need, zero, v1, v2, v3, vx, simm, fx3_low, fx3_high, fx4_low, fx4_high, cutAll, cutLo,
    cutHi, shWord_sh_0, shWord_zero_6, shWord_kind_10, shWord_f3_12, shWord_sa_15, shWord_sd_20, shWord_op_25, SOp.ofBits_bits, VOp.ofBits_bits,
    slotBits_toFin, dBits_bit, simm_parts]

theorem srai (sd sa : SOp) (sh : BitVec 6) : Statement (.srai sd sa sh) := by
  intro _ w h
  simp only [encodeWord, Option.some.injEq] at h
  subst h
  unfold decode
  rw [shWord_op]
  show decodeOp03 _ = _
  simp (disch := decide) [decodeOp03, sop, slot, dbit, need, zero, v1, v2, v3, vx, simm, fx3_low, fx3_high, fx4_low, fx4_high, cutAll, cutLo,
    cutHi, shWord_sh_0, shWord_zero_6, shWord_kind_10, shWord_f3_12, shWord_sa_15, shWord_sd_20, shWord_op_25, SOp.ofBits_bits, VOp.ofBits_bits,
    slotBits_toFin, dBits_bit, simm_parts]

theorem lih (sd : SOp) (imm : BitVec 20) : Statement (.lih sd imm) := by
  intro _ w h
  simp only [encodeWord, Option.some.injEq] at h
  subst h
  unfold decode
  rw [uWord_op]
  show Except.ok (Instr.lih (sop _ 20) (fld _ 0 20)) = _
  simp (disch := decide) [sop, slot, dbit, need, zero, v1, v2, v3, vx, simm, fx3_low, fx3_high, fx4_low, fx4_high, cutAll, cutLo,
    cutHi, uWord_imm_0, uWord_sd_20, uWord_op_25, SOp.ofBits_bits, VOp.ofBits_bits,
    slotBits_toFin, dBits_bit, simm_parts]

theorem pchi (sd : SOp) (imm : BitVec 20) : Statement (.pchi sd imm) := by
  intro _ w h
  simp only [encodeWord, Option.some.injEq] at h
  subst h
  unfold decode
  rw [uWord_op]
  show Except.ok (Instr.pchi (sop _ 20) (fld _ 0 20)) = _
  simp (disch := decide) [sop, slot, dbit, need, zero, v1, v2, v3, vx, simm, fx3_low, fx3_high, fx4_low, fx4_high, cutAll, cutLo,
    cutHi, uWord_imm_0, uWord_sd_20, uWord_op_25, SOp.ofBits_bits, VOp.ofBits_bits,
    slotBits_toFin, dBits_bit, simm_parts]

theorem obj (sd sa sb : SOp) : Statement (.obj sd sa sb) := by
  intro _ w h
  simp only [encodeWord, Option.some.injEq] at h
  subst h
  unfold decode
  rw [rWord_op]
  show decodeOp06 _ = _
  simp (disch := decide) [decodeOp06, sop, slot, dbit, need, zero, v1, v2, v3, vx, simm, fx3_low, fx3_high, fx4_low, fx4_high, cutAll, cutLo,
    cutHi, rWord_fn_0, rWord_fx_5, rWord_sb_10, rWord_sa_15, rWord_sd_20, rWord_op_25, SOp.ofBits_bits, VOp.ofBits_bits,
    slotBits_toFin, dBits_bit, simm_parts]

theorem objh (sd sa sb : SOp) : Statement (.objh sd sa sb) := by
  intro _ w h
  simp only [encodeWord, Option.some.injEq] at h
  subst h
  unfold decode
  rw [rWord_op]
  show decodeOp06 _ = _
  simp (disch := decide) [decodeOp06, sop, slot, dbit, need, zero, v1, v2, v3, vx, simm, fx3_low, fx3_high, fx4_low, fx4_high, cutAll, cutLo,
    cutHi, rWord_fn_0, rWord_fx_5, rWord_sb_10, rWord_sa_15, rWord_sd_20, rWord_op_25, SOp.ofBits_bits, VOp.ofBits_bits,
    slotBits_toFin, dBits_bit, simm_parts]

theorem objo (sd sa : SOp) : Statement (.objo sd sa) := by
  intro _ w h
  simp only [encodeWord, Option.some.injEq] at h
  subst h
  unfold decode
  rw [rWord_op]
  show decodeOp06 _ = _
  simp (disch := decide) [decodeOp06, sop, slot, dbit, need, zero, v1, v2, v3, vx, simm, fx3_low, fx3_high, fx4_low, fx4_high, cutAll, cutLo,
    cutHi, rWord_fn_0, rWord_fx_5, rWord_sb_10, rWord_sa_15, rWord_sd_20, rWord_op_25, SOp.ofBits_bits, VOp.ofBits_bits,
    slotBits_toFin, dBits_bit, simm_parts]

theorem ldb (sd sa : SOp) (g : Fin 8) (imm : BitVec 12) : Statement (.ldb sd sa g imm) := by
  intro _ w h
  simp only [encodeWord, Option.some.injEq] at h
  subst h
  unfold decode
  rw [iWord_op]
  show Except.ok (Instr.ldb (sop _ 20) (sop _ 15) (slot _ 12) (fld _ 0 12)) = _
  simp (disch := decide) [sop, slot, dbit, need, zero, v1, v2, v3, vx, simm, fx3_low, fx3_high, fx4_low, fx4_high, cutAll, cutLo,
    cutHi, iWord_imm_0, iWord_f3_12, iWord_sa_15, iWord_sd_20, iWord_op_25, SOp.ofBits_bits, VOp.ofBits_bits,
    slotBits_toFin, dBits_bit, simm_parts]

theorem ldh (sd sa : SOp) (g : Fin 8) (imm : BitVec 12) : Statement (.ldh sd sa g imm) := by
  intro _ w h
  simp only [encodeWord, Option.some.injEq] at h
  subst h
  unfold decode
  rw [iWord_op]
  show Except.ok (Instr.ldh (sop _ 20) (sop _ 15) (slot _ 12) (fld _ 0 12)) = _
  simp (disch := decide) [sop, slot, dbit, need, zero, v1, v2, v3, vx, simm, fx3_low, fx3_high, fx4_low, fx4_high, cutAll, cutLo,
    cutHi, iWord_imm_0, iWord_f3_12, iWord_sa_15, iWord_sd_20, iWord_op_25, SOp.ofBits_bits, VOp.ofBits_bits,
    slotBits_toFin, dBits_bit, simm_parts]

theorem ldw (sd sa : SOp) (g : Fin 8) (imm : BitVec 12) : Statement (.ldw sd sa g imm) := by
  intro _ w h
  simp only [encodeWord, Option.some.injEq] at h
  subst h
  unfold decode
  rw [iWord_op]
  show Except.ok (Instr.ldw (sop _ 20) (sop _ 15) (slot _ 12) (fld _ 0 12)) = _
  simp (disch := decide) [sop, slot, dbit, need, zero, v1, v2, v3, vx, simm, fx3_low, fx3_high, fx4_low, fx4_high, cutAll, cutLo,
    cutHi, iWord_imm_0, iWord_f3_12, iWord_sa_15, iWord_sd_20, iWord_op_25, SOp.ofBits_bits, VOp.ofBits_bits,
    slotBits_toFin, dBits_bit, simm_parts]

theorem ldd (sd sa : SOp) (g : Fin 8) (imm : BitVec 12) : Statement (.ldd sd sa g imm) := by
  intro _ w h
  simp only [encodeWord, Option.some.injEq] at h
  subst h
  unfold decode
  rw [iWord_op]
  show Except.ok (Instr.ldd (sop _ 20) (sop _ 15) (slot _ 12) (fld _ 0 12)) = _
  simp (disch := decide) [sop, slot, dbit, need, zero, v1, v2, v3, vx, simm, fx3_low, fx3_high, fx4_low, fx4_high, cutAll, cutLo,
    cutHi, iWord_imm_0, iWord_f3_12, iWord_sa_15, iWord_sd_20, iWord_op_25, SOp.ofBits_bits, VOp.ofBits_bits,
    slotBits_toFin, dBits_bit, simm_parts]

theorem ldbu (sd sa : SOp) (g : Fin 8) (imm : BitVec 12) : Statement (.ldbu sd sa g imm) := by
  intro _ w h
  simp only [encodeWord, Option.some.injEq] at h
  subst h
  unfold decode
  rw [iWord_op]
  show Except.ok (Instr.ldbu (sop _ 20) (sop _ 15) (slot _ 12) (fld _ 0 12)) = _
  simp (disch := decide) [sop, slot, dbit, need, zero, v1, v2, v3, vx, simm, fx3_low, fx3_high, fx4_low, fx4_high, cutAll, cutLo,
    cutHi, iWord_imm_0, iWord_f3_12, iWord_sa_15, iWord_sd_20, iWord_op_25, SOp.ofBits_bits, VOp.ofBits_bits,
    slotBits_toFin, dBits_bit, simm_parts]

theorem ldhu (sd sa : SOp) (g : Fin 8) (imm : BitVec 12) : Statement (.ldhu sd sa g imm) := by
  intro _ w h
  simp only [encodeWord, Option.some.injEq] at h
  subst h
  unfold decode
  rw [iWord_op]
  show Except.ok (Instr.ldhu (sop _ 20) (sop _ 15) (slot _ 12) (fld _ 0 12)) = _
  simp (disch := decide) [sop, slot, dbit, need, zero, v1, v2, v3, vx, simm, fx3_low, fx3_high, fx4_low, fx4_high, cutAll, cutLo,
    cutHi, iWord_imm_0, iWord_f3_12, iWord_sa_15, iWord_sd_20, iWord_op_25, SOp.ofBits_bits, VOp.ofBits_bits,
    slotBits_toFin, dBits_bit, simm_parts]

theorem ldwu (sd sa : SOp) (g : Fin 8) (imm : BitVec 12) : Statement (.ldwu sd sa g imm) := by
  intro _ w h
  simp only [encodeWord, Option.some.injEq] at h
  subst h
  unfold decode
  rw [iWord_op]
  show Except.ok (Instr.ldwu (sop _ 20) (sop _ 15) (slot _ 12) (fld _ 0 12)) = _
  simp (disch := decide) [sop, slot, dbit, need, zero, v1, v2, v3, vx, simm, fx3_low, fx3_high, fx4_low, fx4_high, cutAll, cutLo,
    cutHi, iWord_imm_0, iWord_f3_12, iWord_sa_15, iWord_sd_20, iWord_op_25, SOp.ofBits_bits, VOp.ofBits_bits,
    slotBits_toFin, dBits_bit, simm_parts]

theorem stb (sb sa : SOp) (imm : BitVec 12) (g : Fin 8) : Statement (.stb sb sa imm g) := by
  intro _ w h
  simp only [encodeWord, Option.some.injEq] at h
  subst h
  unfold decode
  rw [sWord_op]
  show Except.ok (Instr.stb (sop _ 10) (sop _ 15) (simm _) (slot _ 7)) = _
  simp (disch := decide) [sop, slot, dbit, need, zero, v1, v2, v3, vx, simm, fx3_low, fx3_high, fx4_low, fx4_high, cutAll, cutLo,
    cutHi, sWord_imm_0, sWord_g_7, sWord_sb_10, sWord_sa_15, sWord_imm_20, sWord_op_25, SOp.ofBits_bits, VOp.ofBits_bits,
    slotBits_toFin, dBits_bit, simm_parts]

theorem sth (sb sa : SOp) (imm : BitVec 12) (g : Fin 8) : Statement (.sth sb sa imm g) := by
  intro _ w h
  simp only [encodeWord, Option.some.injEq] at h
  subst h
  unfold decode
  rw [sWord_op]
  show Except.ok (Instr.sth (sop _ 10) (sop _ 15) (simm _) (slot _ 7)) = _
  simp (disch := decide) [sop, slot, dbit, need, zero, v1, v2, v3, vx, simm, fx3_low, fx3_high, fx4_low, fx4_high, cutAll, cutLo,
    cutHi, sWord_imm_0, sWord_g_7, sWord_sb_10, sWord_sa_15, sWord_imm_20, sWord_op_25, SOp.ofBits_bits, VOp.ofBits_bits,
    slotBits_toFin, dBits_bit, simm_parts]

theorem stw (sb sa : SOp) (imm : BitVec 12) (g : Fin 8) : Statement (.stw sb sa imm g) := by
  intro _ w h
  simp only [encodeWord, Option.some.injEq] at h
  subst h
  unfold decode
  rw [sWord_op]
  show Except.ok (Instr.stw (sop _ 10) (sop _ 15) (simm _) (slot _ 7)) = _
  simp (disch := decide) [sop, slot, dbit, need, zero, v1, v2, v3, vx, simm, fx3_low, fx3_high, fx4_low, fx4_high, cutAll, cutLo,
    cutHi, sWord_imm_0, sWord_g_7, sWord_sb_10, sWord_sa_15, sWord_imm_20, sWord_op_25, SOp.ofBits_bits, VOp.ofBits_bits,
    slotBits_toFin, dBits_bit, simm_parts]

theorem std (sb sa : SOp) (imm : BitVec 12) (g : Fin 8) : Statement (.std sb sa imm g) := by
  intro _ w h
  simp only [encodeWord, Option.some.injEq] at h
  subst h
  unfold decode
  rw [sWord_op]
  show Except.ok (Instr.std (sop _ 10) (sop _ 15) (simm _) (slot _ 7)) = _
  simp (disch := decide) [sop, slot, dbit, need, zero, v1, v2, v3, vx, simm, fx3_low, fx3_high, fx4_low, fx4_high, cutAll, cutLo,
    cutHi, sWord_imm_0, sWord_g_7, sWord_sb_10, sWord_sa_15, sWord_imm_20, sWord_op_25, SOp.ofBits_bits, VOp.ofBits_bits,
    slotBits_toFin, dBits_bit, simm_parts]

theorem amoadd (sd sa sb : SOp) (g : Fin 8) : Statement (.amoadd sd sa sb g) := by
  intro _ w h
  simp only [encodeWord, Option.some.injEq] at h
  subst h
  unfold decode
  rw [amoWord_op]
  show decodeOp14 _ = _
  simp (disch := decide) [decodeOp14, sop, slot, dbit, need, zero, v1, v2, v3, vx, simm, fx3_low, fx3_high, fx4_low, fx4_high, cutAll, cutLo,
    cutHi, amoWord_zero_0, amoWord_fn_3, amoWord_g_7, amoWord_sb_10, amoWord_sa_15, amoWord_sd_20, amoWord_op_25, SOp.ofBits_bits, VOp.ofBits_bits,
    slotBits_toFin, dBits_bit, simm_parts]

theorem amoswap (sd sa sb : SOp) (g : Fin 8) : Statement (.amoswap sd sa sb g) := by
  intro _ w h
  simp only [encodeWord, Option.some.injEq] at h
  subst h
  unfold decode
  rw [amoWord_op]
  show decodeOp14 _ = _
  simp (disch := decide) [decodeOp14, sop, slot, dbit, need, zero, v1, v2, v3, vx, simm, fx3_low, fx3_high, fx4_low, fx4_high, cutAll, cutLo,
    cutHi, amoWord_zero_0, amoWord_fn_3, amoWord_g_7, amoWord_sb_10, amoWord_sa_15, amoWord_sd_20, amoWord_op_25, SOp.ofBits_bits, VOp.ofBits_bits,
    slotBits_toFin, dBits_bit, simm_parts]

theorem amocas (sd sa sb : SOp) (g : Fin 8) : Statement (.amocas sd sa sb g) := by
  intro _ w h
  simp only [encodeWord, Option.some.injEq] at h
  subst h
  unfold decode
  rw [amoWord_op]
  show decodeOp14 _ = _
  simp (disch := decide) [decodeOp14, sop, slot, dbit, need, zero, v1, v2, v3, vx, simm, fx3_low, fx3_high, fx4_low, fx4_high, cutAll, cutLo,
    cutHi, amoWord_zero_0, amoWord_fn_3, amoWord_g_7, amoWord_sb_10, amoWord_sa_15, amoWord_sd_20, amoWord_op_25, SOp.ofBits_bits, VOp.ofBits_bits,
    slotBits_toFin, dBits_bit, simm_parts]

theorem amoand (sd sa sb : SOp) (g : Fin 8) : Statement (.amoand sd sa sb g) := by
  intro _ w h
  simp only [encodeWord, Option.some.injEq] at h
  subst h
  unfold decode
  rw [amoWord_op]
  show decodeOp14 _ = _
  simp (disch := decide) [decodeOp14, sop, slot, dbit, need, zero, v1, v2, v3, vx, simm, fx3_low, fx3_high, fx4_low, fx4_high, cutAll, cutLo,
    cutHi, amoWord_zero_0, amoWord_fn_3, amoWord_g_7, amoWord_sb_10, amoWord_sa_15, amoWord_sd_20, amoWord_op_25, SOp.ofBits_bits, VOp.ofBits_bits,
    slotBits_toFin, dBits_bit, simm_parts]

theorem amoor (sd sa sb : SOp) (g : Fin 8) : Statement (.amoor sd sa sb g) := by
  intro _ w h
  simp only [encodeWord, Option.some.injEq] at h
  subst h
  unfold decode
  rw [amoWord_op]
  show decodeOp14 _ = _
  simp (disch := decide) [decodeOp14, sop, slot, dbit, need, zero, v1, v2, v3, vx, simm, fx3_low, fx3_high, fx4_low, fx4_high, cutAll, cutLo,
    cutHi, amoWord_zero_0, amoWord_fn_3, amoWord_g_7, amoWord_sb_10, amoWord_sa_15, amoWord_sd_20, amoWord_op_25, SOp.ofBits_bits, VOp.ofBits_bits,
    slotBits_toFin, dBits_bit, simm_parts]

theorem amoxor (sd sa sb : SOp) (g : Fin 8) : Statement (.amoxor sd sa sb g) := by
  intro _ w h
  simp only [encodeWord, Option.some.injEq] at h
  subst h
  unfold decode
  rw [amoWord_op]
  show decodeOp14 _ = _
  simp (disch := decide) [decodeOp14, sop, slot, dbit, need, zero, v1, v2, v3, vx, simm, fx3_low, fx3_high, fx4_low, fx4_high, cutAll, cutLo,
    cutHi, amoWord_zero_0, amoWord_fn_3, amoWord_g_7, amoWord_sb_10, amoWord_sa_15, amoWord_sd_20, amoWord_op_25, SOp.ofBits_bits, VOp.ofBits_bits,
    slotBits_toFin, dBits_bit, simm_parts]

theorem amomin (sd sa sb : SOp) (g : Fin 8) : Statement (.amomin sd sa sb g) := by
  intro _ w h
  simp only [encodeWord, Option.some.injEq] at h
  subst h
  unfold decode
  rw [amoWord_op]
  show decodeOp14 _ = _
  simp (disch := decide) [decodeOp14, sop, slot, dbit, need, zero, v1, v2, v3, vx, simm, fx3_low, fx3_high, fx4_low, fx4_high, cutAll, cutLo,
    cutHi, amoWord_zero_0, amoWord_fn_3, amoWord_g_7, amoWord_sb_10, amoWord_sa_15, amoWord_sd_20, amoWord_op_25, SOp.ofBits_bits, VOp.ofBits_bits,
    slotBits_toFin, dBits_bit, simm_parts]

theorem amomax (sd sa sb : SOp) (g : Fin 8) : Statement (.amomax sd sa sb g) := by
  intro _ w h
  simp only [encodeWord, Option.some.injEq] at h
  subst h
  unfold decode
  rw [amoWord_op]
  show decodeOp14 _ = _
  simp (disch := decide) [decodeOp14, sop, slot, dbit, need, zero, v1, v2, v3, vx, simm, fx3_low, fx3_high, fx4_low, fx4_high, cutAll, cutLo,
    cutHi, amoWord_zero_0, amoWord_fn_3, amoWord_g_7, amoWord_sb_10, amoWord_sa_15, amoWord_sd_20, amoWord_op_25, SOp.ofBits_bits, VOp.ofBits_bits,
    slotBits_toFin, dBits_bit, simm_parts]

theorem amominu (sd sa sb : SOp) (g : Fin 8) : Statement (.amominu sd sa sb g) := by
  intro _ w h
  simp only [encodeWord, Option.some.injEq] at h
  subst h
  unfold decode
  rw [amoWord_op]
  show decodeOp14 _ = _
  simp (disch := decide) [decodeOp14, sop, slot, dbit, need, zero, v1, v2, v3, vx, simm, fx3_low, fx3_high, fx4_low, fx4_high, cutAll, cutLo,
    cutHi, amoWord_zero_0, amoWord_fn_3, amoWord_g_7, amoWord_sb_10, amoWord_sa_15, amoWord_sd_20, amoWord_op_25, SOp.ofBits_bits, VOp.ofBits_bits,
    slotBits_toFin, dBits_bit, simm_parts]

theorem amomaxu (sd sa sb : SOp) (g : Fin 8) : Statement (.amomaxu sd sa sb g) := by
  intro _ w h
  simp only [encodeWord, Option.some.injEq] at h
  subst h
  unfold decode
  rw [amoWord_op]
  show decodeOp14 _ = _
  simp (disch := decide) [decodeOp14, sop, slot, dbit, need, zero, v1, v2, v3, vx, simm, fx3_low, fx3_high, fx4_low, fx4_high, cutAll, cutLo,
    cutHi, amoWord_zero_0, amoWord_fn_3, amoWord_g_7, amoWord_sb_10, amoWord_sa_15, amoWord_sd_20, amoWord_op_25, SOp.ofBits_bits, VOp.ofBits_bits,
    slotBits_toFin, dBits_bit, simm_parts]

theorem beq (sa sb : SOp) (off : BitVec 12) : Statement (.beq sa sb off) := by
  intro _ w h
  simp only [encodeWord, Option.some.injEq] at h
  subst h
  unfold decode
  rw [bWord_op]
  show decodeOp18 _ = _
  simp (disch := decide) [decodeOp18, sop, slot, dbit, need, zero, v1, v2, v3, vx, simm, fx3_low, fx3_high, fx4_low, fx4_high, cutAll, cutLo,
    cutHi, bWord_off_0, bWord_cond_12, bWord_sb_15, bWord_sa_20, bWord_op_25, SOp.ofBits_bits, VOp.ofBits_bits,
    slotBits_toFin, dBits_bit, simm_parts]

theorem bne (sa sb : SOp) (off : BitVec 12) : Statement (.bne sa sb off) := by
  intro _ w h
  simp only [encodeWord, Option.some.injEq] at h
  subst h
  unfold decode
  rw [bWord_op]
  show decodeOp18 _ = _
  simp (disch := decide) [decodeOp18, sop, slot, dbit, need, zero, v1, v2, v3, vx, simm, fx3_low, fx3_high, fx4_low, fx4_high, cutAll, cutLo,
    cutHi, bWord_off_0, bWord_cond_12, bWord_sb_15, bWord_sa_20, bWord_op_25, SOp.ofBits_bits, VOp.ofBits_bits,
    slotBits_toFin, dBits_bit, simm_parts]

theorem blt (sa sb : SOp) (off : BitVec 12) : Statement (.blt sa sb off) := by
  intro _ w h
  simp only [encodeWord, Option.some.injEq] at h
  subst h
  unfold decode
  rw [bWord_op]
  show decodeOp18 _ = _
  simp (disch := decide) [decodeOp18, sop, slot, dbit, need, zero, v1, v2, v3, vx, simm, fx3_low, fx3_high, fx4_low, fx4_high, cutAll, cutLo,
    cutHi, bWord_off_0, bWord_cond_12, bWord_sb_15, bWord_sa_20, bWord_op_25, SOp.ofBits_bits, VOp.ofBits_bits,
    slotBits_toFin, dBits_bit, simm_parts]

theorem bge (sa sb : SOp) (off : BitVec 12) : Statement (.bge sa sb off) := by
  intro _ w h
  simp only [encodeWord, Option.some.injEq] at h
  subst h
  unfold decode
  rw [bWord_op]
  show decodeOp18 _ = _
  simp (disch := decide) [decodeOp18, sop, slot, dbit, need, zero, v1, v2, v3, vx, simm, fx3_low, fx3_high, fx4_low, fx4_high, cutAll, cutLo,
    cutHi, bWord_off_0, bWord_cond_12, bWord_sb_15, bWord_sa_20, bWord_op_25, SOp.ofBits_bits, VOp.ofBits_bits,
    slotBits_toFin, dBits_bit, simm_parts]

theorem bltu (sa sb : SOp) (off : BitVec 12) : Statement (.bltu sa sb off) := by
  intro _ w h
  simp only [encodeWord, Option.some.injEq] at h
  subst h
  unfold decode
  rw [bWord_op]
  show decodeOp18 _ = _
  simp (disch := decide) [decodeOp18, sop, slot, dbit, need, zero, v1, v2, v3, vx, simm, fx3_low, fx3_high, fx4_low, fx4_high, cutAll, cutLo,
    cutHi, bWord_off_0, bWord_cond_12, bWord_sb_15, bWord_sa_20, bWord_op_25, SOp.ofBits_bits, VOp.ofBits_bits,
    slotBits_toFin, dBits_bit, simm_parts]

theorem bgeu (sa sb : SOp) (off : BitVec 12) : Statement (.bgeu sa sb off) := by
  intro _ w h
  simp only [encodeWord, Option.some.injEq] at h
  subst h
  unfold decode
  rw [bWord_op]
  show decodeOp18 _ = _
  simp (disch := decide) [decodeOp18, sop, slot, dbit, need, zero, v1, v2, v3, vx, simm, fx3_low, fx3_high, fx4_low, fx4_high, cutAll, cutLo,
    cutHi, bWord_off_0, bWord_cond_12, bWord_sb_15, bWord_sa_20, bWord_op_25, SOp.ofBits_bits, VOp.ofBits_bits,
    slotBits_toFin, dBits_bit, simm_parts]

theorem jal (sd : SOp) (off : BitVec 20) : Statement (.jal sd off) := by
  intro _ w h
  simp only [encodeWord, Option.some.injEq] at h
  subst h
  unfold decode
  rw [uWord_op]
  show Except.ok (Instr.jal (sop _ 20) (fld _ 0 20)) = _
  simp (disch := decide) [sop, slot, dbit, need, zero, v1, v2, v3, vx, simm, fx3_low, fx3_high, fx4_low, fx4_high, cutAll, cutLo,
    cutHi, uWord_imm_0, uWord_sd_20, uWord_op_25, SOp.ofBits_bits, VOp.ofBits_bits,
    slotBits_toFin, dBits_bit, simm_parts]

theorem jalr (sd sa : SOp) (imm : BitVec 12) : Statement (.jalr sd sa imm) := by
  intro _ w h
  simp only [encodeWord, Option.some.injEq] at h
  subst h
  unfold decode
  rw [iWord_op]
  show need _ _ = _
  simp (disch := decide) [sop, slot, dbit, need, zero, v1, v2, v3, vx, simm, fx3_low, fx3_high, fx4_low, fx4_high, cutAll, cutLo,
    cutHi, iWord_imm_0, iWord_f3_12, iWord_sa_15, iWord_sd_20, iWord_op_25, SOp.ofBits_bits, VOp.ofBits_bits,
    slotBits_toFin, dBits_bit, simm_parts]

theorem stick (sa : SOp) (fx : BitVec 5) : Statement (.stick sa fx) := by
  intro wf w h
  simp only [encodeWord, Option.some.injEq] at h
  subst h
  simp only [wellFormed, decide_eq_true_eq] at wf
  unfold decode
  rw [rWord_op]
  show decodeOp1B _ = _
  simp (disch := decide) [decodeOp1B, sop, slot, dbit, need, zero, v1, v2, v3, vx, simm, fx3_low, fx3_high, fx4_low, fx4_high, cutAll, cutLo,
    cutHi, rWord_fn_0, rWord_fx_5, rWord_sb_10, rWord_sa_15, rWord_sd_20, rWord_op_25, SOp.ofBits_bits, VOp.ofBits_bits,
    slotBits_toFin, dBits_bit, simm_parts]
  exact wf

theorem stickend : Statement (.stickend) := by
  intro _ w h
  simp only [encodeWord, Option.some.injEq] at h
  subst h
  unfold decode
  rw [rWord_op]
  show decodeOp1B _ = _
  simp (disch := decide) [decodeOp1B, sop, slot, dbit, need, zero, v1, v2, v3, vx, simm, fx3_low, fx3_high, fx4_low, fx4_high, cutAll, cutLo,
    cutHi, rWord_fn_0, rWord_fx_5, rWord_sb_10, rWord_sa_15, rWord_sd_20, rWord_op_25, SOp.ofBits_bits, VOp.ofBits_bits,
    slotBits_toFin, dBits_bit, simm_parts]

theorem loop (sa sb : SOp) (fx : BitVec 5) : Statement (.loop sa sb fx) := by
  intro wf w h
  simp only [encodeWord, Option.some.injEq] at h
  subst h
  simp only [wellFormed, decide_eq_true_eq] at wf
  unfold decode
  rw [rWord_op]
  show decodeOp1B _ = _
  simp (disch := decide) [decodeOp1B, sop, slot, dbit, need, zero, v1, v2, v3, vx, simm, fx3_low, fx3_high, fx4_low, fx4_high, cutAll, cutLo,
    cutHi, rWord_fn_0, rWord_fx_5, rWord_sb_10, rWord_sa_15, rWord_sd_20, rWord_op_25, SOp.ofBits_bits, VOp.ofBits_bits,
    slotBits_toFin, dBits_bit, simm_parts]
  exact wf

theorem setvl (sd sa : SOp) (g : Fin 8) : Statement (.setvl sd sa g) := by
  intro _ w h
  simp only [encodeWord, Option.some.injEq] at h
  subst h
  unfold decode
  rw [rWord_op]
  show decodeOp1C _ = _
  simp (disch := decide) [decodeOp1C, sop, slot, dbit, need, zero, v1, v2, v3, vx, simm, fx3_low, fx3_high, fx4_low, fx4_high, cutAll, cutLo,
    cutHi, rWord_fn_0, rWord_fx_5, rWord_sb_10, rWord_sa_15, rWord_sd_20, rWord_op_25, SOp.ofBits_bits, VOp.ofBits_bits,
    slotBits_toFin, dBits_bit, simm_parts]

theorem setvlw (sd sa sb : SOp) (g : Fin 8) : Statement (.setvlw sd sa sb g) := by
  intro _ w h
  simp only [encodeWord, Option.some.injEq] at h
  subst h
  unfold decode
  rw [rWord_op]
  show decodeOp1C _ = _
  simp (disch := decide) [decodeOp1C, sop, slot, dbit, need, zero, v1, v2, v3, vx, simm, fx3_low, fx3_high, fx4_low, fx4_high, cutAll, cutLo,
    cutHi, rWord_fn_0, rWord_fx_5, rWord_sb_10, rWord_sa_15, rWord_sd_20, rWord_op_25, SOp.ofBits_bits, VOp.ofBits_bits,
    slotBits_toFin, dBits_bit, simm_parts]

theorem setvlx (sd sa : SOp) (g : Fin 8) (imm : BitVec 12) : Statement (.setvlx sd sa g imm) := by
  intro _ w h
  simp only [encodeWord, Option.some.injEq] at h
  subst h
  unfold decode
  rw [iWord_op]
  show Except.ok (Instr.setvlx (sop _ 20) (sop _ 15) (slot _ 12) (fld _ 0 12)) = _
  simp (disch := decide) [sop, slot, dbit, need, zero, v1, v2, v3, vx, simm, fx3_low, fx3_high, fx4_low, fx4_high, cutAll, cutLo,
    cutHi, iWord_imm_0, iWord_f3_12, iWord_sa_15, iWord_sd_20, iWord_op_25, SOp.ofBits_bits, VOp.ofBits_bits,
    slotBits_toFin, dBits_bit, simm_parts]

theorem setmode (sa : SOp) (g : Fin 8) : Statement (.setmode sa g) := by
  intro _ w h
  simp only [encodeWord, Option.some.injEq] at h
  subst h
  unfold decode
  rw [rWord_op]
  show decodeOp1E _ = _
  simp (disch := decide) [decodeOp1E, sop, slot, dbit, need, zero, v1, v2, v3, vx, simm, fx3_low, fx3_high, fx4_low, fx4_high, cutAll, cutLo,
    cutHi, rWord_fn_0, rWord_fx_5, rWord_sb_10, rWord_sa_15, rWord_sd_20, rWord_op_25, SOp.ofBits_bits, VOp.ofBits_bits,
    slotBits_toFin, dBits_bit, simm_parts]

theorem getmode (sd : SOp) (g : Fin 8) : Statement (.getmode sd g) := by
  intro _ w h
  simp only [encodeWord, Option.some.injEq] at h
  subst h
  unfold decode
  rw [rWord_op]
  show decodeOp1E _ = _
  simp (disch := decide) [decodeOp1E, sop, slot, dbit, need, zero, v1, v2, v3, vx, simm, fx3_low, fx3_high, fx4_low, fx4_high, cutAll, cutLo,
    cutHi, rWord_fn_0, rWord_fx_5, rWord_sb_10, rWord_sa_15, rWord_sd_20, rWord_op_25, SOp.ofBits_bits, VOp.ofBits_bits,
    slotBits_toFin, dBits_bit, simm_parts]

theorem setforme (sa : SOp) (f : Fin 8) : Statement (.setforme sa f) := by
  intro _ w h
  simp only [encodeWord, Option.some.injEq] at h
  subst h
  unfold decode
  rw [rWord_op]
  show decodeOp1E _ = _
  simp (disch := decide) [decodeOp1E, sop, slot, dbit, need, zero, v1, v2, v3, vx, simm, fx3_low, fx3_high, fx4_low, fx4_high, cutAll, cutLo,
    cutHi, rWord_fn_0, rWord_fx_5, rWord_sb_10, rWord_sa_15, rWord_sd_20, rWord_op_25, SOp.ofBits_bits, VOp.ofBits_bits,
    slotBits_toFin, dBits_bit, simm_parts]

theorem settile (sa sb : SOp) : Statement (.settile sa sb) := by
  intro _ w h
  simp only [encodeWord, Option.some.injEq] at h
  subst h
  unfold decode
  rw [rWord_op]
  show decodeOp1E _ = _
  simp (disch := decide) [decodeOp1E, sop, slot, dbit, need, zero, v1, v2, v3, vx, simm, fx3_low, fx3_high, fx4_low, fx4_high, cutAll, cutLo,
    cutHi, rWord_fn_0, rWord_fx_5, rWord_sb_10, rWord_sa_15, rWord_sd_20, rWord_op_25, SOp.ofBits_bits, VOp.ofBits_bits,
    slotBits_toFin, dBits_bit, simm_parts]

theorem gets (sd : SOp) (n : BitVec 12) : Statement (.gets sd n) := by
  intro _ w h
  simp only [encodeWord, Option.some.injEq] at h
  subst h
  unfold decode
  rw [iWord_op]
  show decodeOp1F _ = _
  simp (disch := decide) [decodeOp1F, sop, slot, dbit, need, zero, v1, v2, v3, vx, simm, fx3_low, fx3_high, fx4_low, fx4_high, cutAll, cutLo,
    cutHi, iWord_imm_0, iWord_f3_12, iWord_sa_15, iWord_sd_20, iWord_op_25, SOp.ofBits_bits, VOp.ofBits_bits,
    slotBits_toFin, dBits_bit, simm_parts]

theorem puts (sa : SOp) (n : BitVec 12) : Statement (.puts sa n) := by
  intro _ w h
  simp only [encodeWord, Option.some.injEq] at h
  subst h
  unfold decode
  rw [iWord_op]
  show decodeOp1F _ = _
  simp (disch := decide) [decodeOp1F, sop, slot, dbit, need, zero, v1, v2, v3, vx, simm, fx3_low, fx3_high, fx4_low, fx4_high, cutAll, cutLo,
    cutHi, iWord_imm_0, iWord_f3_12, iWord_sa_15, iWord_sd_20, iWord_op_25, SOp.ofBits_bits, VOp.ofBits_bits,
    slotBits_toFin, dBits_bit, simm_parts]

theorem strip (sa sb : SOp) : Statement (.strip sa sb) := by
  intro _ w h
  simp only [encodeWord, Option.some.injEq] at h
  subst h
  unfold decode
  rw [rWord_op]
  show decodeOp20 _ = _
  simp (disch := decide) [decodeOp20, sop, slot, dbit, need, zero, v1, v2, v3, vx, simm, fx3_low, fx3_high, fx4_low, fx4_high, cutAll, cutLo,
    cutHi, rWord_fn_0, rWord_fx_5, rWord_sb_10, rWord_sa_15, rWord_sd_20, rWord_op_25, SOp.ofBits_bits, VOp.ofBits_bits,
    slotBits_toFin, dBits_bit, simm_parts]

theorem proof (sa : SOp) (g : Fin 8) : Statement (.proof sa g) := by
  intro _ w h
  simp only [encodeWord, Option.some.injEq] at h
  subst h
  unfold decode
  rw [rWord_op]
  show decodeOp20 _ = _
  simp (disch := decide) [decodeOp20, sop, slot, dbit, need, zero, v1, v2, v3, vx, simm, fx3_low, fx3_high, fx4_low, fx4_high, cutAll, cutLo,
    cutHi, rWord_fn_0, rWord_fx_5, rWord_sb_10, rWord_sa_15, rWord_sd_20, rWord_op_25, SOp.ofBits_bits, VOp.ofBits_bits,
    slotBits_toFin, dBits_bit, simm_parts]

theorem endHart : Statement (.endHart) := by
  intro _ w h
  simp only [encodeWord, Option.some.injEq] at h
  subst h
  unfold decode
  rw [rWord_op]
  show decodeOp20 _ = _
  simp (disch := decide) [decodeOp20, sop, slot, dbit, need, zero, v1, v2, v3, vx, simm, fx3_low, fx3_high, fx4_low, fx4_high, cutAll, cutLo,
    cutHi, rWord_fn_0, rWord_fx_5, rWord_sb_10, rWord_sa_15, rWord_sd_20, rWord_op_25, SOp.ofBits_bits, VOp.ofBits_bits,
    slotBits_toFin, dBits_bit, simm_parts]

theorem vadd (dt : Bool) (g : Fin 8) (vd va vb : VOp) : Statement (.vadd dt g vd va vb) := by
  intro _ w h
  simp only [encodeWord, Option.some.injEq] at h
  subst h
  unfold decode
  rw [vWord_op]
  show v3 _ _ = _
  simp (disch := decide) [sop, slot, dbit, need, zero, v1, v2, v3, vx, simm, fx3_low, fx3_high, fx4_low, fx4_high, cutAll, cutLo,
    cutHi, vWord_vb_0, vWord_va_7, vWord_vd_14, vWord_g_21, vWord_d_24, vWord_op_25, SOp.ofBits_bits, VOp.ofBits_bits,
    slotBits_toFin, dBits_bit, simm_parts]

theorem vsub (dt : Bool) (g : Fin 8) (vd va vb : VOp) : Statement (.vsub dt g vd va vb) := by
  intro _ w h
  simp only [encodeWord, Option.some.injEq] at h
  subst h
  unfold decode
  rw [vWord_op]
  show v3 _ _ = _
  simp (disch := decide) [sop, slot, dbit, need, zero, v1, v2, v3, vx, simm, fx3_low, fx3_high, fx4_low, fx4_high, cutAll, cutLo,
    cutHi, vWord_vb_0, vWord_va_7, vWord_vd_14, vWord_g_21, vWord_d_24, vWord_op_25, SOp.ofBits_bits, VOp.ofBits_bits,
    slotBits_toFin, dBits_bit, simm_parts]

theorem vmul (dt : Bool) (g : Fin 8) (vd va vb : VOp) : Statement (.vmul dt g vd va vb) := by
  intro _ w h
  simp only [encodeWord, Option.some.injEq] at h
  subst h
  unfold decode
  rw [vWord_op]
  show v3 _ _ = _
  simp (disch := decide) [sop, slot, dbit, need, zero, v1, v2, v3, vx, simm, fx3_low, fx3_high, fx4_low, fx4_high, cutAll, cutLo,
    cutHi, vWord_vb_0, vWord_va_7, vWord_vd_14, vWord_g_21, vWord_d_24, vWord_op_25, SOp.ofBits_bits, VOp.ofBits_bits,
    slotBits_toFin, dBits_bit, simm_parts]

theorem vfma (dt : Bool) (g : Fin 8) (vd va vb : VOp) : Statement (.vfma dt g vd va vb) := by
  intro _ w h
  simp only [encodeWord, Option.some.injEq] at h
  subst h
  unfold decode
  rw [vWord_op]
  show v3 _ _ = _
  simp (disch := decide) [sop, slot, dbit, need, zero, v1, v2, v3, vx, simm, fx3_low, fx3_high, fx4_low, fx4_high, cutAll, cutLo,
    cutHi, vWord_vb_0, vWord_va_7, vWord_vd_14, vWord_g_21, vWord_d_24, vWord_op_25, SOp.ofBits_bits, VOp.ofBits_bits,
    slotBits_toFin, dBits_bit, simm_parts]

theorem vfms (dt : Bool) (g : Fin 8) (vd va vb : VOp) : Statement (.vfms dt g vd va vb) := by
  intro _ w h
  simp only [encodeWord, Option.some.injEq] at h
  subst h
  unfold decode
  rw [vWord_op]
  show v3 _ _ = _
  simp (disch := decide) [sop, slot, dbit, need, zero, v1, v2, v3, vx, simm, fx3_low, fx3_high, fx4_low, fx4_high, cutAll, cutLo,
    cutHi, vWord_vb_0, vWord_va_7, vWord_vd_14, vWord_g_21, vWord_d_24, vWord_op_25, SOp.ofBits_bits, VOp.ofBits_bits,
    slotBits_toFin, dBits_bit, simm_parts]

theorem vmin (dt : Bool) (g : Fin 8) (vd va vb : VOp) : Statement (.vmin dt g vd va vb) := by
  intro _ w h
  simp only [encodeWord, Option.some.injEq] at h
  subst h
  unfold decode
  rw [vWord_op]
  show v3 _ _ = _
  simp (disch := decide) [sop, slot, dbit, need, zero, v1, v2, v3, vx, simm, fx3_low, fx3_high, fx4_low, fx4_high, cutAll, cutLo,
    cutHi, vWord_vb_0, vWord_va_7, vWord_vd_14, vWord_g_21, vWord_d_24, vWord_op_25, SOp.ofBits_bits, VOp.ofBits_bits,
    slotBits_toFin, dBits_bit, simm_parts]

theorem vmax (dt : Bool) (g : Fin 8) (vd va vb : VOp) : Statement (.vmax dt g vd va vb) := by
  intro _ w h
  simp only [encodeWord, Option.some.injEq] at h
  subst h
  unfold decode
  rw [vWord_op]
  show v3 _ _ = _
  simp (disch := decide) [sop, slot, dbit, need, zero, v1, v2, v3, vx, simm, fx3_low, fx3_high, fx4_low, fx4_high, cutAll, cutLo,
    cutHi, vWord_vb_0, vWord_va_7, vWord_vd_14, vWord_g_21, vWord_d_24, vWord_op_25, SOp.ofBits_bits, VOp.ofBits_bits,
    slotBits_toFin, dBits_bit, simm_parts]

theorem vand (dt : Bool) (g : Fin 8) (vd va vb : VOp) : Statement (.vand dt g vd va vb) := by
  intro _ w h
  simp only [encodeWord, Option.some.injEq] at h
  subst h
  unfold decode
  rw [vWord_op]
  show v3 _ _ = _
  simp (disch := decide) [sop, slot, dbit, need, zero, v1, v2, v3, vx, simm, fx3_low, fx3_high, fx4_low, fx4_high, cutAll, cutLo,
    cutHi, vWord_vb_0, vWord_va_7, vWord_vd_14, vWord_g_21, vWord_d_24, vWord_op_25, SOp.ofBits_bits, VOp.ofBits_bits,
    slotBits_toFin, dBits_bit, simm_parts]

theorem vor (dt : Bool) (g : Fin 8) (vd va vb : VOp) : Statement (.vor dt g vd va vb) := by
  intro _ w h
  simp only [encodeWord, Option.some.injEq] at h
  subst h
  unfold decode
  rw [vWord_op]
  show v3 _ _ = _
  simp (disch := decide) [sop, slot, dbit, need, zero, v1, v2, v3, vx, simm, fx3_low, fx3_high, fx4_low, fx4_high, cutAll, cutLo,
    cutHi, vWord_vb_0, vWord_va_7, vWord_vd_14, vWord_g_21, vWord_d_24, vWord_op_25, SOp.ofBits_bits, VOp.ofBits_bits,
    slotBits_toFin, dBits_bit, simm_parts]

theorem vxor (dt : Bool) (g : Fin 8) (vd va vb : VOp) : Statement (.vxor dt g vd va vb) := by
  intro _ w h
  simp only [encodeWord, Option.some.injEq] at h
  subst h
  unfold decode
  rw [vWord_op]
  show v3 _ _ = _
  simp (disch := decide) [sop, slot, dbit, need, zero, v1, v2, v3, vx, simm, fx3_low, fx3_high, fx4_low, fx4_high, cutAll, cutLo,
    cutHi, vWord_vb_0, vWord_va_7, vWord_vd_14, vWord_g_21, vWord_d_24, vWord_op_25, SOp.ofBits_bits, VOp.ofBits_bits,
    slotBits_toFin, dBits_bit, simm_parts]

theorem vshl (dt : Bool) (g : Fin 8) (vd va vb : VOp) : Statement (.vshl dt g vd va vb) := by
  intro _ w h
  simp only [encodeWord, Option.some.injEq] at h
  subst h
  unfold decode
  rw [vWord_op]
  show v3 _ _ = _
  simp (disch := decide) [sop, slot, dbit, need, zero, v1, v2, v3, vx, simm, fx3_low, fx3_high, fx4_low, fx4_high, cutAll, cutLo,
    cutHi, vWord_vb_0, vWord_va_7, vWord_vd_14, vWord_g_21, vWord_d_24, vWord_op_25, SOp.ofBits_bits, VOp.ofBits_bits,
    slotBits_toFin, dBits_bit, simm_parts]

theorem vshr (dt : Bool) (g : Fin 8) (vd va vb : VOp) : Statement (.vshr dt g vd va vb) := by
  intro _ w h
  simp only [encodeWord, Option.some.injEq] at h
  subst h
  unfold decode
  rw [vWord_op]
  show v3 _ _ = _
  simp (disch := decide) [sop, slot, dbit, need, zero, v1, v2, v3, vx, simm, fx3_low, fx3_high, fx4_low, fx4_high, cutAll, cutLo,
    cutHi, vWord_vb_0, vWord_va_7, vWord_vd_14, vWord_g_21, vWord_d_24, vWord_op_25, SOp.ofBits_bits, VOp.ofBits_bits,
    slotBits_toFin, dBits_bit, simm_parts]

theorem vsra (dt : Bool) (g : Fin 8) (vd va vb : VOp) : Statement (.vsra dt g vd va vb) := by
  intro _ w h
  simp only [encodeWord, Option.some.injEq] at h
  subst h
  unfold decode
  rw [vWord_op]
  show v3 _ _ = _
  simp (disch := decide) [sop, slot, dbit, need, zero, v1, v2, v3, vx, simm, fx3_low, fx3_high, fx4_low, fx4_high, cutAll, cutLo,
    cutHi, vWord_vb_0, vWord_va_7, vWord_vd_14, vWord_g_21, vWord_d_24, vWord_op_25, SOp.ofBits_bits, VOp.ofBits_bits,
    slotBits_toFin, dBits_bit, simm_parts]

theorem vdiv (dt : Bool) (g : Fin 8) (vd va vb : VOp) : Statement (.vdiv dt g vd va vb) := by
  intro _ w h
  simp only [encodeWord, Option.some.injEq] at h
  subst h
  unfold decode
  rw [vWord_op]
  show v3 _ _ = _
  simp (disch := decide) [sop, slot, dbit, need, zero, v1, v2, v3, vx, simm, fx3_low, fx3_high, fx4_low, fx4_high, cutAll, cutLo,
    cutHi, vWord_vb_0, vWord_va_7, vWord_vd_14, vWord_g_21, vWord_d_24, vWord_op_25, SOp.ofBits_bits, VOp.ofBits_bits,
    slotBits_toFin, dBits_bit, simm_parts]

theorem vcmpeq (dt : Bool) (g : Fin 8) (vd va vb : VOp) : Statement (.vcmpeq dt g vd va vb) := by
  intro _ w h
  simp only [encodeWord, Option.some.injEq] at h
  subst h
  unfold decode
  rw [vWord_op]
  show v3 _ _ = _
  simp (disch := decide) [sop, slot, dbit, need, zero, v1, v2, v3, vx, simm, fx3_low, fx3_high, fx4_low, fx4_high, cutAll, cutLo,
    cutHi, vWord_vb_0, vWord_va_7, vWord_vd_14, vWord_g_21, vWord_d_24, vWord_op_25, SOp.ofBits_bits, VOp.ofBits_bits,
    slotBits_toFin, dBits_bit, simm_parts]

theorem vcmpne (dt : Bool) (g : Fin 8) (vd va vb : VOp) : Statement (.vcmpne dt g vd va vb) := by
  intro _ w h
  simp only [encodeWord, Option.some.injEq] at h
  subst h
  unfold decode
  rw [vWord_op]
  show v3 _ _ = _
  simp (disch := decide) [sop, slot, dbit, need, zero, v1, v2, v3, vx, simm, fx3_low, fx3_high, fx4_low, fx4_high, cutAll, cutLo,
    cutHi, vWord_vb_0, vWord_va_7, vWord_vd_14, vWord_g_21, vWord_d_24, vWord_op_25, SOp.ofBits_bits, VOp.ofBits_bits,
    slotBits_toFin, dBits_bit, simm_parts]

theorem vcmplt (dt : Bool) (g : Fin 8) (vd va vb : VOp) : Statement (.vcmplt dt g vd va vb) := by
  intro _ w h
  simp only [encodeWord, Option.some.injEq] at h
  subst h
  unfold decode
  rw [vWord_op]
  show v3 _ _ = _
  simp (disch := decide) [sop, slot, dbit, need, zero, v1, v2, v3, vx, simm, fx3_low, fx3_high, fx4_low, fx4_high, cutAll, cutLo,
    cutHi, vWord_vb_0, vWord_va_7, vWord_vd_14, vWord_g_21, vWord_d_24, vWord_op_25, SOp.ofBits_bits, VOp.ofBits_bits,
    slotBits_toFin, dBits_bit, simm_parts]

theorem vcmple (dt : Bool) (g : Fin 8) (vd va vb : VOp) : Statement (.vcmple dt g vd va vb) := by
  intro _ w h
  simp only [encodeWord, Option.some.injEq] at h
  subst h
  unfold decode
  rw [vWord_op]
  show v3 _ _ = _
  simp (disch := decide) [sop, slot, dbit, need, zero, v1, v2, v3, vx, simm, fx3_low, fx3_high, fx4_low, fx4_high, cutAll, cutLo,
    cutHi, vWord_vb_0, vWord_va_7, vWord_vd_14, vWord_g_21, vWord_d_24, vWord_op_25, SOp.ofBits_bits, VOp.ofBits_bits,
    slotBits_toFin, dBits_bit, simm_parts]

theorem vsel (g : Fin 8) (vd va vb : VOp) : Statement (.vsel g vd va vb) := by
  intro _ w h
  simp only [encodeWord, Option.some.injEq] at h
  subst h
  unfold decode
  rw [vWord_op]
  show need _ _ = _
  simp (disch := decide) [sop, slot, dbit, need, zero, v1, v2, v3, vx, simm, fx3_low, fx3_high, fx4_low, fx4_high, cutAll, cutLo,
    cutHi, vWord_vb_0, vWord_va_7, vWord_vd_14, vWord_g_21, vWord_d_24, vWord_op_25, SOp.ofBits_bits, VOp.ofBits_bits,
    slotBits_toFin, dBits_bit, simm_parts]

theorem vclamp (dt : Bool) (g : Fin 8) (vd va vb : VOp) : Statement (.vclamp dt g vd va vb) := by
  intro _ w h
  simp only [encodeWord, Option.some.injEq] at h
  subst h
  unfold decode
  rw [vWord_op]
  show v3 _ _ = _
  simp (disch := decide) [sop, slot, dbit, need, zero, v1, v2, v3, vx, simm, fx3_low, fx3_high, fx4_low, fx4_high, cutAll, cutLo,
    cutHi, vWord_vb_0, vWord_va_7, vWord_vd_14, vWord_g_21, vWord_d_24, vWord_op_25, SOp.ofBits_bits, VOp.ofBits_bits,
    slotBits_toFin, dBits_bit, simm_parts]

theorem vslideup (dt : Bool) (g : Fin 8) (vd va vb : VOp) : Statement (.vslideup dt g vd va vb) := by
  intro _ w h
  simp only [encodeWord, Option.some.injEq] at h
  subst h
  unfold decode
  rw [vWord_op]
  show v3 _ _ = _
  simp (disch := decide) [sop, slot, dbit, need, zero, v1, v2, v3, vx, simm, fx3_low, fx3_high, fx4_low, fx4_high, cutAll, cutLo,
    cutHi, vWord_vb_0, vWord_va_7, vWord_vd_14, vWord_g_21, vWord_d_24, vWord_op_25, SOp.ofBits_bits, VOp.ofBits_bits,
    slotBits_toFin, dBits_bit, simm_parts]

theorem vslidedn (dt : Bool) (g : Fin 8) (vd va vb : VOp) : Statement (.vslidedn dt g vd va vb) := by
  intro _ w h
  simp only [encodeWord, Option.some.injEq] at h
  subst h
  unfold decode
  rw [vWord_op]
  show v3 _ _ = _
  simp (disch := decide) [sop, slot, dbit, need, zero, v1, v2, v3, vx, simm, fx3_low, fx3_high, fx4_low, fx4_high, cutAll, cutLo,
    cutHi, vWord_vb_0, vWord_va_7, vWord_vd_14, vWord_g_21, vWord_d_24, vWord_op_25, SOp.ofBits_bits, VOp.ofBits_bits,
    slotBits_toFin, dBits_bit, simm_parts]

theorem vperm (dt : Bool) (g : Fin 8) (vd va vb : VOp) : Statement (.vperm dt g vd va vb) := by
  intro _ w h
  simp only [encodeWord, Option.some.injEq] at h
  subst h
  unfold decode
  rw [vWord_op]
  show v3 _ _ = _
  simp (disch := decide) [sop, slot, dbit, need, zero, v1, v2, v3, vx, simm, fx3_low, fx3_high, fx4_low, fx4_high, cutAll, cutLo,
    cutHi, vWord_vb_0, vWord_va_7, vWord_vd_14, vWord_g_21, vWord_d_24, vWord_op_25, SOp.ofBits_bits, VOp.ofBits_bits,
    slotBits_toFin, dBits_bit, simm_parts]

theorem vexpand (dt : Bool) (g : Fin 8) (vd va vb : VOp) : Statement (.vexpand dt g vd va vb) := by
  intro _ w h
  simp only [encodeWord, Option.some.injEq] at h
  subst h
  unfold decode
  rw [vWord_op]
  show v3 _ _ = _
  simp (disch := decide) [sop, slot, dbit, need, zero, v1, v2, v3, vx, simm, fx3_low, fx3_high, fx4_low, fx4_high, cutAll, cutLo,
    cutHi, vWord_vb_0, vWord_va_7, vWord_vd_14, vWord_g_21, vWord_d_24, vWord_op_25, SOp.ofBits_bits, VOp.ofBits_bits,
    slotBits_toFin, dBits_bit, simm_parts]

theorem vcompress (dt : Bool) (g : Fin 8) (vd va vb : VOp) : Statement (.vcompress dt g vd va vb) := by
  intro _ w h
  simp only [encodeWord, Option.some.injEq] at h
  subst h
  unfold decode
  rw [vWord_op]
  show v3 _ _ = _
  simp (disch := decide) [sop, slot, dbit, need, zero, v1, v2, v3, vx, simm, fx3_low, fx3_high, fx4_low, fx4_high, cutAll, cutLo,
    cutHi, vWord_vb_0, vWord_va_7, vWord_vd_14, vWord_g_21, vWord_d_24, vWord_op_25, SOp.ofBits_bits, VOp.ofBits_bits,
    slotBits_toFin, dBits_bit, simm_parts]

theorem vabs (dt : Bool) (g : Fin 8) (vd va : VOp) : Statement (.vabs dt g vd va) := by
  intro _ w h
  simp only [encodeWord, Option.some.injEq] at h
  subst h
  unfold decode
  rw [vWord_op]
  show decodeOp59 _ = _
  simp (disch := decide) [decodeOp59, sop, slot, dbit, need, zero, v1, v2, v3, vx, simm, fx3_low, fx3_high, fx4_low, fx4_high, cutAll, cutLo,
    cutHi, vWord_vb_0, vWord_va_7, vWord_vd_14, vWord_g_21, vWord_d_24, vWord_op_25, SOp.ofBits_bits, VOp.ofBits_bits,
    slotBits_toFin, dBits_bit, simm_parts]

theorem vneg (dt : Bool) (g : Fin 8) (vd va : VOp) : Statement (.vneg dt g vd va) := by
  intro _ w h
  simp only [encodeWord, Option.some.injEq] at h
  subst h
  unfold decode
  rw [vWord_op]
  show decodeOp59 _ = _
  simp (disch := decide) [decodeOp59, sop, slot, dbit, need, zero, v1, v2, v3, vx, simm, fx3_low, fx3_high, fx4_low, fx4_high, cutAll, cutLo,
    cutHi, vWord_vb_0, vWord_va_7, vWord_vd_14, vWord_g_21, vWord_d_24, vWord_op_25, SOp.ofBits_bits, VOp.ofBits_bits,
    slotBits_toFin, dBits_bit, simm_parts]

theorem vnot (dt : Bool) (g : Fin 8) (vd va : VOp) : Statement (.vnot dt g vd va) := by
  intro _ w h
  simp only [encodeWord, Option.some.injEq] at h
  subst h
  unfold decode
  rw [vWord_op]
  show decodeOp59 _ = _
  simp (disch := decide) [decodeOp59, sop, slot, dbit, need, zero, v1, v2, v3, vx, simm, fx3_low, fx3_high, fx4_low, fx4_high, cutAll, cutLo,
    cutHi, vWord_vb_0, vWord_va_7, vWord_vd_14, vWord_g_21, vWord_d_24, vWord_op_25, SOp.ofBits_bits, VOp.ofBits_bits,
    slotBits_toFin, dBits_bit, simm_parts]

theorem vsqrt (dt : Bool) (g : Fin 8) (vd va : VOp) : Statement (.vsqrt dt g vd va) := by
  intro _ w h
  simp only [encodeWord, Option.some.injEq] at h
  subst h
  unfold decode
  rw [vWord_op]
  show decodeOp59 _ = _
  simp (disch := decide) [decodeOp59, sop, slot, dbit, need, zero, v1, v2, v3, vx, simm, fx3_low, fx3_high, fx4_low, fx4_high, cutAll, cutLo,
    cutHi, vWord_vb_0, vWord_va_7, vWord_vd_14, vWord_g_21, vWord_d_24, vWord_op_25, SOp.ofBits_bits, VOp.ofBits_bits,
    slotBits_toFin, dBits_bit, simm_parts]

theorem vrcp (dt : Bool) (g : Fin 8) (vd va : VOp) : Statement (.vrcp dt g vd va) := by
  intro _ w h
  simp only [encodeWord, Option.some.injEq] at h
  subst h
  unfold decode
  rw [vWord_op]
  show decodeOp59 _ = _
  simp (disch := decide) [decodeOp59, sop, slot, dbit, need, zero, v1, v2, v3, vx, simm, fx3_low, fx3_high, fx4_low, fx4_high, cutAll, cutLo,
    cutHi, vWord_vb_0, vWord_va_7, vWord_vd_14, vWord_g_21, vWord_d_24, vWord_op_25, SOp.ofBits_bits, VOp.ofBits_bits,
    slotBits_toFin, dBits_bit, simm_parts]

theorem vrsq (dt : Bool) (g : Fin 8) (vd va : VOp) : Statement (.vrsq dt g vd va) := by
  intro _ w h
  simp only [encodeWord, Option.some.injEq] at h
  subst h
  unfold decode
  rw [vWord_op]
  show decodeOp59 _ = _
  simp (disch := decide) [decodeOp59, sop, slot, dbit, need, zero, v1, v2, v3, vx, simm, fx3_low, fx3_high, fx4_low, fx4_high, cutAll, cutLo,
    cutHi, vWord_vb_0, vWord_va_7, vWord_vd_14, vWord_g_21, vWord_d_24, vWord_op_25, SOp.ofBits_bits, VOp.ofBits_bits,
    slotBits_toFin, dBits_bit, simm_parts]

theorem vexp2 (dt : Bool) (g : Fin 8) (vd va : VOp) : Statement (.vexp2 dt g vd va) := by
  intro _ w h
  simp only [encodeWord, Option.some.injEq] at h
  subst h
  unfold decode
  rw [vWord_op]
  show decodeOp59 _ = _
  simp (disch := decide) [decodeOp59, sop, slot, dbit, need, zero, v1, v2, v3, vx, simm, fx3_low, fx3_high, fx4_low, fx4_high, cutAll, cutLo,
    cutHi, vWord_vb_0, vWord_va_7, vWord_vd_14, vWord_g_21, vWord_d_24, vWord_op_25, SOp.ofBits_bits, VOp.ofBits_bits,
    slotBits_toFin, dBits_bit, simm_parts]

theorem vlog2 (dt : Bool) (g : Fin 8) (vd va : VOp) : Statement (.vlog2 dt g vd va) := by
  intro _ w h
  simp only [encodeWord, Option.some.injEq] at h
  subst h
  unfold decode
  rw [vWord_op]
  show decodeOp59 _ = _
  simp (disch := decide) [decodeOp59, sop, slot, dbit, need, zero, v1, v2, v3, vx, simm, fx3_low, fx3_high, fx4_low, fx4_high, cutAll, cutLo,
    cutHi, vWord_vb_0, vWord_va_7, vWord_vd_14, vWord_g_21, vWord_d_24, vWord_op_25, SOp.ofBits_bits, VOp.ofBits_bits,
    slotBits_toFin, dBits_bit, simm_parts]

theorem vcvt (dt : Bool) (g : Fin 8) (vd va : VOp) : Statement (.vcvt dt g vd va) := by
  intro _ w h
  simp only [encodeWord, Option.some.injEq] at h
  subst h
  unfold decode
  rw [vWord_op]
  show decodeOp59 _ = _
  simp (disch := decide) [decodeOp59, sop, slot, dbit, need, zero, v1, v2, v3, vx, simm, fx3_low, fx3_high, fx4_low, fx4_high, cutAll, cutLo,
    cutHi, vWord_vb_0, vWord_va_7, vWord_vd_14, vWord_g_21, vWord_d_24, vWord_op_25, SOp.ofBits_bits, VOp.ofBits_bits,
    slotBits_toFin, dBits_bit, simm_parts]

theorem viota (dt : Bool) (g : Fin 8) (vd va : VOp) : Statement (.viota dt g vd va) := by
  intro _ w h
  simp only [encodeWord, Option.some.injEq] at h
  subst h
  unfold decode
  rw [vWord_op]
  show decodeOp59 _ = _
  simp (disch := decide) [decodeOp59, sop, slot, dbit, need, zero, v1, v2, v3, vx, simm, fx3_low, fx3_high, fx4_low, fx4_high, cutAll, cutLo,
    cutHi, vWord_vb_0, vWord_va_7, vWord_vd_14, vWord_g_21, vWord_d_24, vWord_op_25, SOp.ofBits_bits, VOp.ofBits_bits,
    slotBits_toFin, dBits_bit, simm_parts]

theorem vconflict (dt : Bool) (g : Fin 8) (vd va : VOp) : Statement (.vconflict dt g vd va) := by
  intro _ w h
  simp only [encodeWord, Option.some.injEq] at h
  subst h
  unfold decode
  rw [vWord_op]
  show decodeOp59 _ = _
  simp (disch := decide) [decodeOp59, sop, slot, dbit, need, zero, v1, v2, v3, vx, simm, fx3_low, fx3_high, fx4_low, fx4_high, cutAll, cutLo,
    cutHi, vWord_vb_0, vWord_va_7, vWord_vd_14, vWord_g_21, vWord_d_24, vWord_op_25, SOp.ofBits_bits, VOp.ofBits_bits,
    slotBits_toFin, dBits_bit, simm_parts]

theorem vmv (dt : Bool) (g : Fin 8) (vd va : VOp) : Statement (.vmv dt g vd va) := by
  intro _ w h
  simp only [encodeWord, Option.some.injEq] at h
  subst h
  unfold decode
  rw [vWord_op]
  show decodeOp59 _ = _
  simp (disch := decide) [decodeOp59, sop, slot, dbit, need, zero, v1, v2, v3, vx, simm, fx3_low, fx3_high, fx4_low, fx4_high, cutAll, cutLo,
    cutHi, vWord_vb_0, vWord_va_7, vWord_vd_14, vWord_g_21, vWord_d_24, vWord_op_25, SOp.ofBits_bits, VOp.ofBits_bits,
    slotBits_toFin, dBits_bit, simm_parts]

theorem vbcast (dt : Bool) (g : Fin 8) (vd va : VOp) : Statement (.vbcast dt g vd va) := by
  intro _ w h
  simp only [encodeWord, Option.some.injEq] at h
  subst h
  unfold decode
  rw [vWord_op]
  show decodeOp59 _ = _
  simp (disch := decide) [decodeOp59, sop, slot, dbit, need, zero, v1, v2, v3, vx, simm, fx3_low, fx3_high, fx4_low, fx4_high, cutAll, cutLo,
    cutHi, vWord_vb_0, vWord_va_7, vWord_vd_14, vWord_g_21, vWord_d_24, vWord_op_25, SOp.ofBits_bits, VOp.ofBits_bits,
    slotBits_toFin, dBits_bit, simm_parts]

theorem vextract (g : Fin 8) (vd va : VOp) : Statement (.vextract g vd va) := by
  intro _ w h
  simp only [encodeWord, Option.some.injEq] at h
  subst h
  unfold decode
  rw [vWord_op]
  show decodeOp59 _ = _
  simp (disch := decide) [decodeOp59, sop, slot, dbit, need, zero, v1, v2, v3, vx, simm, fx3_low, fx3_high, fx4_low, fx4_high, cutAll, cutLo,
    cutHi, vWord_vb_0, vWord_va_7, vWord_vd_14, vWord_g_21, vWord_d_24, vWord_op_25, SOp.ofBits_bits, VOp.ofBits_bits,
    slotBits_toFin, dBits_bit, simm_parts]

theorem vredsum (dt : Bool) (g : Fin 8) (vd va : VOp) : Statement (.vredsum dt g vd va) := by
  intro _ w h
  simp only [encodeWord, Option.some.injEq] at h
  subst h
  unfold decode
  rw [vWord_op]
  show decodeOp5A _ = _
  simp (disch := decide) [decodeOp5A, sop, slot, dbit, need, zero, v1, v2, v3, vx, simm, fx3_low, fx3_high, fx4_low, fx4_high, cutAll, cutLo,
    cutHi, vWord_vb_0, vWord_va_7, vWord_vd_14, vWord_g_21, vWord_d_24, vWord_op_25, SOp.ofBits_bits, VOp.ofBits_bits,
    slotBits_toFin, dBits_bit, simm_parts]

theorem vredmax (dt : Bool) (g : Fin 8) (vd va : VOp) : Statement (.vredmax dt g vd va) := by
  intro _ w h
  simp only [encodeWord, Option.some.injEq] at h
  subst h
  unfold decode
  rw [vWord_op]
  show decodeOp5A _ = _
  simp (disch := decide) [decodeOp5A, sop, slot, dbit, need, zero, v1, v2, v3, vx, simm, fx3_low, fx3_high, fx4_low, fx4_high, cutAll, cutLo,
    cutHi, vWord_vb_0, vWord_va_7, vWord_vd_14, vWord_g_21, vWord_d_24, vWord_op_25, SOp.ofBits_bits, VOp.ofBits_bits,
    slotBits_toFin, dBits_bit, simm_parts]

theorem vredmin (dt : Bool) (g : Fin 8) (vd va : VOp) : Statement (.vredmin dt g vd va) := by
  intro _ w h
  simp only [encodeWord, Option.some.injEq] at h
  subst h
  unfold decode
  rw [vWord_op]
  show decodeOp5A _ = _
  simp (disch := decide) [decodeOp5A, sop, slot, dbit, need, zero, v1, v2, v3, vx, simm, fx3_low, fx3_high, fx4_low, fx4_high, cutAll, cutLo,
    cutHi, vWord_vb_0, vWord_va_7, vWord_vd_14, vWord_g_21, vWord_d_24, vWord_op_25, SOp.ofBits_bits, VOp.ofBits_bits,
    slotBits_toFin, dBits_bit, simm_parts]

theorem mand (dt : Bool) (g : Fin 8) (vd va vb : VOp) : Statement (.mand dt g vd va vb) := by
  intro _ w h
  simp only [encodeWord, Option.some.injEq] at h
  subst h
  unfold decode
  rw [vWord_op]
  show v3 _ _ = _
  simp (disch := decide) [sop, slot, dbit, need, zero, v1, v2, v3, vx, simm, fx3_low, fx3_high, fx4_low, fx4_high, cutAll, cutLo,
    cutHi, vWord_vb_0, vWord_va_7, vWord_vd_14, vWord_g_21, vWord_d_24, vWord_op_25, SOp.ofBits_bits, VOp.ofBits_bits,
    slotBits_toFin, dBits_bit, simm_parts]

theorem mor (dt : Bool) (g : Fin 8) (vd va vb : VOp) : Statement (.mor dt g vd va vb) := by
  intro _ w h
  simp only [encodeWord, Option.some.injEq] at h
  subst h
  unfold decode
  rw [vWord_op]
  show v3 _ _ = _
  simp (disch := decide) [sop, slot, dbit, need, zero, v1, v2, v3, vx, simm, fx3_low, fx3_high, fx4_low, fx4_high, cutAll, cutLo,
    cutHi, vWord_vb_0, vWord_va_7, vWord_vd_14, vWord_g_21, vWord_d_24, vWord_op_25, SOp.ofBits_bits, VOp.ofBits_bits,
    slotBits_toFin, dBits_bit, simm_parts]

theorem mxor (dt : Bool) (g : Fin 8) (vd va vb : VOp) : Statement (.mxor dt g vd va vb) := by
  intro _ w h
  simp only [encodeWord, Option.some.injEq] at h
  subst h
  unfold decode
  rw [vWord_op]
  show v3 _ _ = _
  simp (disch := decide) [sop, slot, dbit, need, zero, v1, v2, v3, vx, simm, fx3_low, fx3_high, fx4_low, fx4_high, cutAll, cutLo,
    cutHi, vWord_vb_0, vWord_va_7, vWord_vd_14, vWord_g_21, vWord_d_24, vWord_op_25, SOp.ofBits_bits, VOp.ofBits_bits,
    slotBits_toFin, dBits_bit, simm_parts]

theorem mandn (dt : Bool) (g : Fin 8) (vd va vb : VOp) : Statement (.mandn dt g vd va vb) := by
  intro _ w h
  simp only [encodeWord, Option.some.injEq] at h
  subst h
  unfold decode
  rw [vWord_op]
  show v3 _ _ = _
  simp (disch := decide) [sop, slot, dbit, need, zero, v1, v2, v3, vx, simm, fx3_low, fx3_high, fx4_low, fx4_high, cutAll, cutLo,
    cutHi, vWord_vb_0, vWord_va_7, vWord_vd_14, vWord_g_21, vWord_d_24, vWord_op_25, SOp.ofBits_bits, VOp.ofBits_bits,
    slotBits_toFin, dBits_bit, simm_parts]

theorem mpop (dt : Bool) (g : Fin 8) (vd va : VOp) : Statement (.mpop dt g vd va) := by
  intro _ w h
  simp only [encodeWord, Option.some.injEq] at h
  subst h
  unfold decode
  rw [vWord_op]
  show decodeOp5F _ = _
  simp (disch := decide) [decodeOp5F, sop, slot, dbit, need, zero, v1, v2, v3, vx, simm, fx3_low, fx3_high, fx4_low, fx4_high, cutAll, cutLo,
    cutHi, vWord_vb_0, vWord_va_7, vWord_vd_14, vWord_g_21, vWord_d_24, vWord_op_25, SOp.ofBits_bits, VOp.ofBits_bits,
    slotBits_toFin, dBits_bit, simm_parts]

theorem mfirst (dt : Bool) (g : Fin 8) (vd va : VOp) : Statement (.mfirst dt g vd va) := by
  intro _ w h
  simp only [encodeWord, Option.some.injEq] at h
  subst h
  unfold decode
  rw [vWord_op]
  show decodeOp5F _ = _
  simp (disch := decide) [decodeOp5F, sop, slot, dbit, need, zero, v1, v2, v3, vx, simm, fx3_low, fx3_high, fx4_low, fx4_high, cutAll, cutLo,
    cutHi, vWord_vb_0, vWord_va_7, vWord_vd_14, vWord_g_21, vWord_d_24, vWord_op_25, SOp.ofBits_bits, VOp.ofBits_bits,
    slotBits_toFin, dBits_bit, simm_parts]

theorem mset (dt : Bool) (g : Fin 8) (vd : VOp) : Statement (.mset dt g vd) := by
  intro _ w h
  simp only [encodeWord, Option.some.injEq] at h
  subst h
  unfold decode
  rw [vWord_op]
  show decodeOp5F _ = _
  simp (disch := decide) [decodeOp5F, sop, slot, dbit, need, zero, v1, v2, v3, vx, simm, fx3_low, fx3_high, fx4_low, fx4_high, cutAll, cutLo,
    cutHi, vWord_vb_0, vWord_va_7, vWord_vd_14, vWord_g_21, vWord_d_24, vWord_op_25, SOp.ofBits_bits, VOp.ofBits_bits,
    slotBits_toFin, dBits_bit, simm_parts]

theorem mclr (dt : Bool) (g : Fin 8) (vd : VOp) : Statement (.mclr dt g vd) := by
  intro _ w h
  simp only [encodeWord, Option.some.injEq] at h
  subst h
  unfold decode
  rw [vWord_op]
  show decodeOp5F _ = _
  simp (disch := decide) [decodeOp5F, sop, slot, dbit, need, zero, v1, v2, v3, vx, simm, fx3_low, fx3_high, fx4_low, fx4_high, cutAll, cutLo,
    cutHi, vWord_vb_0, vWord_va_7, vWord_vd_14, vWord_g_21, vWord_d_24, vWord_op_25, SOp.ofBits_bits, VOp.ofBits_bits,
    slotBits_toFin, dBits_bit, simm_parts]

theorem vld (dt : Bool) (g : Fin 8) (vd : VOp) (sa : SOp) : Statement (.vld dt g vd sa) := by
  intro _ w h
  simp only [encodeWord, Option.some.injEq] at h
  subst h
  unfold decode
  rw [vmWord_op]
  show decodeOp60 _ = _
  simp (disch := decide) [decodeOp60, sop, slot, dbit, need, zero, v1, v2, v3, vx, simm, fx3_low, fx3_high, fx4_low, fx4_high, cutAll, cutLo,
    cutHi, vmWord_fn_0, vmWord_sb_4, vmWord_sa_9, vmWord_vd_14, vmWord_g_21, vmWord_d_24, vmWord_op_25, SOp.ofBits_bits, VOp.ofBits_bits,
    slotBits_toFin, dBits_bit, simm_parts]

theorem vlds (dt : Bool) (g : Fin 8) (vd : VOp) (sa sb : SOp) : Statement (.vlds dt g vd sa sb) := by
  intro _ w h
  simp only [encodeWord, Option.some.injEq] at h
  subst h
  unfold decode
  rw [vmWord_op]
  show decodeOp60 _ = _
  simp (disch := decide) [decodeOp60, sop, slot, dbit, need, zero, v1, v2, v3, vx, simm, fx3_low, fx3_high, fx4_low, fx4_high, cutAll, cutLo,
    cutHi, vmWord_fn_0, vmWord_sb_4, vmWord_sa_9, vmWord_vd_14, vmWord_g_21, vmWord_d_24, vmWord_op_25, SOp.ofBits_bits, VOp.ofBits_bits,
    slotBits_toFin, dBits_bit, simm_parts]

theorem vldt (dt : Bool) (g : Fin 8) (vd : VOp) (sa : SOp) : Statement (.vldt dt g vd sa) := by
  intro _ w h
  simp only [encodeWord, Option.some.injEq] at h
  subst h
  unfold decode
  rw [vmWord_op]
  show decodeOp60 _ = _
  simp (disch := decide) [decodeOp60, sop, slot, dbit, need, zero, v1, v2, v3, vx, simm, fx3_low, fx3_high, fx4_low, fx4_high, cutAll, cutLo,
    cutHi, vmWord_fn_0, vmWord_sb_4, vmWord_sa_9, vmWord_vd_14, vmWord_g_21, vmWord_d_24, vmWord_op_25, SOp.ofBits_bits, VOp.ofBits_bits,
    slotBits_toFin, dBits_bit, simm_parts]

theorem vldb (g : Fin 8) (vd : VOp) (sa : SOp) : Statement (.vldb g vd sa) := by
  intro _ w h
  simp only [encodeWord, Option.some.injEq] at h
  subst h
  unfold decode
  rw [vmWord_op]
  show decodeOp60 _ = _
  simp (disch := decide) [decodeOp60, sop, slot, dbit, need, zero, v1, v2, v3, vx, simm, fx3_low, fx3_high, fx4_low, fx4_high, cutAll, cutLo,
    cutHi, vmWord_fn_0, vmWord_sb_4, vmWord_sa_9, vmWord_vd_14, vmWord_g_21, vmWord_d_24, vmWord_op_25, SOp.ofBits_bits, VOp.ofBits_bits,
    slotBits_toFin, dBits_bit, simm_parts]

theorem vldpk (dt : Bool) (g : Fin 8) (vd : VOp) (sa sb : SOp) : Statement (.vldpk dt g vd sa sb) := by
  intro _ w h
  simp only [encodeWord, Option.some.injEq] at h
  subst h
  unfold decode
  rw [vmWord_op]
  show decodeOp60 _ = _
  simp (disch := decide) [decodeOp60, sop, slot, dbit, need, zero, v1, v2, v3, vx, simm, fx3_low, fx3_high, fx4_low, fx4_high, cutAll, cutLo,
    cutHi, vmWord_fn_0, vmWord_sb_4, vmWord_sa_9, vmWord_vd_14, vmWord_g_21, vmWord_d_24, vmWord_op_25, SOp.ofBits_bits, VOp.ofBits_bits,
    slotBits_toFin, dBits_bit, simm_parts]

theorem vst (dt : Bool) (g : Fin 8) (vd : VOp) (sa : SOp) : Statement (.vst dt g vd sa) := by
  intro _ w h
  simp only [encodeWord, Option.some.injEq] at h
  subst h
  unfold decode
  rw [vmWord_op]
  show decodeOp60 _ = _
  simp (disch := decide) [decodeOp60, sop, slot, dbit, need, zero, v1, v2, v3, vx, simm, fx3_low, fx3_high, fx4_low, fx4_high, cutAll, cutLo,
    cutHi, vmWord_fn_0, vmWord_sb_4, vmWord_sa_9, vmWord_vd_14, vmWord_g_21, vmWord_d_24, vmWord_op_25, SOp.ofBits_bits, VOp.ofBits_bits,
    slotBits_toFin, dBits_bit, simm_parts]

theorem vstu (dt : Bool) (g : Fin 8) (vd : VOp) (sa : SOp) : Statement (.vstu dt g vd sa) := by
  intro _ w h
  simp only [encodeWord, Option.some.injEq] at h
  subst h
  unfold decode
  rw [vmWord_op]
  show decodeOp60 _ = _
  simp (disch := decide) [decodeOp60, sop, slot, dbit, need, zero, v1, v2, v3, vx, simm, fx3_low, fx3_high, fx4_low, fx4_high, cutAll, cutLo,
    cutHi, vmWord_fn_0, vmWord_sb_4, vmWord_sa_9, vmWord_vd_14, vmWord_g_21, vmWord_d_24, vmWord_op_25, SOp.ofBits_bits, VOp.ofBits_bits,
    slotBits_toFin, dBits_bit, simm_parts]

theorem vsts (dt : Bool) (g : Fin 8) (vd : VOp) (sa sb : SOp) : Statement (.vsts dt g vd sa sb) := by
  intro _ w h
  simp only [encodeWord, Option.some.injEq] at h
  subst h
  unfold decode
  rw [vmWord_op]
  show decodeOp60 _ = _
  simp (disch := decide) [decodeOp60, sop, slot, dbit, need, zero, v1, v2, v3, vx, simm, fx3_low, fx3_high, fx4_low, fx4_high, cutAll, cutLo,
    cutHi, vmWord_fn_0, vmWord_sb_4, vmWord_sa_9, vmWord_vd_14, vmWord_g_21, vmWord_d_24, vmWord_op_25, SOp.ofBits_bits, VOp.ofBits_bits,
    slotBits_toFin, dBits_bit, simm_parts]

theorem vstt (dt : Bool) (g : Fin 8) (vd : VOp) (sa : SOp) : Statement (.vstt dt g vd sa) := by
  intro _ w h
  simp only [encodeWord, Option.some.injEq] at h
  subst h
  unfold decode
  rw [vmWord_op]
  show decodeOp60 _ = _
  simp (disch := decide) [decodeOp60, sop, slot, dbit, need, zero, v1, v2, v3, vx, simm, fx3_low, fx3_high, fx4_low, fx4_high, cutAll, cutLo,
    cutHi, vmWord_fn_0, vmWord_sb_4, vmWord_sa_9, vmWord_vd_14, vmWord_g_21, vmWord_d_24, vmWord_op_25, SOp.ofBits_bits, VOp.ofBits_bits,
    slotBits_toFin, dBits_bit, simm_parts]

theorem vstpk (dt : Bool) (g : Fin 8) (vd : VOp) (sa sb : SOp) : Statement (.vstpk dt g vd sa sb) := by
  intro _ w h
  simp only [encodeWord, Option.some.injEq] at h
  subst h
  unfold decode
  rw [vmWord_op]
  show decodeOp60 _ = _
  simp (disch := decide) [decodeOp60, sop, slot, dbit, need, zero, v1, v2, v3, vx, simm, fx3_low, fx3_high, fx4_low, fx4_high, cutAll, cutLo,
    cutHi, vmWord_fn_0, vmWord_sb_4, vmWord_sa_9, vmWord_vd_14, vmWord_g_21, vmWord_d_24, vmWord_op_25, SOp.ofBits_bits, VOp.ofBits_bits,
    slotBits_toFin, dBits_bit, simm_parts]

theorem vldx (dt : Bool) (g : Fin 8) (vd : VOp) (sa : SOp) (vi : VOp) : Statement (.vldx dt g vd sa vi) := by
  intro _ w h
  simp only [encodeWord, Option.some.injEq] at h
  subst h
  unfold decode
  rw [vmxWord_op]
  show decodeOp61 _ = _
  simp (disch := decide) [decodeOp61, sop, slot, dbit, need, zero, v1, v2, v3, vx, simm, fx3_low, fx3_high, fx4_low, fx4_high, cutAll, cutLo,
    cutHi, vmxWord_fn_0, vmxWord_vi_2, vmxWord_sa_9, vmxWord_vd_14, vmxWord_g_21, vmxWord_d_24, vmxWord_op_25, SOp.ofBits_bits, VOp.ofBits_bits,
    slotBits_toFin, dBits_bit, simm_parts]

theorem vstx (dt : Bool) (g : Fin 8) (vd : VOp) (sa : SOp) (vi : VOp) : Statement (.vstx dt g vd sa vi) := by
  intro _ w h
  simp only [encodeWord, Option.some.injEq] at h
  subst h
  unfold decode
  rw [vmxWord_op]
  show decodeOp62 _ = _
  simp (disch := decide) [decodeOp62, sop, slot, dbit, need, zero, v1, v2, v3, vx, simm, fx3_low, fx3_high, fx4_low, fx4_high, cutAll, cutLo,
    cutHi, vmxWord_fn_0, vmxWord_vi_2, vmxWord_sa_9, vmxWord_vd_14, vmxWord_g_21, vmxWord_d_24, vmxWord_op_25, SOp.ofBits_bits, VOp.ofBits_bits,
    slotBits_toFin, dBits_bit, simm_parts]

theorem vamoadd (dt : Bool) (g : Fin 8) (vd : VOp) (sa : SOp) (vi : VOp) : Statement (.vamoadd dt g vd sa vi) := by
  intro _ w h
  simp only [encodeWord, Option.some.injEq] at h
  subst h
  unfold decode
  rw [vmxWord_op]
  show decodeOp63 _ = _
  simp (disch := decide) [decodeOp63, sop, slot, dbit, need, zero, v1, v2, v3, vx, simm, fx3_low, fx3_high, fx4_low, fx4_high, cutAll, cutLo,
    cutHi, vmxWord_fn_0, vmxWord_vi_2, vmxWord_sa_9, vmxWord_vd_14, vmxWord_g_21, vmxWord_d_24, vmxWord_op_25, SOp.ofBits_bits, VOp.ofBits_bits,
    slotBits_toFin, dBits_bit, simm_parts]

theorem vamomax (dt : Bool) (g : Fin 8) (vd : VOp) (sa : SOp) (vi : VOp) : Statement (.vamomax dt g vd sa vi) := by
  intro _ w h
  simp only [encodeWord, Option.some.injEq] at h
  subst h
  unfold decode
  rw [vmxWord_op]
  show decodeOp63 _ = _
  simp (disch := decide) [decodeOp63, sop, slot, dbit, need, zero, v1, v2, v3, vx, simm, fx3_low, fx3_high, fx4_low, fx4_high, cutAll, cutLo,
    cutHi, vmxWord_fn_0, vmxWord_vi_2, vmxWord_sa_9, vmxWord_vd_14, vmxWord_g_21, vmxWord_d_24, vmxWord_op_25, SOp.ofBits_bits, VOp.ofBits_bits,
    slotBits_toFin, dBits_bit, simm_parts]

theorem vamomin (dt : Bool) (g : Fin 8) (vd : VOp) (sa : SOp) (vi : VOp) : Statement (.vamomin dt g vd sa vi) := by
  intro _ w h
  simp only [encodeWord, Option.some.injEq] at h
  subst h
  unfold decode
  rw [vmxWord_op]
  show decodeOp63 _ = _
  simp (disch := decide) [decodeOp63, sop, slot, dbit, need, zero, v1, v2, v3, vx, simm, fx3_low, fx3_high, fx4_low, fx4_high, cutAll, cutLo,
    cutHi, vmxWord_fn_0, vmxWord_vi_2, vmxWord_sa_9, vmxWord_vd_14, vmxWord_g_21, vmxWord_d_24, vmxWord_op_25, SOp.ofBits_bits, VOp.ofBits_bits,
    slotBits_toFin, dBits_bit, simm_parts]

theorem mma (dt : Bool) (g : Fin 8) (vd va vb : VOp) : Statement (.mma dt g vd va vb) := by
  intro _ w h
  simp only [encodeWord, Option.some.injEq] at h
  subst h
  unfold decode
  rw [vWord_op]
  show v3 _ _ = _
  simp (disch := decide) [sop, slot, dbit, need, zero, v1, v2, v3, vx, simm, fx3_low, fx3_high, fx4_low, fx4_high, cutAll, cutLo,
    cutHi, vWord_vb_0, vWord_va_7, vWord_vd_14, vWord_g_21, vWord_d_24, vWord_op_25, SOp.ofBits_bits, VOp.ofBits_bits,
    slotBits_toFin, dBits_bit, simm_parts]

theorem mmas (dt : Bool) (g : Fin 8) (vd va vb : VOp) : Statement (.mmas dt g vd va vb) := by
  intro _ w h
  simp only [encodeWord, Option.some.injEq] at h
  subst h
  unfold decode
  rw [vWord_op]
  show v3 _ _ = _
  simp (disch := decide) [sop, slot, dbit, need, zero, v1, v2, v3, vx, simm, fx3_low, fx3_high, fx4_low, fx4_high, cutAll, cutLo,
    cutHi, vWord_vb_0, vWord_va_7, vWord_vd_14, vWord_g_21, vWord_d_24, vWord_op_25, SOp.ofBits_bits, VOp.ofBits_bits,
    slotBits_toFin, dBits_bit, simm_parts]

theorem mmau (dt : Bool) (g : Fin 8) (vd va vb : VOp) : Statement (.mmau dt g vd va vb) := by
  intro _ w h
  simp only [encodeWord, Option.some.injEq] at h
  subst h
  unfold decode
  rw [vWord_op]
  show v3 _ _ = _
  simp (disch := decide) [sop, slot, dbit, need, zero, v1, v2, v3, vx, simm, fx3_low, fx3_high, fx4_low, fx4_high, cutAll, cutLo,
    cutHi, vWord_vb_0, vWord_va_7, vWord_vd_14, vWord_g_21, vWord_d_24, vWord_op_25, SOp.ofBits_bits, VOp.ofBits_bits,
    slotBits_toFin, dBits_bit, simm_parts]

theorem vwmul (dt : Bool) (g : Fin 8) (vd va vb : VOp) : Statement (.vwmul dt g vd va vb) := by
  intro _ w h
  simp only [encodeWord, Option.some.injEq] at h
  subst h
  unfold decode
  rw [vWord_op]
  show v3 _ _ = _
  simp (disch := decide) [sop, slot, dbit, need, zero, v1, v2, v3, vx, simm, fx3_low, fx3_high, fx4_low, fx4_high, cutAll, cutLo,
    cutHi, vWord_vb_0, vWord_va_7, vWord_vd_14, vWord_g_21, vWord_d_24, vWord_op_25, SOp.ofBits_bits, VOp.ofBits_bits,
    slotBits_toFin, dBits_bit, simm_parts]

theorem vwmac (dt : Bool) (g : Fin 8) (vd va vb : VOp) : Statement (.vwmac dt g vd va vb) := by
  intro _ w h
  simp only [encodeWord, Option.some.injEq] at h
  subst h
  unfold decode
  rw [vWord_op]
  show v3 _ _ = _
  simp (disch := decide) [sop, slot, dbit, need, zero, v1, v2, v3, vx, simm, fx3_low, fx3_high, fx4_low, fx4_high, cutAll, cutLo,
    cutHi, vWord_vb_0, vWord_va_7, vWord_vd_14, vWord_g_21, vWord_d_24, vWord_op_25, SOp.ofBits_bits, VOp.ofBits_bits,
    slotBits_toFin, dBits_bit, simm_parts]

theorem vextf (dt : Bool) (g : Fin 8) (vd va : VOp) : Statement (.vextf dt g vd va) := by
  intro _ w h
  simp only [encodeWord, Option.some.injEq] at h
  subst h
  unfold decode
  rw [vWord_op]
  show need _ _ = _
  simp (disch := decide) [sop, slot, dbit, need, zero, v1, v2, v3, vx, simm, fx3_low, fx3_high, fx4_low, fx4_high, cutAll, cutLo,
    cutHi, vWord_vb_0, vWord_va_7, vWord_vd_14, vWord_g_21, vWord_d_24, vWord_op_25, SOp.ofBits_bits, VOp.ofBits_bits,
    slotBits_toFin, dBits_bit, simm_parts]

theorem vpack (dt : Bool) (g : Fin 8) (vd va : VOp) : Statement (.vpack dt g vd va) := by
  intro _ w h
  simp only [encodeWord, Option.some.injEq] at h
  subst h
  unfold decode
  rw [vWord_op]
  show decodeOp6E _ = _
  simp (disch := decide) [decodeOp6E, sop, slot, dbit, need, zero, v1, v2, v3, vx, simm, fx3_low, fx3_high, fx4_low, fx4_high, cutAll, cutLo,
    cutHi, vWord_vb_0, vWord_va_7, vWord_vd_14, vWord_g_21, vWord_d_24, vWord_op_25, SOp.ofBits_bits, VOp.ofBits_bits,
    slotBits_toFin, dBits_bit, simm_parts]

theorem vunpack (dt : Bool) (g : Fin 8) (vd va : VOp) : Statement (.vunpack dt g vd va) := by
  intro _ w h
  simp only [encodeWord, Option.some.injEq] at h
  subst h
  unfold decode
  rw [vWord_op]
  show decodeOp6E _ = _
  simp (disch := decide) [decodeOp6E, sop, slot, dbit, need, zero, v1, v2, v3, vx, simm, fx3_low, fx3_high, fx4_low, fx4_high, cutAll, cutLo,
    cutHi, vWord_vb_0, vWord_va_7, vWord_vd_14, vWord_g_21, vWord_d_24, vWord_op_25, SOp.ofBits_bits, VOp.ofBits_bits,
    slotBits_toFin, dBits_bit, simm_parts]

theorem mzero (g : Fin 8) (vd : VOp) : Statement (.mzero g vd) := by
  intro _ w h
  simp only [encodeWord, Option.some.injEq] at h
  subst h
  unfold decode
  rw [vWord_op]
  show decodeOp6E _ = _
  simp (disch := decide) [decodeOp6E, sop, slot, dbit, need, zero, v1, v2, v3, vx, simm, fx3_low, fx3_high, fx4_low, fx4_high, cutAll, cutLo,
    cutHi, vWord_vb_0, vWord_va_7, vWord_vd_14, vWord_g_21, vWord_d_24, vWord_op_25, SOp.ofBits_bits, VOp.ofBits_bits,
    slotBits_toFin, dBits_bit, simm_parts]

theorem msums (dt : Bool) (g : Fin 8) (vd va : VOp) : Statement (.msums dt g vd va) := by
  intro _ w h
  simp only [encodeWord, Option.some.injEq] at h
  subst h
  unfold decode
  rw [vWord_op]
  show decodeOp6E _ = _
  simp (disch := decide) [decodeOp6E, sop, slot, dbit, need, zero, v1, v2, v3, vx, simm, fx3_low, fx3_high, fx4_low, fx4_high, cutAll, cutLo,
    cutHi, vWord_vb_0, vWord_va_7, vWord_vd_14, vWord_g_21, vWord_d_24, vWord_op_25, SOp.ofBits_bits, VOp.ofBits_bits,
    slotBits_toFin, dBits_bit, simm_parts]

theorem drain (g : Fin 8) (vd va : VOp) : Statement (.drain g vd va) := by
  intro _ w h
  simp only [encodeWord, Option.some.injEq] at h
  subst h
  unfold decode
  rw [vWord_op]
  show decodeOp6F _ = _
  simp (disch := decide) [decodeOp6F, sop, slot, dbit, need, zero, v1, v2, v3, vx, simm, fx3_low, fx3_high, fx4_low, fx4_high, cutAll, cutLo,
    cutHi, vWord_vb_0, vWord_va_7, vWord_vd_14, vWord_g_21, vWord_d_24, vWord_op_25, SOp.ofBits_bits, VOp.ofBits_bits,
    slotBits_toFin, dBits_bit, simm_parts]

theorem draina (g : Fin 8) (vd va : VOp) : Statement (.draina g vd va) := by
  intro _ w h
  simp only [encodeWord, Option.some.injEq] at h
  subst h
  unfold decode
  rw [vWord_op]
  show decodeOp6F _ = _
  simp (disch := decide) [decodeOp6F, sop, slot, dbit, need, zero, v1, v2, v3, vx, simm, fx3_low, fx3_high, fx4_low, fx4_high, cutAll, cutLo,
    cutHi, vWord_vb_0, vWord_va_7, vWord_vd_14, vWord_g_21, vWord_d_24, vWord_op_25, SOp.ofBits_bits, VOp.ofBits_bits,
    slotBits_toFin, dBits_bit, simm_parts]

theorem drainq (g : Fin 8) (vd va : VOp) : Statement (.drainq g vd va) := by
  intro _ w h
  simp only [encodeWord, Option.some.injEq] at h
  subst h
  unfold decode
  rw [vWord_op]
  show decodeOp6F _ = _
  simp (disch := decide) [decodeOp6F, sop, slot, dbit, need, zero, v1, v2, v3, vx, simm, fx3_low, fx3_high, fx4_low, fx4_high, cutAll, cutLo,
    cutHi, vWord_vb_0, vWord_va_7, vWord_vd_14, vWord_g_21, vWord_d_24, vWord_op_25, SOp.ofBits_bits, VOp.ofBits_bits,
    slotBits_toFin, dBits_bit, simm_parts]

theorem drainrc (g : Fin 8) (vd va : VOp) : Statement (.drainrc g vd va) := by
  intro _ w h
  simp only [encodeWord, Option.some.injEq] at h
  subst h
  unfold decode
  rw [vWord_op]
  show decodeOp6F _ = _
  simp (disch := decide) [decodeOp6F, sop, slot, dbit, need, zero, v1, v2, v3, vx, simm, fx3_low, fx3_high, fx4_low, fx4_high, cutAll, cutLo,
    cutHi, vWord_vb_0, vWord_va_7, vWord_vd_14, vWord_g_21, vWord_d_24, vWord_op_25, SOp.ofBits_bits, VOp.ofBits_bits,
    slotBits_toFin, dBits_bit, simm_parts]

theorem cset (sa : SOp) (n : BitVec 4) : Statement (.cset sa n) := by
  intro _ w h
  simp only [encodeWord, Option.some.injEq] at h
  subst h
  unfold decode
  rw [rWord_op]
  show decodeOp70 _ = _
  simp (disch := decide) [decodeOp70, sop, slot, dbit, need, zero, v1, v2, v3, vx, simm, fx3_low, fx3_high, fx4_low, fx4_high, cutAll, cutLo,
    cutHi, rWord_fn_0, rWord_fx_5, rWord_sb_10, rWord_sa_15, rWord_sd_20, rWord_op_25, SOp.ofBits_bits, VOp.ofBits_bits,
    slotBits_toFin, dBits_bit, simm_parts]

theorem cget (sd : SOp) (n : BitVec 4) : Statement (.cget sd n) := by
  intro _ w h
  simp only [encodeWord, Option.some.injEq] at h
  subst h
  unfold decode
  rw [rWord_op]
  show decodeOp70 _ = _
  simp (disch := decide) [decodeOp70, sop, slot, dbit, need, zero, v1, v2, v3, vx, simm, fx3_low, fx3_high, fx4_low, fx4_high, cutAll, cutLo,
    cutHi, rWord_fn_0, rWord_fx_5, rWord_sb_10, rWord_sa_15, rWord_sd_20, rWord_op_25, SOp.ofBits_bits, VOp.ofBits_bits,
    slotBits_toFin, dBits_bit, simm_parts]

theorem claunch (sd se : SOp) (g : Fin 8) : Statement (.claunch sd se g) := by
  intro _ w h
  simp only [encodeWord, Option.some.injEq] at h
  subst h
  unfold decode
  rw [rWord_op]
  show decodeOp70 _ = _
  simp (disch := decide) [decodeOp70, sop, slot, dbit, need, zero, v1, v2, v3, vx, simm, fx3_low, fx3_high, fx4_low, fx4_high, cutAll, cutLo,
    cutHi, rWord_fn_0, rWord_fx_5, rWord_sb_10, rWord_sa_15, rWord_sd_20, rWord_op_25, SOp.ofBits_bits, VOp.ofBits_bits,
    slotBits_toFin, dBits_bit, simm_parts]

theorem ccancel (sd sa : SOp) : Statement (.ccancel sd sa) := by
  intro _ w h
  simp only [encodeWord, Option.some.injEq] at h
  subst h
  unfold decode
  rw [rWord_op]
  show decodeOp70 _ = _
  simp (disch := decide) [decodeOp70, sop, slot, dbit, need, zero, v1, v2, v3, vx, simm, fx3_low, fx3_high, fx4_low, fx4_high, cutAll, cutLo,
    cutHi, rWord_fn_0, rWord_fx_5, rWord_sb_10, rWord_sa_15, rWord_sd_20, rWord_op_25, SOp.ofBits_bits, VOp.ofBits_bits,
    slotBits_toFin, dBits_bit, simm_parts]

theorem coll (sd se : SOp) (g : Fin 8) : Statement (.coll sd se g) := by
  intro _ w h
  simp only [encodeWord, Option.some.injEq] at h
  subst h
  unfold decode
  rw [rWord_op]
  show decodeOp70 _ = _
  simp (disch := decide) [decodeOp70, sop, slot, dbit, need, zero, v1, v2, v3, vx, simm, fx3_low, fx3_high, fx4_low, fx4_high, cutAll, cutLo,
    cutHi, rWord_fn_0, rWord_fx_5, rWord_sb_10, rWord_sa_15, rWord_sd_20, rWord_op_25, SOp.ofBits_bits, VOp.ofBits_bits,
    slotBits_toFin, dBits_bit, simm_parts]

theorem gdecl (sa sb : SOp) : Statement (.gdecl sa sb) := by
  intro _ w h
  simp only [encodeWord, Option.some.injEq] at h
  subst h
  unfold decode
  rw [rWord_op]
  show decodeOp71 _ = _
  simp (disch := decide) [decodeOp71, sop, slot, dbit, need, zero, v1, v2, v3, vx, simm, fx3_low, fx3_high, fx4_low, fx4_high, cutAll, cutLo,
    cutHi, rWord_fn_0, rWord_fx_5, rWord_sb_10, rWord_sa_15, rWord_sd_20, rWord_op_25, SOp.ofBits_bits, VOp.ofBits_bits,
    slotBits_toFin, dBits_bit, simm_parts]

theorem gstate (sd sa sb : SOp) : Statement (.gstate sd sa sb) := by
  intro _ w h
  simp only [encodeWord, Option.some.injEq] at h
  subst h
  unfold decode
  rw [rWord_op]
  show decodeOp71 _ = _
  simp (disch := decide) [decodeOp71, sop, slot, dbit, need, zero, v1, v2, v3, vx, simm, fx3_low, fx3_high, fx4_low, fx4_high, cutAll, cutLo,
    cutHi, rWord_fn_0, rWord_fx_5, rWord_sb_10, rWord_sa_15, rWord_sd_20, rWord_op_25, SOp.ofBits_bits, VOp.ofBits_bits,
    slotBits_toFin, dBits_bit, simm_parts]

theorem gfree (sa : SOp) : Statement (.gfree sa) := by
  intro _ w h
  simp only [encodeWord, Option.some.injEq] at h
  subst h
  unfold decode
  rw [rWord_op]
  show decodeOp71 _ = _
  simp (disch := decide) [decodeOp71, sop, slot, dbit, need, zero, v1, v2, v3, vx, simm, fx3_low, fx3_high, fx4_low, fx4_high, cutAll, cutLo,
    cutHi, rWord_fn_0, rWord_fx_5, rWord_sb_10, rWord_sa_15, rWord_sd_20, rWord_op_25, SOp.ofBits_bits, VOp.ofBits_bits,
    slotBits_toFin, dBits_bit, simm_parts]

theorem syncinit (sa sb : SOp) : Statement (.syncinit sa sb) := by
  intro _ w h
  simp only [encodeWord, Option.some.injEq] at h
  subst h
  unfold decode
  rw [rWord_op]
  show decodeOp71 _ = _
  simp (disch := decide) [decodeOp71, sop, slot, dbit, need, zero, v1, v2, v3, vx, simm, fx3_low, fx3_high, fx4_low, fx4_high, cutAll, cutLo,
    cutHi, rWord_fn_0, rWord_fx_5, rWord_sb_10, rWord_sa_15, rWord_sd_20, rWord_op_25, SOp.ofBits_bits, VOp.ofBits_bits,
    slotBits_toFin, dBits_bit, simm_parts]

theorem syncwait (sd sa sb : SOp) (g : Fin 8) : Statement (.syncwait sd sa sb g) := by
  intro _ w h
  simp only [encodeWord, Option.some.injEq] at h
  subst h
  unfold decode
  rw [rWord_op]
  show decodeOp71 _ = _
  simp (disch := decide) [decodeOp71, sop, slot, dbit, need, zero, v1, v2, v3, vx, simm, fx3_low, fx3_high, fx4_low, fx4_high, cutAll, cutLo,
    cutHi, rWord_fn_0, rWord_fx_5, rWord_sb_10, rWord_sa_15, rWord_sd_20, rWord_op_25, SOp.ofBits_bits, VOp.ofBits_bits,
    slotBits_toFin, dBits_bit, simm_parts]

theorem gbar (sa : SOp) (g : Fin 8) : Statement (.gbar sa g) := by
  intro _ w h
  simp only [encodeWord, Option.some.injEq] at h
  subst h
  unfold decode
  rw [rWord_op]
  show decodeOp72 _ = _
  simp (disch := decide) [decodeOp72, sop, slot, dbit, need, zero, v1, v2, v3, vx, simm, fx3_low, fx3_high, fx4_low, fx4_high, cutAll, cutLo,
    cutHi, rWord_fn_0, rWord_fx_5, rWord_sb_10, rWord_sa_15, rWord_sd_20, rWord_op_25, SOp.ofBits_bits, VOp.ofBits_bits,
    slotBits_toFin, dBits_bit, simm_parts]

theorem garrive (sd sa : SOp) (g : Fin 8) : Statement (.garrive sd sa g) := by
  intro _ w h
  simp only [encodeWord, Option.some.injEq] at h
  subst h
  unfold decode
  rw [rWord_op]
  show decodeOp72 _ = _
  simp (disch := decide) [decodeOp72, sop, slot, dbit, need, zero, v1, v2, v3, vx, simm, fx3_low, fx3_high, fx4_low, fx4_high, cutAll, cutLo,
    cutHi, rWord_fn_0, rWord_fx_5, rWord_sb_10, rWord_sa_15, rWord_sd_20, rWord_op_25, SOp.ofBits_bits, VOp.ofBits_bits,
    slotBits_toFin, dBits_bit, simm_parts]

theorem gwait (sa sb : SOp) (g : Fin 8) : Statement (.gwait sa sb g) := by
  intro _ w h
  simp only [encodeWord, Option.some.injEq] at h
  subst h
  unfold decode
  rw [rWord_op]
  show decodeOp72 _ = _
  simp (disch := decide) [decodeOp72, sop, slot, dbit, need, zero, v1, v2, v3, vx, simm, fx3_low, fx3_high, fx4_low, fx4_high, cutAll, cutLo,
    cutHi, rWord_fn_0, rWord_fx_5, rWord_sb_10, rWord_sa_15, rWord_sd_20, rWord_op_25, SOp.ofBits_bits, VOp.ofBits_bits,
    slotBits_toFin, dBits_bit, simm_parts]

theorem trap (n : BitVec 5) : Statement (.trap n) := by
  intro _ w h
  simp only [encodeWord, Option.some.injEq] at h
  subst h
  unfold decode
  rw [rWord_op]
  show decodeOp74 _ = _
  simp (disch := decide) [decodeOp74, sop, slot, dbit, need, zero, v1, v2, v3, vx, simm, fx3_low, fx3_high, fx4_low, fx4_high, cutAll, cutLo,
    cutHi, rWord_fn_0, rWord_fx_5, rWord_sb_10, rWord_sa_15, rWord_sd_20, rWord_op_25, SOp.ofBits_bits, VOp.ofBits_bits,
    slotBits_toFin, dBits_bit, simm_parts]

theorem eret : Statement (.eret) := by
  intro _ w h
  simp only [encodeWord, Option.some.injEq] at h
  subst h
  unfold decode
  rw [rWord_op]
  show decodeOp74 _ = _
  simp (disch := decide) [decodeOp74, sop, slot, dbit, need, zero, v1, v2, v3, vx, simm, fx3_low, fx3_high, fx4_low, fx4_high, cutAll, cutLo,
    cutHi, rWord_fn_0, rWord_fx_5, rWord_sb_10, rWord_sa_15, rWord_sd_20, rWord_op_25, SOp.ofBits_bits, VOp.ofBits_bits,
    slotBits_toFin, dBits_bit, simm_parts]

theorem brk : Statement (.brk) := by
  intro _ w h
  simp only [encodeWord, Option.some.injEq] at h
  subst h
  unfold decode
  rw [rWord_op]
  show decodeOp74 _ = _
  simp (disch := decide) [decodeOp74, sop, slot, dbit, need, zero, v1, v2, v3, vx, simm, fx3_low, fx3_high, fx4_low, fx4_high, cutAll, cutLo,
    cutHi, rWord_fn_0, rWord_fx_5, rWord_sb_10, rWord_sa_15, rWord_sd_20, rWord_op_25, SOp.ofBits_bits, VOp.ofBits_bits,
    slotBits_toFin, dBits_bit, simm_parts]

theorem swapctx : Statement (.swapctx) := by
  intro _ w h
  simp only [encodeWord, Option.some.injEq] at h
  subst h
  unfold decode
  rw [rWord_op]
  show decodeOp74 _ = _
  simp (disch := decide) [decodeOp74, sop, slot, dbit, need, zero, v1, v2, v3, vx, simm, fx3_low, fx3_high, fx4_low, fx4_high, cutAll, cutLo,
    cutHi, rWord_fn_0, rWord_fx_5, rWord_sb_10, rWord_sa_15, rWord_sd_20, rWord_op_25, SOp.ofBits_bits, VOp.ofBits_bits,
    slotBits_toFin, dBits_bit, simm_parts]

theorem spillwait : Statement (.spillwait) := by
  intro _ w h
  simp only [encodeWord, Option.some.injEq] at h
  subst h
  unfold decode
  rw [rWord_op]
  show decodeOp74 _ = _
  simp (disch := decide) [decodeOp74, sop, slot, dbit, need, zero, v1, v2, v3, vx, simm, fx3_low, fx3_high, fx4_low, fx4_high, cutAll, cutLo,
    cutHi, rWord_fn_0, rWord_fx_5, rWord_sb_10, rWord_sa_15, rWord_sd_20, rWord_op_25, SOp.ofBits_bits, VOp.ofBits_bits,
    slotBits_toFin, dBits_bit, simm_parts]

theorem icinv (sd sa sb : SOp) (g : Fin 8) : Statement (.icinv sd sa sb g) := by
  intro _ w h
  simp only [encodeWord, Option.some.injEq] at h
  subst h
  unfold decode
  rw [rWord_op]
  show decodeOp74 _ = _
  simp (disch := decide) [decodeOp74, sop, slot, dbit, need, zero, v1, v2, v3, vx, simm, fx3_low, fx3_high, fx4_low, fx4_high, cutAll, cutLo,
    cutHi, rWord_fn_0, rWord_fx_5, rWord_sb_10, rWord_sa_15, rWord_sd_20, rWord_op_25, SOp.ofBits_bits, VOp.ofBits_bits,
    slotBits_toFin, dBits_bit, simm_parts]

theorem orcinv (sd sa : SOp) (g : Fin 8) : Statement (.orcinv sd sa g) := by
  intro _ w h
  simp only [encodeWord, Option.some.injEq] at h
  subst h
  unfold decode
  rw [rWord_op]
  show decodeOp74 _ = _
  simp (disch := decide) [decodeOp74, sop, slot, dbit, need, zero, v1, v2, v3, vx, simm, fx3_low, fx3_high, fx4_low, fx4_high, cutAll, cutLo,
    cutHi, rWord_fn_0, rWord_fx_5, rWord_sb_10, rWord_sa_15, rWord_sd_20, rWord_op_25, SOp.ofBits_bits, VOp.ofBits_bits,
    slotBits_toFin, dBits_bit, simm_parts]

theorem objmove (sd sa sb : SOp) (fx : BitVec 5) : Statement (.objmove sd sa sb fx) := by
  intro _ w h
  simp only [encodeWord, Option.some.injEq] at h
  subst h
  unfold decode
  rw [rWord_op]
  show decodeOp74 _ = _
  simp (disch := decide) [decodeOp74, sop, slot, dbit, need, zero, v1, v2, v3, vx, simm, fx3_low, fx3_high, fx4_low, fx4_high, cutAll, cutLo,
    cutHi, rWord_fn_0, rWord_fx_5, rWord_sb_10, rWord_sa_15, rWord_sd_20, rWord_op_25, SOp.ofBits_bits, VOp.ofBits_bits,
    slotBits_toFin, dBits_bit, simm_parts]

theorem flagclr (sd sa : SOp) : Statement (.flagclr sd sa) := by
  intro _ w h
  simp only [encodeWord, Option.some.injEq] at h
  subst h
  unfold decode
  rw [rWord_op]
  show decodeOp74 _ = _
  simp (disch := decide) [decodeOp74, sop, slot, dbit, need, zero, v1, v2, v3, vx, simm, fx3_low, fx3_high, fx4_low, fx4_high, cutAll, cutLo,
    cutHi, rWord_fn_0, rWord_fx_5, rWord_sb_10, rWord_sa_15, rWord_sd_20, rWord_op_25, SOp.ofBits_bits, VOp.ofBits_bits,
    slotBits_toFin, dBits_bit, simm_parts]

theorem ctrrd (sd sa : SOp) : Statement (.ctrrd sd sa) := by
  intro _ w h
  simp only [encodeWord, Option.some.injEq] at h
  subst h
  unfold decode
  rw [rWord_op]
  show decodeOp74 _ = _
  simp (disch := decide) [decodeOp74, sop, slot, dbit, need, zero, v1, v2, v3, vx, simm, fx3_low, fx3_high, fx4_low, fx4_high, cutAll, cutLo,
    cutHi, rWord_fn_0, rWord_fx_5, rWord_sb_10, rWord_sa_15, rWord_sd_20, rWord_op_25, SOp.ofBits_bits, VOp.ofBits_bits,
    slotBits_toFin, dBits_bit, simm_parts]

theorem nop (bits : BitVec 27) : Statement (.nop bits) := by
  intro _ w h
  simp only [encodeWord, Option.some.injEq] at h
  subst h
  have low : fld (nopWord bits) 0 27 = bits := by
    show BitVec.extractLsb' 0 27 (30#5 ++ bits) = bits
    rw [cutLo _ _ _ _ (by omega), cutAll]
  have high : (fld (nopWord bits) 25 7).toNat = 120 + bits.toNat / 2 ^ 25 := by
    show (BitVec.extractLsb' 25 7 (30#5 ++ bits)).toNat = _
    have := bits.isLt
    simp only [BitVec.extractLsb'_toNat, BitVec.toNat_append, BitVec.toNat_ofNat]
    rw [← Nat.shiftLeft_add_eq_or_of_lt (by omega)]
    simp only [Nat.shiftRight_eq_div_pow, Nat.shiftLeft_eq]
    omega
  have := bits.isLt
  have four : bits.toNat / 2 ^ 25 = 0 ∨ bits.toNat / 2 ^ 25 = 1 ∨ bits.toNat / 2 ^ 25 = 2 ∨ bits.toNat / 2 ^ 25 = 3 := by
    omega
  rcases four with k | k | k | k <;> simp only [decode, high, k, low]

theorem asyncTrap : Statement (.asyncTrap) := fun _ _ h => nomatch h

theorem qdeadlock : Statement (.qdeadlock) := fun _ _ h => nomatch h

theorem memoryOpPerform (hid seq : Nat) : Statement (.memoryOpPerform hid seq) := fun _ _ h => nomatch h

theorem watermarkReread (hid : Nat) : Statement (.watermarkReread hid) := fun _ _ h => nomatch h

theorem orcFill (core ctx handle : Nat) : Statement (.orcFill core ctx handle) := fun _ _ h => nomatch h

theorem mapEntryFill (core ctx handle st : Nat) : Statement (.mapEntryFill core ctx handle st) := fun _ _ h => nomatch h

theorem copyBlock (x k : Nat) : Statement (.copyBlock x k) := fun _ _ h => nomatch h

theorem copyEnd (x : Nat) : Statement (.copyEnd x) := fun _ _ h => nomatch h

theorem moveDrainEnd (x : Nat) : Statement (.moveDrainEnd x) := fun _ _ h => nomatch h

theorem moveCopyEnd (x : Nat) : Statement (.moveCopyEnd x) := fun _ _ h => nomatch h

theorem moveAbort (x code elem : Nat) : Statement (.moveAbort x code elem) := fun _ _ h => nomatch h

theorem collReady (comm idx rank : Nat) (staged : List Nat × List Nat) : Statement (.collReady comm idx rank staged) := fun _ _ h => nomatch h

theorem collAbort (comm idx rank : Nat) : Statement (.collAbort comm idx rank) := fun _ _ h => nomatch h

theorem collDecision (x verdict : Nat) : Statement (.collDecision x verdict) := fun _ _ h => nomatch h

theorem icinvDone (x : Nat) : Statement (.icinvDone x) := fun _ _ h => nomatch h

theorem orcinvDone (x : Nat) : Statement (.orcinvDone x) := fun _ _ h => nomatch h

theorem bankExchange (core : Nat) : Statement (.bankExchange core) := fun _ _ h => nomatch h

theorem spillDone (core : Nat) : Statement (.spillDone core) := fun _ _ h => nomatch h

theorem bankFillDone (core ctx : Nat) : Statement (.bankFillDone core ctx) := fun _ _ h => nomatch h

theorem registerWrite (off size : Nat) (val : Word) : Statement (.registerWrite off size val) := fun _ _ h => nomatch h

theorem mcbRetirePch (die pch : Nat) : Statement (.mcbRetirePch die pch) := fun _ _ h => nomatch h

theorem topcut (die : Nat) : Statement (.topcut die) := fun _ _ h => nomatch h

theorem migrationStart (die : Nat) : Statement (.migrationStart die) := fun _ _ h => nomatch h

theorem migrateUnit (die : Nat) : Statement (.migrateUnit die) := fun _ _ h => nomatch h

theorem migrationEnd (die : Nat) : Statement (.migrationEnd die) := fun _ _ h => nomatch h

theorem mcbNrpWrite (die : Nat) (val : Word) : Statement (.mcbNrpWrite die val) := fun _ _ h => nomatch h

theorem mcbSeedWrite (die : Nat) (val : Word) : Statement (.mcbSeedWrite die val) := fun _ _ h => nomatch h

theorem activate (die pch : Nat) (draw : BitVec 16) : Statement (.activate die pch draw) := fun _ _ h => nomatch h

theorem activationAlert (die pch : Nat) : Statement (.activationAlert die pch) := fun _ _ h => nomatch h

theorem backoffWindowEnd (die pch : Nat) : Statement (.backoffWindowEnd die pch) := fun _ _ h => nomatch h

theorem patrolScrub (die unit errs : Nat) : Statement (.patrolScrub die unit errs) := fun _ _ h => nomatch h

theorem cxwWrite (n : Nat) (val : Word) : Statement (.cxwWrite n val) := fun _ _ h => nomatch h

theorem cxlLinkDown (port : Nat) : Statement (.cxlLinkDown port) := fun _ _ h => nomatch h

theorem cxlPortTrained (port gen most width : Nat) : Statement (.cxlPortTrained port gen most width) := fun _ _ h => nomatch h

theorem retrain (port : Nat) : Statement (.retrain port) := fun _ _ h => nomatch h

theorem iuDoorbell (val : Word) : Statement (.iuDoorbell val) := fun _ _ h => nomatch h

theorem queueSlotGrant (queue : Nat) : Statement (.queueSlotGrant queue) := fun _ _ h => nomatch h

theorem timesliceEnd : Statement (.timesliceEnd) := fun _ _ h => nomatch h

theorem recordIntake (queue : Nat) : Statement (.recordIntake queue) := fun _ _ h => nomatch h

theorem decrement (ctx node : Nat) (real : Bool) : Statement (.decrement ctx node real) := fun _ _ h => nomatch h

theorem conditionalRead (ctx node : Nat) : Statement (.conditionalRead ctx node) := fun _ _ h => nomatch h

theorem kernelPlacement (ctx node : Nat) : Statement (.kernelPlacement ctx node) := fun _ _ h => nomatch h

theorem preemptCores (ctx node : Nat) : Statement (.preemptCores ctx node) := fun _ _ h => nomatch h

theorem nodeComplete (ctx node : Nat) : Statement (.nodeComplete ctx node) := fun _ _ h => nomatch h

theorem hartMigration (core : Nat) : Statement (.hartMigration core) := fun _ _ h => nomatch h

theorem coreRetire (core : Nat) : Statement (.coreRetire core) := fun _ _ h => nomatch h

theorem iuKill (val : Word) : Statement (.iuKill val) := fun _ _ h => nomatch h

theorem rtReqGo (val : Word) : Statement (.rtReqGo val) := fun _ _ h => nomatch h

theorem installObject : Statement (.installObject) := fun _ _ h => nomatch h

theorem removeObject : Statement (.removeObject) := fun _ _ h => nomatch h

theorem hostWrite (addr : Nat) (bytes : List Byte) : Statement (.hostWrite addr bytes) := fun _ _ h => nomatch h

theorem hostRead (addr n : Nat) : Statement (.hostRead addr n) := fun _ _ h => nomatch h

theorem msixVector0Timer : Statement (.msixVector0Timer) := fun _ _ h => nomatch h

theorem flitReceive (port : Nat) (flit : BitVec 2048) : Statement (.flitReceive port flit) := fun _ _ h => nomatch h

theorem laneRepair (port : Nat) : Statement (.laneRepair port) := fun _ _ h => nomatch h

theorem stolierRetrainEnd (port : Nat) (ok partner : Bool) : Statement (.stolierRetrainEnd port ok partner) := fun _ _ h => nomatch h

theorem force (port lane : Nat) : Statement (.force port lane) := fun _ _ h => nomatch h

theorem stlctlEn (port : Nat) (en : Bool) : Statement (.stlctlEn port en) := fun _ _ h => nomatch h

theorem fatalError (cause die unit : Nat) : Statement (.fatalError cause die unit) := fun _ _ h => nomatch h

theorem dumpComplete : Statement (.dumpComplete) := fun _ _ h => nomatch h

theorem levelWindowBoundary (cl : Nat) : Statement (.levelWindowBoundary cl) := fun _ _ h => nomatch h

theorem powerEval (die mw : Nat) : Statement (.powerEval die mw) := fun _ _ h => nomatch h

theorem thermalEval (die : Nat) : Statement (.thermalEval die) := fun _ _ h => nomatch h

theorem tempRefresh (cl : Nat) (t : BitVec 8) : Statement (.tempRefresh cl t) := fun _ _ h => nomatch h

theorem vsramEval (die core found : Nat) : Statement (.vsramEval die core found) := fun _ _ h => nomatch h

theorem sramScrub (core what pos : Nat) : Statement (.sramScrub core what pos) := fun _ _ h => nomatch h

theorem gateHoldEnd (cl : Nat) : Statement (.gateHoldEnd cl) := fun _ _ h => nomatch h

theorem wakeRequest (cl : Nat) : Statement (.wakeRequest cl) := fun _ _ h => nomatch h

theorem wakeRampStart : Statement (.wakeRampStart) := fun _ _ h => nomatch h

theorem wakeDone : Statement (.wakeDone) := fun _ _ h => nomatch h

theorem gateenWrite (cl : Nat) (en : Bool) : Statement (.gateenWrite cl en) := fun _ _ h => nomatch h

theorem packageReset : Statement (.packageReset) := fun _ _ h => nomatch h

theorem illegalInstruction (w : BitVec 32) : Statement (.illegalInstruction w) := fun _ _ h => nomatch h

theorem fetchFault : Statement (.fetchFault) := fun _ _ h => nomatch h

theorem stolierLinkLoss (port : Nat) : Statement (.stolierLinkLoss port) := fun _ _ h => nomatch h

end Sys2Proof.Laws.RoundTrip
end

