-- ==== Sys2Proof/Tests/Slice0.lean ====
section
/-! SUPPORT. Tests of one step each on a small state, words written out from the encodings of R123 to R127, ill-formed terms, and a
concrete witness of the hypotheses of each statement: `test_hyp_<Name>` meets those of `Obligations.<Name>`, and NOTES.md says which
other tests do. Each expected value is worked out by hand from the rule that the test or its section names, none from the model. -/

set_option Elab.async false

namespace Sys2Proof.Tests

open Sys2Proof Sys2Proof.Machine

/-! ## Decoding: the word of each row of R127, its fields laid out as R123 and R126 give -/
/-- A word decodes to an instruction and the instruction encodes to the word. -/
def reads (w : BitVec 32) (i : Instr) : Bool := decide (decode w = .ok i) && decide (encodeWord i = some w)

/-- Words of the Integer rows of R127, the fields laid out as R123 and R126 give. -/
def wordsInteger : List Bool :=
  [reads 0b0000001_01001_10111_10001_0000000000#32 (.add (.s 9) (.s 23) (.s 17)),
   reads 0b0000001_00101_01100_00001_0000000001#32 (.sub (.s 5) (.s 12) (.s 1)),
   reads 0b0000001_01001_10111_10001_0000000010#32 (.and (.s 9) (.s 23) (.s 17)),
   reads 0b0000001_00101_01100_00001_0000000011#32 (.or (.s 5) (.s 12) (.s 1)),
   reads 0b0000001_01001_10111_10001_0000000100#32 (.xor (.s 9) (.s 23) (.s 17)),
   reads 0b0000001_00101_01100_00001_0000000101#32 (.sll (.s 5) (.s 12) (.s 1)),
   reads 0b0000001_01001_10111_10001_0000000110#32 (.srl (.s 9) (.s 23) (.s 17)),
   reads 0b0000001_00101_01100_00001_0000000111#32 (.sra (.s 5) (.s 12) (.s 1)),
   reads 0b0000001_01001_10111_10001_0000001000#32 (.slt (.s 9) (.s 23) (.s 17)),
   reads 0b0000001_00101_01100_00001_0000001001#32 (.sltu (.s 5) (.s 12) (.s 1)),
   reads 0b0000001_01001_10111_10001_0000001010#32 (.min (.s 9) (.s 23) (.s 17)),
   reads 0b0000001_00101_01100_00001_0000001011#32 (.max (.s 5) (.s 12) (.s 1)),
   reads 0b0000001_01001_10111_10001_0000001100#32 (.minu (.s 9) (.s 23) (.s 17)),
   reads 0b0000001_00101_01100_00001_0000001101#32 (.maxu (.s 5) (.s 12) (.s 1)),
   reads 0b0000001_01001_10111_000000000001110#32 (.clz (.s 9) (.s 23)),
   reads 0b0000001_10001_00101_000000000001111#32 (.ctz (.s 17) (.s 5)),
   reads 0b0000001_01100_00001_000000000010000#32 (.popc (.s 12) (.s 1)),
   reads 0b0000010_01001_10111_10001_0000000000#32 (.mul (.s 9) (.s 23) (.s 17)),
   reads 0b0000010_00101_01100_00001_0000000001#32 (.mulh (.s 5) (.s 12) (.s 1)),
   reads 0b0000010_01001_10111_10001_0000000010#32 (.mulhu (.s 9) (.s 23) (.s 17)),
   reads 0b0000010_00101_01100_00001_0000000011#32 (.div (.s 5) (.s 12) (.s 1)),
   reads 0b0000010_01001_10111_10001_0000000100#32 (.divu (.s 9) (.s 23) (.s 17)),
   reads 0b0000010_00101_01100_00001_0000000101#32 (.rem (.s 5) (.s 12) (.s 1)),
   reads 0b0000010_01001_10111_10001_0000000110#32 (.remu (.s 9) (.s 23) (.s 17)),
   reads 0b0000011_00101_01100_000_100000000011#32 (.addi (.s 5) (.s 12) 0x803#12),
   reads 0b0000011_01001_10111_001_100000000011#32 (.andi (.s 9) (.s 23) 0x803#12),
   reads 0b0000011_00101_01100_010_100000000011#32 (.ori (.s 5) (.s 12) 0x803#12),
   reads 0b0000011_01001_10111_011_100000000011#32 (.xori (.s 9) (.s 23) 0x803#12),
   reads 0b0000011_00101_01100_100_100000000011#32 (.slti (.s 5) (.s 12) 0x803#12),
   reads 0b0000011_01001_10111_101_100000000011#32 (.sltiu (.s 9) (.s 23) 0x803#12),
   reads 0b0000011_00101_01100_110000000_100011#32 (.slli (.s 5) (.s 12) 0x23#6),
   reads 0b0000011_01001_10111_110010000_100011#32 (.srli (.s 9) (.s 23) 0x23#6),
   reads 0b0000011_00101_01100_110100000_100011#32 (.srai (.s 5) (.s 12) 0x23#6),
   reads 0b0000100_01001_11111111111111111110#32 (.lih (.s 9) 0xFFFFE#20),
   reads 0b0000101_10001_00000000000000000101#32 (.pchi (.s 17) 0x5#20),
   reads 0b0000110_01100_00001_01001_0000000000#32 (.obj (.s 12) (.s 1) (.s 9)),
   reads 0b0000110_10111_10001_00101_0000000001#32 (.objh (.s 23) (.s 17) (.s 5)),
   reads 0b0000110_01100_00001_000000000000010#32 (.objo (.s 12) (.s 1))]

theorem test_decode_Integer : wordsInteger.all id = true := by decide +kernel

/-- Words of the ScalarMemory rows of R127, the fields laid out as R123 and R126 give. -/
def wordsScalarMemory : List Bool :=
  [reads 0b0001000_01001_10111_001_000000000101#32 (.ldb (.s 9) (.s 23) 1 0x5#12),
   reads 0b0001001_01100_00001_001_111111111110#32 (.ldh (.s 12) (.s 1) 1 0xFFE#12),
   reads 0b0001010_10001_00101_001_100000000011#32 (.ldw (.s 17) (.s 5) 1 0x803#12),
   reads 0b0001011_01001_10111_001_000000000101#32 (.ldd (.s 9) (.s 23) 1 0x5#12),
   reads 0b0001100_01100_00001_001_111111111110#32 (.ldbu (.s 12) (.s 1) 1 0xFFE#12),
   reads 0b0001101_10001_00101_001_100000000011#32 (.ldhu (.s 17) (.s 5) 1 0x803#12),
   reads 0b0001110_01001_10111_001_000000000101#32 (.ldwu (.s 9) (.s 23) 1 0x5#12),
   reads 0b0010000_10101_00001_01100_001_0000101#32 (.stb (.s 12) (.s 1) 0xA85#12 1),
   reads 0b0010001_10101_10001_10111_101_0000101#32 (.sth (.s 23) (.s 17) 0xA85#12 5),
   reads 0b0010010_10101_00001_01100_110_0000101#32 (.stw (.s 12) (.s 1) 0xA85#12 6),
   reads 0b0010011_10101_10001_10111_011_0000101#32 (.std (.s 23) (.s 17) 0xA85#12 3),
   reads 0b0010100_01100_00001_01001_011_0000000#32 (.amoadd (.s 12) (.s 1) (.s 9) 3),
   reads 0b0010100_10001_00101_01100_011_0001000#32 (.amoswap (.s 17) (.s 5) (.s 12) 3),
   reads 0b0010100_01001_10111_10001_011_0010000#32 (.amocas (.s 9) (.s 23) (.s 17) 3),
   reads 0b0010100_01100_00001_01001_011_0011000#32 (.amoand (.s 12) (.s 1) (.s 9) 3),
   reads 0b0010100_10001_00101_01100_011_0100000#32 (.amoor (.s 17) (.s 5) (.s 12) 3),
   reads 0b0010100_01001_10111_10001_011_0101000#32 (.amoxor (.s 9) (.s 23) (.s 17) 3),
   reads 0b0010100_01100_00001_01001_011_0110000#32 (.amomin (.s 12) (.s 1) (.s 9) 3),
   reads 0b0010100_10001_00101_01100_011_0111000#32 (.amomax (.s 17) (.s 5) (.s 12) 3),
   reads 0b0010100_01001_10111_10001_011_1000000#32 (.amominu (.s 9) (.s 23) (.s 17) 3),
   reads 0b0010100_01100_00001_01001_011_1001000#32 (.amomaxu (.s 12) (.s 1) (.s 9) 3)]

theorem test_decode_ScalarMemory : wordsScalarMemory.all id = true := by decide +kernel

/-- Words of the Control rows of R127, the fields laid out as R123 and R126 give. -/
def wordsControl : List Bool :=
  [reads 0b0011000_10001_00101_000_111111111110#32 (.beq (.s 17) (.s 5) 0xFFE#12),
   reads 0b0011000_00001_01001_001_111111111110#32 (.bne (.s 1) (.s 9) 0xFFE#12),
   reads 0b0011000_10001_00101_100_111111111110#32 (.blt (.s 17) (.s 5) 0xFFE#12),
   reads 0b0011000_00001_01001_101_111111111110#32 (.bge (.s 1) (.s 9) 0xFFE#12),
   reads 0b0011000_10001_00101_110_111111111110#32 (.bltu (.s 17) (.s 5) 0xFFE#12),
   reads 0b0011000_00001_01001_111_111111111110#32 (.bgeu (.s 1) (.s 9) 0xFFE#12),
   reads 0b0011001_10001_00000000000000000101#32 (.jal (.s 17) 0x5#20),
   reads 0b0011010_01100_00001_000_000000000101#32 (.jalr (.s 12) (.s 1) 0x5#12),
   reads 0b0011011_00000_10111_00000_00100_00000#32 (.stick (.s 23) 0x4#5),
   reads 0b0011011_0000000000000000000000001#32 (.stickend),
   reads 0b0011011_00000_10001_00101_00101_00010#32 (.loop (.s 17) (.s 5) 0x5#5),
   reads 0b0011100_01100_00001_0000000_110_00000#32 (.setvl (.s 12) (.s 1) 6),
   reads 0b0011100_10111_10001_00101_00_110_00001#32 (.setvlw (.s 23) (.s 17) (.s 5) 6),
   reads 0b0011101_00001_01001_011_100000000011#32 (.setvlx (.s 1) (.s 9) 3 0x803#12),
   reads 0b0011110_00000_00101_0000000_001_00000#32 (.setmode (.s 5) 1),
   reads 0b0011110_00001_000000000000_110_00001#32 (.getmode (.s 1) 6),
   reads 0b0011110_00000_00110_0000000_110_00010#32 (.setforme (.s 6) 6),
   reads 0b0011110_00000_10111_10001_0000000011#32 (.settile (.s 23) (.s 17)),
   reads 0b0011111_00101_00000000_111111111110#32 (.gets (.s 5) 0xFFE#12),
   reads 0b0011111_00000_00001_001_000000000101#32 (.puts (.s 1) 0x5#12),
   reads 0b0100000_00000_10111_10001_0000000000#32 (.strip (.s 23) (.s 17)),
   reads 0b0100000_00000_00101_0000000_001_00001#32 (.proof (.s 5) 1),
   reads 0b0100000_0000000000000000000000010#32 (.endHart)]

theorem test_decode_Control : wordsControl.all id = true := by decide +kernel

/-- Words of the Arithmetic rows of R127, the fields laid out as R123 and R126 give. -/
def wordsArithmetic : List Bool :=
  [reads 0b1000000_0_110_0100000_1000010_1000110#32 (.vadd false 6 (.v 32) (.w 2) (.w 6)),
   reads 0b1000001_1_101_0010001_0001001_0000011#32 (.vsub true 5 (.v 17) (.v 9) (.v 3)),
   reads 0b1000010_0_001_0000100_0111111_0100001#32 (.vmul false 1 (.v 4) (.v 63) (.v 33)),
   reads 0b1000011_1_011_0111100_0101000_0110010#32 (.vfma true 3 (.v 60) (.v 40) (.v 50)),
   reads 0b1000100_0_110_0100000_1000010_1000110#32 (.vfms false 6 (.v 32) (.w 2) (.w 6)),
   reads 0b1000101_1_101_0010001_0001001_0000011#32 (.vmin true 5 (.v 17) (.v 9) (.v 3)),
   reads 0b1000110_0_001_0000100_0111111_0100001#32 (.vmax false 1 (.v 4) (.v 63) (.v 33)),
   reads 0b1000111_1_011_0111100_0101000_0110010#32 (.vand true 3 (.v 60) (.v 40) (.v 50)),
   reads 0b1001000_0_110_0100000_1000010_1000110#32 (.vor false 6 (.v 32) (.w 2) (.w 6)),
   reads 0b1001001_1_101_0010001_0001001_0000011#32 (.vxor true 5 (.v 17) (.v 9) (.v 3)),
   reads 0b1001010_0_001_0000100_0111111_0100001#32 (.vshl false 1 (.v 4) (.v 63) (.v 33)),
   reads 0b1001011_1_011_0111100_0101000_0110010#32 (.vshr true 3 (.v 60) (.v 40) (.v 50)),
   reads 0b1001100_0_110_0100000_1000010_1000110#32 (.vsra false 6 (.v 32) (.w 2) (.w 6)),
   reads 0b1001101_1_101_0010001_0001001_0000011#32 (.vdiv true 5 (.v 17) (.v 9) (.v 3)),
   reads 0b1001110_0_001_0000100_0111111_0100001#32 (.vcmpeq false 1 (.v 4) (.v 63) (.v 33)),
   reads 0b1001111_1_011_0111100_0101000_0110010#32 (.vcmpne true 3 (.v 60) (.v 40) (.v 50)),
   reads 0b1010000_0_110_0100000_1000010_1000110#32 (.vcmplt false 6 (.v 32) (.w 2) (.w 6)),
   reads 0b1010001_1_101_0010001_0001001_0000011#32 (.vcmple true 5 (.v 17) (.v 9) (.v 3)),
   reads 0b1010010_0_101_0010001_0001001_0000011#32 (.vsel 5 (.v 17) (.v 9) (.v 3)),
   reads 0b1010011_0_001_0000100_0111111_0100001#32 (.vclamp false 1 (.v 4) (.v 63) (.v 33))]

theorem test_decode_Arithmetic : wordsArithmetic.all id = true := by decide +kernel

/-- Words of the Permute rows of R127, the fields laid out as R123 and R126 give. -/
def wordsPermute : List Bool :=
  [reads 0b1010100_1_011_0111100_0101000_0110010#32 (.vslideup true 3 (.v 60) (.v 40) (.v 50)),
   reads 0b1010101_0_110_0100000_1000010_1000110#32 (.vslidedn false 6 (.v 32) (.w 2) (.w 6)),
   reads 0b1010110_1_101_0010001_0001001_0000011#32 (.vperm true 5 (.v 17) (.v 9) (.v 3)),
   reads 0b1010111_0_001_0000100_0111111_0100001#32 (.vexpand false 1 (.v 4) (.v 63) (.v 33)),
   reads 0b1011000_1_011_0111100_0101000_0110010#32 (.vcompress true 3 (.v 60) (.v 40) (.v 50)),
   reads 0b1011001_0_110_0100000_1000010_0000000#32 (.vabs false 6 (.v 32) (.w 2)),
   reads 0b1011001_0_110_0100000_1000010_0000001#32 (.vneg false 6 (.v 32) (.w 2)),
   reads 0b1011001_0_110_0100000_1000010_0000010#32 (.vnot false 6 (.v 32) (.w 2)),
   reads 0b1011001_0_110_0100000_1000010_0000011#32 (.vsqrt false 6 (.v 32) (.w 2)),
   reads 0b1011001_0_110_0100000_1000010_0000100#32 (.vrcp false 6 (.v 32) (.w 2)),
   reads 0b1011001_0_110_0100000_1000010_0000101#32 (.vrsq false 6 (.v 32) (.w 2)),
   reads 0b1011001_0_110_0100000_1000010_0000110#32 (.vexp2 false 6 (.v 32) (.w 2)),
   reads 0b1011001_0_110_0100000_1000010_0000111#32 (.vlog2 false 6 (.v 32) (.w 2)),
   reads 0b1011001_0_110_0100000_1000010_0001000#32 (.vcvt false 6 (.v 32) (.w 2)),
   reads 0b1011001_0_110_0100000_1000010_0001001#32 (.viota false 6 (.v 32) (.w 2)),
   reads 0b1011001_0_110_0100000_1000010_0001010#32 (.vconflict false 6 (.v 32) (.w 2)),
   reads 0b1011001_0_110_0100000_1000010_0001011#32 (.vmv false 6 (.v 32) (.w 2)),
   reads 0b1011001_0_110_0100000_1000010_0001100#32 (.vbcast false 6 (.v 32) (.w 2)),
   reads 0b1011001_0_011_0111100_0101000_0001101#32 (.vextract 3 (.v 60) (.v 40)),
   reads 0b1011010_1_011_0111100_0101000_0000000#32 (.vredsum true 3 (.v 60) (.v 40)),
   reads 0b1011010_1_011_0111100_0101000_0000001#32 (.vredmax true 3 (.v 60) (.v 40)),
   reads 0b1011010_1_011_0111100_0101000_0000010#32 (.vredmin true 3 (.v 60) (.v 40)),
   reads 0b1011011_1_011_0111100_0101000_0110010#32 (.mand true 3 (.v 60) (.v 40) (.v 50)),
   reads 0b1011100_0_110_0100000_1000010_1000110#32 (.mor false 6 (.v 32) (.w 2) (.w 6)),
   reads 0b1011101_1_101_0010001_0001001_0000011#32 (.mxor true 5 (.v 17) (.v 9) (.v 3)),
   reads 0b1011110_0_001_0000100_0111111_0100001#32 (.mandn false 1 (.v 4) (.v 63) (.v 33)),
   reads 0b1011111_1_011_0111100_0101000_0000000#32 (.mpop true 3 (.v 60) (.v 40)),
   reads 0b1011111_1_011_0111100_0101000_0000001#32 (.mfirst true 3 (.v 60) (.v 40)),
   reads 0b1011111_1_011_0111100_00000000000010#32 (.mset true 3 (.v 60)),
   reads 0b1011111_0_001_0000100_00000000000011#32 (.mclr false 1 (.v 4))]

theorem test_decode_Permute : wordsPermute.all id = true := by decide +kernel

/-- Words of the VectorMemory rows of R127, the fields laid out as R123 and R126 give. -/
def wordsVectorMemory : List Bool :=
  [reads 0b1100000_1_101_0010001_00001_000000000#32 (.vld true 5 (.v 17) (.s 1)),
   reads 0b1100000_1_101_0010001_00101_01100_0001#32 (.vlds true 5 (.v 17) (.s 5) (.s 12)),
   reads 0b1100000_0_001_0000100_10001_000000010#32 (.vldt false 1 (.v 4) (.s 17)),
   reads 0b1100000_0_101_0010001_00001_000000011#32 (.vldb 5 (.v 17) (.s 1)),
   reads 0b1100000_1_101_0010001_00101_01100_0100#32 (.vldpk true 5 (.v 17) (.s 5) (.s 12)),
   reads 0b1100000_0_001_0000100_10001_000001000#32 (.vst false 1 (.v 4) (.s 17)),
   reads 0b1100000_0_001_0000100_01001_000001001#32 (.vstu false 1 (.v 4) (.s 9)),
   reads 0b1100000_0_001_0000100_01100_00001_1010#32 (.vsts false 1 (.v 4) (.s 12) (.s 1)),
   reads 0b1100000_1_011_0111100_00101_000001011#32 (.vstt true 3 (.v 60) (.s 5)),
   reads 0b1100000_1_011_0111100_10111_10001_1100#32 (.vstpk true 3 (.v 60) (.s 23) (.s 17)),
   reads 0b1100001_0_110_0100000_01001_1111111_00#32 (.vldx false 6 (.v 32) (.s 9) .none),
   reads 0b1100010_1_101_0010001_00001_0011000_00#32 (.vstx true 5 (.v 17) (.s 1) (.v 24)),
   reads 0b1100011_0_001_0000100_01100_0001000_00#32 (.vamoadd false 1 (.v 4) (.s 12) (.v 8)),
   reads 0b1100011_1_011_0111100_00101_1111111_01#32 (.vamomax true 3 (.v 60) (.s 5) .none),
   reads 0b1100011_0_110_0100000_10001_0011000_10#32 (.vamomin false 6 (.v 32) (.s 17) (.v 24))]

theorem test_decode_VectorMemory : wordsVectorMemory.all id = true := by decide +kernel

/-- Words of the Matrix rows of R127, the fields laid out as R123 and R126 give. -/
def wordsMatrix : List Bool :=
  [reads 0b1101000_1_101_1001010_1000010_1000110#32 (.mma true 5 (.z 2) (.w 2) (.w 6)),
   reads 0b1101001_1_101_1001010_1000010_1000110#32 (.mmas true 5 (.z 2) (.w 2) (.w 6)),
   reads 0b1101010_1_101_1001010_1000010_1000110#32 (.mmau true 5 (.z 2) (.w 2) (.w 6)),
   reads 0b1101011_1_101_0010001_0001001_0000011#32 (.vwmul true 5 (.v 17) (.v 9) (.v 3)),
   reads 0b1101100_0_001_0000100_0111111_0100001#32 (.vwmac false 1 (.v 4) (.v 63) (.v 33)),
   reads 0b1101101_1_011_0111100_0101000_0000000#32 (.vextf true 3 (.v 60) (.v 40)),
   reads 0b1101110_1_011_0111100_0101000_0000000#32 (.vpack true 3 (.v 60) (.v 40)),
   reads 0b1101110_1_011_0111100_0101000_0000001#32 (.vunpack true 3 (.v 60) (.v 40)),
   reads 0b1101110_0_001_1001010_00000000000010#32 (.mzero 1 (.z 2)),
   reads 0b1101110_0_110_1001010_0101000_0000011#32 (.msums false 6 (.z 2) (.v 40)),
   reads 0b1101111_0_001_0000100_0111111_0000000#32 (.drain 1 (.v 4) (.v 63)),
   reads 0b1101111_0_101_0010001_0001001_0000001#32 (.draina 5 (.v 17) (.v 9)),
   reads 0b1101111_0_110_0100000_1000010_0000010#32 (.drainq 6 (.v 32) (.w 2)),
   reads 0b1101111_0_011_0111100_0101000_0000011#32 (.drainrc 3 (.v 60) (.v 40))]

theorem test_decode_Matrix : wordsMatrix.all id = true := by decide +kernel

/-- Words of the Copies rows of R127, the fields laid out as R123 and R126 give. -/
def wordsCopies : List Bool :=
  [reads 0b1110000_00000_01001_000000_1110_00000#32 (.cset (.s 9) 0xE#4),
   reads 0b1110000_10001_00000000000_0101_00001#32 (.cget (.s 17) 0x5#4),
   reads 0b1110000_01100_00000_00001_00_110_00010#32 (.claunch (.s 12) (.s 1) 6),
   reads 0b1110000_10111_10001_000000000000011#32 (.ccancel (.s 23) (.s 17)),
   reads 0b1110000_00101_00000_01100_00_101_00100#32 (.coll (.s 5) (.s 12) 5),
   reads 0b1110001_00000_01001_10111_0000000000#32 (.gdecl (.s 9) (.s 23)),
   reads 0b1110001_10001_00101_01100_0000000001#32 (.gstate (.s 17) (.s 5) (.s 12)),
   reads 0b1110001_00000_00001_000000000000010#32 (.gfree (.s 1)),
   reads 0b1110001_00000_01001_10111_0000000011#32 (.syncinit (.s 9) (.s 23)),
   reads 0b1110001_10001_00101_01100_00_101_00100#32 (.syncwait (.s 17) (.s 5) (.s 12) 5),
   reads 0b1110010_00000_01001_0000000_011_00000#32 (.gbar (.s 9) 3),
   reads 0b1110010_10001_00101_0000000_001_00001#32 (.garrive (.s 17) (.s 5) 1),
   reads 0b1110010_00000_00001_01001_00_101_00010#32 (.gwait (.s 1) (.s 9) 5)]

theorem test_decode_Copies : wordsCopies.all id = true := by decide +kernel

/-- Words of the System rows of R127, the fields laid out as R123 and R126 give. -/
def wordsSystem : List Bool :=
  [reads 0b1110100_000000000000000_10011_00000#32 (.trap 0x13#5),
   reads 0b1110100_0000000000000000000000001#32 (.eret),
   reads 0b1110100_0000000000000000000000010#32 (.brk),
   reads 0b1110100_0000000000000000000000011#32 (.swapctx),
   reads 0b1110100_0000000000000000000000100#32 (.spillwait),
   reads 0b1110100_00101_01100_00001_00_001_00101#32 (.icinv (.s 5) (.s 12) (.s 1) 1),
   reads 0b1110100_10111_10001_0000000_101_00110#32 (.orcinv (.s 23) (.s 17) 5),
   reads 0b1110100_01100_00001_01001_01011_00111#32 (.objmove (.s 12) (.s 1) (.s 9) 0xB#5),
   reads 0b1110100_10111_10001_000000000001000#32 (.flagclr (.s 23) (.s 17)),
   reads 0b1110100_00101_01100_000000000001001#32 (.ctrrd (.s 5) (.s 12)),
   reads 0b11110_10_1001000110100010101100111#32 (.nop 0x5234567#27)]

theorem test_decode_System : wordsSystem.all id = true := by decide +kernel

/-! ## Ill-formed terms: one for each check of WellFormed, at the first value the check refuses -/

theorem test_illformed_operands : wellFormed (.stick (.s 1) 6) = false ∧ wellFormed (.stick (.s 1) 5) = true ∧
    wellFormed (.loop (.s 1) (.s 2) 8) = false ∧ wellFormed (.loop (.s 1) (.s 2) 7) = true := by decide +kernel

theorem test_illformed_cores : ([.orcFill 320 0 1, .orcFill 0 65536 1, .orcFill 0 0 1048576, .mapEntryFill 320 0 1 0,
    .mapEntryFill 0 65536 1 0, .mapEntryFill 0 0 1048576 0, .bankExchange 320, .spillDone 320, .bankFillDone 320 0, .bankFillDone 0 65536,
    .hartMigration 320, .coreRetire 320, .sramScrub 320 0 0, .sramScrub 0 9 0] : List Instr).all (fun i => !wellFormed i) = true := by
  decide +kernel

theorem test_illformed_units : ([.collReady 0 0 65536 ([], []), .collAbort 0 0 65536, .collDecision 0 4, .registerWrite 0x80200 8 0,
    .queueSlotGrant 4096, .recordIntake 4096, .decrement 65536 0 false, .decrement 0 16384 false, .conditionalRead 0 16384,
    .kernelPlacement 0 16384, .preemptCores 65536 0, .nodeComplete 0 16384] : List Instr).all (fun i => !wellFormed i) = true := by
  decide +kernel

theorem test_illformed_memory : ([.mcbRetirePch 2 0, .mcbRetirePch 0 1024, .topcut 2, .migrationStart 2, .migrateUnit 2, .migrationEnd 2,
    .mcbNrpWrite 2 0, .mcbSeedWrite 2 0, .activate 0 768 0, .activate 2 0 0, .activationAlert 0 768, .backoffWindowEnd 0 768,
    .patrolScrub 2 0 0, .patrolScrub 0 805306368 0, .patrolScrub 0 0 9] : List Instr).all (fun i => !wellFormed i) = true := by
  decide +kernel

theorem test_illformed_links : ([.cxwWrite 16 0, .cxlLinkDown 8, .cxlPortTrained 8 0 32 16, .cxlPortTrained 0 2 128 16,
    .cxlPortTrained 0 0 32 0, .cxlPortTrained 0 0 32 17, .cxlPortTrained 0 1 256 16, .retrain 8, .flitReceive 16 0, .laneRepair 16, .stolierRetrainEnd 16 true true,
    .force 16 0, .force 0 16, .stlctlEn 16 true, .stolierLinkLoss 16, .hostWrite (2 ^ 47) [0], .hostRead (2 ^ 47 + 0x80000) 1] :
    List Instr).all (fun i => !wellFormed i) = true := by decide +kernel

theorem test_illformed_power : ([.fatalError 256 0 0, .fatalError 0 2 0, .fatalError 0 0 256, .levelWindowBoundary 20, .powerEval 2 0,
    .thermalEval 2, .tempRefresh 20 0, .vsramEval 2 0 0, .vsramEval 0 320 0, .gateHoldEnd 20, .wakeRequest 20, .gateenWrite 20 true] :
    List Instr).all (fun i => !wellFormed i) = true := by decide +kernel

/-! ## A small state -/

/-- A result that is a value with a property. -/
def okAnd {ε α : Type} (r : Except ε α) (p : α → Bool) : Bool :=
  match r with
  | .ok a => p a
  | .error _ => false

/-- An outcome that is a next state with a property. -/
def nextAnd (o : Out) (p : State → Bool) : Bool :=
  match o with
  | .next t => p t
  | _ => false

/-- An offset of the object or galley of a handle. -/
def at_ (handle off : Nat) : Word := BitVec.ofNat 64 (handle * 2 ^ 44 + off)

/-- An instruction takes the trap of a code: control goes to the handler of that code, its scalar registers as they were. -/
def traps (i : Instr) (s : State) (code : Nat) : Bool :=
  nextAnd (exec i s) fun t => t.me.r.pc == at_ 1 (0x80 + 4 * code) && t.me.r.x == s.me.r.x

/-- An instruction waits for a reason, its registers as they were. -/
def waits (i : Instr) (s : State) (why : WaitReason) : Bool :=
  nextAnd (exec i s) fun t => t.me.wait == some why && t.me.r.pc == s.me.r.pc && t.me.r.x == s.me.r.x

/-- The eight words of the record of a plain object of rank 1 (R67): base, format, permission bits PR PW PX PA PC, elements. -/
def plainRecord (base fmt perms count : Nat) : List Byte :=
  ([BitVec.ofNat 64 (base / 256 + 2 ^ 41 + fmt * 2 ^ 47 + perms * 2 ^ 52), 0, BitVec.ofNat 64 (count + 2 ^ 28), 0, 0, 0, 0, 0] :
    List Word).flatMap fun w => bytesOf 8 w.toNat

/-- The memory of the small state: the text (object 1), an object of bytes (2), one of INT32 (3) and one of FP16 (4), and a trap vector
(5) of which entry k names offset 0x80 + 4 k of the text. -/
def builtMem : Cells :=
  let s := placeWord State.reset (bytesOf 4 0xF0000000)
  let mem := [(2, plainRecord 0x30000 17 0x0B 4096), (3, plainRecord 0x40000 3 0x0B 1024), (4, plainRecord 0x50000 1 0x0B 1024),
    (5, plainRecord 0x60000 17 0x1 512)].foldl (fun m p => writeBytes m (0x10000 + 64 * p.1) p.2) s.mem
  writeBytes mem 0x60000 ((List.range 32).flatMap fun k => bytesOf 8 (2 ^ 44 + 0x80 + 4 * k))

/-- The same, written out. -/
def labMem : Cells :=
  [(0x10041, 2), (0x10045, 130), (0x10046, 88), (0x10051, 1), (0x10053, 16), (0x10081, 3), (0x10085, 130), (0x10086, 184),
   (0x10091, 16), (0x10093, 16), (0x100C1, 4), (0x100C5, 130), (0x100C6, 177), (0x100D1, 4),
   (0x100D3, 16), (0x10101, 5), (0x10105, 130), (0x10106, 176), (0x10111, 4), (0x10113, 16), (0x10141, 6),
   (0x10145, 130), (0x10146, 24), (0x10151, 2), (0x10153, 16), (0x20003, 240), (0x60000, 128), (0x60005, 16), (0x60008, 132)] ++
  [(0x6000D, 16), (0x60010, 136), (0x60015, 16), (0x60018, 140), (0x6001D, 16), (0x60020, 144), (0x60025, 16), (0x60028, 148),
   (0x6002D, 16), (0x60030, 152), (0x60035, 16), (0x60038, 156), (0x6003D, 16), (0x60040, 160), (0x60045, 16), (0x60048, 164),
   (0x6004D, 16), (0x60050, 168), (0x60055, 16), (0x60058, 172), (0x6005D, 16), (0x60060, 176), (0x60065, 16), (0x60068, 180),
   (0x6006D, 16), (0x60070, 184), (0x60075, 16), (0x60078, 188), (0x6007D, 16), (0x60080, 192), (0x60085, 16), (0x60088, 196)] ++
  [(0x6008D, 16), (0x60090, 200), (0x60095, 16), (0x60098, 204), (0x6009D, 16), (0x600A0, 208), (0x600A5, 16), (0x600A8, 212),
   (0x600AD, 16), (0x600B0, 216), (0x600B5, 16), (0x600B8, 220), (0x600BD, 16), (0x600C0, 224), (0x600C5, 16), (0x600C8, 228),
   (0x600CD, 16), (0x600D0, 232), (0x600D5, 16), (0x600D8, 236), (0x600DD, 16), (0x600E0, 240), (0x600E5, 16), (0x600E8, 244),
   (0x600ED, 16), (0x600F0, 248), (0x600F5, 16), (0x600F8, 252), (0x600FD, 16)]

theorem test_labMem : labMem = builtMem := by decide +kernel

/-- One hart with 4 lanes whose pc stands at a word of registered text. -/
def lab : State :=
  let s := placeWord State.reset []
  { s with mem := labMem, me := { s.me with
      nh := 3, trapv := at_ 5 0, otb := BitVec.ofNat 64 (0x100 + 8 * 2 ^ 39), gmask := 0xFFFFFFFF, r := { s.me.r with
        x := ((((s.me.r.x.set 1 (at_ 2 16)).set 2 7).set 4 (at_ 3 8)).set 5 (at_ 2 12)).set 6 0xFFFFFFFFFFFFFFFD,
        q := (s.me.r.q.set 4 [5, 6]).set 0 (List.replicate 8 9),
        g := (s.me.r.g.set 1 0x40003).set 2 0x40807, fm := s.me.r.fm.set 0 0x2494844892 } } }

/-- The same with other registers. -/
def labWith (f : Regs → Regs) : State := modRegs lab f

/-- The same with one scalar register set. -/
def labX (n : Fin 24) (v : Word) : State := labWith fun r => { r with x := r.x.set n v }

/-- The same with two scalar registers set. -/
def labXY (n : Fin 24) (v : Word) (k : Fin 24) (u : Word) : State := labWith fun r => { r with x := (r.x.set n v).set k u }

/-- Nothing of the hart is outstanding in such a state. -/
theorem labWith_calm (f : Regs → Regs) (h : (f lab.me.r).strip.stores = []) : calm (labWith f) := by
  refine ⟨⟨?_, rfl, rfl, rfl, rfl, rfl, ?_, ?_, fun k => ?_⟩, h⟩
  · show lab.me.hid ≠ 0
    decide +kernel
  · show ∀ d ∈ lab.dies.toList, d.mcb.windows = []
    decide +kernel
  · show ∀ h ∈ lab.rest, h.hid ≠ lab.me.hid
    decide +kernel
  · show (vget (Vector.replicate 16 (0 : BitVec 16)) k 0 - vget (Vector.replicate 16 (0 : BitVec 16)) k 0).toNat < 1023
    simp

theorem test_lab_calm : calm lab := labWith_calm id rfl

/-! ## Encoding, a step and the memories -/

/-- DecodeOfEncode, EncodeOfDecode: a well-formed instruction with its word, four bytes least significant first. -/
theorem test_hyp_encoding : wellFormed (.vadd false 1 (.v 2) (.v 1) (.w 0)) = true ∧
    encodeWord (.vadd false 1 (.v 2) (.v 1) (.w 0)) = some 0x802080C0#32 ∧
    decode 0x802080C0#32 = .ok (.vadd false 1 (.v 2) (.v 1) (.w 0)) := by decide +kernel

/-- UnassignedOpcodes: a word of opcode 0x3F, and one of opcode 0x7B. -/
theorem test_hyp_UnassignedOpcodes : ((0x7E000005#32) >>> 25).toNat = 0x3F ∧
    decode 0x7E000005#32 = .error .reservedOpcode ∧ (0xF6000005#32).extractLsb' 27 5 = 0b11110#5 ∧
    decode 0xF6000005#32 = .ok (.nop 0x6000005#27) := by decide +kernel

/-- StepRunsDecoded and FetchReadsMemory: the hart of the small state runs, nothing of it waits, and the word at its pc is the one
that stands in the text object; its bytes are clean. -/
theorem test_hyp_StepRunsDecoded : lab.agenda = [] ∧ lab.fatal.isNone = true ∧ (autoEvent lab).isNone = true ∧ runs lab lab.me = true ∧
    (tryParked lab (lab.me.flights.filter (·.parked))).1 = false ∧
    okAnd (nextWord (tryParked lab (lab.me.flights.filter (·.parked))).2) (fun p =>
      p.1 == 0xF0000000#32 && (bodyStop p.1 p.2).isNone && p.2.me.r.pc == at_ 1 0) = true := by decide +kernel

theorem test_hyp_FetchReadsMemory : lab.me.r.stick.active = false ∧ (getCore lab lab.me.core).icache = [] ∧
    okAnd (scalarElements lab (whoMe lab) 3 lab.me.r.pc 4) (fun es => es.length == 4 && es.all fun e =>
      !placeBad lab e.place && ((textRangeOf lab lab.me.ctx e.place.addr).map fun t =>
        decide (e.place.addr + e.place.bits / 8 ≤ t.phys + t.len)) == some true) = true := by decide +kernel

/-- A word that an open body passes over: its bit stands in the last-only mask, and its block is not in its last iteration. -/
def skipping : State := labWith fun r =>
  { r with stick := { r.stick with active := true, lasts := 1, flagLvl := 0, count := r.stick.count.set 0 2 } }

theorem test_hyp_bodyStop : (bodyStop 0xF0000000#32 skipping).isSome = true ∧
    (bodyStop 0xF0000000#32 (modRegs skipping fun r => { r with stick := { r.stick with index := r.stick.index.set 0 1 } })).isNone = true ∧
    (bodyStop 0xF0000000#32 (modRegs skipping fun r => { r with stick := { r.stick with pos := 64 } })).isSome = true ∧
    (bodyStop 0x36000001#32 (modRegs skipping fun r => { r with stick := { r.stick with pos := 64 } })).isNone = true := by decide +kernel

/-- StepsGoOn: a package that has met a fatal error, with the turn of a hart, of no hart, and of an event. -/
theorem test_hyp_StepsGoOn :
    let f : Fatal := { cause := 1, die := 0, part := 0, dumped := false }
    step { lab with fatal := some f } = .fault .halted ∧
    step { lab with fatal := some f, agenda := [.hart 1 false] } = .fault .halted ∧
    step { lab with fatal := some f, agenda := [.event .timesliceEnd] } = .fault .halted := by
  refine ⟨rfl, rfl, rfl⟩

/-- StepKeepsMemories: a step from a state whose memories are in canonical form. -/
theorem test_hyp_StepKeepsMemories : Memory.wf lab.mem = true ∧ (∀ c ∈ lab.cores, Memory.wf c.2.scratch = true) ∧
    nextAnd (step lab) (fun t => t.me.r.pc == at_ 1 4 && t.me.r.retired == 1) = true := by decide +kernel

/-- ReadAfterWrite: two places of one byte that share no bit. -/
theorem test_hyp_ReadAfterWrite : let p : Place := { core := none, addr := 0x30000, bit := 0, bits := 4 }
    let q : Place := { core := none, addr := 0x30000, bit := 4, bits := 4 }
    readPlace (writePlaces lab [(p, 0x1A)]) p = 0xA ∧ readPlace (writePlaces (writePlaces lab [(q, 3)]) [(p, 0x1A)]) q = 3 := by
  decide +kernel

/-! ## Scalar operands, retirement and stops -/

/-- ScalarOperands: a queue with an entry, an empty one, a full one, one with room, and a register that is not pending. -/
theorem test_hyp_ScalarOperands : lab.me.r.q[4] = [5, 6] ∧ lab.me.r.q[5] = [] ∧ pendingX lab 7 = false ∧ pendingQ lab 0 = false ∧
    queueDepth 0 ≤ lab.me.r.q[0].length ∧ pendingQ lab 6 = false ∧ lab.me.r.q[6].length < queueDepth 6 ∧
    scalarFields (.add (.s 1) (.q 6) (.s 2)) = some ([.q 6, .s 2], [.s 1]) ∧
    scalarFields (.getmode (.q 7) 0) = some ([], [.q 7]) := by decide +kernel

theorem test_illegal_queue_fields : traps (.add (.s 1) (.q 6) (.s 2)) lab 1 = true ∧
    traps (.getmode (.q 7) 0) lab 1 = true ∧ waits (.add (.s 3) (.q 5) (.s 2)) lab (.queueEmpty 5) = true ∧
    waits (.add (.q 0) (.s 1) (.s 2)) lab (.queueFull 0) = true := by decide +kernel

/-- A hart with an instruction that waits. -/
def waiting : State := match exec (.vslideup false 1 (.v 2) (.v 4) (.q 1)) lab with
  | .next t => t
  | _ => lab

/-- Retirement: with and without an earlier instruction that waits. -/
theorem test_hyp_Retirement : anyParked waiting = true ∧ waiting.me.r.pc = at_ 1 4 ∧ anyParked lab = false := by decide +kernel

/-- An instruction of the vector stream has made counts, goes tile by tile, and nothing earlier can trap (R181, R264). -/
def counting : State := labWith fun r => { r with
  counts := { Counts.zero with dtskip := 3, headroom := 4, nanenc := 5 }, vstart := 7, prog := 9 }

theorem test_retire_counts : (counting.me.flights.all fun f => !unretired f) = true ∧
    (let t := retireStream false true counting
     ((getCore t 0).dtskip, (getCore t 0).headroom, (getCore t 0).nanenc) = (3, 4, 5) ∧ t.me.r.counts = Counts.zero ∧
       t.me.r.vstart = 7 ∧ t.me.r.prog = 0 ∧ t.me.r.pc = at_ 1 4) := by decide +kernel

/-! ## Integer arithmetic, constants and object addresses -/

/-- IntegerResults, ScalarOperands: two sources, one popped from q4. -/
theorem test_add_wraps : okAnd (readSrc (.s 6) lab) (fun a => okAnd (readSrc (.q 4) a.2) fun b =>
    okAnd (writeDst (.s 3) (a.1 + b.1) b.2) fun t => a.1 == 0xFFFFFFFFFFFFFFFD && b.1 == 5 && t.me.r.x[3] == 2 && t.me.r.q[4] == [6] &&
      nextAnd (exec (.add (.s 3) (.s 6) (.q 4)) lab) fun u => u.me.r.x[3] == 2 && u.me.r.q[4] == [6] && u.me.r.pc == at_ 1 4) = true := by
  decide +kernel

/-- What an instruction of two sources leaves in s3. -/
def of2 (i : SOp → SOp → SOp → Instr) (a b : Word) : Option Word :=
  match exec (i (.s 3) (.s 8) (.s 9)) (labXY 8 a 9 b) with
  | .next t => some t.me.r.x[3]
  | _ => none

/-- The table of R132: 7 over 0, -3 over 0, 0 over 0, and the least number over -1. -/
theorem test_division_corners : of2 .div 7 0 = some 0x7FFFFFFFFFFFFFFF ∧ of2 .div (-3) 0 = some 0x8000000000000000 ∧
    of2 .div 0 0 = some 0 ∧ of2 .divu 7 0 = some 0xFFFFFFFFFFFFFFFF ∧ of2 .div 0x8000000000000000 (-1) = some 0x7FFFFFFFFFFFFFFF ∧
    of2 .rem 0x8000000000000000 (-1) = some 0 ∧ of2 .rem (-7) 2 = some (-1) ∧ of2 .div (-7) 2 = some (-3) ∧
    of2 .remu 7 0 = some 0 := by decide +kernel

theorem test_bit_counts : of2 (fun d a _ => .clz d a) 1 0 = some 63 ∧ of2 (fun d a _ => .clz d a) 0 0 = some 64 ∧
    of2 (fun d a _ => .ctz d a) 0 0 = some 64 ∧ of2 (fun d a _ => .ctz d a) 0x8000000000000000 0 = some 63 ∧
    of2 (fun d a _ => .popc d a) (-1) 0 = some 64 := by decide +kernel

/-- ImmediatesAndAddresses: an offset at the top of its range and one past it, on both sides. -/
theorem test_addresses : of2 .obj (at_ 2 (2 ^ 44 - 2)) 1 = some (at_ 2 (2 ^ 44 - 1)) ∧
    traps (.obj (.s 3) (.s 8) (.s 9)) (labXY 8 (at_ 2 (2 ^ 44 - 1)) 9 1) 6 = true ∧
    of2 .objh 0xFFFFF 0xFFFFFFFFFFF = some 0xFFFFFFFFFFFFFFFF ∧ traps (.objh (.s 3) (.s 8) (.s 0)) (labX 8 0x100000) 6 = true ∧
    of2 (fun d _ _ => .pchi d 1) 0 0 = some (at_ 1 0x1000) ∧ of2 (fun d _ _ => .lih d 0x80000) 0 0 = some 0xFFFFFFFF80000000 := by
  decide +kernel

/-- RegisterOnlyFrame: an instruction of its list that completes. -/
theorem test_hyp_RegisterOnlyFrame : registerOnly (.slti (.q 6) (.s 2) 0xFFF) = some ([.s 2], .q 6) ∧
    nextAnd (exec (.slti (.q 6) (.s 2) 0xFFF) lab) (fun t => t.me.r.q[6] == [0] && t.me.r.x == lab.me.r.x) = true := by decide +kernel

/-! ## Control flow and the stick -/

/-- A branch taken to the first offset of its object and one past it. -/
theorem test_branch_edges : nextAnd (exec (.blt (.s 6) (.s 2) 0xFFF) (labWith fun r => { r with pc := at_ 1 4 }))
      (fun t => t.me.r.pc == at_ 1 0) = true ∧
    traps (.blt (.s 6) (.s 2) 0xFFF) lab 6 = true ∧ nextAnd (exec (.bltu (.s 6) (.s 2) 0xFFF) lab) (fun t => t.me.r.pc == at_ 1 4) = true ∧
    okAnd (readSrc (.s 6) lab) (fun a => okAnd (readSrc (.s 2) a.2) fun b => decide (a.1.toInt < b.1.toInt)) = true := by
  decide +kernel

theorem test_hyp_BranchResults : (0x30052005#32).extractLsb' 25 7 = 0x18#7 ∧ (0x30052005#32).extractLsb' 12 3 = 2#3 ∧
    lab.me.r.stick.active = false ∧ dstOk (.s 1) = true ∧ srcOk (.s 1) = true := by decide +kernel

theorem test_jumps : nextAnd (exec (.jalr (.s 1) (.s 1) 0xFF0) lab) (fun t => t.me.r.pc == at_ 2 0 && t.me.r.x[1] == at_ 1 4) = true ∧
    traps (.jalr (.s 1) (.s 1) 0xFEF) lab 6 = true ∧
    nextAnd (exec (.jal (.s 3) 1) lab) (fun t => t.me.r.pc == at_ 1 4 && t.me.r.x[3] == at_ 1 4) = true ∧
    traps (.jal (.s 3) 0xFFFFF) lab 6 = true := by decide +kernel

theorem test_loop_edges : nextAnd (exec (.loop (.s 8) (.s 6) 5) (labX 8 0xFFFFFFFF)) (fun t =>
      t.me.r.stick.count[5] == 0xFFFFFFFF && t.me.r.stick.stride[5] == 0xFFFFFFFFFFFFFFFD) = true ∧
    traps (.loop (.s 8) (.s 6) 5) (labX 8 0x100000000) 0x17 = true ∧
    nextAnd (exec (.loop (.s 8) (.s 2) 6) lab) (fun t => t.me.r.stick.flagLvl == 7) = true ∧
    traps (.loop (.s 2) (.s 8) 6) (labX 8 8) 0x17 = true ∧
    nextAnd (exec (.loop (.s 2) (.s 0) 7) lab) (fun t => t.me.r.stick.lasts == 7) = true := by decide +kernel

/-- A body open over two levels, at its STICKEND. -/
def inBody : State := labWith fun r => { r with stick := { r.stick with
  active := true, lvm1 := 1, walk := 4, base := at_ 3 8, pc := at_ 1 4, pos := 3, count := (r.stick.count.set 0 2).set 1 2,
  stride := (r.stick.stride.set 0 4).set 1 0xFFFFFFFFFFFFFFF8 } }

/-- The same in its last iteration but one, and in its last. -/
def lastBut (i j : BitVec 32) : State := modRegs inBody fun r =>
  { r with stick := { r.stick with index := (r.stick.index.set 0 i).set 1 j } }

theorem test_stick_opens : nextAnd (exec (.stick (.s 4) 1) lab) (fun t => t.me.r.stick.active && t.me.r.stick.pc == at_ 1 4 &&
      t.me.r.stick.base == at_ 3 8 && t.me.r.stick.walk == 4) = true ∧
    traps (.stick (.s 4) 0) (labWith fun r => { r with stick := { r.stick with flagLvl := 1 } }) 0x17 = true ∧
    lab.me.r.stick.count.toList.all (· != 0) = true ∧
    nextAnd (exec (.stick (.s 4) 0) { modRegs lab (fun r => { r with stick := { r.stick with count := r.stick.count.set 0 0 } }) with
      mem := writeBytes labMem 0x20004 (bytesOf 4 0x36000001) }) (fun t => t.me.r.pc == at_ 1 8 && !t.me.r.stick.active) = true := by
  decide +kernel

theorem test_stick_closes : nextAnd (exec .stickend (lastBut 0 0)) (fun t => t.me.r.stick.index[0] == 1 && t.me.r.x[4] == at_ 3 12 &&
      t.me.r.pc == at_ 1 4) = true ∧
    nextAnd (exec .stickend (lastBut 1 0)) (fun t => t.me.r.stick.index[0] == 0 && t.me.r.stick.index[1] == 1 && t.me.r.x[4] == at_ 3 0 &&
      t.me.r.pc == at_ 1 4) = true ∧
    nextAnd (exec .stickend (lastBut 1 1)) (fun t => !t.me.r.stick.active && t.me.r.pc == at_ 1 4) = true ∧
    traps .stickend lab 0x17 = true ∧ pendingX inBody 4 = false ∧
    traps .stickend (modRegs (lastBut 1 0) fun r => { r with stick := { r.stick with base := at_ 3 7 } }) 6 = true := by decide +kernel

theorem test_body_forbids : bodyForbids (.beq (.s 1) (.s 2) 4) = true ∧ wellFormed (.beq (.s 1) (.s 2) 4) = true ∧
    inBody.me.r.strip.isOpen = false ∧ scalarFields (.beq (.s 1) (.s 2) 4) = some ([.s 1, .s 2], []) ∧
    traps (.beq (.s 1) (.s 2) 4) inBody 0x17 = true ∧ traps .eret inBody 0x17 = true := by decide +kernel

/-! ## Vector length, slots, tiles and state registers -/

theorem test_vl : (lab.me.r.g[1]).toNat % 32 = 3 ∧ (3, 32) ∈ etypeTable ∧
    nextAnd (exec (.setvl (.s 3) (.s 8) 1) (labX 8 513)) (fun t => t.me.r.vl == 512 && t.me.r.x[3] == 512) = true ∧
    nextAnd (exec (.setvlx (.s 3) (.s 0) 1 2) lab) (fun t => t.me.r.vl == 0 && t.me.r.pc == at_ 1 8) = true ∧
    nextAnd (exec (.setvlx (.s 3) (.s 2) 1 2) lab) (fun t => t.me.r.vl == 7 && t.me.r.pc == at_ 1 4) = true := by decide +kernel

/-- WatermarkWait: the word at offset 16 of object 2 covers 7 elements, or does not. -/
def marked (v : Byte) : State := { lab with mem := writeBytes labMem 0x30010 [v] }

theorem test_watermark : okAnd (readSrc (.s 1) lab) (fun b => okAnd (accessElements b.2 0 b.1 8) fun es => contiguous es &&
      es.all fun e => !placeBad b.2 e.place) = true ∧
    nextAnd (exec (.setvlw (.s 3) (.s 2) (.s 1) 1) (marked 7)) (fun t => t.me.r.vl == 7 && t.me.r.wpos == 7 && t.me.r.x[3] == 7) = true ∧
    waits (.setvlw (.s 3) (.s 2) (.s 1) 1) (marked 6) .watermark = true ∧
    nextAnd (exec (.setvlw (.s 3) (.s 0) (.s 1) 1) lab) (fun t => t.me.r.vl == 0) = true := by decide +kernel

theorem test_slots : nextAnd (exec (.setmode (.s 8) 3) (labX 8 0x2849C0041FB9)) (fun t => t.me.r.g[3] == 0x2849C0041FB9) = true ∧
    traps (.setmode (.s 8) 3) (labX 8 0x8) 2 = true ∧ traps (.setmode (.s 8) 3) (labX 8 0x4000000000000) 2 = true ∧
    nextAnd (exec (.getmode (.s 3) 1) lab) (fun t => t.me.r.x[3] == 0x40003) = true ∧
    nextAnd (exec (.setforme (.s 8) 5) (labX 8 0x2494844892)) (fun t => t.me.r.fm[5] == 0x2494844892) = true ∧
    traps (.setforme (.s 8) 5) (labX 8 0xA494844892) 3 = true ∧ traps (.setforme (.s 8) 5) (labX 8 0) 3 = true := by decide +kernel

/-- ROWS at both ends of its range and past them, PITCH at both ends and past them. -/
theorem test_tile_settings : nextAnd (exec (.settile (.s 8) (.s 9)) (labXY 8 65535 9 0x7FFFFFFFFFF)) (fun t =>
      t.me.r.rows == 65535 && t.me.r.pitch == 0x7FFFFFFFFFF && t.me.r.prog == 0) = true ∧
    nextAnd (exec (.settile (.s 8) (.s 9)) (labXY 8 1 9 0xFFFFF80000000000)) (fun t => t.me.r.rows == 1) = true ∧
    traps (.settile (.s 8) (.s 9)) (labXY 8 65536 9 0) 2 = true ∧ traps (.settile (.s 8) (.s 9)) (labXY 8 0 9 0) 2 = true ∧
    traps (.settile (.s 8) (.s 9)) (labXY 8 1 9 0x80000000000) 2 = true ∧
    traps (.settile (.s 8) (.s 9)) (labXY 8 1 9 0xFFFFF7FFFFFFFFFF) 2 = true ∧ okAnd (vectorEntry lab 2) (fun pc => pc == at_ 1 0x88) = true ∧
    (lab.me.r.frame[0x14]).getLsbD 0 = false := by decide +kernel

theorem test_state_registers : flagsPending lab = false ∧ drainWaits lab = false ∧
    nextAnd (exec (.gets (.s 3) 8) lab) (fun t => t.me.r.x[3] == 3 * 2 ^ 12) = true ∧
    nextAnd (exec (.gets (.s 3) 0x11) (labWith fun r => { r with fm := r.fm.set 1 9 })) (fun t => t.me.r.x[3] == 9) = true ∧
    nextAnd (exec (.gets (.s 3) 0x30) lab) (fun t => t.me.r.x[3] == 1) = true ∧
    nextAnd (exec (.gets (.s 3) 0x118) lab) (fun t => t.me.r.x[3] == 0x40000) = true ∧
    traps (.gets (.s 3) 0x43) lab 1 = true ∧ traps (.gets (.s 3) 0x1B1) lab 1 = true ∧ traps (.gets (.s 3) 0x0B) lab 1 = true ∧
    nextAnd (exec (.puts (.s 8) 0) (labX 8 0x80000)) (fun t => t.me.r.vl == 0x80000) = true ∧
    traps (.puts (.s 8) 0) (labX 8 0x80001) 2 = true ∧ traps (.puts (.s 2) 8) lab 5 = true ∧ traps (.puts (.s 2) 0x42) lab 5 = true ∧
    nextAnd (exec (.puts (.s 2) 6) (labWith fun r => { r with fflags := 0x45 })) (fun t => t.me.r.fflags == 0x40) = true ∧
    nextAnd (exec (.puts (.s 2) 0x102) (labWith fun r => { r with frame := r.frame.set 0x14 3 })) (fun t =>
      t.me.r.frame[2] == 7 && t.me.r.frame[0x14] == 1) = true := by decide +kernel

/-! ## Strips, END and traps -/

/-- A strip open with the watermark word at offset 16 of object 2. -/
def inStrip (w : Word) : State := labWith fun r => { r with fflags := 1, strip := { r.strip with isOpen := true, w := w, flags := 4 } }

theorem test_strips : nextAnd (exec (.strip (.s 0) (.s 2)) lab) (fun t => t.me.r.strip.isOpen && t.me.r.strip.b == 7) = true ∧
    nextAnd (exec (.strip (.s 1) (.s 2)) lab) (fun t => t.me.r.strip.isOpen && t.me.r.strip.w == at_ 2 16) = true ∧
    traps (.strip (.s 8) (.s 2)) (labX 8 (at_ 2 12)) 0x0B = true ∧ traps (.strip (.s 0) (.s 2)) (inStrip 0) 0x12 = true ∧
    traps (.proof (.s 2) 0) lab 0x12 = true ∧
    okAnd (accessElements lab 0 (at_ 2 16) 8) (fun es => contiguous es) = true ∧
    okAnd (accessElements lab 1 (at_ 2 16) 8) (fun es => contiguous es) = true ∧
    nextAnd (exec (.proof (.s 2) 0) (inStrip 0)) (fun t => !t.me.r.strip.isOpen && t.me.r.fflags == 5) = true ∧
    nextAnd (exec (.proof (.s 2) 0) (inStrip (at_ 2 16))) (fun t => readByte t.mem 0x30010 == 7 && t.me.r.strip.w == 0) = true := by
  decide +kernel

theorem test_end : nextAnd (exec .endHart lab) (fun t => !t.me.live && t.me.r.q.toList.all List.isEmpty && t.me.r.retired == 1) = true ∧
    traps .endHart (inStrip 0) 0x12 = true ∧ nextAnd (exec .endHart waiting) (fun t => t.me.r.pc == at_ 1 (0x80 + 4 * 0x18)) = true ∧
    (waiting.me.flights.find? (·.parked)).bind (·.why) = some (.queueEmpty 1) := by decide +kernel

/-- A hart in its handler. -/
def inTrap : State := labWith fun r => { r with
  pc := at_ 1 0x80, frame := (((r.frame.set 0x14 3).set 1 (at_ 1 4)).set 2 (at_ 1 4)).set 0x0C 9 }

theorem test_traps : okAnd (vectorEntry lab 0x1B) (fun pc => pc == at_ 1 (0x80 + 4 * 0x1B)) = true ∧ anyParked lab = false ∧
    nextAnd (exec (.trap 5) lab) (fun t => t.me.r.frame[0] == 0x1B && t.me.r.frame[2] == at_ 1 4 && t.me.r.frame[10] == 5) = true ∧
    waits (.trap 5) waiting .earlier = true ∧ (inTrap.me.r.frame[0x14]).getLsbD 0 = true ∧
    nextAnd (exec .brk inTrap) (fun t => (allHarts t).all fun h => h.ctx != 0 || h.hid == 0) = true := by decide +kernel

theorem test_hyp_TrapVector : lab.me.trapv.toNat % 2 ^ 44 + 8 * 31 < 2 ^ 44 ∧
    okAnd (scalarElements lab (whoMe lab) 0 (BitVec.ofNat 64 (lab.me.trapv.toNat + 8 * 31)) 8) (fun es =>
      (es.all fun e => !placeBad lab e.place) && readPlaces lab (es.map (·.place)) == 2 ^ 44 + 0xFC) = true := by decide +kernel

theorem test_trap_return : nextAnd (exec .eret inTrap) (fun t => t.me.r.pc == at_ 1 4 && t.me.r.vl == 9 && t.me.r.armed &&
      t.me.r.frame[0x14] == 2) = true ∧ traps .eret lab 5 = true := by decide +kernel

/-- TrapReturn: the stick comes back from TSTKL, TSTKS, TSTKF and TSTKCTL (R305, R308). -/
theorem test_trap_return_stick : anyParked inTrap = false ∧
    nextAnd (exec .eret (modRegs inTrap fun r => { r with frame := ((((r.frame.set 0xA1 0x700000005).set 0xA7 0x40).set 0xAC 3).set 0xAE
      (BitVec.ofNat 64 (1 + 2 <<< 1 + 9 <<< 4 + 6 <<< 11 + 5 <<< 16 + 8 <<< 19))).set 0xB0 (at_ 1 8) })) (fun t =>
        let k := t.me.r.stick
        k.count[1] == 5 && k.index[1] == 7 && k.stride[1] == 0x40 && k.firsts == 3 && k.active && k.lvm1 == 2 && k.len == 9 && k.walk == 6 &&
          k.flagLvl == 5 && k.pos == 8 && k.pc == at_ 1 8) = true := by decide +kernel

/-- A hart for which two asynchronous causes are held. -/
def withCauses : State := { lab with me := { lab.me with asyncs := [{ code := 9, info := 3, elem := 0 }, { code := 4, info := 2, elem := 1 }] } }

theorem test_async : nextAnd (exec .asyncTrap withCauses) (fun t => t.me.r.frame[0] == 0x104 && t.me.r.frame[10] == 2 &&
      t.me.asyncs.length == 1) = true ∧
    nextAnd (exec .asyncTrap lab) (fun t => t.me.r.pc == at_ 1 0) = true := by decide +kernel

/-- A hart that may swap, beside a clean shadow bank that holds another one. -/
def swapping : State :=
  let s := modCore lab 0 fun c => { c with shadow := .clean }
  { s with me := { s.me with rswap := true }, rest := [{ Hart.idle with hid := 7, bank := .shadow, ctx := 1 }] }

theorem test_bank_swap : nextAnd (exec .swapctx swapping) (fun t => t.me.bank == .shadow && t.me.r.pc == at_ 1 4 &&
      (getCore t 0).swaps == 1 && t.rest.any fun h => h.hid == 7 && h.bank == .active) = true ∧
    traps .swapctx lab 5 = true ∧ traps .swapctx { lab with me := { lab.me with rswap := true } } 0x1A = true ∧
    nextAnd (exec .spillwait swapping) (fun t => t.me.r.pc == at_ 1 4) = true ∧
    waits .spillwait (modCore swapping 0 fun c => { c with shadow := .spilling }) .bank = true := by decide +kernel

theorem test_flags_and_counters : nextAnd (exec (.flagclr (.s 3) (.s 2)) (labWith fun r => { r with fflags := 0x45 })) (fun t =>
      t.me.r.x[3] == 0x45 && t.me.r.fflags == 0x40) = true ∧
    flagsPending waiting = true ∧ waits (.flagclr (.s 3) (.s 2)) waiting .earlier = true ∧
    nextAnd (exec (.ctrrd (.s 3) (.s 8)) (modRegs (labX 8 1) fun r => { r with retired := 5 })) (fun t => t.me.r.x[3] == 5) = true ∧
    nextAnd (exec (.ctrrd (.s 3) (.s 0)) lab) (fun t => t.me.r.pc == at_ 1 4) = true ∧
    traps (.ctrrd (.s 3) (.s 8)) (labX 8 9) 2 = true := by decide +kernel

/-! ## Scalar memory -/

/-- LoadResults, StoreResults, AtomicResults: the accesses translate, their data is clean, and they complete. -/
theorem test_hyp_scalar_memory : okAnd (readSrc (.s 1) lab) (fun b => b.1 == at_ 2 16 &&
      okAnd (accessElements b.2 0 (at_ 2 24) 8) (fun es => es.all fun e => !placeBad b.2 e.place) &&
      okAnd (accessElements b.2 1 (at_ 2 24) 8) (fun es => (linesOf 2 es).length == 1) &&
      okAnd (accessElements b.2 2 (at_ 2 16) 8) (fun es => contiguous es && es.all fun e => !placeBad b.2 e.place)) = true ∧
    galleyOf (handleOf (at_ 2 16)) = none ∧ (lab.me.r.g[0]).getLsbD 48 = false := by decide +kernel

theorem test_load_extends : nextAnd (exec (.ldb (.s 3) (.s 1) 0 0xFF8) (marked 0x80)) (fun t => t.me.r.x[3] == 0) = true ∧
    nextAnd (exec (.ldb (.s 3) (.s 1) 0 0) (marked 0x80)) (fun t => t.me.r.x[3] == 0xFFFFFFFFFFFFFF80 && t.me.r.pc == at_ 1 4) = true ∧
    nextAnd (exec (.ldwu (.s 3) (.s 1) 0 0) (marked 0x80)) (fun t => t.me.r.x[3] == 0x80) = true := by decide +kernel

theorem test_store_bytes : nextAnd (exec (.sth (.s 6) (.s 1) 2 0) lab) (fun t => readByte t.mem 0x30012 == 0xFD &&
      readByte t.mem 0x30013 == 0xFF && readByte t.mem 0x30014 == 0 && readByte t.mem 0x30011 == 0) = true := by decide +kernel

/-- A slot with STRIPMODE. -/
def stripSlot (s : State) : State := modRegs s fun r => { r with g := r.g.set 0 0x1000000040000 }

theorem test_store_in_strip : nextAnd (exec (.std (.s 2) (.s 1) 0 0) (stripSlot (inStrip 0))) (fun t => t.mem == labMem &&
      t.me.r.strip.stores.length == 1) = true ∧ traps (.std (.s 2) (.s 1) 0 0) (stripSlot lab) 0x12 = true := by decide +kernel

theorem test_atomics : nextAnd (exec (.amomax (.s 3) (.s 1) (.s 2) 0) (marked 5)) (fun t => t.me.r.x[3] == 5 &&
      readByte t.mem 0x30010 == 7) = true ∧
    nextAnd (exec (.amocas (.s 2) (.s 1) (.s 6) 0) (marked 7)) (fun t => t.me.r.x[2] == 7 && readByte t.mem 0x30010 == 0xFD) = true ∧
    nextAnd (exec (.amocas (.s 2) (.s 1) (.s 6) 0) (marked 8)) (fun t => t.me.r.x[2] == 8 && readByte t.mem 0x30010 == 8) = true := by
  decide +kernel

theorem test_misaligned : traps (.ldd (.s 3) (.s 1) 0 4) lab 0x0B = true ∧ traps (.sth (.s 2) (.s 1) 1 0) lab 0x0B = true ∧
    traps (.ldb (.s 3) (.s 1) 0 0xFEF) lab 6 = true ∧ traps (.stb (.s 2) (.s 8) 1 0) (labX 8 (at_ 2 (2 ^ 44 - 1))) 6 = true := by
  decide +kernel

/-- A hart with a store that has issued and not performed. -/
def stored : State := match exec (.std (.s 2) (.s 1) 0 0) { lab with me := { lab.me with defer := true } } with
  | .next t => t
  | _ => lab

theorem test_performs : nextAnd (exec (.memoryOpPerform 1 1) stored) (fun t => readByte t.mem 0x30010 == 7 && t.me.flights.isEmpty) = true ∧
    stored.mem = labMem ∧ (stored.me.flights.map (canPerform stored stored.me)) = [true] ∧ (hartOf stored 1).isSome = true ∧
    (stored.me.flights.all fun f => (dataTrap stored f).isNone && (mmauTrap stored stored.me f).isNone) = true := by
  decide +kernel

/-- The same store behind a buffered one through the same handle, to the bytes from 0x3000E on. -/
def storedBehind : State := modMe stored fun h => { h with
  flights := h.flights.map fun f => { f with seq := 6, scope := 0 }
  r := { h.r with strip := { h.r.strip with isOpen := true, stores := h.flights.map fun f =>
    { seq := 0, stream := 0, pmask := 0, scope := 0, spans := f.spans, lines := [],
      writes := [({ core := none, addr := 0x3000E, bit := 0, bits := 32 }, 0xDDCCBBAA)] } } } }

/-- OperationsPerform: what is left of the buffered store are the bits that the store which has performed does not cover (R277). -/
theorem test_performs_behind : (storedBehind.me.flights.map fun f => (ownStores storedBehind.me f).length) = [1] ∧
    nextAnd (exec (.memoryOpPerform 1 6) storedBehind) (fun t => readByte t.mem 0x30010 == 7 && t.me.perf[0] == storedBehind.me.perf[0] + 1 &&
      (t.me.r.strip.stores.map fun x => (x.writes.map fun w => (w.1.addr, w.1.bit)).eraseDups) ==
        [(List.range 16).map fun j => (0x3000E + j / 8, j % 8)]) = true := by decide +kernel

/-! ## The vector stream -/

/-- VL 3, with elements in v4 and v8, index elements in v12, a mask in m1 and one active element in m0. -/
def labV : State := labWith fun r => { r with
  vl := 3, v := ((r.v.set 4 (BitVec.ofNat _ (5 + 6 * 2 ^ 32 + 0xFFFFFFFF * 2 ^ 64))).set 8
    (BitVec.ofNat _ (2 + 0 * 2 ^ 32 + 3 * 2 ^ 64))).set 12 (BitVec.ofNat _ (2 + 1 * 2 ^ 32 + 9 * 2 ^ 64)),
  m := (r.m.set 1 5).set 0 1, q := r.q.set 1 [1] }

/-- The elements 0 to 2 of v2, of 32 bits. -/
def three (o : Out) : List Nat :=
  match o with
  | .next t => (List.range 3).map (getElem t.me.r (.v 2) 4 32)
  | _ => []

theorem test_hyp_vector_stream : labV.me.replay.isNone = true ∧ anyParked labV = false ∧ okAnd (dispatchEnv labV 1 none none) (fun env =>
    let c := vctx labV env
    okAnd (operand (.v 2) tVW c.f) (fun _ => true) && okAnd (operand (.w 1) tS c.f) (fun _ => true) && okAnd (vcheck c tyFI true) (fun _ => true) &&
    okAnd (wLimit c (.w 2)) (fun _ => true) && okAnd (maskOperand (.m 1) (predCount c.f c.b)) (fun _ => true) && c.et == 3 && c.vl == 3 &&
    okAnd (takeSrc (.q 1) c.b labV) (fun p => okAnd (useRegs p.2 env.seq (regsOf (.v 2) c.f ++ regsOf (.v 4) c.f)) fun _ => true) &&
    okAnd (vcheck c tyFI false) (fun _ => true) && !okAnd (vcheck c tyF false) (fun _ => true) &&
    !okAnd (operand (.z 2) tVW c.f) (fun _ => true)) = true := by decide +kernel

theorem test_elementwise : three (exec (.vadd false 1 (.v 2) (.v 4) (.v 8)) labV) = [7, 6, 2] ∧
    three (exec (.vdiv false 1 (.v 2) (.v 4) (.v 8)) labV) = [2, 0xFFFFFFFF, 0] ∧
    three (exec (.vmin false 1 (.v 2) (.v 4) (.q 1)) labV) = [1, 1, 0xFFFFFFFF] ∧
    traps (.vsqrt false 1 (.v 2) (.v 4)) labV 4 = true ∧ traps (.vadd false 1 (.z 2) (.v 4) (.v 8)) labV 1 = true := by decide +kernel

/-- ElementValues: every type of its clauses, with elements of the kinds they name. -/
theorem test_hyp_ElementValues : decodeVal 0 0x7FC00000 = .nan false ∧ decodeVal 0 0x7F800001 = .nan true ∧ decodeVal 1 0x7C00 = .inf false ∧
    decodeVal 1 0xFC00 = .inf true ∧ (match decodeVal 2 0x3F80 with | .fin false n _ => n != 0 | _ => false) = true ∧
    (match decodeVal 0 0x80000000 with | .fin _ n _ => n == 0 | _ => false) = true := by decide +kernel

theorem test_compare_select_convert : nextAnd (exec (.vcmplt false 1 (.m 3) (.v 4) (.v 8)) labV) (fun t => t.me.r.m[3] == 4) = true ∧
    three (exec (.vsel 3 (.v 2) (.v 4) (.v 8)) (modRegs labV fun r => { r with g := r.g.set 3 0x40903 })) = [5, 0, 0xFFFFFFFF] ∧
    three (exec (.vcvt false 0 (.v 2) (.v 4)) (modRegs labV fun r => { r with g := r.g.set 0 0x80000040000 })) =
      [0x40A00000, 0x40C00000, 0xBF800000] := by decide +kernel

theorem test_moves : three (exec (.vmv false 1 (.v 2) (.q 1)) labV) = [1, 1, 1] ∧
    three (exec (.vbcast false 1 (.v 2) (.v 4)) labV) = [5, 5, 5] ∧
    nextAnd (exec (.vmv false 1 (.z 1) (.v 4)) labV) (fun t => getZ t.me.r 1 4 1 == 6) = true ∧
    nextAnd (exec (.vmv false 1 (.m 2) (.m 1)) labV) (fun t => t.me.r.m[2] == 5) = true ∧
    nextAnd (exec (.vmv false 3 (.v 2) (.m 1)) (modRegs labV fun r => { r with g := r.g.set 3 0x40006 })) (fun t =>
      t.me.r.v[2] == 5) = true ∧
    nextAnd (exec (.vextract 1 (.q 5) (.v 4)) labV) (fun t => t.me.r.q[5] == [5]) = true := by decide +kernel

theorem test_permutes : three (exec (.vslideup false 1 (.v 2) (.v 4) (.q 1)) labV) = [0, 5, 6] ∧
    three (exec (.vslidedn false 1 (.v 2) (.v 4) (.q 1)) labV) = [6, 0xFFFFFFFF, 0] ∧
    three (exec (.vperm false 1 (.v 2) (.v 4) (.v 12)) labV) = [0xFFFFFFFF, 6, 0] ∧
    three (exec (.vexpand false 1 (.v 2) (.v 4) (.m 1)) labV) = [5, 0, 6] ∧
    nextAnd (exec (.vcompress false 1 (.v 2) (.v 4) (.m 1)) (modRegs labV fun r => { r with q := r.q.set 4 [] })) (fun t =>
      t.me.r.q[4] == [2] && getElem t.me.r (.v 2) 4 32 1 == 0xFFFFFFFF) = true ∧
    three (exec (.viota false 1 (.v 2) (.m 1)) labV) = [0, 1, 1] ∧ three (exec (.viota false 1 (.v 2) .none) labV) = [0, 1, 2] ∧
    three (exec (.vconflict false 1 (.v 2) (.v 2)) (modRegs labV fun r => { r with v := r.v.set 2 (BitVec.ofNat _ (7 + 7 * 2 ^ 64)) })) =
      [0, 1, 0] := by decide +kernel

theorem test_reductions : three (exec (.vredsum false 1 (.v 2) (.v 4)) labV) = [10, 0, 0] ∧
    nextAnd (exec (.vredmin false 1 (.q 5) (.v 4)) labV) (fun t => t.me.r.q[5] == [0xFFFFFFFFFFFFFFFF]) = true ∧
    nextAnd (exec (.vredmax false 1 (.q 5) (.v 4)) (modRegs labV fun r => { r with vl := 0 })) (fun t =>
      t.me.r.q[5] == [0xFFFFFFFF80000000]) = true := by decide +kernel

theorem test_masks : nextAnd (exec (.mandn false 1 (.m 2) (.m 1) (.m 0)) labV) (fun t => t.me.r.m[2] == 4) = true ∧
    nextAnd (exec (.mset false 1 (.m 2)) labV) (fun t => t.me.r.m[2] == 7) = true ∧
    nextAnd (exec (.mpop false 1 (.q 5) (.m 1)) labV) (fun t => t.me.r.q[5] == [2]) = true ∧
    nextAnd (exec (.mfirst false 1 (.q 5) (.m 2)) labV) (fun t => t.me.r.q[5] == [0xFFFFFFFFFFFFFFFF]) = true := by decide +kernel

/-! ## Vector memory -/

/-- The address of object 3 in s4 and three words of its image. -/
def labL : State := { modRegs labV (fun r => { r with v := r.v.set 16 (BitVec.ofNat _ (8 + 4 * 2 ^ 32 + 8 * 2 ^ 64)) }) with
  mem := writeBytes labMem 0x40008 [5, 0, 0, 0, 0xFE, 0xFF, 0xFF, 0xFF, 7] }

theorem test_hyp_vector_memory : okAnd (dispatchEnv labL 1 (some (.s 4)) none) (fun env => okAnd (accessSrc (.s 4) env.a labL) fun b =>
    let c := vctx labL env
    okAnd (accessChecks unitStride c env (.v 2) [0, 1, 5] (List.range 8) true [.s 4]) (fun _ => true) &&
    okAnd (accessChecks (indexMode (.v 16)) c env (.v 4) [0] (List.range 7) false [.s 4]) (fun _ => true) &&
    okAnd (probeEach b.2 env env.vstart b.1 0 c.et true (activeElems b.2.me.r c.lanes c.slot 0 env.vl)
      (fun t => loadPair c.et (t.fmt c.et) && galleyPair t c.b) (elemAddr unitStride b.2.me.r c env b.1 0) false) (fun p =>
        p.fault.isNone && p.good.length == 3) &&
    okAnd (probeEach b.2 env env.vstart b.1 1 c.et false (activeElems b.2.me.r c.lanes c.slot 0 env.vl)
      (fun t => t.fmt c.et == c.et && galleyPair t c.b) (elemAddr unitStride b.2.me.r c env b.1 0) false) (fun p =>
        p.fault.isNone && (linesOf 3 p.elements).length == 1) &&
    okAnd (probeEach b.2 env env.vstart b.1 2 c.et true (activeElems b.2.me.r c.lanes c.slot 0 env.vl) (fun t => t.fmt c.et == c.et)
      (elemAddr (indexMode (.v 16)) b.2.me.r c env b.1 0) false) (fun p => p.fault.isNone && p.good.length == 3)) = true := by
  decide +kernel

theorem test_loads : three (exec (.vld false 1 (.v 2) (.s 4)) labL) = [5, 0xFFFFFFFE, 7] ∧
    three (exec (.vlds false 1 (.v 2) (.s 4) (.s 8)) (modRegs labL fun r => { r with x := r.x.set 8 4 })) = [5, 0xFFFFFFFE, 7] ∧
    three (exec (.vldx false 1 (.v 2) (.s 4) (.v 16)) labL) = [7, 0xFFFFFFFE, 7] ∧
    three (exec (.vldt false 1 (.v 2) (.s 4)) (modRegs labL fun r => { r with rows := 2, pitch := 4 })) = [5, 0xFFFFFFFE, 7] := by
  decide +kernel

/-- The bytes of main memory from 0x40008 on, after an instruction. -/
def image (o : Out) : List Nat :=
  match o with
  | .next t => (List.range 3).map fun i => readPlace t { core := none, addr := 0x40008 + 4 * i, bit := 0, bits := 32 }
  | _ => []

theorem test_stores : image (exec (.vst false 1 (.v 4) (.s 4)) labL) = [5, 6, 0xFFFFFFFF] ∧
    image (exec (.vstx false 1 (.v 4) (.s 4) (.v 16)) labL) = [5, 6, 0xFFFFFFFF] ∧
    image (exec (.vamoadd false 1 (.v 4) (.s 4) (.v 16)) labL) = [5, 4, 11] ∧
    traps (.vst false 3 (.v 4) (.s 4)) (modRegs labL fun r => { r with g := r.g.set 3 0x1000000040003 }) 0x12 = true := by decide +kernel

theorem test_broadcast : nextAnd (exec (.vldb 1 (.w 2) (.s 4)) labL) (fun t => (List.range 4).all fun l =>
      getLaneW t.me.r 2 4 l 0 32 == 5 && getLaneW t.me.r 2 4 l 64 32 == 7) = true ∧
    okAnd (dispatchEnv labL 1 (some (.s 4)) none) (fun env => okAnd (accessSrc (.s 4) env.a labL) fun b =>
      let c := vctx labL env
      c.f == 1 && decide (c.vl ≤ 4096 / c.b) && predOk c.slot 1 c.b &&
      okAnd (probeEach b.2 env env.vstart b.1 0 c.et true (activeElems b.2.me.r c.lanes c.slot env.vstart env.vl)
        (fun t => vldbPair t c.et (slotSparse c.slot)) (fun u e => effAddr? b.1 (e * u : Nat)) true) fun p => p.fault.isNone) = true := by
  decide +kernel

/-! ## Matrix instructions -/

/-- VL 1 with one word active under slot 2, and a word in each of v4, v6 and w1; the side block stands at v8 under slot 3. -/
def labW : State := labWith fun r => { r with
  vl := 1, m := r.m.set 0 1, v := (r.v.set 4 (BitVec.ofNat _ (3 + 2 * 2 ^ 18))).set 6 0, w := r.w.set 1 (BitVec.ofNat _ (5 + 2 ^ 36)),
  g := (r.g.set 3 0x80000040807).set 4 0x40000 }

/-- The forme of the tests: w 18, M 2, N 2, K 3, INT8. -/
theorem test_forme_accepted : formeAccepted 0x2494844892 := by
  unfold formeAccepted
  decide +kernel

theorem test_forme : fW 0x2494844892 = 18 ∧ fM 0x2494844892 = 2 ∧ fN 0x2494844892 = 2 ∧
    fK 0x2494844892 = 3 ∧ slotCount 0x2494844892 = 20 ∧ sfmtInt 0x2494844892 = true := by decide +kernel

theorem test_hyp_matrix : okAnd (dispatchEnv labW 2 none none) (fun env =>
    let c := vctx labW env
    let t := tileOf c.lanes c.slot env.forme env.vl
    okAnd (matChecks c env [7]) (fun _ => true) && okAnd (tileChecks t env 16 0) (fun _ => true) && c.vl == 1 && c.f == 1 &&
    okAnd (mmaCompute t env.vl 0 (takingPart labW.me.r t c.slot) (regOpA labW.me.r (.v 4) t)
      (fun l j => getWord labW.me.r (.w 1) c.lanes l j) none labW.me.r) (fun o => o.tile.length == 4) &&
    (c.active labW.me.r).all fun p => (failingSlot env.forme
      (operandA env.forme (wordAt labW.me.r (.v 4) c.lanes p) * operandB env.forme (wordAt labW.me.r (.w 1) c.lanes p))).isNone) = true ∧
    okAnd (dispatchEnv labW 3 none none) (fun env =>
      let c := vctx labW env
      let t := tileOf c.lanes c.slot env.forme env.vl
      okAnd (tileChecks t env 15 0) (fun _ => true) && t.base == 8 && t.sideOk 0 (regsOf (.v 4) 1) && t.sideOk 0 [(2, 1)]) = true := by
  decide +kernel

/-- By hand: operand A has 3 in field 0 and 2 in field 1, operand B 5 in field 0 and 1 in field 2, so the slot of
the first useful sum, slot 2, holds 3 x 1, and slot 1 holds 2 x 5. -/
theorem test_word_product : nextAnd (exec (.vwmul false 2 (.v 2) (.v 4) (.w 1)) labW) (fun t =>
      getLane t.me.r 2 4 0 0 256 == 15 + 10 * 2 ^ 18 + 3 * 2 ^ 36 + 2 * 2 ^ 54) = true ∧
    nextAnd (exec (.mma false 2 (.z 0) (.v 4) (.w 1)) labW) (fun t => tileAt t.me.r 0 4 0 0 == 3 && tileAt t.me.r 0 4 0 1 == 0) = true := by
  decide +kernel

theorem test_more_matrix : nextAnd (exec (.vextf false 2 (.v 2) (.v 4)) labW) (fun t => t.me.r.pc == at_ 1 4) = true ∧
    nextAnd (exec (.vpack false 2 (.v 2) (.v 12)) (modRegs labW fun r => { r with v := r.v.set 12 (BitVec.ofNat _ (7 + 300 * 2 ^ 32)) }))
      (fun t => getLane t.me.r 2 4 0 0 36 == 7 + 44 * 2 ^ 18) = true ∧
    nextAnd (exec (.vunpack false 2 (.v 2) (.v 4)) labW) (fun t => getLane t.me.r 2 4 0 0 64 == 3 + 2 * 2 ^ 32) = true ∧
    nextAnd (exec (.mmas false 3 (.z 0) (.v 4) (.w 1)) labW) (fun t => tileAt t.me.r 0 4 0 0 == 3) = true ∧
    nextAnd (exec (.msums false 3 (.z 0) (.v 4)) labW) (fun t => getLane t.me.r 8 4 0 32 32 == 5) = true ∧
    nextAnd (exec (.msums false 3 (.z 0) (.w 1)) labW) (fun t => t.me.r.pc == at_ 1 4) = true ∧
    nextAnd (exec (.mzero 2 (.z 1)) labW) (fun t => t.me.r.z[1] == 0 && t.me.r.pc == at_ 1 4) = true ∧
    traps (.mzero 2 (.v 1)) labW 1 = true := by decide +kernel

/-- A tile of one column word, drained as FP32. -/
theorem test_drain : nextAnd (exec (.drain 4 (.v 2) (.z 0)) (modRegs labW fun r => { r with z := r.z.set 0 3 })) (fun t =>
      getLane t.me.r 2 4 0 0 32 == 0x40400000 && getLane t.me.r 2 4 1 0 32 == 0) = true ∧
    okAnd (dispatchEnv labW 4 none none) (fun env =>
      let c := vctx labW env
      let t := tileOf c.lanes c.slot env.forme env.vl
      okAnd (drainChecks c env t [0, 1, 2, 20, 21] 0) (fun _ => true) && t.count == 64 && drainSides t [0] (runRegs 2 1)) = true := by
  decide +kernel

theorem test_hyp_quantise : okAnd (dispatchEnv (modRegs labW fun r => { r with g := r.g.set 4 0x40010 }) 4 none none) (fun env =>
      let c := vctx labW env
      let t := tileOf c.lanes c.slot env.forme env.vl
      okAnd (drainChecks c env t [16, 18, 20, 21, 22, 23, 24] 0) (fun _ => true) && quantRegs t false c.et == (1, 1) &&
        quantRegs t true c.et == (1, 1)) = true := by decide +kernel

/-- Galley 3, full, of 8-bit elements, and the unfold descriptor of lane 0 in w7: four channels over 2 x 2 positions of elements. -/
def labU : State :=
  let s := labWith fun r => { r with vl := 1, m := r.m.set 0 1, w := (r.w.set 1 (BitVec.ofNat _ 1)).set 7 (BitVec.ofNat _
    (3 + 4 * 2 ^ 32 + 2 * 2 ^ 64 + 2 * 2 ^ 80 + 2 * 2 ^ 96 + 2 ^ 128 + 2 ^ 136 + 2 ^ 144 + 2 ^ 148 + 2 ^ 152 + 2 ^ 156)) }
  modCore s 0 fun c => { c with galleys := c.galleys.set 3 (BitVec.ofNat 64 (2 ^ 11 + 2 ^ 25 + 3 * 2 ^ 29)), scratch := [(0, 6), (1, 2), (2, 9)] }

theorem test_mmau : nextAnd (exec (.mmau false 2 (.z 0) .none (.w 1)) labU) (fun t => t.me.flights.isEmpty && t.me.r.pc == at_ 1 4) = true ∧
    okAnd (dispatchEnv labU 2 none none) (fun env => (takingPart labU.me.r (tileOf 4 env.slot env.forme 1) env.slot == [(0, 0)]) &&
      !unfoldBad (unfoldField labU.me.r 4 0 0) 0 && unfoldGalleyOk env.forme env.slot (galley labU 0 3)) = true := by decide +kernel

/-! ## Packed accesses, copies, galleys and barriers -/

/-- PackedAccesses: one word packed from an object of bytes, ROLE 0, KLEN 3, two rows 16 bytes apart. -/
def labP : State := modRegs { labW with mem := writeBytes labMem 0x30010 [1, 2, 3] } fun r => { r with
  x := r.x.set 8 (BitVec.ofNat 64 (3 * 2 ^ 8 + 16 * 2 ^ 28)), v := r.v.set 6 (BitVec.ofNat _ (9 + 8 * 2 ^ 18 + 7 * 2 ^ 36)) }

theorem test_packed_accesses : nextAnd (exec (.vldpk false 2 (.v 2) (.s 1) (.s 8)) labP) (fun t =>
      getLane t.me.r 2 4 0 0 54 == 1 + 2 * 2 ^ 18 + 3 * 2 ^ 36) = true ∧
    nextAnd (exec (.vstpk false 2 (.v 6) (.s 1) (.s 8)) labP) (fun t => readBytes t.mem 0x30010 4 == [9, 8, 7, 0]) = true := by
  decide +kernel

theorem test_hyp_PackedAccesses : okAnd (dispatchEnv labP 2 (some (.s 1)) (some (.s 8))) (fun env =>
    let c := vctx labP env
    c.et == 7 && decide (env.forme ≠ 0) && decide (c.vl ≤ vlmaxBits c.lanes c.f c.b) && field env.b 1 7 == 0 && pkLen env.b == 3 &&
    activeElems labP.me.r c.lanes c.slot env.vstart env.vl == [0] &&
    [0, 1].all (fun kind => okAnd (openTarget labP 2 kind (kind == 0) 0 (some env.a) (packTargetOk env.forme (pkRole env.b) 0)) fun t =>
      (probeAll (fun j => ((pkFields env.forme false 3 1 j).filterMap (·.2)).map fun q => probeOne labP t 2 kind 16 (kind == 0)
        (pkAddr env.a env.b 1 q)) [0]).2.isNone)) = true := by decide +kernel

/-- PackedWordsRead: a product whose slots are legal, one with a slot past its end, and values that fit their fields. -/
theorem test_hyp_PackedWordsRead : 4 ≤ fW 0x2494844892 ∧ failingSlot 0x2494844892 (65535 - 65536 * 2 ^ 18) = none ∧
    slotValue 0x2494844892 (65535 - 65536 * 2 ^ 18) 1 = -65536 ∧ failingSlot 0x2494844892 (65536 * 2 ^ 18) = some 1 ∧
    fSigned 0x2494844892 = true ∧ fW 0x2494844892 * 3 ≤ 256 ∧
    unpackField 0x2494844892 (packWord 0x2494844892 [(0, -131072), (1, 131071)]) 0 = -131072 := by decide +kernel

/-- A copy of four INT32 elements within object 3, and a COLL of them on communicator 5 as rank 0 of 2; rank 1 is at node 1, behind
port 2. -/
def labC (coll : Bool) : State :=
  let l : Vector Word 16 := ((((Vector.replicate 16 0).set 0 (at_ 3 8)).set 1 (at_ 3 0x100)).set 2
    (BitVec.ofNat 64 (4 + 2 ^ 16 + 2 ^ 32 + 2 ^ 48))).set 3 1 |>.set 5 1
  let l := if coll then (l.set 10 (BitVec.ofNat 64 (2 * 2 ^ 21))).set 11 5 else l
  let s := labWith fun r => { r with c := l }
  { s with mem := writeBytes (writeBytes (writeBytes labL.mem 0x70000 (bytesOf 8 5 ++ bytesOf 8 (2 + 2 ^ 16) ++ bytesOf 8 0x710)) 0x71004 [1])
             0x72002 [2, 0x80], stlRtab := 0x720, ports := s.ports.set 2 { Port.reset with ctl := Port.reset.ctl ||| 1, st := 2, width := 8 },
           unit := { s.unit with commtab := BitVec.ofNat 64 (0x700 + 2 ^ 39) } }

theorem test_copy_registers : nextAnd (exec (.cset (.s 2) 9) lab) (fun t => t.me.r.c[9] == 7) = true ∧
    nextAnd (exec (.cget (.s 3) 1) (labC false)) (fun t => t.me.r.x[3] == at_ 3 0x100) = true := by decide +kernel

theorem test_hyp_copy_launches : badCopy (labC false) (whoMe (labC false)) 0xFFFFFFFF 0 4 (labC false).me.r.c 0x40000 true = false ∧
    badCopy lab (whoMe lab) 0xFFFFFFFF 0 4 lab.me.r.c 0x40000 true = true ∧ badColl (labC true) (whoMe (labC true)) 0 4 (labC true).me.r.c = false ∧
    badColl lab (whoMe lab) 0 4 lab.me.r.c = true ∧ okAnd (launchGalley (labC false) (at_ 3 8) false) (fun g => g.isNone) = true ∧
    collRegs (labC true).me.r.c 4 (collWidth (labC true) (whoMe (labC true)) 0 (labC true).me.r.c) = [] := by
  decide +kernel

/-- The state after a launch. -/
def launched (coll : Bool) : State := match exec (if coll then .coll (.s 3) (.s 10) 0 else .claunch (.s 3) (.s 10) 0) (labC coll) with
  | .next t => t
  | _ => lab

theorem test_launches : (launched false).me.r.x[3] = 1 ∧ (launched false).transfers.map (·.tid) = [1] ∧ pendingX (launched false) 10 = true ∧
    (launched true).me.r.x[3] = 1 ∧ (launched true).colls.map (·.comm) = [5] ∧
    nextAnd (exec (.claunch (.s 3) (.s 10) 0) lab) (fun t => t.me.r.x[10] == 0x119 && t.transfers.isEmpty) = true ∧
    nextAnd (exec (.ccancel (.s 3) (.s 8)) (modRegs (launched false) fun r => { r with x := r.x.set 8 1 })) (fun t =>
      t.me.r.x[3] == 1 && t.transfers.map (·.cancelled) == [true]) = true := by decide +kernel

theorem test_copy_engine : nextAnd (exec (.copyBlock 1 0) (launched false)) (fun t =>
      readBytes t.mem 0x40100 8 == [5, 0, 0, 0, 0xFE, 0xFF, 0xFF, 0xFF] && nextAnd (exec (.copyEnd 1) t) fun u => u.transfers.isEmpty && u.me.r.x[10] == 0x100) = true := by
  decide +kernel

theorem test_collective : (participant (launched true) 5 0 0).isSome = true ∧
    nextAnd (exec (.collReady 5 0 0 ([], [])) (launched true)) (fun t => t.colls.map (·.ready) == [[0]]) = true ∧
    nextAnd (exec (.collAbort 5 0 1) (launched true)) (fun t => t.colls.map (·.decided) == [some false] &&
      nextAnd (exec (.collDecision 1 0) t) fun u => u.transfers.isEmpty && u.me.r.x[10] == 0x105) = true := by decide +kernel

/-- Galley 3 declared as the descriptor says, owned by context 0. -/
def labG (state : Nat) : State := modCore lab 0 fun c =>
  { c with galleys := c.galleys.set 3 (BitVec.ofNat 64 (2 ^ 11 + 2 ^ 25 + state * 2 ^ 29)), sync := c.sync.set 3 0x0001000000000005 }

theorem test_galleys : nextAnd (exec (.gdecl (.s 8) (.s 9)) (labXY 8 4 9 (BitVec.ofNat 64 (2 ^ 11 + 2 ^ 25)))) (fun t =>
      gState (galley t 0 4) == 1) = true ∧
    traps (.gdecl (.s 8) (.s 9)) (labXY 8 4 9 0) 0x11 = true ∧ badGalley lab 0 4 (BitVec.ofNat 64 (2 ^ 11 + 2 ^ 25)) = false ∧
    nextAnd (exec (.gstate (.s 3) (.s 8) (.s 9)) (modRegs (labG 3) fun r => { r with x := (r.x.set 8 3).set 9 1 })) (fun t =>
      gState (galley t 0 3) == 1 && t.me.r.x[3] == galley t 0 3) = true ∧
    traps (.gstate (.s 3) (.s 8) (.s 9)) (modRegs (labG 1) fun r => { r with x := (r.x.set 8 3).set 9 4 }) 0x10 = true ∧
    traps (.gstate (.s 3) (.s 8) (.s 9)) (labXY 8 3 9 1) 8 = true ∧
    nextAnd (exec (.gfree (.s 8)) (modRegs (labG 3) fun r => { r with x := r.x.set 8 3 })) (fun t => galley t 0 3 == 0) = true ∧
    nextAnd (exec (.syncwait (.s 3) (.s 8) (.s 9) 0) (modRegs (labG 3) fun r => { r with x := (r.x.set 8 3).set 9 1 })) (fun t =>
      t.me.r.x[3] == 0x0001000000000005) = true ∧
    waits (.syncwait (.s 3) (.s 8) (.s 9) 0) (modRegs (labG 3) fun r => { r with x := (r.x.set 8 3).set 9 2 }) (.sync 3) = true ∧
    nextAnd (exec (.syncinit (.s 8) (.s 9)) (modRegs (labG 3) fun r => { r with x := (r.x.set 8 3).set 9 2 })) (fun t =>
      (getCore t 0).sync[3] == 2) = true := by decide +kernel

theorem test_hyp_GalleyResults : (labG 3).me.gmask.getLsbD 3 = true ∧ gState (galley (labG 3) 0 3) = 3 ∧
    gOwner (galley (labG 3) 0 3) = (labG 3).me.ctx ∧ galleyBusy (labG 3) 0 3 true = false ∧ galleyBusy (labG 3) 0 3 false = false ∧
    accessTo 3 (labG 3).me = false ∧ okAnd (dstReady (.s 3) (labG 3)) (fun _ => true) = true ∧
    okAnd (dstReady (.s 10) (launched false)) (fun _ => true) = false := by decide +kernel

/-- A node of context 0 in a given state, with a group 3 of harts 0 and 1. -/
def aNode (id : Nat) (st : NodeState) (record : Vector Word 16) (arrived : List Nat) : Node :=
  { ctx := 0, id := id, record := record, counter := 1, anyReal := true, st := st, ended := 0,
    groups := [(3, { members := [0, 1], arrived := arrived, ended := [], phase := 4 })], branch := false, status := 0, flags := 0, slices := 0 }

def labB (arrived : List Nat) : State :=
  { labWith (fun r => { r with x := (r.x.set 8 3).set 9 4 }) with unit := { lab.unit with nodes := [aNode 0 .running (Vector.replicate 16 0) arrived] } }

theorem test_barriers : nextAnd (exec (.garrive (.s 3) (.s 8) 0) (labB [])) (fun t => t.me.r.x[3] == 4 &&
      t.unit.nodes.map (fun n => n.groups.map fun g => g.2.arrived) == [[[0]]]) = true ∧
    nextAnd (exec (.garrive (.s 3) (.s 8) 0) (labB [1])) (fun t => t.unit.nodes.map (fun n => n.groups.map fun g => (g.2.arrived, g.2.phase)) ==
      [[([], 5)]]) = true ∧
    nextAnd (exec (.gbar (.s 8) 0) (labB [1])) (fun t => t.me.r.pc == at_ 1 4 && t.me.r.token == 0) = true ∧
    nextAnd (exec (.gbar (.s 8) 0) (labB [])) (fun t => t.me.r.pc == at_ 1 0 && t.me.wait == some .phase &&
      t.me.r.token == 0x1000403) = true ∧
    waits (.gwait (.s 8) (.s 9) 0) (labB []) .phase = true ∧
    nextAnd (exec (.gwait (.s 8) (.s 2) 0) (modRegs (labB []) fun r => { r with x := r.x.set 2 3 })) (fun t => t.me.r.pc == at_ 1 4) = true ∧
    traps (.garrive (.s 3) (.s 9) 0) (labB []) 0x19 = true ∧ traps (.gwait (.s 8) (.s 1) 0) (labB []) 2 = true := by decide +kernel

theorem test_hyp_BarrierResults : (findNode (labB []) 0 0).isSome = true ∧ (labB []).me.launch = 0 ∧
    (labB []).me.r.token.getLsbD 24 = false := by decide +kernel

/-- A hart that holds the table right. -/
def labT : State := { lab with me := { lab.me with rtable := true } }

theorem test_invalidation_and_move : nextAnd (exec (.icinv (.s 10) (.s 1) (.s 2) 0) lab) (fun t => t.transfers.map (·.kind) == [.icinv] &&
      pendingX t 10) = true ∧
    traps (.icinv (.s 10) (.s 8) (.s 9) 0) (labXY 8 (at_ 2 (2 ^ 44 - 1)) 9 2) 6 = true ∧
    nextAnd (exec (.orcinv (.s 10) (.s 1) 0) lab) (fun t => t.transfers.map (·.kind) == [.orcinv] &&
      nextAnd (exec (.orcinvDone 1) t) fun u => u.transfers.isEmpty && u.me.r.x[10] == 0) = true ∧
    nextAnd (exec (.orcinv (.s 10) (.s 8) 0) (labX 8 (at_ 0xFFF03 0))) (fun t => t.transfers.isEmpty && t.me.r.x[10] == 0) = true ∧
    traps (.objmove (.s 3) (.s 1) (.s 2) 10) lab 5 = true ∧
    nextAnd (exec (.objmove (.s 3) (.s 8) (.s 9) 10) (modRegs labT fun r => { r with x := (r.x.set 8 (at_ 2 0)).set 9 0x900 })) (fun t =>
      t.me.r.x[3] == 1 && pendingX t 10) = true := by decide +kernel

/-! ## The other agents -/

/-- A transfer of a kind under way, issued by the hart of the small state and pending in s10. -/
def moving : State := match exec (.objmove (.s 3) (.s 8) (.s 9) 10) (modRegs labT fun r => { r with x := (r.x.set 8 (at_ 2 0)).set 9 0x900 }) with
  | .next t => t
  | _ => lab

/-- The same once it copies; it began to drain at once. -/
def copying : State := match exec (.moveDrainEnd 1) moving with
  | .next t => t
  | _ => lab

/-- The state with an uncorrectable error in the moved bytes (R113). -/
def badIn (s : State) : State := { s with badMem := [0x30000 / 64] }

theorem test_move : (recordAt moving 0x10080).state = 2 ∧ copying.transfers.map (·.copying) = [true] ∧
    nextAnd (exec (.moveAbort 1 0x17 0) (badIn copying)) (fun t => t.transfers.isEmpty && (recordAt t 0x10080).base == 0x30000) = true := by
  decide +kernel

theorem test_fills : nextAnd (exec (.orcFill 0 0 3) lab) (fun t => (getCore t 0).orc.map (·.handle) == [3]) = true ∧
    okAnd (lookupRecord lab (whoMe lab) 3 0) (fun r => r.state == 0) = true ∧ (whoOnCore lab 0 0).isSome = true := by decide +kernel

/-- The banks of core 0: a swap asked for, a spill, a fill, and harts that wait on each other's queues. -/
theorem test_banks : nextAnd (exec (.bankExchange 0) (modCore swapping 0 fun c => { c with swapAsked := some none })) (fun t =>
      (getCore t 0).swaps == 1 && (getCore t 0).swapAsked == none) = true ∧
    nextAnd (exec (.spillDone 0) (modCore swapping 0 fun c => { c with shadow := .spilling })) (fun t => (getCore t 0).shadow == .clean) = true ∧
    nextAnd (exec (.bankFillDone 0 1) (modCore swapping 0 fun c => { c with shadow := .filling })) (fun t =>
      (getCore t 0).shadow == .clean && (getCore t 0).swapAsked == none) = true ∧
    nextAnd (exec (.bankFillDone 0 1) (modCore { swapping with me := Hart.idle } 0 fun c => { c with shadow := .filling })) (fun t =>
      (getCore t 0).shadow == .clean && (getCore t 0).swapAsked == some none) = true ∧
    traps .fetchFault (modRegs lab fun r => { r with pc := at_ 900 0 }) 0x08 = true := by
  decide +kernel

/-- A hart of which the scalar stream waits on q4 while a vector instruction waits on q5. -/
def deadlocked : State :=
  let s := match exec (.vredsum false 1 (.q 5) (.v 4)) (modRegs labV fun r => { r with q := (r.q.set 5 [1, 2, 3, 4]).set 4 [] }) with
    | .next t => t
    | _ => lab
  { s with me := { s.me with wait := some (.queueEmpty 4) } }

theorem test_deadlock : (deadlocked.me.flights.map (·.why)) = [some (.queueFull 5)] ∧ boundaryDue deadlocked deadlocked.me = false ∧
    nextAnd (exec .qdeadlock deadlocked) (fun t => t.me.r.pc == at_ 1 (0x80 + 4 * 0x18) && t.me.r.frame[10] == 0x30) = true := by
  decide +kernel

/-- A die with other memory control. -/
def withMcb (f : Mcb → Mcb) : State := modMcb lab 0 f

theorem test_memory_block : nextAnd (exec (.mcbRetirePch 0 7) (withMcb fun m => { m with cuts := 53 })) (fun t =>
      t.dies[0].mcb.migrating == some 7) = true ∧
    nextAnd (exec (.mcbRetirePch 0 7) lab) (fun t => t.dies[0].mcb.migrating == some 7) = true ∧
    nextAnd (exec (.topcut 0) (withMcb fun m => { m with heldPch := [7] })) (fun t => t.dies[0].mcb.cuts == 1) = true ∧
    nextAnd (exec (.migrationStart 0) (withMcb fun m => { m with waiting := [7] })) (fun t => t.dies[0].mcb.waiting == []) = true ∧
    nextAnd (exec (.migrateUnit 0) (withMcb fun m => { m with migrating := some 7 })) (fun t => t.dies[0].mcb.bound == 1) = true ∧
    nextAnd (exec (.migrationEnd 0) (withMcb fun m => { m with migrating := some 7, bound := 768 * 2 ^ 20 })) (fun t =>
      t.dies[0].mcb.retired == [7]) = true ∧
    nextAnd (exec (.activate 0 7 15) lab) (fun t => t.dies[0].mcb.refreshes == 1) = true ∧
    nextAnd (exec (.activate 0 7 0x40) lab) (fun t => t.dies[0].mcb.refreshes == 0) = true ∧
    nextAnd (exec (.activationAlert 0 7) lab) (fun t => t.dies[0].mcb.alerts == 1 && t.dies[0].mcb.windows.length == 1 &&
      nextAnd (exec (.backoffWindowEnd 0 7) t) fun u => u.dies[0].mcb.windows.isEmpty) = true ∧
    nextAnd (exec (.patrolScrub 0 5 4) lab) (fun t => t.dies[0].mcb.ce.map (·.2) == [4]) = true ∧
    nextAnd (exec (.patrolScrub 0 5 8) lab) (fun t => t.badMem == [23]) = true ∧
    nextAnd (exec (.mcbNrpWrite 0 0xFFFFFF) lab) (fun t => t.dies[0].mcb.nrp == 0x1FFFF) = true ∧
    nextAnd (exec (.mcbSeedWrite 1 0x100000002) lab) (fun t => t.dies[1].mcb.seed == 2) = true := by decide +kernel

/-- Port 0 of the second tier is trained. -/
def linked : State := { lab with cxp := lab.cxp.set 0 1 }

theorem test_second_tier : windowRefused linked 0 (BitVec.ofNat 64 (2 ^ 39 + 2 ^ 28)) = false ∧ windowRefused lab 0 (BitVec.ofNat 64 (2 ^ 39 + 2 ^ 28)) = true ∧
    nextAnd (exec (.cxwWrite 0 (BitVec.ofNat 64 (2 ^ 39 + 2 ^ 28))) linked) (fun t => t.cxw[0].getLsbD 39) = true ∧
    nextAnd (exec (.cxwWrite 0 (BitVec.ofNat 64 (2 ^ 39 + 2 ^ 28))) lab) (fun t => !t.cxw[0].getLsbD 39 && t.cxw[0].getLsbD 40) = true ∧
    nextAnd (exec (.cxlLinkDown 0) linked) (fun t => !t.cxp[0].getLsbD 0) = true ∧
    nextAnd (exec (.cxlPortTrained 3 1 64 16) lab) (fun t => t.cxp[3].getLsbD 0) = true := by decide +kernel

/-- Stolier port 2 up with its eight lanes. -/
def upPort (f : Port → Port) : State :=
  { lab with ports := lab.ports.set 2 (f { Port.reset with ctl := Port.reset.ctl ||| 1, st := 2, width := 8 }) }

theorem test_stolier : nextAnd (exec (.stlctlEn 2 true) lab) (fun t => t.ports[2].st == 1) = true ∧
    nextAnd (exec (.stlctlEn 2 false) (upPort id)) (fun t => t.ports[2].st == 0) = true ∧
    nextAnd (exec (.stolierRetrainEnd 2 true true) (upPort fun p => { p with st := 1 })) (fun t => t.ports[2].st == 2 && t.ports[2].rate) = true ∧
    nextAnd (exec (.stolierLinkLoss 2) (upPort id)) (fun t => t.ports[2].st == 0) = true ∧
    nextAnd (exec (.force 2 7) (upPort id)) (fun t => t.ports[2].due == [7] &&
      nextAnd (exec (.laneRepair 2) t) fun u => u.ports[2].st == 4 && u.ports[2].spare) = true := by decide +kernel

/-- A data flit of sequence number 0 of which the payload begins with the CRC of its header, worked out by hand from R367, so that the
CRC register is 0 after sixteen bytes and stays so over the zeros that follow: its CRC is 0. -/
def goodFlit : BitVec 2048 := 0x70efa2f488680a770000000001000000#2048

theorem crc_of_zeros (b : BitVec 1984) (l : List Nat) (h : ∀ i ∈ l, b.extractLsb' (8 * i) 8 = 0#8) :
    l.foldl (fun c i => crcByte c (b.extractLsb' (8 * i) 8)) 0#64 = 0#64 := by
  induction l with
  | nil => rfl
  | cons i l ih =>
    have z : crcByte 0#64 0#8 = 0#64 := by decide +kernel
    rw [List.foldl_cons, h i (by simp), z]
    exact ih fun j hj => h j (by simp [hj])

theorem test_flit_crc : flitCrc (goodFlit.extractLsb' 0 1984) = 0#64 := by
  have hs : List.range 248 = List.range' 0 8 ++ (List.range' 8 8 ++ List.range' 16 232) := by decide +kernel
  unfold flitCrc
  rw [hs, List.foldl_append, List.foldl_append]
  have h1 : (List.range' 0 8).foldl (fun c i => crcByte c ((goodFlit.extractLsb' 0 1984).extractLsb' (8 * i) 8)) 0 =
      0x770a6888f4a2ef70#64 := by decide +kernel
  have h2 : (List.range' 8 8).foldl (fun c i => crcByte c ((goodFlit.extractLsb' 0 1984).extractLsb' (8 * i) 8)) 0x770a6888f4a2ef70#64 =
      0#64 := by decide +kernel
  rw [h1, h2]
  exact crc_of_zeros _ _ (by decide +kernel)

theorem test_flit_ok : crcOk goodFlit = true ∧ flitType goodFlit = 1 ∧ flitSeq goodFlit = 0 := by
  refine ⟨?_, by decide +kernel, by decide +kernel⟩
  unfold crcOk
  rw [test_flit_crc]
  decide +kernel

/-- The same flit with another CRC fails its check. -/
theorem test_flit_bad : crcOk (goodFlit ||| 1#2048 <<< 1984) = false := by
  have h : (goodFlit ||| 1#2048 <<< 1984).extractLsb' 0 1984 = goodFlit.extractLsb' 0 1984 := by decide +kernel
  unfold crcOk
  rw [h, test_flit_crc]
  decide +kernel

/-- The flit that is expected, whichever way its payload goes on. -/
theorem test_flit_accepted : ∃ t, exec (.flitReceive 2 goodFlit) (upPort id) = .next t ∧ (portAt t 2).expect = 1 ∧
    (portAt t 2).last = some goodFlit := by
  obtain ⟨p, hp⟩ : ∃ p, p = { portAt (upPort id) 2 with flits := (portAt (upPort id) 2).flits + 1, out := [] } := ⟨_, rfl⟩
  have hst : (portAt (upPort id) 2).st = 2 := by decide +kernel
  have e : execFlitReceive 2 goodFlit (upPort id) = .next (sendQueued (takeFlit (upPort id) 2 p goodFlit) 2) := by
    unfold execFlitReceive
    simp only [eventOut, ← hp]
    rw [if_neg (by simp [hst]), if_neg (by simp [test_flit_ok.1])]
    simp only [test_flit_ok.2.1, Option.getD_some]
  refine ⟨_, e, ?_⟩
  have hx : p.expect = 0 := by rw [hp]; decide +kernel
  have q : takeFlit (upPort id) 2 p goodFlit = forwardFlit (setPort (upPort id) 2 (acceptFlit p goodFlit)) goodFlit := by
    unfold takeFlit
    rw [if_pos (test_flit_ok.2.2.trans hx.symm)]
  rw [q]
  have r := (forwardFlit_received (setPort (upPort id) 2 (acceptFlit p goodFlit)) 2 goodFlit).trans (sendQueued_received _ 2 2)
  rw [portAt_setPort, if_pos (by decide)] at r
  have b : (acceptFlit p goodFlit).expect = 1 ∧ (acceptFlit p goodFlit).last = some goodFlit := by rw [hp]; decide +kernel
  exact ⟨r.1.trans b.1, r.2.1.trans b.2⟩

/-- One software queue, its descriptor at 0x72000 with HEAD and TAIL 0 and room for two records at 0x73000, and one context, its descriptor
at 0x74000. -/
def labQ (w0 : Nat) : State :=
  { lab with mem := writeBytes (writeBytes labMem 0x72000 (bytesOf 8 w0)) 0x74000 (bytesOf 8 (0x100 + 8 * 2 ^ 39)),
             unit := { lab.unit with qtab := BitVec.ofNat 64 (0x720 + 2 ^ 39), ctxt := BitVec.ofNat 64 (0x740 + 2 ^ 39) } }

/-- Its first word: base, depth 2, EN. -/
def queueWord : Nat := 0x730 + 2 ^ 39 + 2 ^ 44

theorem test_queue : nextAnd (exec (.iuDoorbell (BitVec.ofNat 64 (1 * 2 ^ 12))) (labQ queueWord)) (fun t => t.unit.queues.map (·.work) == [true] &&
      nextAnd (exec (.queueSlotGrant 0) t) fun u => u.unit.queues.map (·.slot) == [true] &&
        nextAnd (exec (.recordIntake 0) u) fun v => readPhys v 0x72008 4 == 1) = true := by decide +kernel

/-- A node ready to run a kernel of two harts with one hart a core on cluster 1. -/
def kernelRecord : Vector Word 16 :=
  (((Vector.replicate 16 0).set 0 (BitVec.ofNat 64 (1 * 8))).set 4 (at_ 1 0)).set 10 (BitVec.ofNat 64 (2 + 2 ^ 15))

def labK (st : NodeState) (record : Vector Word 16) : State :=
  { labQ queueWord with unit := { (labQ queueWord).unit with nodes := [aNode 1 st record []], decs := [(0, 1, true)] } }

theorem test_nodes : nextAnd (exec (.decrement 0 1 true) (labK .waiting kernelRecord)) (fun t => t.unit.nodes.map (·.st) == [.ready]) = true ∧
    nextAnd (exec (.decrement 0 1 true) (labK .credit kernelRecord)) (fun t => t.unit.nodes.map (·.counter) == [2]) = true ∧
    nextAnd (exec .timesliceEnd (labK .ready kernelRecord)) (fun t => t.unit.nodes.map (·.slices) == [1]) = true ∧
    nextAnd (exec (.nodeComplete 0 1) (labK .running ((Vector.replicate 16 0).set 0 8))) (fun t => t.unit.nodes.isEmpty) = true ∧
    nextAnd (exec (.iuKill 0x10000) (labK .ready kernelRecord)) (fun t => t.unit.nodes.isEmpty) = true ∧
    nextAnd (exec (.conditionalRead 0 1) (labK .ready (((Vector.replicate 16 0).set 0 (3 + 8)).set 4 (at_ 3 8)))) (fun t =>
      t.unit.nodes.isEmpty) = true := by decide +kernel

theorem test_hyp_kernel : okAnd (placementChecks (labK .ready kernelRecord) (aNode 1 .ready kernelRecord [])) (fun g => g.isEmpty) = true ∧
    coresNeeded kernelRecord = 2 ∧ 2 ≤ ((allowedCores (labK .ready kernelRecord) kernelRecord).filter (coreFree (labK .ready kernelRecord))).length ∧
    nextAnd (exec (.kernelPlacement 0 1) (labK .ready kernelRecord)) (fun t => t.unit.nodes.map (·.st) == [.running] &&
      (allHarts t).length == 3) = true := by decide +kernel

/-- The host: a register, memory, and the requests of the root-of-trust core. -/
theorem test_host : nextAnd (exec (.registerWrite 0x08 4 7) lab) (fun t => t.host == .unsuccessful) = true ∧
    nextAnd (exec (.registerWrite 0x08 8 7) lab) (fun t => t.unit.slice == 7) = true ∧
    nextAnd (exec (.hostWrite 0x30000 [1, 2]) lab) (fun t => readByte t.mem 0x30001 == 2 && nextAnd (exec (.hostRead 0x30000 2) t) fun u =>
      u.host == .data [1, 2]) = true ∧
    nextAnd (exec (.rtReqGo (BitVec.ofNat 64 (2 ^ 39 + 5))) lab) (fun t => t.rot.queue == [0x500]) = true ∧
    nextAnd (exec .msixVector0Timer { lab with unit := { lab.unit with throttle := true, again := true } }) (fun t => t.unit.fired0 == 1) = true ∧
    nextAnd (exec (.fatalError 3 1 2) lab) (fun t => t.fatal.isSome && nextAnd (exec .packageReset t) fun u => u.fatal.isNone && u.cores.isEmpty &&
      u.mem == labMem) = true := by decide +kernel

/-- A request at 0x76000 to remove, or to install, an object whose staged image lies in object 2; the result goes to object 3. -/
def labRt (w1 : Nat) (image : List Byte) : State :=
  let s := labQ queueWord
  { s with mem := writeBytes (writeBytes s.mem 0x76000 ([at_ 2 0, BitVec.ofNat 64 w1, at_ 1 0, 0, 0, 0, 0, at_ 3 0].flatMap fun w => bytesOf 8 w.toNat))
             0x30000 image,
           rot := { s.rot with queue := [0x76000], ranges := if image.isEmpty then s.rot.ranges else [] } }

theorem test_remove : nextAnd (exec .removeObject (labRt (256 + 2 ^ 48) [])) (fun t => t.rot.ranges.isEmpty && t.rot.queue.isEmpty &&
      readByte t.mem 0x40000 == 1) = true ∧
    nextAnd (exec .installObject (labRt 64 [])) (fun t => t.rot.queue.isEmpty && t.rot.ranges.length == 1 && readByte t.mem 0x40000 == 3) = true := by
  decide +kernel

/-- The smallest code object: a header, one word of text and a signature whose value is 2. -/
def codeImage : List Byte :=
  bytesOf 4 0x314F4347 ++ [3, 1, 0, 0] ++ bytesOf 4 896 ++ List.replicate 20 0 ++ bytesOf 4 4 ++ List.replicate 220 0 ++
    bytesOf 4 0xF0000000 ++ List.replicate 252 0 ++ List.replicate 383 0 ++ [2]

/-- The root-of-trust core with a key under which 2 is the signature of that object. -/
def labKey : State :=
  let s := labRt 896 codeImage
  { s with rot := { s.rot with keys := s.rot.keys.set 0 (some (2 ^ 65537 - encodedDigest (sha256 (codeImage.take 512)), false)) } }

theorem test_hyp_install : okAnd (planInstall labKey (requestAt labKey 0x76000)) (fun p => secSize p.obj 1 == 4) = true ∧
    okAnd (resultPlaces labKey (requestAt labKey 0x76000)) (fun p => p.isSome) = true := by decide +kernel

/-- Power: the limits of a cluster and a die, gating and waking, scrubbing and retirement. -/
def withCluster (f : Cluster → Cluster) : State := modCluster lab 1 f

theorem test_power : nextAnd (exec (.levelWindowBoundary 1) (withCluster fun c => { c with level := 3 })) (fun t => t.clusters[1].elevel == 4) = true ∧
    nextAnd (exec (.powerEval 0 1050001) lab) (fun t => t.dies[0].power == 15) = true ∧
    nextAnd (exec (.powerEval 0 1050000) lab) (fun t => t.dies[0].power == 16) = true ∧
    nextAnd (exec (.tempRefresh 1 110) lab) (fun t => t.clusters[1].temp == 110 && nextAnd (exec (.thermalEval 0) t) fun u => u.fatal.isSome) = true ∧
    nextAnd (exec (.vsramEval 0 0 0) (modDie lab 0 fun d => { d with srUe := true })) (fun t => t.dies[0].vnow == 800 && t.dies[0].vheld == 99) = true ∧
    nextAnd (exec (.vsramEval 0 0 0) (modDie lab 0 fun d => { d with vheld := 1, srErrs := 9 })) (fun t => t.dies[0].vheld == 0 &&
      t.dies[0].vnow == lab.dies[0].vnow) = true ∧
    nextAnd (exec (.vsramEval 0 0 1) (modDie lab 0 fun d => { d with vnow := 700, vmin := 650, ceset := 16, srErrs := 16 })) (fun t =>
      t.dies[0].vnow == 710) = true ∧
    nextAnd (exec (.vsramEval 0 0 0) (modDie lab 0 fun d => { d with vnow := 652, vmin := 650, ceset := 16, srErrs := 7 })) (fun t =>
      t.dies[0].vnow == 650) = true ∧
    nextAnd (exec (.vsramEval 0 0 0) (modDie lab 0 fun d => { d with vnow := 700, vmin := 650, ceset := 16, srErrs := 8 })) (fun t =>
      t.dies[0].vnow == 700) = true ∧
    nextAnd (exec (.gateHoldEnd 1) (withCluster fun c => { c with pstate := .active })) (fun t => t.clusters[1].pstate == .hold &&
      nextAnd (exec (.gateHoldEnd 1) t) fun u => u.clusters[1].pstate == .gated) = true ∧
    nextAnd (exec (.wakeRequest 1) (withCluster fun c => { c with pstate := .gated })) (fun t => t.arbiter == [1] && nextAnd (exec .wakeRampStart t) fun u => u.ramping == some 1 &&
      nextAnd (exec .wakeDone u) fun v => v.clusters[1].pstate == .active) = true ∧
    nextAnd (exec (.gateenWrite 1 true) lab) (fun t => t.clusters[1].gateen) = true ∧
    nextAnd (exec (.gateenWrite 1 false) (withCluster fun c => { c with pstate := .gated })) (fun t => !t.clusters[1].gateen &&
      t.clusters[1].pstate == .waking && t.arbiter == [1]) = true ∧
    nextAnd (exec (.sramScrub 0 1 0) lab) (fun t => (getCore t 0).sramce == 1) = true ∧
    nextAnd (exec (.sramScrub 0 4 40959) lab) (fun t => (getCore t 0).badWords == [40959]) = true ∧
    nextAnd (exec (.coreRetire 17) lab) (fun t => (getCore t 17).present && t.clusters[1].spareUsed) = true ∧
    nextAnd (exec (.hartMigration 0) (modCore lab 0 fun c => { c with leaving := true })) (fun t => t.me.core == 1) = true := by decide +kernel

/-! ## Fetching, bring-up, sticks and the watermark, as the clauses of their statements need them -/

/-- The same clauses: the package is up, no swap and no cause is held; a word that is no instruction, and a pc that names no object. -/
theorem test_hyp_StepRunsDecoded_rest : lab.boot = 0 ∧ swapPending lab lab.me.core = false ∧ asyncHeld lab = false ∧
    okAnd (nextWord { lab with mem := writeBytes labMem 0x20000 (bytesOf 4 0x7E000005) }) (fun p =>
      (bodyStop p.1 p.2).isNone && decide (decode p.1 = .error .reservedOpcode)) = true ∧
    (match nextWord (modRegs lab fun r => { r with pc := at_ 900 0 }) with
     | .error (.trap t) => t.code == 8
     | _ => false) = true := by decide +kernel

/-- The state after a fetch, with the word in the cache; a text object whose range is gone, and an address past its object. -/
def fetched : State := match nextWord lab with
  | .ok p => p.2
  | .error _ => lab

theorem test_hyp_FetchReadsMemory_rest : (getCore fetched 0).icache.map (·.word) = [0xF0000000#32] ∧
    okAnd (nextWord fetched) (fun p => p.1 == 0xF0000000#32 && p.2.mem == labMem) = true ∧ noWindows lab = true ∧
    okAnd (scalarElements { lab with rot := { lab.rot with ranges := [] } } (whoMe lab) 3 lab.me.r.pc 4) (fun es => es.length == 4) = true ∧
    (match nextWord { lab with rot := { lab.rot with ranges := [] } } with
     | .error (.trap t) => t.code == 0x0A
     | _ => false) = true ∧
    (match scalarElements lab (whoMe lab) 3 (at_ 1 256) 4 with
     | .error (.fault t) => t.code == 0x0C
     | _ => false) = true ∧
    (match nextWord (modRegs lab fun r => { r with pc := at_ 1 256 }) with
     | .error (.trap t) => t.code == 0x0A
     | _ => false) = true := by decide +kernel

/-- FetchReadsMemory: a fetch through a galley handle, of a declared galley of the context and of another (R64, R93, R346). -/
theorem test_hyp_fetch_galley : galleyOf (handleOf lab.me.r.pc) = none ∧
    (match nextWord (modRegs (labG 3) fun r => { r with pc := at_ 0xFFF03 0 }) with
     | .error (.trap t) => t.code == 0x0A
     | _ => false) = true ∧
    (match nextWord (modRegs (labG 3) fun r => { r with pc := at_ 0xFFF04 0 }) with
     | .error (.trap t) => t.code == 0x08
     | _ => false) = true := by decide +kernel

/-- StepsGoOn: a package whose firmware image has not verified, and the reset that gets it up again. -/
theorem test_hyp_StepsGoOn_image : step { lab with boot := 6 } = .fault .halted ∧
    nextAnd (step { lab with boot := 6, agenda := [.event .packageReset] }) (fun t => t.boot == 1) = true := by
  refine ⟨rfl, by decide +kernel⟩

/-- ResetState: the parts of bring-up, and BAR 0 before it is over. -/
theorem test_bring_up : [1, 2, 3, 4, 5].all (fun b => nextAnd (step { State.reset with boot := b }) fun t => t.boot == (b + 1) % 6) = true ∧
    nextAnd (step { State.reset with boot := 4 }) (fun t => t.clusters.toList.all fun c => c.pstate == .gated) = true ∧
    nextAnd (exec (.hostRead (2 ^ 47 + 0x40000) 8) State.reset) (fun t => t.host == .data [0, 0, 0, 0, 0, 1, 0, 0]) = true ∧
    nextAnd (exec (.hostRead (2 ^ 47 + 0x20000) 8) State.reset) (fun t => t.host == .data (List.replicate 8 0)) = true ∧
    nextAnd (exec (.registerWrite 0x08 8 7) State.reset) (fun t => t.unit.slice == State.reset.unit.slice) = true := by decide +kernel

/-- A place whose bits go on in a byte elsewhere. -/
theorem test_hyp_ReadAfterWrite_next : let p : Place := { core := none, addr := 0x3FFFF, bit := 6, bits := 6, next := some 0x50000 }
    readPlace (writePlaces lab [(p, 0x2D)]) p = 0x2D ∧ readByte (writePlaces lab [(p, 0x2D)]).mem 0x3FFFF = 0x40 ∧
    readByte (writePlaces lab [(p, 0x2D)]).mem 0x50000 = 0x0B := by decide +kernel

/-- An entry that is held, and the destination that is full. -/
theorem test_held_entry : okAnd (readSrc (.q 4) { lab with me := { lab.me with popped := [(4, 7)] } }) (fun p =>
      p.1 == 7 && p.2.me.popped.isEmpty && p.2.me.r.q[4] == [5, 6]) = true ∧
    nextAnd (exec (.add (.q 0) (.q 4) (.s 2)) lab) (fun t => t.me.wait == some (.queueFull 0) && t.me.r.q[4] == [6] &&
      t.me.popped == [(4, 5)]) = true := by decide +kernel

/-- A stick body whose first level has count 0, over 65 words of a longer text without STICKEND, and over text that ends. -/
def discarding (n : Nat) : State := { modRegs lab (fun r => { r with stick := { r.stick with count := r.stick.count.set 0 0 } }) with
  mem := writeBytes labMem 0x10051 [2], rot := { lab.rot with ranges := [{ ctx := 0, handle := 1, lo := 0, len := n, phys := 0x20000, rev := 2 }] } }

theorem test_discard : nextAnd (exec (.stick (.s 4) 0) (discarding 512)) (fun t => t.me.r.pc == at_ 1 (0x80 + 4 * 0x17) &&
      t.me.r.frame[1] == at_ 1 (65 * 4)) = true ∧
    nextAnd (exec (.stick (.s 4) 0) (discarding 256)) (fun t => t.me.r.pc == at_ 1 (0x80 + 4 * 0x0A) &&
      t.me.r.frame[1] == at_ 1 256) = true ∧
    nextAnd (exec (.stick (.s 4) 0) { discarding 512 with mem := writeBytes (discarding 512).mem (0x20000 + 65 * 4) (bytesOf 4 0x36000001) })
      (fun t => t.me.r.pc == at_ 1 (66 * 4)) = true ∧
    traps (.stick (.q 1) 0) lab 1 = true ∧ traps (.stick (.s 4) 6) lab 1 = true := by decide +kernel

theorem test_hyp_bodyStop_illegal : (bodyStop 0x7E000005 (modRegs skipping fun r => { r with stick := { r.stick with pos := 64 } })).isNone = true ∧
    decide (decode 0x7E000005 = .error .reservedOpcode) = true := by decide +kernel

/-- A hart that waits at a SETVLW for a watermark that is short, or has come. -/
def rereads (v : Byte) : State := { marked v with
  mem := writeBytes (marked v).mem 0x20000 (bytesOf 4 0b0011100_00011_00010_00001_00_001_00001), me := { lab.me with wait := some .watermark } }

theorem test_watermark_reread : decode 0b0011100_00011_00010_00001_00_001_00001#32 = .ok (.setvlw (.s 3) (.s 2) (.s 1) 1) ∧
    nextAnd (exec (.watermarkReread 1) (rereads 6)) (fun t => t.me.wait == some .watermark && t.me.r.pc == at_ 1 0) = true ∧
    nextAnd (exec (.watermarkReread 1) (rereads 7)) (fun t => t.me.wait == none && t.me.r.pc == at_ 1 4 && t.me.r.vl == 7 &&
      t.me.r.wpos == 7 && t.me.r.x[3] == 7) = true ∧
    (hartOf (rereads 7) 1).map (·.wait) = some (some .watermark) ∧
    boundaryDue (focus (rereads 7) 1) (focus (rereads 7) 1).me = false ∧ okAnd (nextWord (focus (rereads 7) 1)) (fun p => okAnd (readSrc (.s 1) p.2) fun b => b.1 == at_ 2 16) = true := by decide +kernel

/-! ## Strips with stores, the colophon, moving objects and landed bits -/

/-- A store of the scalar stream that is buffered in an open strip. -/
def buffered (w : Word) : State := match exec (.std (.s 2) (.s 1) 0 0) (stripSlot (inStrip w)) with
  | .next t => t
  | _ => lab

theorem test_proof_releases : (buffered 0).me.r.strip.stores.map (·.writes.length) = [8] ∧ (buffered 0).me.lent = [] ∧
    stripBad (buffered 0) (buffered 0).me.r.strip = false ∧
    (buffered 0).me.r.strip.stores.all (fun x => decide (x.seq < (buffered 0).me.nextSeq)) = true ∧
    nextAnd (exec (.proof (.s 4) 0) (buffered 0)) (fun t => readByte t.mem 0x30010 == 7 && t.me.r.strip == StripState.reset &&
      t.me.flights.isEmpty && t.me.perf[0] == (buffered 0).me.perf[0] + 1) = true ∧
    okAnd (accessElements (buffered (at_ 2 16)) 1 (at_ 2 16) 8) (fun es => contiguous es) = true ∧
    nextAnd (exec (.proof (.s 4) 0) (buffered (at_ 2 16))) (fun t => readByte t.mem 0x30010 == 8 && readByte t.mem 0x30015 == 0x30 &&
      t.me.perf[0] == (buffered 0).me.perf[0] + 2) = true := by decide +kernel

/-- END: the colophon word of a running node takes FFLAGS and counts the hart; the queues that a waiting instruction waits on. -/
def labE : State :=
  let s := labQ queueWord
  { modRegs s (fun r => { r with fflags := 5 }) with mem := writeBytes s.mem 0x30020 [0, 2, 0, 0, 3], unit := { s.unit with
    nodes := [{ ctx := 0, id := 0, record := (Vector.replicate 16 0).set 1 (at_ 2 32), counter := 0, anyReal := true, st := .running, ended := 1, groups := [],
                branch := false, status := 0, flags := 0, slices := 0 }] } }

theorem test_end_colophon : (findNode labE labE.me.ctx labE.me.node).map (fun n => (n.ended, coloMoving labE n, nodeColo n.record)) =
      some (1, false, at_ 2 32) ∧
    nextAnd (exec .endHart labE) (fun t => readBytes t.mem 0x30020 8 == [0, 7, 0, 0, 4, 0, 0, 0] &&
      (findNode t 0 0).map (·.ended) == some 2) = true ∧
    nextAnd (exec .endHart waiting) (fun t => t.me.r.frame[10] == 2) = true := by decide +kernel

/-- The trap vector lies in an object that is being moved. -/
def vectorMoves : State :=
  match exec (.objmove (.s 3) (.s 8) (.s 9) 10) { modRegs labT (fun r => { r with x := (r.x.set 8 (at_ 5 0)).set 9 0x900 }) with
    mem := writeBytes labMem 0x10146 [184] } with
  | .next t => t
  | _ => lab

theorem test_hyp_traps : vectorMoving vectorMoves 0x1B = true ∧ vectorMoving lab 0x1B = false ∧ vectorMoving lab 4 = false ∧
    nextAnd (exec (.trap 5) vectorMoves) (fun t => t.me.wait == some .moving && t.me.r.pc == vectorMoves.me.r.pc) = true ∧
    nextAnd (exec .eret (modRegs inTrap fun r => { r with frame := r.frame.set 0x14 1 })) (fun t => !t.me.r.armed && t.me.pin == none) = true ∧
    mmaInFlight swapping swapping.me.core = false ∧ anyStuck swapping isMmau = false ∧ swapping.softMem = [] ∧ swapping.me.bank = .active ∧ withCauses.me.bank = .active := by decide +kernel

theorem test_hyp_flagclr : anyStuck lab raisesFlags = false ∧ anyStuck lab isMmau = false ∧
    stored.me.flights.map (fun f => (f.marks, f.released)) = [([], false)] := by decide +kernel

/-- The landed bits of the element groups, for the elementwise and the other shapes. -/
theorem test_hyp_useMap : okAnd (dispatchEnv labV 1 none none) (fun env =>
    let c := vctx labV env
    okAnd (useMap c labV env.seq false (.v 2) [.v 4, .v 8]) (fun _ => true) && okAnd (useMap c labV env.seq true VOp.none [.v 4, .v 8]) (fun _ => true) &&
    okAnd (useMap c labV env.seq false (.v 2) []) (fun _ => true) && okAnd (useMap c labV env.seq true VOp.none [.v 4]) (fun _ => true) &&
    okAnd (useParts labV env.seq (regsOf (.v 4) c.f) (groupBits (.v 4) c.lanes c.f c.b 0 1)) (fun _ => true) &&
    okAnd (vcheckVl c tyAll false (moveLimit c 2 0)) (fun _ => true) && predEnds c &&
    okAnd (useRegs labV env.seq (regsOf (.v 2) c.f)) (fun _ => true)) = true := by decide +kernel

/-- VL 4,096 with one element in each, above the VLMAX of a group of one: z to z moves it, z to v does not. -/
theorem test_move_z : nextAnd (exec (.vmv false 1 (.z 1) (.z 0)) (modRegs labV fun r => { r with vl := 4096, vstart := 4095, z := r.z.set 0 (5#1048576 <<< 131040) }))
      (fun t => getZ t.me.r 1 4 4095 == 5) = true ∧
    traps (.vmv false 1 (.v 2) (.z 0)) (modRegs labV fun r => { r with vl := 4096, vstart := 4095 }) 4 = true := by decide +kernel

/-- By hand: 4,096 predicate bits of 4 lanes fill four m registers, and m7 is the last. -/
theorem test_move_z_predicate : traps (.vmv false 1 (.z 1) (.z 0)) (modRegs labV fun r => { r with
    vl := 4096, vstart := 4095, g := r.g.set 1 (r.g[1] ||| 0xF00) }) 4 = true := by decide +kernel

/-! ## Packed words and the products of their plans -/

/-- The same under a forme of 2 x 1 x 2 whose source is 12-bit blocks of FP16, with the side block at v8, 3 and -1/2 in a row of object 4. -/
def floatForme : Word := 0x2496020c12
def labPf : State := modRegs { labW with mem := writeBytes labMem 0x50000 [0x00, 0x42, 0x00, 0xB8] } fun r => { r with
  x := (r.x.set 8 (BitVec.ofNat 64 (32 * 2 ^ 8 + 64 * 2 ^ 28))).set 7 (at_ 4 0), fm := r.fm.set 0 floatForme }

/-- By hand: 3 lies below 2^2, so the unit of its block is 2^-9, 3 is 1536 of it and -1/2 is -256; the other row is all zero. -/
theorem test_packed_floats : nextAnd (exec (.vldpk false 3 (.v 4) (.s 7) (.s 8)) labPf) (fun t =>
      (List.range 5).map (unpackField floatForme (getLane t.me.r 4 4 0 0 256)) == [1536, -256, 0, 0, 0] &&
      getLane t.me.r 8 4 0 0 24 == 0x7FFFF7 && getLane t.me.r 8 4 0 64 24 == 0x7F0000) = true ∧
    alignBlock 12 [.fin false 3 1, .fin true 1 2] = (-9, [1536, -256], 0) ∧ alignBlock 4 [.zero, .nan false] = (-32768, [0, 0], 16) ∧
    alignBlock 8 [.zero] = (0, [0], 0) := by decide +kernel

/-- PackedAccesses, the clauses of VLDPK: a dense integer word, a floating-point one, a w register, and of VSTPK in a strip. -/
def packHyp (s : State) (g : Fin 8) (vd : VOp) (sa : SOp) : Bool := okAnd (dispatchEnv s g (some sa) (some (.s 8))) fun env =>
  let c := vctx s env
  let ratio := if pkRole env.b then slotRatio c.slot else 1
  let tile := tileOf c.lanes c.slot env.forme env.vl
  let js := packWords s.me.r c env (tierOf vd == 1)
  let et := sfmtType (fSfmt env.forme)
  c.et == 7 && env.forme != 0 && predOk c.slot c.f c.b && field env.b 1 7 == 0 && pkLen env.b != 0 &&
    !sparseRefused env.forme c.slot && decide (env.vl ≤ 16) && descriptorOk env.forme env.b ratio && !js.isEmpty &&
    (sfmtInt env.forme || packSides tile env.b env.a (if fSfmt env.forme = 8 then 2 else 1) (regsOf vd c.f) js) &&
    okAnd (useParts s env.seq (regsOf vd c.f ++ packSideRegs tile env.forme) ((groupBits vd c.lanes c.f 256 env.vstart env.vl).map
      (fun x => (x.1, if x.2 = 0 then 0 else 0xFF)) ++ wholeBits (packSideRegs tile env.forme))) (fun _ => true) &&
    okAnd (openTarget s (handleOf env.a) 0 true 0 (formed env.forme env.a env.b (packElements env.forme (pkRole env.b) (pkLen env.b) ratio 0))
      (packTargetOk env.forme (pkRole env.b) (slotSparse c.slot))) fun t =>
        (probeAll (fun j => probeWord s t (handleOf env.a) et env.a env.b env.forme ratio j) js).2.isNone &&
        ((probeAll (fun j => probeWord s t (handleOf env.a) et env.a env.b env.forme ratio j) js).1.all fun q =>
          !badColumns s t env.forme env.b ratio q.1 q.2)

/-- ROLE 1, for a w register. -/
def labPw : State := modRegs labP fun r => { r with x := r.x.set 8 (BitVec.ofNat 64 (1 + 3 * 2 ^ 8 + 16 * 2 ^ 28)) }

theorem test_hyp_packs : packHyp labP 2 (.v 2) (.s 1) = true ∧ packHyp labPf 3 (.v 4) (.s 7) = true ∧ packHyp labPw 2 (.w 2) (.s 1) = true ∧
    okAnd (dispatchEnv labP 2 (some (.s 1)) (some (.s 8))) (fun env =>
      let c := vctx labP env
      okAnd (useParts labP env.seq (regsOf (.v 6) c.f) (groupBits (.v 6) c.lanes c.f 256 env.vstart env.vl)) fun _ => true) = true ∧
    nextAnd (exec (.vldpk false 2 (.w 2) (.s 1) (.s 8)) labPw) (fun t =>
      getLaneW t.me.r 2 4 3 0 54 == 3 + 2 * 2 ^ 18 + 1 * 2 ^ 36) = true := by decide +kernel

/-- VSTPK with STRIPMODE, with and without an open strip. -/
def packStrip (isOpen : Bool) : State := modRegs labP fun r => { r with
  g := r.g.set 2 (r.g[2] ||| 0x1000000000000), strip := { r.strip with isOpen := isOpen } }

theorem test_packed_store_in_strip : traps (.vstpk false 2 (.v 6) (.s 1) (.s 8)) (packStrip false) 0x12 = true ∧
    nextAnd (exec (.vstpk false 2 (.v 6) (.s 1) (.s 8)) (packStrip true)) (fun t => t.mem == (packStrip true).mem &&
      t.me.r.strip.stores.length == 1) = true := by decide +kernel

/-- Fields and blocks of a packed word, and a side entry: the floating-point forme with an exponent -9 for row 0. -/
theorem test_hyp_pack_laws : sfmtInt floatForme = false ∧ fConv floatForme = false ∧
    (pkFields floatForme false 32 1 0).map (·.2) = [some (0, 0), some (0, 1), some (1, 0), some (1, 1)] ∧
    pkBlocks (pkFields floatForme false 32 1 0) = [(0, 0), (1, 0)] ∧
    (packLoaded floatForme false false 32 1 1 0 (0x4200 :: 0xB800 :: List.replicate 62 0)).blocks = [((0, 0), -9), ((1, 0), 0)] ∧
    (let t := tileOf 4 0x80000040807 floatForme 1
     t.base = 8 ∧ t.lanes = 4 ∧ t.ratio = 1 ∧ t.sr = ceilDiv ((t.tr + t.tc) * 8) 512 ∧ pkGroup floatForme false 32 2 0 (at_ 4 0) = 0 ∧
       pwIndex 4 0 = 0 ∧ pwLane 4 0 = 0 ∧ pkFirst floatForme false 32 1 0 = 0 ∧ t.tr = 32) := by decide +kernel

theorem test_formes_accepted : formeAccepted floatForme ∧ formeAccepted 0x2494a40c12 := by
  unfold formeAccepted
  decide +kernel

/-- A sparse plan of 2 for 4: ROLE 1 words with their selector at bit 224. -/
theorem test_hyp_sparse_words : fW 0x2494844892 * fFieldsB 0x2494844892 ≤ 224 ∧ sfmtInt 0x2494844892 = true := by decide +kernel

/-- By hand: rows (1 2 3) and (4 5 6) by columns (7 8 9) and (1 0 -1), and the window of (1 2 3 4) under (7 8 9). -/
theorem test_plan_products :
    let f : Word := 0x2494844892
    let a (m x : Nat) : Int := [[1, 2, 3], [4, 5, 6]].getD m [] |>.getD x 0
    let b (n y : Nat) : Int := [[7, 8, 9], [1, 0, -1]].getD n [] |>.getD y 0
    let opA := fieldSum f ((List.range 2).flatMap fun m => (List.range 3).map fun x => (x + 10 * m, a m x))
    let opB := fieldSum f ((List.range 2).flatMap fun n => (List.range 3).map fun y => (2 - y + 5 * n, b n y))
    let g : Word := 0x2494a40c12
    let c (x : Nat) : Int := [1, 2, 3, 4].getD x 0
    let opC := fieldSum g ((List.range 4).map fun x => (x, c x))
    let opD := fieldSum g ((List.range 3).map fun y => (2 - y, b 0 y))
    [(0, 0), (0, 1), (1, 0), (1, 1)].map (fun p => slotValue f (opA * opB) (usefulSlot f p.1 p.2)) = [50, -2, 122, -2] ∧
      failingSlot f (opA * opB) = none ∧ fConv g = true ∧ fM g = 2 ∧ fK g = 3 ∧
      [0, 1].map (fun m => slotValue g (opC * opD) (usefulSlot g m 0)) = [50, 74] := by decide +kernel

/-! ## Tiles and their drains -/

/-- TileProducts: the row sums of MMAS, and the elements that MMAU reads, as they are read and used. -/
theorem test_hyp_tiles : okAnd (dispatchEnv labW 3 none none) (fun env =>
      let c := vctx labW env
      let t := tileOf c.lanes c.slot env.forme env.vl
      let rows := (rowOnes labW t env.vl (fun l j => getWord labW.me.r (.w 1) c.lanes l j)).1
      okAnd (mmaCompute t env.vl 0 (takingPart labW.me.r t c.slot) (regOpA labW.me.r (.v 4) t)
        (fun l j => getWord labW.me.r (.w 1) c.lanes l j) (some rows) labW.me.r) (fun o => o.sums.length == 2) &&
      okAnd (useRegs labW env.seq (t.zregs 0 ++ regsOf (.v 4) c.f ++ regsOf (.w 1) 1 ++ t.sideRegs 0)) (fun _ => true)) = true ∧
    okAnd (dispatchEnv labU 2 none none) (fun env =>
      let c := vctx labU env
      let t := tileOf c.lanes c.slot env.forme env.vl
      let act := takingPart labU.me.r t c.slot
      let xs : Except Stop (List (Nat × Nat × Element)) :=
        (act.mergeSort fun p q => decide (firstElement t p ≤ firstElement t q)).flatMapM fun p =>
          (unfoldReads t env 0 labU.me.r [p] fun l j => getLaneW labU.me.r 1 c.lanes l (256 * j) 256).mapM fun q => do
            let e ← unfoldElement labU env.forme (firstElement t p) q.2
            return (firstElement t p, q.1, e)
      okAnd xs fun xs => okAnd (mmauOut { env with a := 0, b := 0 } c.lanes 0 1 labU.me.r (xs.map fun x =>
        (x.2.1, readPlace labU x.2.2.place))) fun o => o.tile.length == 4) = true := by decide +kernel

/-- By hand: a tile element of 2^31 - 1 to which 3 is added leaves INT32; a product with a slot past its end is found. -/
theorem test_tile_overflow : inInt32 (2 ^ 31 - 1 + 3) = false ∧
    nextAnd (exec (.mma false 2 (.z 0) (.v 4) (.w 1)) (modRegs labW fun r => { r with z := r.z.set 0 0x7FFFFFFF })) (fun t =>
      t.me.r.pc == at_ 1 (0x80 + 4 * 0x16)) = true ∧
    (let t := tileOf 4 0x40807 0x2494844892 1
     oldTile (putTile labW.me.r 0 4 [(1, 5, -7), (0, 0, 9)]) 0 t 1 5 = -7 ∧ oldTile (putTile labW.me.r 0 4 [(1, 5, -7), (0, 0, 9)]) 0 t 2 5 = 0) := by
  decide +kernel

/-- A drained position: with an empty side block the value of the tile; a fold of 1 and 1/2; the scale of 3 and -1/2 in each kind. -/
theorem test_drained_values :
    (let t := tileOf 4 0x40000 0x2494844892 1
     let v := tileValue t (modRegs labW fun r => { r with z := r.z.set 0 3 }).me.r 0 0 0 0
     ratOf v.1 = 3 ∧ v.2 = 0 ∧ (scaleFactor t.f 0x3C00 0).isNan = false ∧ (scaleFactor t.f 0x7C01 0).isNan = true) ∧
    (foldOne (.rnd 0) (0x3F800000, 0) (.fin false 1 2, 0)) = (0x3FC00000, 0) ∧
    (groupScale 20 [.fin false 3 1, .fin true 1 2]).code = 120 ∧ (groupScale 16 [.fin false 127 1, .fin true 1 2]).code = 0x3C00 ∧
    groupCode 16 (.rnd 0) (groupScale 16 [.fin false 127 1, .fin true 1 2]) (.fin true 1 2) = (0, 1) ∧
    (quantise 22 0 0 [.nan false, .fin false 1 1]).scale = 0xFF := by decide +kernel

/-! ## Rounding, moves, collectives, memory control and ports -/

/-- ElementValues: a tie that goes to even, an exact sum and a third, under round to nearest even. -/
theorem test_rounding : (three (exec (.vadd false 0 (.v 2) (.v 4) (.v 8)) (modRegs labV fun r => { r with
      v := (r.v.set 4 (BitVec.ofNat _ (0x3F800000 + 0x3F800001 * 2 ^ 32 + 0x3F800000 * 2 ^ 64))).set 8
        (BitVec.ofNat _ (0x33800000 + 0x33800000 * 2 ^ 32 + 0x3F800000 * 2 ^ 64)) }))) = [0x3F800000, 0x3F800002, 0x40000000] ∧
    (three (exec (.vdiv false 0 (.v 2) (.v 4) (.v 8)) (modRegs labV fun r => { r with
      v := (r.v.set 4 (BitVec.ofNat _ 0x3F800000)).set 8 (BitVec.ofNat _ 0x40400000) }))).head? = some 0x3EAAAAAB := by decide +kernel

/-- The move of object 2, of 64 bytes, to 0x90000 goes on to its end, and is held while an access of the old base is outstanding. -/
def smallMove : State :=
  let run (s : State) (i : Instr) : State := match exec i s with
    | .next t => t
    | _ => lab
  run (run { modRegs labT (fun r => { r with x := (r.x.set 8 (at_ 2 0)).set 9 0x900 }) with mem := writeBytes labMem 0x10090 [64, 0] }
    (.objmove (.s 3) (.s 8) (.s 9) 10)) (.moveDrainEnd 1)

theorem test_move_ends : nextAnd (exec (.moveCopyEnd 1) smallMove) (fun t => t.transfers.isEmpty && (recordAt t 0x10080).base == 0x90000 &&
      (recordAt t 0x10080).state == 0 && field ((recordAt t 0x10080).word 1) 39 16 == 1) = true ∧
    smallMove.transfers.map (fun t => (t.copying, holeByte smallMove t, moveFree smallMove t, newBase t)) = [(true, none, true, 0x90000)] ∧
    badByte smallMove (recordAt smallMove 0x10080) = none ∧ stored.me.flights.all (fun f => spansName 2 f.spans) = true ∧
    nextAnd (exec (.moveDrainEnd 1) { moving with me := { moving.me with flights := stored.me.flights.map fun f => { f with seq := 0 } } }) (fun t =>
      t.transfers.map (·.copying) == [false]) = true := by decide +kernel

/-- The collective of rank 0 with a rank 1 of another node: its share and READY, terms that disagree, and a commit. -/
def readied : State := match exec (.collReady 5 0 0 ([], [])) (launched true) with
  | .next t => t
  | _ => lab

theorem test_hyp_collective : (launched true).transfers.map (stageDue (launched true)) = [true] ∧ (readied.transfers.map (·.dests.length)) = [4] ∧
    (commEntry readied 5).map (·.1) = some 2 ∧ rankHere readied 5 1 = false ∧ (readied.colls.map fun c => (c.home, c.decided, c.barred, c.terms.isEmpty)) =
      [(true, none, false, false)] ∧
    nextAnd (exec (.collReady 5 0 1 ([7], [])) readied) (fun t => t.colls.map (·.decided) == [some false]) = true ∧
    nextAnd (exec (.collReady 5 0 1 ((readied.colls.map (·.terms)).headD [], [1, 2, 3, 4])) readied) (fun t => (t.colls.map fun c => c.ready.length) == [2]) = true := by
  decide +kernel

/-- The same once it is decided to commit. -/
def agreed : State := { readied with colls := readied.colls.map fun c => { c with decided := some true } }

theorem test_commit : agreed.transfers.map (commitWaits agreed) = [false] ∧
    nextAnd (exec (.collDecision 1 0) agreed) (fun t => t.transfers.isEmpty && t.me.r.x[10] == 0x100) = true := by decide +kernel

/-- A request made while another migrates, the 65th, a held one that can start, and windows of one and of two. -/
theorem test_memory_block_rest : nextAnd (exec (.mcbRetirePch 0 7) (withMcb fun m => { m with migrating := some 5 })) (fun t => t.dies[0].mcb.waiting == [7]) = true ∧
    nextAnd (exec (.mcbRetirePch 0 7) (withMcb fun m => { m with retired := (List.range 64).map (100 + ·) })) (fun t => t.dies[0].mcb.esc &&
      t.dies[0].mcb.retired.length == 64) = true ∧
    nextAnd (exec (.mcbRetirePch 0 7) (withMcb fun m => { m with retired := (List.range 12).map (100 + ·) })) (fun t => t.dies[0].mcb.heldPch == [7] &&
      t.dies[0].mcb.esc && t.dies[0].mcb.halved.contains 7) = true ∧
    nextAnd (exec (.migrationStart 0) (withMcb fun m => { m with heldPch := [7] })) (fun t => t.dies[0].mcb.migrating == some 7) = true ∧
    nextAnd (exec (.backoffWindowEnd 0 7) (withMcb fun m => { m with windows := [(7, 2, [4]), (9, 1, [4])] })) (fun t =>
      t.dies[0].mcb.windows == [(7, 1, [lab.nextUid, 4]), (9, 1, [4])]) = true := by decide +kernel

/-- The sender: a payload that leaves by its route or waits behind 256 flits, a NAK, and control ahead of data once there is room. -/
def sending (f : Port → Port) : State :=
  { upPort f with stlRtab := 0x720, mem := writeBytes labMem (0x72000 + 2 * 9) [2, 0x80] }

theorem test_sender : routeOf (sending id) 9 = some 2 ∧
    ((sendPayload (sending id) 9 false 5).ports[2].nextSeq == 1 && (sendPayload (sending id) 9 false 5).ports[2].buffer.length == 1) = true ∧
    (let full := fun p : Port => { p with buffer := List.replicate 256 0, nextSeq := 256 }
     (sendPayload (sending full) 9 false 5).ports[2].data == [5] && (sendPayload (sending full) 9 false 5).ports[2].nextSeq == 256) = true := by
  decide +kernel

/-! ## Nodes, the host and the cores that are left -/

/-- A NAK and an idle flit for a port that has sent nothing. -/
theorem test_hyp_flits : crcOk (makeFlit 0 0 2 0) = true ∧ flitType (makeFlit 0 0 2 0) = 2 ∧ flitSeq (makeFlit 0 0 2 0) = 0 ∧
    crcOk (makeFlit 5 0 0 0) = true ∧ flitType (makeFlit 5 0 0 0) = 0 ∧ flitAck (makeFlit 5 0 0 0) = 0 ∧
    crcOk (makeFlit 9 0 3 0) = true ∧ flitType (makeFlit 9 0 3 0) = 3 ∧ flitSeq (makeFlit 9 0 3 0) = 9 ∧
    (portAt (upPort id) 2).st = 2 ∧ (portAt (upPort id) 2).acked + 1 = 0 ∧ (portAt (upPort id) 2).replay = none ∧
    (portAt (upPort id) 2).expect = 0 :=
  ⟨crcOk_makeFlit .., (makeFlit_header ..).2.2, (makeFlit_header ..).1, crcOk_makeFlit .., (makeFlit_header ..).2.2, (makeFlit_header ..).2.1,
    crcOk_makeFlit .., (makeFlit_header ..).2.2, (makeFlit_header ..).1, by decide +kernel, by decide +kernel, by decide +kernel, by decide +kernel⟩

/-- Records, nodes and kernels that wait for nothing, and one whose colophon's object is being moved. -/
def colophonMoves : State := { vectorMoves with
  unit := { vectorMoves.unit with ctxt := BitVec.ofNat 64 (0x740 + 2 ^ 39) }
  mem := writeBytes vectorMoves.mem 0x74000 (bytesOf 8 (0x100 + 8 * 2 ^ 39)) }

theorem test_hyp_units : recordWaits (labQ queueWord) (Vector.replicate 16 0) = false ∧
    (let i : QueueInfo := { queue := 0, word0 := BitVec.ofNat 64 queueWord, work := true, slot := true, whole := false }
     intakeWaits (labQ queueWord) i = false ∧ rangeBad (labQ queueWord) (recordBase (labQ queueWord) i) 128 = false ∧
       rangeBad { labQ queueWord with badMem := [0x73040 / 64] } (recordBase (labQ queueWord) i) 128 = true) ∧
    rangeHeld (labQ queueWord) (queueAddr (labQ queueWord) 0) 16 = false ∧ (labQ queueWord).softMem = [] ∧
    recordWaits colophonMoves ((Vector.replicate 16 0).set 1 (at_ 5 0)) = true ∧
    coloMoving (labK .waiting kernelRecord) (aNode 1 .waiting kernelRecord []) = false ∧
    kernelWaits (labK .ready kernelRecord) (aNode 1 .ready kernelRecord []) = false ∧
    (let r : Vector Word 16 := ((Vector.replicate 16 0).set 0 (3 + 8)).set 4 (at_ 3 8)
     condWaits (labK .ready r) (aNode 1 .ready r []) = false) := by decide +kernel

/-- A kernel of two harts for cores 0 and 1, of which hart 1 holds core 0, and the rest of the cluster is absent: it takes core 0 by
pre-emption. -/
def crowded : State :=
  let r := kernelRecord.set 10 (BitVec.ofNat 64 (2 + 2 ^ 14))
  let s := labK .ready r
  let s := { s with unit := { s.unit with nodes := s.unit.nodes.map fun n => { n with slices := 2 } } }
  (List.range 14).foldl (fun s i => modCore s (2 + i) fun c => { c with present := false }) s

theorem test_preemption : nextAnd (exec (.preemptCores 0 1) crowded) (fun t => t.unit.nodes.map (·.st) == [.running] &&
      (getCore t 0).swapAsked == some none && t.rest.any fun h => h.core == 0 && h.bank == .shadow) = true ∧
    nextAnd (exec (.kernelPlacement 0 1) crowded) (fun t => t.unit.nodes.map (·.st) == [.ready]) = true := by decide +kernel

/-- The host before bring-up is over, and an installation whose staged image lies in an object that is being moved. -/
theorem test_hyp_host : noWindows lab = true ∧ lab.boot = 0 ∧ State.reset.boot = 1 ∧
    (let s := labRt 64 []
     let m := match exec (.objmove (.s 3) (.s 8) (.s 9) 10) { s with me := { s.me with rtable := true, r := { s.me.r with x := (s.me.r.x.set 8 (at_ 2 0)).set 9 0x900 } } } with
       | .next t => t
       | _ => lab
     (match planInstall m (requestAt m 0x76000) with
      | .error none => true
      | _ => false) = true ∧ okAnd (resultPlaces m (requestAt m 0x76000)) (fun p => p.isSome) = true ∧
     nextAnd (exec .installObject m) (fun t => t.rot.queue.length == 1) = true) := by decide +kernel

/-- A core whose harts are to move, with a target in an active and in a gated cluster. -/
theorem test_hart_migration : (let s := modCore lab 0 fun c => { c with leaving := true }
     moveWaits s 0 = false ∧ moveTarget s 0 = some 1 ∧ galleysBusy s 1 = false ∧ clusterActive s 0 = true) ∧
    (let s := (List.range 15).foldl (fun s i => modCore s (1 + i) fun c => { c with present := false }) (modCore lab 0 fun c => { c with leaving := true })
     let g := modCluster s 1 fun c => { c with pstate := .gated }
     moveTarget g 0 = some 16 ∧ galleysBusy g 16 = false ∧ nextAnd (exec (.hartMigration 0) g) (fun t => t.clusters[1].pstate == .waking && t.me.core == 0) = true) ∧
    moveWaits lab 17 = false := by decide +kernel

end Sys2Proof.Tests
end

section
/-! PROOF. Decoding undoes encoding (R122 to R127): of each instruction by its law, and of the bytes of a word in order. -/

namespace Sys2Proof.Laws.RoundTrip

/-- The word of a well-formed instruction decodes to it: one law for each row of the opcode table. -/
theorem decode_encodeWord : ∀ i : Instr, Statement i
  | .add sd sa sb => add sd sa sb | .sub sd sa sb => sub sd sa sb | .and sd sa sb => and sd sa sb | .or sd sa sb => or sd sa sb
  | .xor sd sa sb => xor sd sa sb | .sll sd sa sb => sll sd sa sb | .srl sd sa sb => srl sd sa sb | .sra sd sa sb => sra sd sa sb
  | .slt sd sa sb => slt sd sa sb | .sltu sd sa sb => sltu sd sa sb | .min sd sa sb => min sd sa sb | .max sd sa sb => max sd sa sb
  | .minu sd sa sb => minu sd sa sb | .maxu sd sa sb => maxu sd sa sb | .clz sd sa => clz sd sa | .ctz sd sa => ctz sd sa
  | .popc sd sa => popc sd sa | .mul sd sa sb => mul sd sa sb | .mulh sd sa sb => mulh sd sa sb | .mulhu sd sa sb => mulhu sd sa sb
  | .div sd sa sb => div sd sa sb | .divu sd sa sb => divu sd sa sb | .rem sd sa sb => rem sd sa sb | .remu sd sa sb => remu sd sa sb
  | .addi sd sa imm => addi sd sa imm | .andi sd sa imm => andi sd sa imm | .ori sd sa imm => ori sd sa imm
  | .xori sd sa imm => xori sd sa imm | .slti sd sa imm => slti sd sa imm | .sltiu sd sa imm => sltiu sd sa imm
  | .slli sd sa sh => slli sd sa sh | .srli sd sa sh => srli sd sa sh | .srai sd sa sh => srai sd sa sh | .lih sd imm => lih sd imm
  | .pchi sd imm => pchi sd imm | .obj sd sa sb => obj sd sa sb | .objh sd sa sb => objh sd sa sb | .objo sd sa => objo sd sa
  | .ldb sd sa g imm => ldb sd sa g imm | .ldh sd sa g imm => ldh sd sa g imm | .ldw sd sa g imm => ldw sd sa g imm
  | .ldd sd sa g imm => ldd sd sa g imm | .ldbu sd sa g imm => ldbu sd sa g imm | .ldhu sd sa g imm => ldhu sd sa g imm
  | .ldwu sd sa g imm => ldwu sd sa g imm | .stb sb sa imm g => stb sb sa imm g | .sth sb sa imm g => sth sb sa imm g
  | .stw sb sa imm g => stw sb sa imm g | .std sb sa imm g => std sb sa imm g | .amoadd sd sa sb g => amoadd sd sa sb g
  | .amoswap sd sa sb g => amoswap sd sa sb g | .amocas sd sa sb g => amocas sd sa sb g | .amoand sd sa sb g => amoand sd sa sb g
  | .amoor sd sa sb g => amoor sd sa sb g | .amoxor sd sa sb g => amoxor sd sa sb g | .amomin sd sa sb g => amomin sd sa sb g
  | .amomax sd sa sb g => amomax sd sa sb g | .amominu sd sa sb g => amominu sd sa sb g | .amomaxu sd sa sb g => amomaxu sd sa sb g
  | .beq sa sb off => beq sa sb off | .bne sa sb off => bne sa sb off | .blt sa sb off => blt sa sb off | .bge sa sb off => bge sa sb off
  | .bltu sa sb off => bltu sa sb off | .bgeu sa sb off => bgeu sa sb off | .jal sd off => jal sd off | .jalr sd sa imm => jalr sd sa imm
  | .stick sa fx => stick sa fx | .stickend => stickend | .loop sa sb fx => loop sa sb fx | .setvl sd sa g => setvl sd sa g
  | .setvlw sd sa sb g => setvlw sd sa sb g | .setvlx sd sa g imm => setvlx sd sa g imm | .setmode sa g => setmode sa g
  | .getmode sd g => getmode sd g | .setforme sa f => setforme sa f | .settile sa sb => settile sa sb | .gets sd n => gets sd n
  | .puts sa n => puts sa n | .strip sa sb => strip sa sb | .proof sa g => proof sa g | .endHart => endHart
  | .vadd dt g vd va vb => vadd dt g vd va vb | .vsub dt g vd va vb => vsub dt g vd va vb | .vmul dt g vd va vb => vmul dt g vd va vb
  | .vfma dt g vd va vb => vfma dt g vd va vb | .vfms dt g vd va vb => vfms dt g vd va vb | .vmin dt g vd va vb => vmin dt g vd va vb
  | .vmax dt g vd va vb => vmax dt g vd va vb | .vand dt g vd va vb => vand dt g vd va vb | .vor dt g vd va vb => vor dt g vd va vb
  | .vxor dt g vd va vb => vxor dt g vd va vb | .vshl dt g vd va vb => vshl dt g vd va vb | .vshr dt g vd va vb => vshr dt g vd va vb
  | .vsra dt g vd va vb => vsra dt g vd va vb | .vdiv dt g vd va vb => vdiv dt g vd va vb | .vcmpeq dt g vd va vb => vcmpeq dt g vd va vb
  | .vcmpne dt g vd va vb => vcmpne dt g vd va vb | .vcmplt dt g vd va vb => vcmplt dt g vd va vb
  | .vcmple dt g vd va vb => vcmple dt g vd va vb | .vsel g vd va vb => vsel g vd va vb | .vclamp dt g vd va vb => vclamp dt g vd va vb
  | .vslideup dt g vd va vb => vslideup dt g vd va vb | .vslidedn dt g vd va vb => vslidedn dt g vd va vb
  | .vperm dt g vd va vb => vperm dt g vd va vb | .vexpand dt g vd va vb => vexpand dt g vd va vb
  | .vcompress dt g vd va vb => vcompress dt g vd va vb | .vabs dt g vd va => vabs dt g vd va | .vneg dt g vd va => vneg dt g vd va
  | .vnot dt g vd va => vnot dt g vd va | .vsqrt dt g vd va => vsqrt dt g vd va | .vrcp dt g vd va => vrcp dt g vd va
  | .vrsq dt g vd va => vrsq dt g vd va | .vexp2 dt g vd va => vexp2 dt g vd va | .vlog2 dt g vd va => vlog2 dt g vd va
  | .vcvt dt g vd va => vcvt dt g vd va | .viota dt g vd va => viota dt g vd va | .vconflict dt g vd va => vconflict dt g vd va
  | .vmv dt g vd va => vmv dt g vd va | .vbcast dt g vd va => vbcast dt g vd va | .vextract g vd va => vextract g vd va
  | .vredsum dt g vd va => vredsum dt g vd va | .vredmax dt g vd va => vredmax dt g vd va | .vredmin dt g vd va => vredmin dt g vd va
  | .mand dt g vd va vb => mand dt g vd va vb | .mor dt g vd va vb => mor dt g vd va vb | .mxor dt g vd va vb => mxor dt g vd va vb
  | .mandn dt g vd va vb => mandn dt g vd va vb | .mpop dt g vd va => mpop dt g vd va | .mfirst dt g vd va => mfirst dt g vd va
  | .mset dt g vd => mset dt g vd | .mclr dt g vd => mclr dt g vd | .vld dt g vd sa => vld dt g vd sa
  | .vlds dt g vd sa sb => vlds dt g vd sa sb | .vldt dt g vd sa => vldt dt g vd sa | .vldb g vd sa => vldb g vd sa
  | .vldpk dt g vd sa sb => vldpk dt g vd sa sb | .vst dt g vd sa => vst dt g vd sa | .vstu dt g vd sa => vstu dt g vd sa
  | .vsts dt g vd sa sb => vsts dt g vd sa sb | .vstt dt g vd sa => vstt dt g vd sa | .vstpk dt g vd sa sb => vstpk dt g vd sa sb
  | .vldx dt g vd sa vi => vldx dt g vd sa vi | .vstx dt g vd sa vi => vstx dt g vd sa vi
  | .vamoadd dt g vd sa vi => vamoadd dt g vd sa vi | .vamomax dt g vd sa vi => vamomax dt g vd sa vi
  | .vamomin dt g vd sa vi => vamomin dt g vd sa vi | .mma dt g vd va vb => mma dt g vd va vb | .mmas dt g vd va vb => mmas dt g vd va vb
  | .mmau dt g vd va vb => mmau dt g vd va vb | .vwmul dt g vd va vb => vwmul dt g vd va vb | .vwmac dt g vd va vb => vwmac dt g vd va vb
  | .vextf dt g vd va => vextf dt g vd va | .vpack dt g vd va => vpack dt g vd va | .vunpack dt g vd va => vunpack dt g vd va
  | .mzero g vd => mzero g vd | .msums dt g vd va => msums dt g vd va | .drain g vd va => drain g vd va
  | .draina g vd va => draina g vd va | .drainq g vd va => drainq g vd va | .drainrc g vd va => drainrc g vd va | .cset sa n => cset sa n
  | .cget sd n => cget sd n | .claunch sd se g => claunch sd se g | .ccancel sd sa => ccancel sd sa | .coll sd se g => coll sd se g
  | .gdecl sa sb => gdecl sa sb | .gstate sd sa sb => gstate sd sa sb | .gfree sa => gfree sa | .syncinit sa sb => syncinit sa sb
  | .syncwait sd sa sb g => syncwait sd sa sb g | .gbar sa g => gbar sa g | .garrive sd sa g => garrive sd sa g
  | .gwait sa sb g => gwait sa sb g | .trap n => trap n | .eret => eret | .brk => brk | .swapctx => swapctx | .spillwait => spillwait
  | .icinv sd sa sb g => icinv sd sa sb g | .orcinv sd sa g => orcinv sd sa g | .objmove sd sa sb fx => objmove sd sa sb fx
  | .flagclr sd sa => flagclr sd sa | .ctrrd sd sa => ctrrd sd sa | .nop bits => nop bits | .asyncTrap => asyncTrap
  | .qdeadlock => qdeadlock | .memoryOpPerform hid seq => memoryOpPerform hid seq | .watermarkReread hid => watermarkReread hid
  | .orcFill core ctx handle => orcFill core ctx handle | .mapEntryFill core ctx handle st => mapEntryFill core ctx handle st
  | .copyBlock x k => copyBlock x k | .copyEnd x => copyEnd x | .moveDrainEnd x => moveDrainEnd x | .moveCopyEnd x => moveCopyEnd x
  | .moveAbort x code elem => moveAbort x code elem | .collReady comm idx rank staged => collReady comm idx rank staged
  | .collAbort comm idx rank => collAbort comm idx rank | .collDecision x verdict => collDecision x verdict | .icinvDone x => icinvDone x
  | .orcinvDone x => orcinvDone x | .bankExchange core => bankExchange core | .spillDone core => spillDone core
  | .bankFillDone core ctx => bankFillDone core ctx | .registerWrite off size val => registerWrite off size val
  | .mcbRetirePch die pch => mcbRetirePch die pch | .topcut die => topcut die | .migrationStart die => migrationStart die
  | .migrateUnit die => migrateUnit die | .migrationEnd die => migrationEnd die | .mcbNrpWrite die val => mcbNrpWrite die val
  | .mcbSeedWrite die val => mcbSeedWrite die val | .activate die pch draw => activate die pch draw
  | .activationAlert die pch => activationAlert die pch | .backoffWindowEnd die pch => backoffWindowEnd die pch
  | .patrolScrub die unit errs => patrolScrub die unit errs | .cxwWrite n val => cxwWrite n val | .cxlLinkDown port => cxlLinkDown port
  | .cxlPortTrained port gen most width => cxlPortTrained port gen most width | .retrain port => retrain port
  | .iuDoorbell val => iuDoorbell val | .queueSlotGrant queue => queueSlotGrant queue | .timesliceEnd => timesliceEnd
  | .recordIntake queue => recordIntake queue | .decrement ctx node real => decrement ctx node real
  | .conditionalRead ctx node => conditionalRead ctx node | .kernelPlacement ctx node => kernelPlacement ctx node
  | .preemptCores ctx node => preemptCores ctx node | .nodeComplete ctx node => nodeComplete ctx node
  | .hartMigration core => hartMigration core | .coreRetire core => coreRetire core | .iuKill val => iuKill val
  | .rtReqGo val => rtReqGo val | .installObject => installObject | .removeObject => removeObject
  | .hostWrite addr bytes => hostWrite addr bytes | .hostRead addr n => hostRead addr n | .msixVector0Timer => msixVector0Timer
  | .flitReceive port flit => flitReceive port flit | .laneRepair port => laneRepair port
  | .stolierRetrainEnd port ok partner => stolierRetrainEnd port ok partner | .force port lane => force port lane
  | .stlctlEn port en => stlctlEn port en | .fatalError cause die unit => fatalError cause die unit | .dumpComplete => dumpComplete
  | .levelWindowBoundary cl => levelWindowBoundary cl | .powerEval die mw => powerEval die mw | .thermalEval die => thermalEval die
  | .tempRefresh cl t => tempRefresh cl t | .vsramEval die core found => vsramEval die core found
  | .sramScrub core what pos => sramScrub core what pos | .gateHoldEnd cl => gateHoldEnd cl | .wakeRequest cl => wakeRequest cl
  | .wakeRampStart => wakeRampStart | .wakeDone => wakeDone | .gateenWrite cl en => gateenWrite cl en | .packageReset => packageReset
  | .illegalInstruction w => illegalInstruction w | .fetchFault => fetchFault | .stolierLinkLoss port => stolierLinkLoss port

/-- The four bytes of a word, least significant first, make it up again (R2). -/
theorem wordOfBytes_extract (w : BitVec 32) :
    wordOfBytes (w.extractLsb' 0 8) (w.extractLsb' 8 8) (w.extractLsb' 16 8) (w.extractLsb' 24 8) = w :=
  calc wordOfBytes (w.extractLsb' 0 8) (w.extractLsb' 8 8) (w.extractLsb' 16 8) (w.extractLsb' 24 8)
      = w.extractLsb' 16 16 ++ w.extractLsb' 8 8 ++ w.extractLsb' 0 8 :=
        congrArg (· ++ w.extractLsb' 8 8 ++ w.extractLsb' 0 8) (BitVec.extractLsb'_append_extractLsb'_eq_extractLsb' rfl)
    _ = w.extractLsb' 8 24 ++ w.extractLsb' 0 8 :=
        congrArg (· ++ w.extractLsb' 0 8) (BitVec.extractLsb'_append_extractLsb'_eq_extractLsb' rfl)
    _ = w.extractLsb' 0 32 := BitVec.extractLsb'_append_extractLsb'_eq_extractLsb' rfl
    _ = w := cutAll w

/-- Four bytes that decode leave the bytes after them. -/
theorem decodeBytes_extract (w : BitVec 32) (i : Instr) (rest : List Byte) (h : decode w = .ok i) :
    decodeBytes (w.extractLsb' 0 8 :: w.extractLsb' 8 8 :: w.extractLsb' 16 8 :: w.extractLsb' 24 8 :: rest) = .ok (i, rest) := by
  simp only [decodeBytes, wordOfBytes_extract, h]

/-- Settles O2: the law of each instruction about its word, and the bytes of a word in order. -/
theorem decodeOfEncode : Obligations.DecodeOfEncode := fun i w rest wf encoded =>
  decodeBytes_extract w i rest (decode_encodeWord i wf w encoded)

end Sys2Proof.Laws.RoundTrip
end

section
/-! PROOF. Memory bit by bit: which bits a place reads, and which a write of a place changes (R2, R68, R77, R163). -/

namespace Sys2Proof.Machine

/-! ## Bits of numbers -/

/-- A replaced field, as the part above it, its value and the part below it. -/
theorem putBits_eq (x lo n v : Nat) :
    putBits x lo n v = 2 ^ lo * (2 ^ n * (x / 2 ^ (lo + n)) + v % 2 ^ n) + x % 2 ^ lo := by
  have parts : 2 ^ lo * (2 ^ n * (x / 2 ^ (lo + n)) + x / 2 ^ lo % 2 ^ n) + x % 2 ^ lo = x := by
    rw [Nat.pow_add, ← Nat.div_div_eq_div_mul, Nat.div_add_mod, Nat.div_add_mod]
  simp only [putBits, bitsOf, Nat.shiftRight_eq_div_pow, Nat.shiftLeft_eq, Nat.mul_comm _ (2 ^ lo)]
  rw [Nat.mul_add] at parts ⊢
  omega

/-- The bits of a number with one field replaced. -/
theorem testBit_putBits (x lo n v i : Nat) :
    (putBits x lo n v).testBit i = if lo ≤ i ∧ i < lo + n then v.testBit (i - lo) else x.testBit i := by
  rw [putBits_eq, Nat.testBit_two_pow_mul_add _ (Nat.mod_lt _ (Nat.two_pow_pos lo)),
    Nat.testBit_two_pow_mul_add _ (Nat.mod_lt _ (Nat.two_pow_pos n)), Nat.testBit_mod_two_pow, Nat.testBit_mod_two_pow,
    Nat.testBit_div_two_pow]
  by_cases below : i < lo
  · have outside : ¬ (lo ≤ i ∧ i < lo + n) := by omega
    simp [below, outside]
  · by_cases inside : i < lo + n
    · have here : lo ≤ i ∧ i < lo + n := by omega
      have shifted : i - lo < n := by omega
      simp [below, here, shifted]
    · have above : ¬ i - lo < n := by omega
      have back : i - lo - n + (lo + n) = i := by omega
      simp [below, inside, above, back]

/-- A bit of a number made of bytes is a bit of one of them. -/
theorem testBit_ofBytes (bs : List Byte) (i : Nat) :
    (ofBytes bs).testBit i = (bs.getD (i / 8) 0).toNat.testBit (i % 8) := by
  induction bs generalizing i with
  | nil => simp [ofBytes]
  | cons b bs ih =>
    rw [ofBytes, Nat.add_comm, show 256 = 2 ^ 8 from rfl, Nat.testBit_two_pow_mul_add _ b.isLt]
    by_cases first : i < 8
    · simp [first, Nat.div_eq_of_lt first, Nat.mod_eq_of_lt first]
    · have next : i / 8 = (i - 8) / 8 + 1 := by omega
      have same : (i - 8) % 8 = i % 8 := by omega
      simp [first, ih, next, same]

/-! ## Bits of a memory -/

/-- One bit of a memory: of the byte at an address, the bit of a number. -/
def memBit (m : Cells) (b : Nat × Nat) : Bool := (readByte m b.1).toNat.testBit b.2

/-- A byte has eight bits. -/
theorem memBit_high (m : Cells) (b : Nat × Nat) (h : 8 ≤ b.2) : memBit m b = false :=
  Nat.testBit_lt_two_pow (Nat.lt_of_lt_of_le (readByte m b.1).isLt (Nat.pow_le_pow_right (by decide) h))

/-- A number that is read has the bits of its bytes, eight for each. -/
theorem testBit_readNat (m : Cells) (a n i : Nat) (h : i < 8 * n) :
    (readNat m a n).testBit i = memBit m (a + i / 8, i % 8) := by
  have inside : i / 8 < n := by omega
  simp [readNat, testBit_ofBytes, readBytes, memBit, inside]

/-- The bits of a number that is written. -/
theorem memBit_writeNat_same (m : Cells) (a n v i : Nat) (w : Memory.wf m = true) (h : i < 8 * n) :
    memBit (writeNat m a n v) (a + i / 8, i % 8) = v.testBit i := by
  rw [← testBit_readNat _ _ _ _ h, readNat_writeNat_same m a n v w, show 256 = 2 ^ 8 from rfl, ← Nat.pow_mul,
    Nat.testBit_mod_two_pow]
  simp [h]

/-- A number that is written leaves the bits of other bytes alone. -/
theorem memBit_writeNat_other (m : Cells) (a n v : Nat) (b : Nat × Nat) (w : Memory.wf m = true)
    (h : b.1 < a ∨ a + n ≤ b.1) : memBit (writeNat m a n v) b = memBit m b := by
  rw [memBit, readByte_writeNat_other m a n v b.1 w h, memBit]

/-! ## Bits of a place -/

/-- Where a bit lies that is counted from the first byte of a place. -/
def bitSpot (p : Place) (b : Nat) : Nat × Nat :=
  match p.next with
  | none => (p.addr + b / 8, b % 8)
  | some a => if b < 8 then (p.addr, b) else (a, b - 8)

/-- The bits of a place are those from its first bit on. -/
theorem mem_placeBits (p : Place) (x : Nat × Nat) :
    x ∈ placeBits p ↔ ∃ b, p.bit ≤ b ∧ b < p.bit + p.bits ∧ bitSpot p b = x := by
  have form : placeBits p = (List.range p.bits).map fun i => bitSpot p (p.bit + i) := rfl
  rw [form, List.mem_map]
  constructor
  · rintro ⟨i, hi, rfl⟩
    exact ⟨p.bit + i, by omega, by simpa using hi, rfl⟩
  · rintro ⟨b, low, high, rfl⟩
    exact ⟨b - p.bit, List.mem_range.2 (by omega), by rw [Nat.add_sub_cancel' low]⟩

/-- The whole bytes of a place as one number. -/
def placeNat (m : Cells) (p : Place) : Nat :=
  match p.next with
  | none => readNat m p.addr (ceilDiv (p.bit + p.bits) 8)
  | some a => readNat m p.addr 1 + readNat m a 1 <<< 8

theorem readBits_eq (m : Cells) (p : Place) : readBits m p = bitsOf (placeNat m p) p.bit p.bits := by
  unfold readBits placeNat
  cases p.next <;> rfl

/-- The bytes of a place hold its bits. -/
theorem testBit_placeNat (m : Cells) (p : Place) (b : Nat) (h : p.next = none → b < 8 * ceilDiv (p.bit + p.bits) 8) :
    (placeNat m p).testBit b = memBit m (bitSpot p b) := by
  unfold placeNat bitSpot
  cases e : p.next with
  | none => exact testBit_readNat m _ _ _ (h e)
  | some a =>
    have low (c : Nat) : readNat m c 1 = (readByte m c).toNat := by simp [readNat, readBytes, ofBytes]
    simp only [low, Nat.shiftLeft_eq, Nat.add_comm (readByte m p.addr).toNat, Nat.mul_comm _ (2 ^ 8)]
    rw [Nat.testBit_two_pow_mul_add _ (readByte m p.addr).isLt]
    split <;> rfl

/-- The bits that a place reads. -/
theorem testBit_readBits (m : Cells) (p : Place) (i : Nat) :
    (readBits m p).testBit i = (decide (i < p.bits) && memBit m (bitSpot p (p.bit + i))) := by
  rw [readBits_eq, bitsOf, Nat.testBit_mod_two_pow, Nat.testBit_shiftRight]
  by_cases inside : i < p.bits
  · rw [testBit_placeNat m p (p.bit + i) fun _ => by simp only [ceilDiv]; omega]
  · simp [inside]

/-- The bits of one byte that is written. -/
theorem memBit_writeNat_byte (m : Cells) (a v j : Nat) (w : Memory.wf m = true) (h : j < 8) :
    memBit (writeNat m a 1 v) (a, j) = v.testBit j := by
  have spot := memBit_writeNat_same m a 1 v j w h
  rwa [Nat.div_eq_of_lt h, Nat.mod_eq_of_lt h] at spot

/-- What a write makes of the bytes of a place in one part. -/
theorem writeBits_whole (m : Cells) (p : Place) (v : Nat) (e : p.next = none) :
    writeBits m p v = writeNat m p.addr (ceilDiv (p.bit + p.bits) 8) (putBits (placeNat m p) p.bit p.bits v) := by
  simp only [writeBits, placeNat, e]

/-- What a write makes of the bytes of a place in two parts. -/
theorem writeBits_parted (m : Cells) (p : Place) (v a : Nat) (e : p.next = some a) :
    writeBits m p v = writeNat (writeNat m p.addr 1 (putBits (placeNat m p) p.bit p.bits v)) a 1
      (putBits (placeNat m p) p.bit p.bits v >>> 8) := by
  simp only [writeBits, placeNat, e]

/-- A bit written to a place stands there. -/
theorem memBit_writeBits_same (m : Cells) (p : Place) (v i : Nat) (w : Memory.wf m = true) (fits : placeFits p)
    (h : i < p.bits) : memBit (writeBits m p v) (bitSpot p (p.bit + i)) = v.testBit i := by
  have value : (putBits (placeNat m p) p.bit p.bits v).testBit (p.bit + i) = v.testBit i := by
    rw [testBit_putBits, if_pos (by omega), Nat.add_sub_cancel_left]
  cases e : p.next with
  | none =>
    rw [writeBits_whole m p v e, bitSpot, e, memBit_writeNat_same _ _ _ _ _ w (by simp only [ceilDiv]; omega), value]
  | some a =>
    obtain ⟨apart, short⟩ : a ≠ p.addr ∧ p.bit + p.bits ≤ 16 := by simpa only [placeFits, e] using fits
    have w' := wf_writeNat m p.addr 1 (putBits (placeNat m p) p.bit p.bits v) w
    rw [writeBits_parted m p v a e, bitSpot, e]
    dsimp only
    split
    · rw [memBit_writeNat_other _ _ _ _ _ w' (by dsimp only; omega), memBit_writeNat_byte _ _ _ _ w (by omega), value]
    · rw [memBit_writeNat_byte _ _ _ _ w' (by omega), Nat.testBit_shiftRight, Nat.add_sub_cancel' (by omega), value]

/-- A write of a place leaves every other bit as it was. -/
theorem memBit_writeBits_other (m : Cells) (p : Place) (v : Nat) (x : Nat × Nat) (w : Memory.wf m = true)
    (h : x ∉ placeBits p) : memBit (writeBits m p v) x = memBit m x := by
  obtain ⟨c, j⟩ := x
  rcases Nat.lt_or_ge j 8 with low | high
  swap
  · rw [memBit_high _ _ high, memBit_high _ _ high]
  -- a bit of the bytes of the place that lies outside its field keeps its value
  have kept (b : Nat) (here : bitSpot p b = (c, j)) (held : p.next = none → b < 8 * ceilDiv (p.bit + p.bits) 8) :
      (putBits (placeNat m p) p.bit p.bits v).testBit b = memBit m (c, j) := by
    have outside : ¬ (p.bit ≤ b ∧ b < p.bit + p.bits) := fun ⟨first, last⟩ => h ((mem_placeBits p _).2 ⟨b, first, last, here⟩)
    rw [testBit_putBits, if_neg outside, testBit_placeNat m p b held, here]
  cases e : p.next with
  | none =>
    rw [writeBits_whole m p v e]
    by_cases covered : p.addr ≤ c ∧ c < p.addr + ceilDiv (p.bit + p.bits) 8
    · have held : 8 * (c - p.addr) + j < 8 * ceilDiv (p.bit + p.bits) 8 := by omega
      have spot : (p.addr + (8 * (c - p.addr) + j) / 8, (8 * (c - p.addr) + j) % 8) = (c, j) := by
        simp only [Prod.mk.injEq]; omega
      rw [← kept (8 * (c - p.addr) + j) (by rw [bitSpot, e]; exact spot) fun _ => held, ← spot]
      exact memBit_writeNat_same _ _ _ _ _ w held
    · exact memBit_writeNat_other _ _ _ _ _ w (by dsimp only; omega)
  | some a =>
    have w' := wf_writeNat m p.addr 1 (putBits (placeNat m p) p.bit p.bits v) w
    have parted (b : Nat) : p.next = none → b < 8 * ceilDiv (p.bit + p.bits) 8 := fun whole => absurd whole (by simp [e])
    rw [writeBits_parted m p v a e]
    by_cases second : c = a
    · subst second
      rw [memBit_writeNat_byte _ _ _ _ w' low, Nat.testBit_shiftRight]
      exact kept (8 + j) (by simp [bitSpot, e]) (parted _)
    · rw [memBit_writeNat_other _ _ _ _ _ w' (by dsimp only; omega)]
      by_cases first : c = p.addr
      · subst first
        rw [memBit_writeNat_byte _ _ _ _ w low]
        exact kept j (by simp [bitSpot, e, low]) (parted _)
      · exact memBit_writeNat_other _ _ _ _ _ w (by dsimp only; omega)

/-! ## Places of the package -/

/-- Cells that are replaced are found again. -/
@[simp] theorem cellsOf_setCells_same (s : State) (core : Option Nat) (m : Cells) : cellsOf (setCells s core m) core = m := by
  cases core with
  | none => rfl
  | some c => rw [setCells, cellsOf, getCore_modCore_same]

/-- Replacing the cells of a space leaves every other space as it was. -/
theorem cellsOf_setCells_other (s : State) (core other : Option Nat) (m : Cells) (h : other ≠ core) :
    cellsOf (setCells s core m) other = cellsOf s other := by
  cases core with
  | none =>
    cases other with
    | none => exact absurd rfl h
    | some c => rfl
  | some c =>
    cases other with
    | none => rfl
    | some d => rw [setCells, cellsOf, getCore_modCore_other s c d _ fun e => h (congrArg some e), cellsOf]

/-- The writes to places alone, one after another, with no error correction. -/
def putPlaces (s : State) (ws : List (Place × Nat)) : State :=
  ws.foldl (fun t w => setCells t w.1.core (writeBits (cellsOf t w.1.core) w.1 w.2)) s

/-- A change of every core that keeps its number and its scratchpad leaves what the scratchpads hold as it was. -/
theorem scratch_mapCores (s : State) (f : Nat × Core → Nat × Core) (number : ∀ c, (f c).1 = c.1)
    (scratch : ∀ c, (f c).2.scratch = c.2.scratch) (n : Nat) :
    (getCore { s with cores := s.cores.map f } n).scratch = (getCore s n).scratch := by
  have found : (s.cores.map f).find? (fun c => c.1 == n) = (s.cores.find? fun c => c.1 == n).map f := by
    rw [List.find?_map]
    congr 2
    exact funext fun c => by rw [Function.comp, number]
  simp only [getCore, found]
  cases s.cores.find? fun c => c.1 == n with
  | none => rfl
  | some c => exact scratch c

/-- Error correction in scratchpads leaves what they hold as it was. -/
@[simp] theorem cellsOf_settleScratch (s : State) (ws : List (Place × Nat)) (core : Option Nat) :
    cellsOf (settleScratch s ws) core = cellsOf s core := by
  cases core with
  | none => rfl
  | some c =>
    refine scratch_mapCores s _ (fun k => ?_) (fun k => ?_) c
    all_goals dsimp only; split <;> rfl

/-- What the memories hold after writes to places: error correction changes none of it. -/
theorem cellsOf_writePlaces (s : State) (ws : List (Place × Nat)) (core : Option Nat) :
    cellsOf (writePlaces s ws) core = cellsOf (putPlaces s ws) core := by
  have ecc (t : State) (l : List Nat) : cellsOf (settleEcc t l) core = cellsOf t core := by
    cases core with
    | none => exact (settleEcc_memory t l).1
    | some c => simp only [cellsOf, getCore, (settleEcc_memory t l).2]
  unfold writePlaces
  rw [← putPlaces]
  dsimp only
  split <;> split <;> simp only [ecc, cellsOf_settleScratch]

/-- What a memory holds after a write to one place: the bits of the place are written where it lies in that memory. -/
theorem cellsOf_writePlace (s : State) (p : Place) (v : Nat) (core : Option Nat) :
    cellsOf (writePlaces s [(p, v)]) core = if core = p.core then writeBits (cellsOf s core) p v else cellsOf s core := by
  rw [cellsOf_writePlaces]
  show cellsOf (setCells s p.core (writeBits (cellsOf s p.core) p v)) core = _
  split
  · rename_i here
    rw [here, cellsOf_setCells_same]
  · rename_i elsewhere
    exact cellsOf_setCells_other s p.core core _ elsewhere

/-- What is written to a place is read back from it. -/
theorem readPlace_writePlaces_same (s : State) (p : Place) (v : Nat) (w : memoriesWf s) (fits : placeFits p) :
    readPlace (writePlaces s [(p, v)]) p = v % 2 ^ p.bits := by
  rw [readPlace, cellsOf_writePlace, if_pos rfl]
  refine Nat.eq_of_testBit_eq fun i => ?_
  rw [testBit_readBits, Nat.testBit_mod_two_pow]
  by_cases inside : i < p.bits
  · rw [memBit_writeBits_same _ p v i (cellsOf_wf w _) fits inside]
  · simp [inside]

/-- A place that shares no bit with the written one reads as before. -/
theorem readPlace_writePlaces_other (s : State) (p q : Place) (v : Nat) (w : memoriesWf s)
    (h : p.core ≠ q.core ∨ ∀ b ∈ placeBits p, b ∉ placeBits q) : readPlace (writePlaces s [(p, v)]) q = readPlace s q := by
  rw [readPlace, cellsOf_writePlace, readPlace]
  split
  · rename_i here
    have apart : ∀ b ∈ placeBits p, b ∉ placeBits q := h.resolve_left fun ne => ne here.symm
    refine Nat.eq_of_testBit_eq fun i => ?_
    rw [testBit_readBits, testBit_readBits]
    by_cases inside : i < q.bits
    · have mine : bitSpot q (q.bit + i) ∈ placeBits q := (mem_placeBits q _).2 ⟨q.bit + i, by omega, by omega, rfl⟩
      rw [memBit_writeBits_other _ p v _ (cellsOf_wf w _) fun theirs => apart _ theirs mine]
    · simp [inside]
  · rfl

/-- A byte of main memory that no written place reaches is unchanged. -/
theorem readByte_writePlaces_other (s : State) (ws : List (Place × Nat)) (a : Nat) (w : memoriesWf s)
    (h : ∀ x ∈ ws, x.1.core = none → a ∉ placeBytes x.1) : readByte (writePlaces s ws).mem a = readByte s.mem a := by
  have settled : (writePlaces s ws).mem = (putPlaces s ws).mem := cellsOf_writePlaces s ws none
  rw [settled]
  clear settled
  induction ws generalizing s with
  | nil => rfl
  | cons x ws ih =>
    obtain ⟨hx, hws⟩ := List.forall_mem_cons.1 h
    have first := cellsOf_wf w x.1.core
    rw [putPlaces, List.foldl_cons, ← putPlaces, ih _ (setCells_wf w _ (wf_writeBits _ _ _ first)) hws]
    cases e : x.1.core with
    | none => exact readByte_writeBits_other s.mem x.1 x.2 a w.1 (hx e)
    | some c => rfl

/-- Settles O10: a place is read and written bit by bit, and error correction changes no bit. -/
theorem readAfterWrite : Obligations.ReadAfterWrite :=
  ⟨readPlace_writePlaces_same, readPlace_writePlaces_other, readByte_writePlaces_other⟩

end Sys2Proof.Machine
end

section
/-! PROOF. Retirement, waiting, and traps behind earlier work (R122, R143, R264, R304). -/

namespace Sys2Proof.Machine

/-! ## Object addresses (R64) -/

/-- The handle of an object address is what stands above its offset. -/
theorem handleOf_eq (a : Word) : handleOf a = a.toNat / 2 ^ 44 := by
  have small : a.toNat / 2 ^ 44 < 2 ^ 20 := Nat.div_lt_of_lt_mul a.isLt
  rw [handleOf, field, bitsOf, Nat.shiftRight_eq_div_pow, Nat.mod_eq_of_lt small]

/-- The offset of an object address is its low 44 bits. -/
theorem offsetOf_eq (a : Word) : offsetOf a = a.toNat % 2 ^ 44 := rfl

/-- The next word lies 4 further on in the same object. -/
theorem nextPc_eq (pc : Word) :
    nextPc pc = BitVec.ofNat 64 (pc.toNat / 2 ^ 44 * 2 ^ 44 + (pc.toNat % 2 ^ 44 + 4) % 2 ^ 44) := by
  rw [nextPc, handleOf_eq, offsetOf_eq, wordOfNat]

/-! ## Retirement -/

/-- What retirement changes: the pc, RETIRED, an open stick body, progress mode and the wait. -/
theorem retire_eq (s : State) : retire s = { s with me := { s.me with wait := none, r := { s.me.r with
    pc := BitVec.ofNat 64 (s.me.r.pc.toNat / 2 ^ 44 * 2 ^ 44 + (s.me.r.pc.toNat % 2 ^ 44 + 4) % 2 ^ 44),
    retired := s.me.r.retired + 1, armed := false,
    stick := if s.me.r.stick.active then { s.me.r.stick with pos := s.me.r.stick.pos + 1 } else s.me.r.stick } } } := by
  rw [← nextPc_eq]
  rfl

/-! ## Stopping -/

/-- A cause other than uncorrectable data and the loss of a strip is taken as it stands, whatever the slot. -/
theorem preciseTrap_other (s : State) (t : TrapInfo) (slot : Option Word) (memory : t.code ≠ cUncorrectable)
    (lost : t.code ≠ cStripLost) : preciseTrap s t slot false false = takeTrap s t false false false := by
  have kept : stripLoss s t slot = (s, t) := by
    unfold stripLoss
    cases slot with
    | none => rfl
    | some g => exact if_neg fun ⟨code, _⟩ => memory code
  have plain : (t.code == cStripLost) = false := by simpa using lost
  simp [preciseTrap, kept, plain]

/-- A trap behind an instruction that has not retired waits for it. -/
theorem stopAt_trap_parked (s : State) (t : TrapInfo) (slot : Option Word) (h : anyParked s = true) :
    stopAt s (.trap t) slot = { s with me := { s.me with wait := some .earlier } } := by
  rw [stopAt, if_pos h]
  rfl

/-! ## The retirement of an instruction of the vector or access stream -/

/-- The core in focus and every other core, once the counts have reached it. -/
theorem getCore_settleCounts (s : State) (settled : s.me.flights.any unretired = false) (c : Nat) :
    getCore (settleCounts s) c = if c = s.me.core then addCore (getCore s c) s.me.r.counts else getCore s c := by
  unfold settleCounts
  by_cases zero : s.me.r.counts = Counts.zero
  · have still (k : Core) : addCore k Counts.zero = k := by simp [addCore, Counts.zero, wordOfNat]
    simp [zero, still]
  · rw [if_neg (by simp [settled, zero]), getCore_modRegs]
    by_cases mine : c = s.me.core
    · simp [mine]
    · rw [getCore_modCore_other _ _ _ _ mine, if_neg mine]

/-- Settling the counts changes cores and the counts of the hart in focus, and nothing else. -/
theorem settleCounts_frame (s : State) (settled : s.me.flights.any unretired = false) :
    settleCounts s = { s with cores := (settleCounts s).cores,
                              me := { s.me with r := { s.me.r with counts := Counts.zero } } } := by
  unfold settleCounts
  by_cases zero : s.me.r.counts = Counts.zero
  · rw [if_pos (.inr zero), ← zero]
  · rw [if_neg (by simp [settled, zero])]
    rfl

/-- An instruction of the vector or access stream that retires, before its counts reach the core. -/
def streamPassed (tile : Bool) (s : State) : State :=
  modMe s fun h => { passBy tile h with r := countRetired false (passBy tile h).r, pin := none }

theorem retireStream_eq (tile : Bool) (s : State) : retireStream false tile s = settleCounts (streamPassed tile s) := rfl

/-- What passing by an instruction changes: the pc, the start or the progress, RETIRED, the stick, the wait and the pin. -/
theorem streamPassed_eq (tile : Bool) (s : State) : streamPassed tile s = { s with me := { s.me with
    nextSeq := s.me.nextSeq + 1, wait := none, pin := none, r := { s.me.r with
      pc := nextPc s.me.r.pc, vstart := if tile then s.me.r.vstart else 0, prog := if tile then 0 else s.me.r.prog, armed := false,
      retired := s.me.r.retired + 1, stick := stickNext s.me.r.stick } } } := by
  cases tile <;> simp [streamPassed, modMe, passBy, countRetired, clearStart]

/-- An instruction of the vector or access stream that retires with nothing before it: what changes, but for the counters. -/
theorem retireStream_frame (s : State) (tile : Bool) (first : s.me.flights.any unretired = false) :
    retireStream false tile s = { s with cores := (retireStream false tile s).cores, me := { s.me with
      nextSeq := s.me.nextSeq + 1, wait := none, pin := none, r := { s.me.r with
        pc := nextPc s.me.r.pc, vstart := if tile then s.me.r.vstart else 0, prog := if tile then 0 else s.me.r.prog, armed := false,
        retired := s.me.r.retired + 1, counts := Counts.zero, stick := (retire s).me.r.stick } } } := by
  have settled : (streamPassed tile s).me.flights.any unretired = false := by simpa only [streamPassed_eq] using first
  have frame := settleCounts_frame (streamPassed tile s) settled
  simp only [retireStream_eq, retire_r_stick, streamPassed_eq] at frame ⊢
  exact frame

/-- The counters of the cores after it. -/
theorem getCore_retireStream (s : State) (tile : Bool) (first : s.me.flights.any unretired = false) (c : Nat) :
    getCore (retireStream false tile s) c = if c = s.me.core then addCore (getCore s c) s.me.r.counts else getCore s c := by
  have settled : (streamPassed tile s).me.flights.any unretired = false := by simpa only [streamPassed_eq] using first
  have cores : getCore (streamPassed tile s) c = getCore s c := getCore_modMe s _ c
  have counters := getCore_settleCounts (streamPassed tile s) settled c
  rw [cores] at counters
  simpa only [retireStream_eq, streamPassed_eq] using counters

/-- Settles O12: retirement and stopping by their equations, a stream's instruction by its frame and its counters. -/
theorem retirement : Obligations.Retirement := by
  refine ⟨fun s => ⟨retire_eq s, fun pc => rfl⟩, fun s slot => ⟨fun r => rfl, fun t h => stopAt_trap_parked s t slot h, ?_⟩, ?_⟩
  · intro t h memory lost
    rw [stopAt_trap s t slot h, preciseTrap_other s t slot memory lost]
  · intro s tile settled
    have first : s.me.flights.any unretired = false := by simpa using settled
    exact ⟨retireStream_frame s tile first, getCore_retireStream s tile first⟩

end Sys2Proof.Machine
end

section
/-! PROOF. Instruction fetch: which word it gives or which fault, and what it leaves alone (R57, R58, R122, R346). -/

namespace Sys2Proof.Machine

/-! ## What reading corrects leaves the hart in focus alone (R58) -/

/-- A fold of steps that leave the hart in focus alone leaves it alone. -/
theorem foldl_me {α : Type} (f : State → α → State) (step_me : ∀ t a, (f t a).me = t.me) (l : List α) (s : State) :
    (l.foldl f s).me = s.me := by
  induction l generalizing s with
  | nil => rfl
  | cons a l ih => rw [List.foldl_cons, ih, step_me]

@[simp] theorem modDie_me (s : State) (d : Nat) (f : Die → Die) : (modDie s d f).me = s.me := by
  unfold modDie
  split <;> rfl

@[simp] theorem modMcb_me (s : State) (d : Nat) (f : Mcb → Mcb) : (modMcb s d f).me = s.me := modDie_me s d _

@[simp] theorem setCells_me (s : State) (core : Option Nat) (m : Cells) : (setCells s core m).me = s.me := by
  cases core <;> rfl

@[simp] theorem settleEcc_me (s : State) (l : List Nat) : (settleEcc s l).me = s.me := by
  refine foldl_me _ (fun t w => ?_) _ _
  split
  · exact modMcb_me ..
  · rfl

@[simp] theorem writePlaces_me (s : State) (ws : List (Place × Nat)) : (writePlaces s ws).me = s.me := by
  have written : (ws.foldl (fun t w => setCells t w.1.core (writeBits (cellsOf t w.1.core) w.1 w.2)) s).me = s.me :=
    foldl_me _ (fun t w => setCells_me ..) _ _
  unfold writePlaces
  dsimp only
  split <;> split <;> simp only [settleEcc_me, written, settleScratch]

@[simp] theorem logEntry_me (s : State) (src code ctx queue : Nat) (w1 w2 : Word) (cl : Nat) :
    (logEntry s src code ctx queue w1 w2 cl).me = s.me := by
  have cycles : (readCycles s cl).2.me = s.me := by
    unfold readCycles
    split <;> rfl
  unfold logEntry
  dsimp only
  split
  · split
    · exact (writePlaces_me ..).trans cycles
    · exact cycles
  · rfl

@[simp] theorem logService_me (s : State) : (logService s).me = s.me := by
  unfold logService openWord
  exact logEntry_me ..

@[simp] theorem countCorrected_me (s : State) (d ch n : Nat) : (countCorrected s d ch n).me = s.me := by
  unfold countCorrected
  split
  · rfl
  · dsimp only
    split
    · rw [logService_me, modMcb_me]
    · exact modMcb_me ..

@[simp] theorem correctReads_me (s : State) (as : List Nat) : (correctReads s as).me = s.me := by
  refine foldl_me _ (fun t w => ?_) _ _
  dsimp only
  split
  · exact countCorrected_me ..
  · rfl

@[simp] theorem correctRange_me (s : State) (a n : Nat) : (correctRange s a n).me = s.me := by
  unfold correctRange
  split
  · rfl
  · exact correctReads_me ..

@[simp] theorem correctTable_me (s : State) (w : Who) (h : Nat) (subs : List Nat) : (correctTable s w h subs).me = s.me := by
  have record (inOrc : Bool) : (if inOrc then s else correctRange s (recordAddr w.otb h) 64).me = s.me := by
    cases inOrc
    · exact correctRange_me ..
    · rfl
  unfold correctTable
  dsimp only
  split
  · rfl
  · split
    · split
      · exact record _
      · exact (foldl_me _ (fun t st => correctRange_me ..) _ _).trans (record _)
    · exact record _

/-- With no correctable error waiting, a read corrects nothing. -/
theorem correctReads_clean (s : State) (as : List Nat) (clean : s.softMem = []) : correctReads s as = s := by
  simp [correctReads, clean]

theorem correctTable_clean (s : State) (w : Who) (h : Nat) (subs : List Nat) (clean : s.softMem = []) :
    correctTable s w h subs = s := by
  simp [correctTable, clean]

/-! ## Instruction fetch (R122, R346) -/

/-- The permission fault of a fetch at an address. -/
def fetchPermission (pc : Word) : Stop := .trap { code := cPermission, info := addrInfo (handleOf pc) 3 0 0 }

/-- Registered text of the context of the hart in focus holds a place (R346). -/
def inText (s : State) (p : Place) : Prop :=
  ∃ t, textRangeOf s s.me.ctx p.addr = some t ∧ p.addr + p.bits / 8 ≤ t.phys + t.len

/-- A test of places that those of all elements pass. -/
theorem all_places {es : List Element} {f : Place → Bool} (h : ∀ e ∈ es, f e.place = true) :
    ¬ (!(es.map (·.place)).all f) = true := by
  simpa using h

/-- A test of places that that of one element fails. -/
theorem not_all_places {es : List Element} {f : Place → Bool} {e : Element} (he : e ∈ es) (h : f e.place = false) :
    (!(es.map (·.place)).all f) = true := by
  simpa using ⟨e, he, h⟩

section
variable {s : State} {pc : Word} {es : List Element}

/-- A fetch from a galley fails: by permission where the hart may use it, else for its handle (R64, R346). -/
theorem fetchWord_galley {id : Nat} (h : galleyOf (handleOf pc) = some id) :
    fetchWord s pc = .error (.trap { code := if galleyUsable s s.me.ctx s.me.core s.me.gmask id then cPermission else cHandle,
                                     info := addrInfo (handleOf pc) 3 0 0 }) := by
  simp only [fetchWord, h]
  split <;> rfl

/-- A fetch that fails for want of a byte outside registered text fails by permission (R346, log 88). -/
theorem fetchWord_placeless {t : TrapInfo} (object : galleyOf (handleOf pc) = none)
    (failed : scalarElements s (whoMe s) 3 pc 4 = .error (.fault t)) (missing : placeless t = true) (outside : registered s pc = false) :
    fetchWord s pc = .error (fetchPermission pc) := by
  simp only [fetchWord, object, failed, missing, outside]
  rfl

/-- A fetch of bytes that are not registered text fails by permission (R346). -/
theorem fetchWord_unregistered (object : galleyOf (handleOf pc) = none) (translated : scalarElements s (whoMe s) 3 pc 4 = .ok es)
    {e : Element} (he : e ∈ es) (outside : ¬ inText s e.place) : fetchWord s pc = .error (fetchPermission pc) := by
  simp only [fetchWord, object, translated]
  rw [if_pos (not_all_places he ?_)]
  · rfl
  · cases range : textRangeOf s s.me.ctx e.place.addr with
    | none => rfl
    | some t => exact decide_eq_false fun inside => outside ⟨t, range, inside⟩

/-- A fetch of registered text that the instruction cache holds takes the word of the cache (R12, R74, log 10). -/
theorem fetchWord_cached (object : galleyOf (handleOf pc) = none) (translated : scalarElements s (whoMe s) 3 pc 4 = .ok es)
    (text : ∀ e ∈ es, inText s e.place) {c : CachedWord}
    (hit : (getCore s s.me.core).icache.find? (fun e => e.ctx == s.me.ctx && e.pc == pc && e.addr == ((es.map (·.place.addr)).headD 0)) =
      some c) : fetchWord s pc = .ok (c.word, s) := by
  simp only [fetchWord, object, translated]
  rw [if_neg (all_places fun e he => ?_)]
  · simp only [List.map_map, Function.comp_def, hit]
  · obtain ⟨t, range, inside⟩ := text e he
    simp only [range, inside, decide_true]

/-- A fetch of registered text that the instruction cache does not hold takes the bytes of memory, where they hold no uncorrectable error and
no back-off window holds them; what it corrects and caches leaves the hart in focus alone (R2, R57, R122). -/
theorem fetchWord_memory (object : galleyOf (handleOf pc) = none) (translated : scalarElements s (whoMe s) 3 pc 4 = .ok es)
    (text : ∀ e ∈ es, inText s e.place)
    (miss : (getCore s s.me.core).icache.find? (fun e => e.ctx == s.me.ctx && e.pc == pc && e.addr == ((es.map (·.place.addr)).headD 0)) =
      none) (clean : cleanElements s es) (ready : backoffAt s (memoryBytes (es.map (·.place))) = false) :
    ∃ t, fetchWord s pc = .ok (BitVec.ofNat 32 (readPlaces s (es.map (·.place))), t) ∧ t.me = s.me ∧
      (s.softMem = [] → t.mem = s.mem) := by
  have sound : (es.zipIdx.find? fun x => placeBad s x.1.place) = none :=
    List.find?_eq_none.2 fun x hx => by simp [clean x.1 (List.fst_mem_of_mem_zipIdx hx)]
  simp only [fetchWord, object, translated]
  rw [if_neg (all_places fun e he => ?_)]
  · simp only [List.map_map, Function.comp_def, miss, ready, sound]
    refine ⟨_, rfl, ?_, fun quiet => ?_⟩
    · rw [modCore_me, correctTable_me, correctReads_me]
    · rw [modCore_mem, correctReads_clean s _ quiet, correctTable_clean s _ _ _ quiet]
  · obtain ⟨t, range, inside⟩ := text e he
    simp only [range, inside, decide_true]

/-! ## The word at the pc -/

/-- With no stick body open the word at the pc is the fetched one. -/
theorem nextWord_fetched {t : State} {w : BitVec 32} (closed : s.me.r.stick.active = false)
    (h : fetchWord s s.me.r.pc = .ok (w, t)) : nextWord s = .ok (w, withStrong (strongAt s s.me.r.pc) t) := by
  simp [nextWord, closed, h]

/-- With no stick body open a fetch that fails is the failure of the word at the pc. -/
theorem nextWord_failed {st : Stop} (closed : s.me.r.stick.active = false) (h : fetchWord s s.me.r.pc = .error st) :
    nextWord s = .error st := by
  simp [nextWord, closed, h]

/-- No range of the context and the handle holds the four bytes at an address: they are not registered. -/
theorem registered_false (outside : ∀ r ∈ s.rot.ranges, r.ctx = s.me.ctx → r.handle = handleOf pc →
    offsetOf pc < r.lo ∨ r.lo + r.len < offsetOf pc + 4) : registered s pc = false := by
  refine List.any_eq_false.2 fun r hr => ?_
  simp only [Bool.and_eq_true, beq_iff_eq, decide_eq_true_eq, not_and]
  rintro ⟨⟨ctx, handle⟩, low⟩ high
  have := outside r hr ctx handle
  omega

end

/-- Settles O6: the four ways of a fetch, each by its law. -/
theorem fetchReadsMemory : Obligations.FetchReadsMemory := by
  refine ⟨fun s es closed object translated text => ⟨fun e hit => ?_, fun miss clean ready => ?_⟩,
    fun s es closed object translated ⟨e, he, outside⟩ => ?_, fun s id closed galley => ?_,
    fun s t closed object failed code outside => ?_⟩
  · exact ⟨_, nextWord_fetched closed (fetchWord_cached object translated text hit), rfl⟩
  · obtain ⟨t, fetched, me, mem⟩ := fetchWord_memory object translated text miss clean ready
    refine ⟨_, nextWord_fetched closed fetched, ?_, mem⟩
    rw [withStrong, modMe_me, me]
  · rw [← handleOf_eq]
    refine nextWord_failed closed (fetchWord_unregistered object translated he fun ⟨t, range, inside⟩ => ?_)
    exact absurd (outside t range) (by omega)
  · rw [← handleOf_eq]
    exact nextWord_failed closed (fetchWord_galley galley)
  · rw [← handleOf_eq] at outside ⊢
    have missing : placeless t = true := by rcases code with h | h | h <;> simp [placeless, h]
    exact nextWord_failed closed (fetchWord_placeless object failed missing (registered_false outside))

end Sys2Proof.Machine
end

section
/-! PROOF. The turn of the hart in focus, down to the word at its pc (log 1). -/

namespace Sys2Proof.Machine

/-! ## The turn of the hart in focus (log 1) -/

/-- The outcome of a hart's turn once the focus has passed on. -/
def focusPassed (o : Out) : Out :=
  match o with
  | .next u => .next (rotate u)
  | .fault f => .fault f
  | .refused r => .refused r

theorem hartStep_eq (s : State) : hartStep s = focusPassed (hartTurn s) := by
  unfold hartStep
  cases hartTurn s <;> rfl

/-- With the package up, no turn named and no other agent due, the turn is that of the hart in focus. -/
theorem takeTurn_hart (s : State) (free : s.agenda = []) (up : s.fatal = none) (booted : s.boot = 0) (idle : autoEvent s = none) :
    takeTurn s = .hart s := by
  simp [takeTurn, free, up, booted, takeUp, idle]

/-- A hart that runs, with no swap and no asynchronous cause to take, goes on. -/
theorem hartTurn_goOn (s : State) (live : runs s s.me = true) (swap : swapPending s s.me.core = false) (calm : asyncHeld s = false) :
    hartTurn s = goOn s := by
  simp [hartTurn, live, swap, calm]

/-- Where no instruction that waits can start, the next one of the scalar stream executes. -/
theorem goOn_fetchExec (s t : State) (h : tryParked s (s.me.flights.filter (·.parked)) = (false, t)) : goOn s = fetchExec t := by
  rw [goOn, h]

/-! ## The next instruction of the scalar stream -/

/-- A word that an open stick body does not stop is executed as the instruction it decodes to. -/
theorem fetchExec_decoded {s t : State} {w : BitVec 32} {i : Instr} (fetched : nextWord s = .ok (w, t)) (body : bodyStop w t = none)
    (h : decode w = .ok i) : fetchExec s = exec i t := by
  simp only [fetchExec, fetched, body, h]

/-- A word that is no instruction takes its step ILLEGAL_INSTRUCTION. -/
theorem fetchExec_illegal {s t : State} {w : BitVec 32} {e : DecodeError} (fetched : nextWord s = .ok (w, t))
    (body : bodyStop w t = none) (h : decode w = .error e) : fetchExec s = exec (.illegalInstruction w) t := by
  simp only [fetchExec, fetched, body, h]

/-- A word that an open stick body passes over, or that makes it too long, is not executed. -/
theorem fetchExec_body {s t u : State} {w : BitVec 32} (fetched : nextWord s = .ok (w, t)) (body : bodyStop w t = some u) :
    fetchExec s = .next u := by
  simp only [fetchExec, fetched, body]

/-- A fetch that fails takes its step FETCH_FAULT. -/
theorem fetchExec_fault {s : State} {st : Stop} (failed : nextWord s = .error st) : fetchExec s = exec .fetchFault s := by
  simp only [fetchExec, failed]

/-- Settles O5: the step is the turn of the hart in focus, and that is the word at its pc. -/
theorem stepRunsDecoded : Obligations.StepRunsDecoded := by
  intro s s1 free up booted idle live swap calm waiting
  have turn : step s = focusPassed (fetchExec s1) := by
    rw [step, takeTurn_hart s free up booted idle]
    dsimp only
    rw [hartStep_eq, hartTurn_goOn s live swap calm, goOn_fetchExec s s1 waiting]
  refine ⟨fun w t fetched => ⟨fun i body decoded => ?_, fun e body refused => ?_, fun u body => ?_⟩, fun st failed => ?_⟩
  · rw [turn, fetchExec_decoded fetched body decoded]
    rfl
  · rw [turn, fetchExec_illegal fetched body refused]
    rfl
  · rw [turn, fetchExec_body fetched body]
    rfl
  · rw [turn, fetchExec_fault failed]
    rfl

end Sys2Proof.Machine
end

section
/-! PROOF. What writes of memory, corrections and entries of the error log leave alone, and what is read back after a change of a die, a
cluster, a port or a field (R58, R264, R346, R364). -/

namespace Sys2Proof.Machine

/-! ## Fields of a register -/

theorem toNat_putField (x : Word) (lo n v : Nat) (h : lo + n ≤ 64) : (putField x lo n v).toNat = putBits x.toNat lo n v := by
  rw [putField, BitVec.toNat_ofNat]
  refine Nat.mod_eq_of_lt (Nat.lt_pow_two_of_testBit _ fun i hi => ?_)
  rw [testBit_putBits, if_neg (by omega)]
  exact Nat.testBit_lt_two_pow (x.isLt.trans_le (Nat.pow_le_pow_right (by decide) hi))

theorem bitAt_putField (x : Word) (lo n v i : Nat) (h : lo + n ≤ 64) :
    bitAt (putField x lo n v) i = if lo ≤ i ∧ i < lo + n then v.testBit (i - lo) else bitAt x i := by
  rw [bitAt, toNat_putField x lo n v h, testBit_putBits, bitAt]

/-- A field, as the bits of the number that it is. -/
theorem testBit_field (x : Word) (lo n i : Nat) : (field x lo n).testBit i = (decide (i < n) && bitAt x (lo + i)) := by
  rw [field, bitsOf, Nat.testBit_mod_two_pow, Nat.testBit_shiftRight, bitAt]

theorem field_putField_same (x : Word) (lo n v : Nat) (h : lo + n ≤ 64) : field (putField x lo n v) lo n = v % 2 ^ n := by
  refine Nat.eq_of_testBit_eq fun i => ?_
  rw [testBit_field, bitAt_putField x lo n v _ h, Nat.testBit_mod_two_pow]
  by_cases hi : i < n
  · rw [if_pos (by omega), Nat.add_sub_cancel_left]
  · simp [hi]

theorem field_putField_other (x : Word) (lo n v lo' n' : Nat) (h : lo + n ≤ 64) (apart : lo' + n' ≤ lo ∨ lo + n ≤ lo') :
    field (putField x lo n v) lo' n' = field x lo' n' := by
  refine Nat.eq_of_testBit_eq fun i => ?_
  rw [testBit_field, testBit_field, bitAt_putField x lo n v _ h]
  by_cases hi : i < n'
  · rw [if_neg (by omega)]
  · simp [hi]

/-- A field, as quotient and remainder. -/
theorem field_eq (x : Word) (lo n : Nat) : field x lo n = x.toNat / 2 ^ lo % 2 ^ n := by
  rw [field, bitsOf, Nat.shiftRight_eq_div_pow]

/-! ## Elements of a vector -/

theorem vget_eq {α : Type} {n : Nat} (v : Vector α n) (i : Fin n) (d : α) : vget v i d = v[i] := by
  simp [vget]

theorem vget_vset {α : Type} {n : Nat} (v : Vector α n) (i j : Nat) (x d : α) (h : i < n) :
    vget (vset v i x) j d = if j = i then x else vget v j d := by
  simp only [vget, vset]
  by_cases e : j = i
  · subst e; simp [h]
  · simp [e, Ne.symm e]

@[simp] theorem getElem_vset {α : Type} {n : Nat} (v : Vector α n) (i : Fin n) (x : α) : (vset v i x)[i] = x := by
  rw [← vget_eq _ i x, vget_vset _ _ _ _ _ i.isLt, if_pos rfl]

theorem vset_eq {α : Type} {n : Nat} (v : Vector α n) (i : Fin n) (x : α) : vset v i x = v.set i x := by
  simp only [vset, Vector.setIfInBounds, Vector.set, Array.setIfInBounds, Vector.size_toArray, i.isLt, dif_pos]

/-! ## Dies, clusters and ports -/

theorem dieAt_eq (s : State) (d : Fin 2) : dieAt s d = s.dies[d] := vget_eq ..
theorem clusterAt_eq (s : State) (cl : Fin 20) : clusterAt s cl = s.clusters[cl] := vget_eq ..
theorem portAt_eq (s : State) (n : Fin 16) : portAt s n = s.ports[n] := vget_eq ..

theorem getElem?_dies (s : State) {d : Nat} (h : d < 2) : s.dies[d]? = some (dieAt s d) := by
  rw [dieAt_eq s ⟨d, h⟩]
  exact Vector.getElem?_eq_getElem h

theorem getElem?_clusters (s : State) {cl : Nat} (h : cl < 20) : s.clusters[cl]? = some (clusterAt s cl) := by
  rw [clusterAt_eq s ⟨cl, h⟩]
  exact Vector.getElem?_eq_getElem h

theorem modDie_eq (s : State) {d : Nat} (f : Die → Die) (h : d < 2) :
    modDie s d f = { s with dies := vset s.dies d (f (dieAt s d)) } := by
  rw [modDie, getElem?_dies s h]

theorem modCluster_eq (s : State) {cl : Nat} (f : Cluster → Cluster) (h : cl < 20) :
    modCluster s cl f = { s with clusters := vset s.clusters cl (f (clusterAt s cl)) } := by
  rw [modCluster, getElem?_clusters s h]

theorem dieAt_modDie (s : State) (d k : Nat) (f : Die → Die) (h : k < 2) :
    dieAt (modDie s k f) d = if d = k then f (dieAt s k) else dieAt s d := by
  rw [modDie_eq s f h]
  exact vget_vset _ _ _ _ _ h

theorem clusterAt_modCluster (s : State) (cl k : Nat) (f : Cluster → Cluster) (h : k < 20) :
    clusterAt (modCluster s k f) cl = if cl = k then f (clusterAt s k) else clusterAt s cl := by
  rw [modCluster_eq s f h]
  exact vget_vset _ _ _ _ _ h

@[simp] theorem clusterAt_modDie (s : State) (d : Nat) (f : Die → Die) (cl : Nat) : clusterAt (modDie s d f) cl = clusterAt s cl := by
  unfold modDie
  split <;> rfl

@[simp] theorem dieAt_modCluster (s : State) (cl : Nat) (f : Cluster → Cluster) (d : Nat) :
    dieAt (modCluster s cl f) d = dieAt s d := by
  unfold modCluster
  split <;> rfl

theorem clusterActive_eq (s : State) {cl : Nat} (h : cl < 20) : clusterActive s cl = ((clusterAt s cl).pstate == .active) := by
  rw [clusterActive, getElem?_clusters s h]

/-! ## What records leave alone -/

/-- A state differs from another in nothing of links, dies, clusters and fatal errors but the memory control block of a die and the cycles
counted of a cluster: what it records of errors, and the memory in which it does, are free. -/
structure SameButRecords (s t : State) : Prop where
  cxp : t.cxp = s.cxp
  ports : t.ports = s.ports
  fatal : t.fatal = s.fatal
  dies : ∀ d, dieAt t d = { dieAt s d with mcb := (dieAt t d).mcb }
  clusters : ∀ cl, clusterAt t cl = { clusterAt s cl with cycles := (clusterAt t cl).cycles }

namespace SameButRecords

variable {s t u : State}

/-- Of states that agree in links, dies, clusters and fatal errors. -/
theorem of_eq (cxp : t.cxp = s.cxp) (ports : t.ports = s.ports) (fatal : t.fatal = s.fatal) (dies : t.dies = s.dies)
    (clusters : t.clusters = s.clusters) : SameButRecords s t := by
  have die (d : Nat) : dieAt t d = dieAt s d := by rw [dieAt, dies, dieAt]
  have cluster (cl : Nat) : clusterAt t cl = clusterAt s cl := by rw [clusterAt, clusters, clusterAt]
  exact ⟨cxp, ports, fatal, fun d => by rw [die], fun cl => by rw [cluster]⟩

theorem refl (s : State) : SameButRecords s s := of_eq rfl rfl rfl rfl rfl

theorem trans (h : SameButRecords s t) (k : SameButRecords t u) : SameButRecords s u := by
  refine ⟨k.cxp.trans h.cxp, k.ports.trans h.ports, k.fatal.trans h.fatal, fun d => ?_, fun cl => ?_⟩
  · rw [k.dies d, h.dies d]
  · rw [k.clusters cl, h.clusters cl]

/-- Steps one after another, each of which only records. -/
theorem foldl {α : Type} {f : State → α → State} (step : ∀ s a, SameButRecords s (f s a)) (l : List α) (s : State) :
    SameButRecords s (l.foldl f s) :=
  List.foldlRecOn l f (refl s) fun t h a _ => h.trans (step t a)

end SameButRecords

theorem modMcb_records (s : State) (d : Nat) (f : Mcb → Mcb) : SameButRecords s (modMcb s d f) := by
  by_cases h : d < 2
  · rw [modMcb]
    refine ⟨?_, ?_, ?_, fun k => ?_, fun cl => ?_⟩
    case refine_4 =>
      rw [dieAt_modDie s k d _ h]
      split
      · next e => rw [e]
      · rfl
    case refine_5 => rw [clusterAt_modDie]
    all_goals rw [modDie_eq s _ h]
  · have unchanged : modMcb s d f = s := by
      rw [modMcb, modDie, Vector.getElem?_eq_none (by omega)]
    rw [unchanged]
    exact .refl s

theorem setCells_records (s : State) (core : Option Nat) (m : Cells) : SameButRecords s (setCells s core m) := by
  cases core <;> exact .of_eq rfl rfl rfl rfl rfl

theorem settleEcc_records (s : State) (l : List Nat) : SameButRecords s (settleEcc s l) := by
  unfold settleEcc
  dsimp only
  refine .trans ?_ (.foldl (fun t w => ?_) _ _)
  · exact .of_eq rfl rfl rfl rfl rfl
  split
  · exact modMcb_records ..
  · exact .refl t

theorem putPlaces_records (s : State) (ws : List (Place × Nat)) : SameButRecords s (putPlaces s ws) :=
  .foldl (fun t _ => setCells_records t ..) ws s

theorem writePlaces_records (s : State) (ws : List (Place × Nat)) : SameButRecords s (writePlaces s ws) := by
  have settled (t : State) : SameButRecords t (settleScratch t ws) := .of_eq rfl rfl rfl rfl rfl
  unfold writePlaces
  rw [← putPlaces]
  dsimp only
  split <;> split
  · exact putPlaces_records s ws
  · exact (putPlaces_records s ws).trans (settleEcc_records ..)
  · exact (putPlaces_records s ws).trans (settled _)
  · exact ((putPlaces_records s ws).trans (settled _)).trans (settleEcc_records ..)

theorem readCycles_records (s : State) (cl : Nat) : SameButRecords s (readCycles s cl).2 := by
  by_cases h : cl < 20
  · have read (c : Cluster) (n k : Nat) : clusterAt { s with clusters := vset s.clusters cl c, drawn := n } k =
        if k = cl then c else clusterAt s k := vget_vset _ _ _ _ _ h
    rw [readCycles, getElem?_clusters s h]
    refine ⟨rfl, rfl, rfl, fun _ => rfl, fun k => ?_⟩
    dsimp only
    rw [read]
    split
    · next e => rw [e]
    · rfl
  · rw [readCycles, Vector.getElem?_eq_none (by omega)]
    exact .refl s

theorem logEntry_records (s : State) (src code ctx queue : Nat) (w1 w2 : Word) (cl : Nat) :
    SameButRecords s (logEntry s src code ctx queue w1 w2 cl) := by
  have counted (t : State) (v : Unit_) : SameButRecords t { t with unit := v } := .of_eq rfl rfl rfl rfl rfl
  unfold logEntry
  dsimp only
  split
  · refine .trans ?_ (counted _ _)
    split
    · exact (readCycles_records s cl).trans (writePlaces_records ..)
    · exact readCycles_records s cl
  · exact counted s _

theorem logService_records (s : State) : SameButRecords s (logService s) := by
  unfold logService openWord
  exact .trans (t := { s with drawn := s.drawn + 1 }) (.of_eq rfl rfl rfl rfl rfl) (logEntry_records ..)

theorem logLink_records (s : State) (port : Nat) : SameButRecords s (logLink s port) := logEntry_records ..

theorem logIf_records (changed : Bool) (s : State) : SameButRecords s (logIf changed s) := by
  cases changed
  · exact .refl s
  · exact logService_records s

/-! ## Cores under an entry of the error log -/

/-- A write of main memory corrects nothing in a scratchpad. -/
theorem settleScratch_main (s : State) (ws : List (Place × Nat)) (main : ∀ w ∈ ws, w.1.core = none) : settleScratch s ws = s := by
  have unwritten (c : Nat) : (ws.filter fun w => w.1.core == some c) = [] := List.filter_eq_nil_iff.2 fun w h => by simp [main w h]
  unfold settleScratch
  dsimp only
  rw [List.map_congr_left (g := id) fun c _ => ?_, List.map_id]
  split
  · rfl
  · simp only [unwritten, List.flatMap_nil, List.contains_nil]
    show (c.1, { c.2 with badWords := c.2.badWords.filter fun _ => true }) = c
    rw [List.filter_true]

theorem writePhys_cores (s : State) (a n v : Nat) : (writePhys s a n v).cores = s.cores := by
  unfold writePhys writePlaces
  dsimp only
  rw [settleScratch_main _ _ (by simp)]
  simp only [ite_self]
  split
  · rfl
  · exact (settleEcc_memory ..).2

theorem logEntry_cores (s : State) (src code ctx queue : Nat) (w1 w2 : Word) (cl : Nat) :
    (logEntry s src code ctx queue w1 w2 cl).cores = s.cores := by
  have cycles : (readCycles s cl).2.cores = s.cores := by
    unfold readCycles
    split <;> rfl
  unfold logEntry
  dsimp only
  split
  · split
    · exact (writePhys_cores ..).trans cycles
    · exact cycles
  · rfl

theorem logService_cores (s : State) : (logService s).cores = s.cores := by
  unfold logService openWord
  exact logEntry_cores ..

theorem logIf_cores (changed : Bool) (s : State) : (logIf changed s).cores = s.cores := by
  cases changed
  · rfl
  · exact logService_cores s

end Sys2Proof.Machine
end

section
/-! PROOF. Windows and ports of the second tier: what a write of a window leaves in it, and what a link that goes down or trains leaves of its
port (R24, R60 to R63, R366). -/

namespace Sys2Proof.Machine

/-! ## Windows (R60, R61) -/

theorem field_low (x : Word) (n : Nat) : field x 0 n = x.toNat % 2 ^ n := by
  rw [field_eq, Nat.pow_zero, Nat.div_one]

/-- The fields of a window that a write gives. -/
theorem windowWord_eq (v : Word) : wordOfNat (field v 0 40) = BitVec.ofNat 64 (v.toNat % 2 ^ 40) := by
  rw [wordOfNat, field_low]

section
variable {s : State} {n : Fin 16} {v w : Word}

theorem cxwWrite_accepted (hw : wordOfNat (field v 0 40) = w) (enabled : bitAt w 39 = true) (sound : windowRefused s n w = false) :
    exec (.cxwWrite n v) s = .next { s with cxw := vset s.cxw n w } := by
  show execCxwWrite n v s = _
  simp only [execCxwWrite, hw, enabled, sound]
  rfl

theorem cxwWrite_refused (hw : wordOfNat (field v 0 40) = w) (enabled : bitAt w 39 = true) (unsound : windowRefused s n w = true) :
    exec (.cxwWrite n v) s = .next { s with cxw := vset s.cxw n (putField (putField w 39 1 0) 40 1 1) } := by
  show execCxwWrite n v s = _
  simp only [execCxwWrite, hw, enabled, unsound]
  rfl

theorem cxwWrite_disabled (hw : wordOfNat (field v 0 40) = w) (off : bitAt w 39 = false) :
    exec (.cxwWrite n v) s = .next { s with cxw := vset s.cxw n (putField w 40 1 (field s.cxw[n] 40 1)) } := by
  show execCxwWrite n v s = _
  simp only [execCxwWrite, hw, off, vget_eq]
  rfl

end

/-- A field of one bit, as a bit. -/
theorem testBit_field_one (x : Word) (lo : Nat) : (field x lo 1).testBit 0 = bitAt x lo := by
  rw [testBit_field]
  rfl

/-! ## Links that go down (R63, R366) -/

theorem modHart_records (s : State) (hid : Nat) (f : Hart → Hart) : SameButRecords s (modHart s hid f) := .of_eq rfl rfl rfl rfl rfl

theorem scramble_records (s : State) (ps : List Place) : SameButRecords s (scramble s ps) :=
  .foldl (fun t _ => .trans (t := { t with drawn := t.drawn + 1 }) (.of_eq rfl rfl rfl rfl rfl) (writePlaces_records ..)) _ s

theorem tellAsync_records (s : State) (hid : Nat) (a : Async) : SameButRecords s (tellAsync s hid a) := modHart_records ..

theorem dropFlights_records (s : State) (hid : Nat) (p : Flight → Bool) : SameButRecords s (dropFlights s hid p) := modHart_records ..

theorem loseStripOf_records (s : State) (port : Nat) (h : Hart) (strip : Nat) : SameButRecords s (loseStripOf s port h strip) := by
  unfold loseStripOf
  extract_lets
  split
  · exact .refl s
  · exact (((writePlaces_records ..).trans (dropFlights_records ..)).trans (scramble_records ..)).trans (tellAsync_records ..)

theorem loseReleased_records (s : State) (port : Nat) (h : Hart) : SameButRecords s (loseReleased s port h) := by
  refine .foldl (fun t k => ?_) _ s
  split
  · exact loseStripOf_records ..
  · exact .refl t

theorem loseWrites_records (s : State) (port : Nat) (h : Hart) : SameButRecords s (loseWrites s port h) :=
  .foldl (fun _ _ => ((dropFlights_records ..).trans (scramble_records ..)).trans (tellAsync_records ..)) _ s

theorem failReads_records (s : State) (port : Nat) : SameButRecords s (failReads s port) := .of_eq rfl rfl rfl rfl rfl

theorem setTransfer_records (s : State) (t : Transfer) : SameButRecords s (setTransfer s t) := .of_eq rfl rfl rfl rfl rfl

theorem failCopy_records (s : State) (port : Nat) (t : Transfer) : SameButRecords s (failCopy s port t) := by
  have ended (reads : Bool) (l : List Place) (u : Transfer) :
      SameButRecords s (setTransfer (if reads then s else scramble s l) u) := by
    cases reads
    · exact (scramble_records s l).trans (setTransfer_records ..)
    · exact setTransfer_records ..
  have told (wrote : Bool) (u : State) (hid : Nat) (a : Async) (h : SameButRecords s u) :
      SameButRecords s (if wrote then tellAsync u hid a else u) := by
    cases wrote
    · exact h
    · exact h.trans (tellAsync_records ..)
  unfold failCopy
  split
  · exact .refl s
  · split
    extract_lets
    split
    · exact .refl s
    · extract_lets
      split
      · exact told _ _ _ _ (ended ..)
      · exact ended ..

/-- The register of a port whose link has gone down: TRAINED is clear, and DOWNS has counted (R366). -/
def downLink (c : Word) : Word := putField (putField c 0 1 0) 16 16 (Nat.min 65535 (field c 16 16 + 1))

theorem downLink_trained (c : Word) : bitAt (downLink c) 0 = false := by
  rw [downLink, bitAt_putField _ _ _ _ _ (by decide), if_neg (by decide), bitAt_putField _ _ _ _ _ (by decide), if_pos (by decide)]
  rfl

theorem downLink_downs (c : Word) : field (downLink c) 16 16 = Nat.min 65535 (field c 16 16 + 1) := by
  rw [downLink, field_putField_same _ _ _ _ (by decide)]
  exact Nat.mod_eq_of_lt (lt_of_le_of_lt (Nat.min_le_left ..) (by decide))

/-- All that a link that goes down changes in the registers of the ports. -/
theorem linkDown_cxp (s : State) (port : Nat) : (linkDown s port).cxp = vset s.cxp port (downLink (vget s.cxp port 0)) := by
  have lost : SameButRecords s (failReads ((allHarts ((allHarts (s.transfers.foldl (fun s t => failCopy s port t) s)).foldl
      (fun s h => loseReleased s port h) (s.transfers.foldl (fun s t => failCopy s port t) s))).foldl (fun s h => loseWrites s port h)
      ((allHarts (s.transfers.foldl (fun s t => failCopy s port t) s)).foldl (fun s h => loseReleased s port h)
        (s.transfers.foldl (fun s t => failCopy s port t) s))) port) :=
    (((SameButRecords.foldl (fun t x => failCopy_records t port x) _ s).trans (.foldl (fun t h => loseReleased_records t port h) _ _)).trans
      (.foldl (fun t h => loseWrites_records t port h) _ _)).trans (failReads_records _ port)
  unfold linkDown
  dsimp only
  rw [(logLink_records ..).cxp, lost.cxp, downLink]

section
variable {s : State} {p : Fin 8}

/-- The two events of a trained port that takes its link down. -/
theorem linkDown_trained (trained : bitAt s.cxp[p] 0 = true) {i : Instr} (hi : i ∈ [Instr.cxlLinkDown p, .retrain p]) :
    exec i s = .next (linkDown s p) := by
  rcases List.mem_pair.1 hi with rfl | rfl
  · show execCxlLinkDown p s = _
    rw [execCxlLinkDown, vget_eq, trained]
    rfl
  · show execRetrain p s = _
    rw [execRetrain, vget_eq, trained]
    rfl

theorem linkDown_untrained (down : bitAt s.cxp[p] 0 = false) {i : Instr} (hi : i ∈ [Instr.cxlLinkDown p, .retrain p]) :
    exec i s = .next s := by
  rcases List.mem_pair.1 hi with rfl | rfl
  · show execCxlLinkDown p s = _
    rw [execCxlLinkDown, vget_eq, down]
    rfl
  · show execRetrain p s = _
    rw [execRetrain, vget_eq, down]
    rfl

theorem linkDown_port : (linkDown s p).cxp[p] = downLink s.cxp[p] := by
  rw [linkDown_cxp, getElem_vset, vget_eq]

end

/-! ## Training (R24, R60, R366) -/

/-- The register of a port that has trained. -/
def trainedLink (c : Word) (gen most width : Nat) : Word :=
  putField (putField (putField (putField c 0 1 1) 1 1 (Nat.min 1 gen)) 2 8 (trainedRate gen most)) 10 5 width

section
variable (c : Word) (gen most : Nat) {width : Nat}

theorem trainedLink_trained : bitAt (trainedLink c gen most width) 0 = true := by
  simp [trainedLink, bitAt_putField]

theorem trainedLink_gen : bitAt (trainedLink c gen most width) 1 = decide (1 ≤ gen) := by
  have least : Nat.min 1 gen = if 1 ≤ gen then 1 else 0 := by
    split
    · exact Nat.min_eq_left ‹_›
    · exact Nat.min_eq_right (by omega) |>.trans (by omega)
  simp only [trainedLink]
  rw [bitAt_putField _ _ _ _ _ (by decide), if_neg (by decide), bitAt_putField _ _ _ _ _ (by decide), if_neg (by decide),
    bitAt_putField _ _ _ _ _ (by decide), if_pos (by decide), least]
  split <;> simp [*]

theorem trainedLink_width (narrow : width ≤ 16) : field (trainedLink c gen most width) 10 5 = width := by
  rw [trainedLink, field_putField_same _ _ _ _ (by decide)]
  exact Nat.mod_eq_of_lt (by omega)

theorem trainedLink_rate : field (trainedLink c gen most width) 2 8 = trainedRate gen most := by
  rw [trainedLink, field_putField_other _ _ _ _ _ _ (by decide) (by decide), field_putField_same _ _ _ _ (by decide)]
  refine Nat.mod_eq_of_lt ?_
  unfold trainedRate
  split
  · decide
  · split <;> decide

end

/-- A device that has the least rate of its generation has the rate to which the port trains. -/
theorem trainedRate_le {gen most : Nat} (h : (if gen = 0 then 32 else 64) ≤ most) : trainedRate gen most ≤ most := by
  unfold trainedRate
  split
  · simpa [*] using h
  · next later =>
    rw [if_neg later] at h
    split <;> assumption

/-- A port that a device lets train: the outcome in its register. -/
theorem portTrained_cxp (s : State) (p : Fin 8) {gen most width : Nat} (wide : 1 ≤ width) (narrow : width ≤ 16)
    (rate : trainedRate gen most ≤ most) :
    ∃ t, exec (.cxlPortTrained p gen most width) s = .next t ∧ t.cxp[p] = trainedLink s.cxp[p] gen most width := by
  have possible : ¬ (width = 0 ∨ 16 < width ∨ most < trainedRate gen most) := by omega
  have outcome : exec (.cxlPortTrained p gen most width) s =
      .next (if bitAt s.cxp[p] 0 then { s with cxp := vset s.cxp p (trainedLink s.cxp[p] gen most width) }
        else logLink { s with cxp := vset s.cxp p (trainedLink s.cxp[p] gen most width) } p) := by
    show execCxlPortTrained p gen most width s = _
    simp only [execCxlPortTrained, possible, if_false, vget_eq, eventOut_some]
    rfl
  refine ⟨_, outcome, ?_⟩
  split
  · exact getElem_vset ..
  · exact (congrArg (·[p]) (logLink_records _ p).cxp).trans (getElem_vset ..)

/-- A port that nothing reaches, or that has too many lanes, does not train. -/
theorem portTrained_none (s : State) (p : Fin 8) (gen most : Nat) {width : Nat} (bad : width = 0 ∨ 16 < width) :
    exec (.cxlPortTrained p gen most width) s = .next s := by
  show execCxlPortTrained p gen most width s = _
  simp only [execCxlPortTrained, if_pos (show width = 0 ∨ 16 < width ∨ most < trainedRate gen most by omega), eventOut_none]

/-- The first part of the statement about links: a write of a window. -/
theorem windowWrites (n : Fin 16) (v w : Word) (s : State) (hw : w = BitVec.ofNat 64 (v.toNat % 2 ^ 40)) :
    (bitAt w 39 = true → windowRefused s n w = false → exec (.cxwWrite n v) s = .next { s with cxw := s.cxw.set n w }) ∧
    (bitAt w 39 = true → windowRefused s n w = true → ∃ t, exec (.cxwWrite n v) s = .next t ∧ bitAt t.cxw[n] 39 = false ∧
      bitAt t.cxw[n] 40 = true) ∧
    (bitAt w 39 = false → ∃ t, exec (.cxwWrite n v) s = .next t ∧ t.cxw[n].toNat % 2 ^ 40 = w.toNat ∧
      bitAt t.cxw[n] 40 = bitAt s.cxw[n] 40) := by
  have fields : wordOfNat (field v 0 40) = w := (windowWord_eq v).trans hw.symm
  refine ⟨fun enabled sound => ?_, fun enabled unsound => ?_, fun off => ?_⟩
  · rw [cxwWrite_accepted fields enabled sound, vset_eq]
  · refine ⟨_, cxwWrite_refused fields enabled unsound, ?_, ?_⟩
    · dsimp only
      rw [getElem_vset, bitAt_putField _ _ _ _ _ (by decide), if_neg (by decide), bitAt_putField _ _ _ _ _ (by decide), if_pos (by decide)]
      rfl
    · dsimp only
      rw [getElem_vset, bitAt_putField _ _ _ _ _ (by decide), if_pos (by decide)]
      rfl
  · refine ⟨_, cxwWrite_disabled fields off, ?_, ?_⟩
    · have kept := field_putField_other w 40 1 (field s.cxw[n] 40 1) 0 40 (by decide) (by decide)
      rw [field_low, field_low] at kept
      dsimp only
      rw [getElem_vset, kept, hw, BitVec.toNat_ofNat]
      omega
    · dsimp only
      rw [getElem_vset, bitAt_putField _ _ _ _ _ (by decide), if_pos (by decide)]
      exact testBit_field_one ..

/-- The second part: the link of a port. -/
theorem linkChanges (p : Fin 8) (s : State) :
    (bitAt s.cxp[p] 0 = true → ∀ i ∈ [Instr.cxlLinkDown p, .retrain p], ∃ t, exec i s = .next t ∧ bitAt t.cxp[p] 0 = false ∧
      t.cxp[p].toNat / 2 ^ 16 % 2 ^ 16 = Nat.min 65535 (s.cxp[p].toNat / 2 ^ 16 % 2 ^ 16 + 1)) ∧
    (bitAt s.cxp[p] 0 = false → ∀ i ∈ [Instr.cxlLinkDown p, .retrain p], exec i s = .next s) ∧
    ∀ gen most width, (1 ≤ width → width ≤ 16 → (if gen = 0 then 32 else 64) ≤ most →
        ∃ t, exec (.cxlPortTrained p gen most width) s = .next t ∧ bitAt t.cxp[p] 0 = true ∧
          bitAt t.cxp[p] 1 = decide (1 ≤ gen) ∧ t.cxp[p].toNat / 2 ^ 10 % 2 ^ 5 = width ∧
          t.cxp[p].toNat / 2 ^ 2 % 2 ^ 8 = if gen = 0 then 32 else if 128 ≤ most then 128 else 64) ∧
      (width = 0 ∨ 16 < width → exec (.cxlPortTrained p gen most width) s = .next s) := by
  simp only [← field_eq]
  refine ⟨fun trained i hi => ?_, fun down i hi => linkDown_untrained down hi,
    fun gen most width => ⟨fun wide narrow rate => ?_, portTrained_none s p gen most⟩⟩
  · refine ⟨_, linkDown_trained trained hi, ?_⟩
    rw [linkDown_port]
    exact ⟨downLink_trained _, downLink_downs _⟩
  · obtain ⟨t, outcome, link⟩ := portTrained_cxp s p wide narrow (trainedRate_le rate)
    refine ⟨t, outcome, ?_⟩
    rw [link]
    exact ⟨trainedLink_trained .., trainedLink_gen .., trainedLink_width _ _ _ narrow, trainedLink_rate ..⟩

end Sys2Proof.Machine
end

section
/-! PROOF. Stolier ports: what sending, receiving, repair, training and loss leave of a port (R367 to R371, R374). -/

namespace Sys2Proof.Machine

/-! ## Sending -/

/-- The flit in which a port sends a payload. -/
def nextFlit (p : Port) (ty : BitVec 4) (x : BitVec 1920) : BitVec 2048 := makeFlit p.nextSeq (p.expect - 1) ty x

/-- A port that has sent a payload. -/
def sentPort (p : Port) (ty : BitVec 4) (x : BitVec 1920) : Port :=
  { p with buffer := p.buffer ++ [nextFlit p ty x], out := p.out ++ [nextFlit p ty x], nextSeq := p.nextSeq + 1 }

section
variable {p : Port}

/-- A port for which nothing waits sends nothing. -/
theorem pumpPort_idle (n : Nat) (control : p.control = []) (data : p.data = []) : pumpPort n p = p := by
  cases n with
  | zero => rfl
  | succ n =>
    rw [pumpPort]
    split
    · rfl
    · simp only [control, data]

/-- A port with 256 unacknowledged flits sends nothing (R368). -/
theorem pumpPort_full (n : Nat) (full : 256 ≤ p.buffer.length) : pumpPort n p = p := by
  cases n with
  | zero => rfl
  | succ n => rw [pumpPort, if_pos (.inr (.inl full))]

/-- A control flit goes first (R367). -/
theorem pumpPort_control (n : Nat) {x : BitVec 1920} {rest : List (BitVec 1920)} (up : p.st = 2) (room : p.buffer.length < 256)
    (sound : p.due = []) (control : p.control = x :: rest) :
    pumpPort (n + 1) p = pumpPort n (sentPort { p with control := rest } 3 x) := by
  rw [pumpPort, if_neg (by simp [up, room, sound])]
  simp only [control]
  rfl

/-- Where no control flit waits, a data flit goes. -/
theorem pumpPort_data (n : Nat) {x : BitVec 1920} {rest : List (BitVec 1920)} (up : p.st = 2) (room : p.buffer.length < 256)
    (sound : p.due = []) (control : p.control = []) (data : p.data = x :: rest) :
    pumpPort (n + 1) p = pumpPort n (sentPort { p with data := rest } 1 x) := by
  rw [pumpPort, if_neg (by simp [up, room, sound])]
  simp only [control, data]
  rfl

/-- Sending leaves the rate of a port as it was. -/
theorem pumpPort_rate (n : Nat) (p : Port) : (pumpPort n p).rate = p.rate := by
  induction n generalizing p with
  | zero => rfl
  | succ n ih =>
    unfold pumpPort
    split
    · rfl
    · dsimp only
      split
      · exact ih _
      · exact ih _
      · rfl

end

section
variable (s : State) (n : Fin 16) (p : Port)

/-- A port that is replaced is read back. -/
@[simp] theorem portAt_setPort_same : portAt (setPort s n p) n = p := by
  rw [portAt_setPort, if_pos ⟨rfl, n.isLt⟩]

/-- A port sends what waits. -/
theorem portAt_sendQueued : portAt (sendQueued s n) n = pumpPort 256 (portAt s n) := by
  unfold sendQueued
  dsimp only
  split
  · next idle =>
    rw [Bool.and_eq_true, List.isEmpty_iff, List.isEmpty_iff] at idle
    rw [pumpPort_idle 256 idle.1 idle.2]
  · rw [portAt_setPort_same]

/-- A payload that is handed to a port waits behind the others of its kind, and the port sends. -/
theorem portAt_queuePayload (control : Bool) (x : BitVec 1920) : portAt (queuePayload s n control x) n =
    pumpPort 256 (if control then { portAt s n with out := [], control := (portAt s n).control ++ [x] }
      else { portAt s n with out := [], data := (portAt s n).data ++ [x] }) := by
  rw [queuePayload, portAt_sendQueued, portAt_setPort_same]

end

/-- A payload leaves by the port of the route of its node, where the port is not down (R371). -/
theorem sendPayload_routed {s : State} {node : Nat} {n : Fin 16} (route : routeOf s node = some n.val) (up : (portAt s n).st ≠ 0)
    (control : Bool) (x : BitVec 1920) : sendPayload s node control x = queuePayload s n control x := by
  have reached : routeUp s node = some n.val := by simpa [routeUp, route, portCarries] using up
  rw [sendPayload, reached]

/-- A payload that is handed to a port leaves the others as they were. -/
theorem portAt_queuePayload_other (s : State) {n k : Nat} (other : n ≠ k) (control : Bool) (x : BitVec 1920) :
    portAt (queuePayload s k control x) n = portAt s n := by
  have aside (t : State) (p : Port) : portAt (setPort t k p) n = portAt t n := by
    rw [portAt_setPort, if_neg fun h => other h.1]
  have sent (t : State) : portAt (sendQueued t k) n = portAt t n := by
    unfold sendQueued
    dsimp only
    split
    · rfl
    · exact aside ..
  rw [queuePayload, sent, aside]

/-! ## A port that is down sends nothing -/

/-- A port that is down in the first of two states is the same in both. -/
structure KeepsDown (n : Nat) (s t : State) : Prop where
  same : (portAt s n).st = 0 → portAt t n = portAt s n

namespace KeepsDown

variable {n : Nat} {s t u : State}

theorem of_ports (h : t.ports = s.ports) : KeepsDown n s t := ⟨fun _ => by rw [portAt, h, portAt]⟩

theorem refl (s : State) : KeepsDown n s s := of_ports rfl

theorem trans (h : KeepsDown n s t) (k : KeepsDown n t u) : KeepsDown n s u :=
  ⟨fun down => by rw [k.same (by rw [h.same down, down]), h.same down]⟩

theorem foldl {α : Type} {f : State → α → State} (step : ∀ s a, KeepsDown n s (f s a)) (l : List α) (s : State) :
    KeepsDown n s (l.foldl f s) :=
  List.foldlRecOn l f (refl s) fun t h a _ => h.trans (step t a)

end KeepsDown

section
variable (n : Nat) (s : State)

theorem sendPayload_keepsDown (node : Nat) (control : Bool) (x : BitVec 1920) : KeepsDown n s (sendPayload s node control x) := by
  unfold sendPayload
  split
  · next k route =>
    refine ⟨fun down => portAt_queuePayload_other s ?_ control x⟩
    obtain ⟨-, carries⟩ := Option.filter_eq_some_iff.1 route
    rintro rfl
    simp [portCarries, down] at carries
  · exact .refl s

theorem sendFlits_keepsDown (node : Nat) (control : Bool) (k : Nat) : KeepsDown n s (sendFlits s node control k) := by
  induction k generalizing s with
  | zero => exact .refl s
  | succ k ih =>
    exact .trans (.trans (t := { s with drawn := s.drawn + 1 }) (.of_ports rfl) (sendPayload_keepsDown n _ node control _)) (ih _)

theorem sendToAll_keepsDown (nodes : List Nat) (control : Bool) (k : Nat) : KeepsDown n s (sendToAll s nodes control k) :=
  .foldl (fun t d => sendFlits_keepsDown n t d control k) nodes s

theorem setColl_keepsDown (c : Coll) : KeepsDown n s (setColl s c) := .of_ports rfl

theorem decideAs_keepsDown (c : Coll) (verdict : Bool) : KeepsDown n s (decideAs s c verdict) :=
  (sendToAll_keepsDown n s ..).trans (setColl_keepsDown ..)

theorem abortColl_keepsDown (c : Coll) : KeepsDown n s (abortColl s c) := by
  unfold abortColl
  dsimp only
  split
  · split
    · exact decideAs_keepsDown ..
    · exact .refl s
  · split
    · exact sendToAll_keepsDown ..
    · exact (sendToAll_keepsDown ..).trans (setColl_keepsDown ..)

theorem galleyAfter_ports (core id : Nat) : (galleyAfter s core id).ports = s.ports := by
  unfold galleyAfter
  dsimp only
  split
  · rfl
  · split <;> rfl

theorem dropTransfer_ports (t : Transfer) : (dropTransfer s t).ports = s.ports := by
  unfold dropTransfer
  dsimp only
  split <;> split <;> simp only [galleyAfter_ports]

theorem endTransfer_ports (t : Transfer) (word : Word) (counted : Bool) : (endTransfer s t word counted).ports = s.ports := by
  unfold endTransfer
  rw [dropTransfer_ports]
  split
  · rfl
  · split
    · split <;> rfl
    · rfl

theorem landAll_ports (t : Transfer) : (landAll s t).ports = s.ports := by
  unfold landAll
  split
  · split <;> rfl
  · rfl

theorem leaveColl_ports (c : Coll) (rank : Nat) : (leaveColl s c rank).ports = s.ports := by
  unfold leaveColl
  dsimp only
  split <;> rfl

theorem abortAt_ports (t : Transfer) (c : Coll) (portLoss : Bool) : (abortAt s t c portLoss).ports = s.ports := by
  unfold abortAt
  rw [leaveColl_ports, endTransfer_ports, landAll_ports]

theorem cutParticipant_keepsDown (port uid : Nat) : KeepsDown n s (cutParticipant s port uid) := by
  unfold cutParticipant
  split
  · split
    · exact .of_ports (abortAt_ports ..)
    · exact .refl s
  · exact .refl s

theorem cutCoordinator_keepsDown (port : Nat) (c : Coll) : KeepsDown n s (cutCoordinator s port c) := by
  unfold cutCoordinator
  split
  · exact abortColl_keepsDown ..
  · exact .refl s

end

/-- A port that has gone down: nothing of its flits is left (R369). -/
def downPort (p : Port) : Port :=
  { p with st := 0, width := 0, buffer := [], replay := none, asked := none, out := [], failed := [], due := [], charges := [],
           control := [], data := [] }

/-- What a port is after it has gone down, whatever its collectives have sent since. -/
theorem portAt_portDown (s : State) (n : Fin 16) : portAt (portDown s n) n = downPort (portAt s n) := by
  have cut : KeepsDown n (setPort s n (downPort (portAt s n))) (portDown s n) := by
    unfold portDown
    exact ((KeepsDown.foldl (fun t u => cutParticipant_keepsDown n t n u) _ _).trans
      (.foldl (fun t c => cutCoordinator_keepsDown n t n _) _ _)).trans (.of_ports (logLink_records ..).ports)
  have down : portAt (setPort s n (downPort (portAt s n))) n = downPort (portAt s n) := portAt_setPort_same ..
  rw [cut.same (by rw [down]; rfl), down]

/-! ## Receiving (R368, R369) -/

/-- Acknowledgement leaves what a port has received as it was. -/
theorem ackUpTo_received (p : Port) (a : BitVec 12) :
    (ackUpTo p a).expect = p.expect ∧ (ackUpTo p a).last = p.last ∧ (ackUpTo p a).failed = p.failed := by
  unfold ackUpTo
  dsimp only
  split
  · exact ⟨rfl, rfl, rfl⟩
  · split
    · split <;> exact ⟨rfl, rfl, rfl⟩
    · exact ⟨rfl, rfl, rfl⟩

/-- With no replay in hand an acknowledgement takes the flits that it covers out of the buffer. -/
theorem ackUpTo_eq {p : Port} {a : BitVec 12} {k : Nat} (noReplay : p.replay = none) (count : (a - p.acked).toNat = k)
    (sent : k ≤ p.buffer.length) : ackUpTo p a = { p with buffer := p.buffer.drop k, acked := a } := by
  unfold ackUpTo
  simp only [count, Nat.not_lt.2 sent, if_false, noReplay]

/-- The expected flit, once taken: the next one is expected, and the failed flits kept are those of later ones (R368, R369). -/
theorem acceptFlit_received (p : Port) (f : BitVec 2048) :
    (acceptFlit p f).expect = p.expect + 1 ∧ (acceptFlit p f).last = some f ∧
      ∀ x ∈ (acceptFlit p f).failed, x ∈ p.failed ∧ x.1 ≠ p.expect := by
  obtain ⟨expect, last, failed⟩ := ackUpTo_received
    { chargeLanes p (((p.failed.filter fun x => x.1 == p.expect).map (·.2)).flatMap (lanesDiffering p.width f)) with
      expect := p.expect + 1, last := some f,
      failed := p.failed.filter fun x => x.1 != p.expect && decide ((x.1 - p.expect).toNat < 256),
      asked := p.asked.filter (· != p.expect), out := [makeFlit p.nextSeq p.expect 0 0] } (flitAck f)
  refine ⟨expect, last, fun x hx => ?_⟩
  obtain ⟨kept, later⟩ := List.mem_filter.1 (failed ▸ hx)
  rw [Bool.and_eq_true, bne_iff_ne] at later
  exact ⟨kept, later.1⟩

/-- A port as a flit arrives at it. -/
def listening (p : Port) : Port := { p with flits := p.flits + 1, out := [] }

section
variable {s : State} {n : Fin 16} {flit : BitVec 2048}

/-- A port that is up takes the flits that arrive. -/
theorem flitReceive_takes (up : (portAt s n).st = 2) : ¬ ((portAt s n).st ≠ 2 ∧ (portAt s n).st ≠ 3) := fun h => h.1 up

theorem flitReceive_failed (up : (portAt s n).st = 2) (bad : crcOk flit = false) :
    exec (.flitReceive n flit) s = .next (setPort s n (failedFlit (listening (portAt s n)) flit)) := by
  show execFlitReceive n flit s = _
  simp only [execFlitReceive, if_neg (flitReceive_takes up), bad]
  rfl

theorem flitReceive_payload (up : (portAt s n).st = 2) (ok : crcOk flit = true) (payload : flitType flit = 1 ∨ flitType flit = 3) :
    exec (.flitReceive n flit) s = .next (sendQueued (takeFlit s n (listening (portAt s n)) flit) n) := by
  show execFlitReceive n flit s = _
  rcases payload with type | type
  all_goals
    simp only [execFlitReceive, if_neg (flitReceive_takes up), ok, type]
    rfl

theorem flitReceive_idle (up : (portAt s n).st = 2) (ok : crcOk flit = true) (type : flitType flit = 0) :
    exec (.flitReceive n flit) s = .next (sendQueued (setPort s n (ackUpTo (listening (portAt s n)) (flitAck flit))) n) := by
  show execFlitReceive n flit s = _
  simp only [execFlitReceive, if_neg (flitReceive_takes up), ok, type]
  rfl

/-- A port from which a replay is asked that it has not begun. -/
def replayingPort (p : Port) : Port :=
  { p with replay := some (newestSent p, 0), replays := Nat.min 65535 (p.replays + 1), st := 3, out := p.buffer }

theorem flitReceive_nak (up : (portAt s n).st = 2) (ok : crcOk flit = true) (type : flitType flit = 2)
    (next : flitSeq flit = (portAt s n).acked + 1) (sent : (portAt s n).buffer ≠ []) (noReplay : (portAt s n).replay = none) :
    exec (.flitReceive n flit) s = .next (setPort s n (replayingPort (listening (portAt s n)))) := by
  have acked : ackUpTo (listening (portAt s n)) (flitSeq flit - 1) = listening (portAt s n) := by
    have named : flitSeq flit - 1 = (portAt s n).acked := by rw [next, BitVec.add_sub_cancel]
    rw [named, ackUpTo_eq (p := listening (portAt s n)) (k := 0) noReplay (by simp [listening]) (Nat.zero_le _)]
    rfl
  have naked : nakedPort (listening (portAt s n)) = (replayingPort (listening (portAt s n)), false) := by
    simp [nakedPort, listening, sent, noReplay, replayingPort]
  show execFlitReceive n flit s = _
  rw [listening] at acked naked
  simp only [execFlitReceive, if_neg (flitReceive_takes up), ok, type, acked, naked]
  rfl

/-- After the expected flit. -/
theorem takeFlit_expected (seq : flitSeq flit = (portAt s n).expect) :
    (acceptFlit (listening (portAt s n)) flit).sameReceived
      (portAt (sendQueued (takeFlit s n (listening (portAt s n)) flit) n) n) := by
  have taken : takeFlit s n (listening (portAt s n)) flit =
      forwardFlit (setPort s n (acceptFlit (listening (portAt s n)) flit)) flit := if_pos seq
  rw [taken]
  refine .trans ?_ (sendQueued_received _ n n)
  have kept := forwardFlit_received (setPort s n (acceptFlit (listening (portAt s n)) flit)) n flit
  rwa [portAt_setPort_same] at kept

/-- After a flit that is not the expected one. -/
theorem takeFlit_other (seq : flitSeq flit ≠ (portAt s n).expect) :
    (portAt s n).sameReceived (portAt (sendQueued (takeFlit s n (listening (portAt s n)) flit) n) n) := by
  have taken : takeFlit s n (listening (portAt s n)) flit = setPort s n
      { listening (portAt s n) with asked := (portAt s n).asked.map fun _ => askedTo (listening (portAt s n)) (flitSeq flit) } :=
    if_neg seq
  rw [taken]
  refine .trans ?_ (sendQueued_received _ n n)
  rw [portAt_setPort_same]
  exact ⟨rfl, rfl, rfl, rfl, rfl, rfl⟩

end

/-! ## Enabling, training, repair and loss (R369, R370) -/

section
variable {s : State} {n : Fin 16}

theorem stlctlEn_enables (off : bitAt (portAt s n).ctl 0 = false) : exec (.stlctlEn n true) s = .next (setPort s n
    { portAt s n with ctl := putField (portAt s n).ctl 0 1 1, st := 1, nextSeq := 0, acked := 0xFFF, expect := 0, asked := none }) := by
  show execStlctlEn n true s = _
  simp [execStlctlEn, enablePort, off, bit]

theorem stlctlEn_disables (on : bitAt (portAt s n).ctl 0 = true) (up : (portAt s n).st ≠ 0) : exec (.stlctlEn n false) s =
    .next (portDown (setPort s n { portAt s n with ctl := putField (portAt s n).ctl 0 1 0 }) n) := by
  show execStlctlEn n false s = _
  simp only [execStlctlEn, enablePort, on, up]
  rfl

theorem stolierLinkLoss_up (up : (portAt s n).st ≠ 0) : exec (.stolierLinkLoss n) s = .next (portDown s n) := by
  show execStolierLinkLoss n s = _
  rw [execStolierLinkLoss, if_neg up, eventOut_some]

/-- A port that has trained: it is up on its lanes, at the lower rate of its two ends (R24, R369). -/
def trainedPort (p : Port) (partner : Bool) : Port :=
  { p with rate := bitAt p.ctl 1 && partner, width := p.lanes, st := 2, out := [] }

/-- A port that trained and had no replay in hand is up again, and sends. -/
theorem retrainEnd_port (training : (portAt s n).st = 1) (noReplay : (portAt s n).replay = none) (partner : Bool) :
    ∃ t, exec (.stolierRetrainEnd n true partner) s = .next t ∧ portAt t n = pumpPort 256 (trainedPort (portAt s n) partner) := by
  have outcome : exec (.stolierRetrainEnd n true partner) s = .next (
      let t := sendQueued (setPort s n (trainedPort (portAt s n) partner)) n
      if (portAt s n).width = 0 then logLink t n else t) := by
    show execStolierRetrainEnd n true partner s = _
    simp [execStolierRetrainEnd, training, noReplay, trainedPort]
  have sent : portAt (sendQueued (setPort s n (trainedPort (portAt s n) partner)) n) n =
      pumpPort 256 (trainedPort (portAt s n) partner) := by rw [portAt_sendQueued, portAt_setPort_same]
  refine ⟨_, outcome, ?_⟩
  dsimp only
  split
  · rw [portAt, (logLink_records ..).ports, ← portAt, sent]
  · exact sent

theorem force_due {lane : Nat} (wide : lane < (portAt s n).width) (new : lane ∉ (portAt s n).due) :
    exec (.force n lane) s = .next (setPort s n { portAt s n with due := (portAt s n).due ++ [lane] }) := by
  show execForce n lane s = _
  simp [execForce, wide, new]

/-- A port of which the spare has taken the place of a lane, and which trains again (R369). -/
def sparedPort (p : Port) (lane : Nat) : Port :=
  { p with repairs := Nat.min 255 (p.repairs + 1), st := 4, due := p.due.erase lane, charges := p.charges.filter fun c => c.1 != lane,
           spare := true }

/-- The repair of a due lane takes the spare where it is free. -/
theorem laneRepair_spare {lane : Nat} {rest : List Nat} (due : (portAt s n).due = lane :: rest) (up : (portAt s n).st = 2)
    (noReplay : (portAt s n).replay = none) (asked : (portAt s n).asked = none) (free : (portAt s n).spare = false) :
    ∃ t, exec (.laneRepair n) s = .next t ∧ portAt t n = sparedPort (portAt s n) lane := by
  have begun : exec (.laneRepair n) s = .next (beginRepair s n lane) := by
    show execLaneRepair n s = _
    simp [execLaneRepair, repairLane, due, up, noReplay, asked]
  have repaired : repairedPort (portAt s n) lane = some (sparedPort (portAt s n) lane) := by
    simp [repairedPort, free, sparedPort]
  refine ⟨_, begun, ?_⟩
  rw [beginRepair, repaired]
  dsimp only
  rw [portAt, (logService_records ..).ports, (logLink_records ..).ports, ← portAt, portAt_setPort_same]

/-- No lane is repaired while a replay is asked for (R369). -/
theorem laneRepair_asked (asked : (portAt s n).asked.isSome) : exec (.laneRepair n) s = .next s := by
  have held : repairLane (portAt s n) = none := if_neg fun h => by simp_all
  show execLaneRepair n s = _
  rw [execLaneRepair, held]
  rfl

end

/-! ## The statement -/

/-- What a flit leaves of the port at which it arrives (R368, R369). -/
theorem flitChanges (n : Fin 16) (s : State) (flit : BitVec 2048) (up : (portAt s n).st = 2) :
    (crcOk flit = false → ∃ t, exec (.flitReceive n flit) s = .next t ∧
      (portAt t n).crcerr = Nat.min 65535 ((portAt s n).crcerr + 1) ∧ (portAt t n).expect = (portAt s n).expect ∧
      exec (.laneRepair n) t = .next t ∧ (portAt t n).out.map flitType = [2]) ∧
    (crcOk flit = true → (flitType flit = 1 ∨ flitType flit = 3) → flitSeq flit = (portAt s n).expect →
      ∃ t, exec (.flitReceive n flit) s = .next t ∧ (portAt t n).expect = (portAt s n).expect + 1 ∧ (portAt t n).last = some flit ∧
        ∀ x ∈ (portAt t n).failed, x ∈ (portAt s n).failed ∧ x.1 ≠ (portAt s n).expect) ∧
    (crcOk flit = true → (flitType flit = 1 ∨ flitType flit = 3) → flitSeq flit ≠ (portAt s n).expect →
      ∃ t, exec (.flitReceive n flit) s = .next t ∧ (portAt t n).expect = (portAt s n).expect ∧ (portAt t n).last = (portAt s n).last) := by
  refine ⟨fun bad => ?_, fun ok payload seq => ?_, fun ok payload seq => ?_⟩
  · refine ⟨_, flitReceive_failed up bad, ?_⟩
    have asks : (portAt (setPort s n (failedFlit (listening (portAt s n)) flit)) n).asked.isSome := by
      rw [portAt_setPort_same]
      rfl
    refine ⟨?_, ?_, laneRepair_asked asks, ?_⟩ <;> rw [portAt_setPort_same]
    · rfl
    · rfl
    · simp only [failedFlit, List.map_cons, List.map_nil, (makeFlit_header ..).2.2]
      rfl
  · obtain ⟨expect, last, failed⟩ := acceptFlit_received (listening (portAt s n)) flit
    obtain ⟨expect', last', failed', -⟩ := takeFlit_expected seq
    refine ⟨_, flitReceive_payload up ok payload, expect'.trans expect, last'.trans last, fun x hx => failed x (failed' ▸ hx)⟩
  · obtain ⟨expect, last, -⟩ := takeFlit_other seq
    exact ⟨_, flitReceive_payload up ok payload, expect, last⟩

/-- A port that has received the acknowledgement of its oldest flit. -/
def ackedPort (p : Port) (a : BitVec 12) : Port := { listening p with buffer := p.buffer.drop 1, acked := a }

/-- An acknowledgement makes room for one flit, and a control flit takes it (R367, R368). -/
theorem idleFlit_control (n : Fin 16) (s : State) (flit : BitVec 2048) {c : BitVec 1920} {cs : List (BitVec 1920)}
    (up : (portAt s n).st = 2) (ok : crcOk flit = true) (type : flitType flit = 0) (ack : flitAck flit = (portAt s n).acked + 1)
    (full : (portAt s n).buffer.length = 256) (noReplay : (portAt s n).replay = none) (sound : (portAt s n).due = [])
    (control : (portAt s n).control = c :: cs) :
    ∃ t, exec (.flitReceive n flit) s = .next t ∧ (portAt t n).control = cs ∧ (portAt t n).data = (portAt s n).data ∧
      (portAt t n).out = [nextFlit (portAt s n) 3 c] ∧ (portAt t n).buffer = (portAt s n).buffer.drop 1 ++ (portAt t n).out ∧
      (portAt t n).nextSeq = (portAt s n).nextSeq + 1 := by
  have one : (flitAck flit - (listening (portAt s n)).acked).toNat = 1 := by
    rw [ack, listening, BitVec.add_comm, BitVec.add_sub_cancel]
    rfl
  have acked : ackUpTo (listening (portAt s n)) (flitAck flit) = ackedPort (portAt s n) (flitAck flit) :=
    ackUpTo_eq noReplay one (by simp [listening, full])
  have room : (ackedPort (portAt s n) (flitAck flit)).buffer.length = 255 := by simp [ackedPort, full]
  refine ⟨_, flitReceive_idle up ok type, ?_⟩
  rw [portAt_sendQueued, portAt_setPort_same, acked,
    pumpPort_control (p := ackedPort (portAt s n) (flitAck flit)) 255 up (by omega) sound control,
    pumpPort_full _ (by simp [sentPort, room])]
  simp only [sentPort, ackedPort, listening, nextFlit, List.nil_append, and_self]

/-- A port to which a payload of a data flit has been handed, with none before it. -/
def handedPort (p : Port) (x : BitVec 1920) : Port := { p with out := [], data := [x] }

/-- A payload for a node goes out at once where fewer than 256 flits are unacknowledged, and waits otherwise (R368, R371). -/
theorem payloadSent (n : Fin 16) (s : State) (node : Nat) (x : BitVec 1920) (up : (portAt s n).st = 2)
    (route : routeOf s node = some n.val) (control : (portAt s n).control = []) (data : (portAt s n).data = [])
    (sound : (portAt s n).due = []) :
    ((portAt s n).buffer.length < 256 →
      (portAt (sendPayload s node false x) n).buffer = (portAt s n).buffer ++ [nextFlit (portAt s n) 1 x]) ∧
    (256 ≤ (portAt s n).buffer.length → (portAt (sendPayload s node false x) n).data = [x] ∧
      (portAt (sendPayload s node false x) n).buffer = (portAt s n).buffer) := by
  have sent : portAt (sendPayload s node false x) n = pumpPort 256 (handedPort (portAt s n) x) := by
    rw [sendPayload_routed route (by simp [up]), portAt_queuePayload, if_neg Bool.false_ne_true, data]
    rfl
  rw [sent]
  refine ⟨fun room => ?_, fun full => ?_⟩
  · rw [pumpPort_data (p := handedPort (portAt s n) x) 255 up room sound control rfl,
      pumpPort_idle (p := sentPort { handedPort (portAt s n) x with data := [] } 1 x) _ control rfl]
    rfl
  · rw [pumpPort_full (p := handedPort (portAt s n) x) _ full]
    exact ⟨rfl, rfl⟩

/-- Settles O57: a window by its fields, a port of the second tier by its register, and a Stolier port by what each event leaves of it. -/
theorem linkEvents : Obligations.LinkEvents := by
  refine ⟨windowWrites, linkChanges, fun n s p hp => ?_⟩
  rw [← portAt_eq] at hp
  subst hp
  simp only [← portAt_eq]
  refine ⟨fun off => ⟨_, stlctlEn_enables off, ?_⟩, fun on up => ⟨_, stlctlEn_disables on up, ?_⟩, fun training noReplay partner => ?_,
    fun up => ⟨_, stolierLinkLoss_up up, ?_⟩, fun lane wide new => ⟨_, force_due wide new, portAt_setPort_same ..⟩,
    fun lane rest due up noReplay asked free => ?_, fun flit up => ?_⟩
  · rw [portAt_setPort_same]
    exact ⟨rfl, (bitAt_putField _ _ _ _ _ (by decide)).trans (if_pos (by decide))⟩
  · rw [portAt_portDown]
    exact ⟨rfl, rfl⟩
  · obtain ⟨t, outcome, port⟩ := retrainEnd_port training noReplay partner
    obtain ⟨-, -, -, -, st, width⟩ := pumpPort_received 256 (trainedPort (portAt s n) partner)
    refine ⟨t, outcome, ?_⟩
    rw [port]
    exact ⟨st, pumpPort_rate .., width⟩
  · rw [portAt_portDown]
    exact ⟨rfl, rfl⟩
  · obtain ⟨t, outcome, port⟩ := laneRepair_spare due up noReplay asked free
    refine ⟨t, outcome, ?_⟩
    rw [port]
    exact ⟨rfl, rfl, rfl, rfl⟩
  · obtain ⟨failed, expected, other⟩ := flitChanges n s flit up
    refine ⟨failed, expected, other, fun ok type next sent noReplay => ⟨_, flitReceive_nak up ok type next sent noReplay, ?_⟩,
      fun c cs ok type ack full noReplay sound control => idleFlit_control n s flit up ok type ack full noReplay sound control,
      fun node x route control data sound => payloadSent n s node x up route control data sound⟩
    rw [portAt_setPort_same]
    exact ⟨rfl, rfl, rfl, rfl⟩

end Sys2Proof.Machine
end

section
/-! PROOF. Levels, power, heat, the SRAM rail, gating and wakes: what each event leaves of its cluster and its die (R322, R376 to R384). -/

namespace Sys2Proof.Machine

/-! ## What changes of clusters and dies leave alone -/

@[simp] theorem modCluster_mem (s : State) (cl : Nat) (f : Cluster → Cluster) : (modCluster s cl f).mem = s.mem := by
  unfold modCluster
  split <;> rfl

@[simp] theorem modCluster_cores (s : State) (cl : Nat) (f : Cluster → Cluster) : (modCluster s cl f).cores = s.cores := by
  unfold modCluster
  split <;> rfl

@[simp] theorem modCluster_arbiter (s : State) (cl : Nat) (f : Cluster → Cluster) : (modCluster s cl f).arbiter = s.arbiter := by
  unfold modCluster
  split <;> rfl

@[simp] theorem modDie_fatal (s : State) (d : Nat) (f : Die → Die) : (modDie s d f).fatal = s.fatal := by
  unfold modDie
  split <;> rfl

@[simp] theorem clusterAt_modCluster_same (s : State) (cl : Fin 20) (f : Cluster → Cluster) :
    clusterAt (modCluster s cl f) cl = f (clusterAt s cl) := by
  rw [clusterAt_modCluster s cl cl f cl.isLt, if_pos rfl]

@[simp] theorem dieAt_modDie_same (s : State) (d : Fin 2) (f : Die → Die) : dieAt (modDie s d f) d = f (dieAt s d) := by
  rw [dieAt_modDie s d d f d.isLt, if_pos rfl]

theorem getCore_of_cores {s t : State} (h : t.cores = s.cores) (n : Nat) : getCore t n = getCore s n := by
  rw [getCore, h, getCore]

/-- A core is one of the list, or as after reset. -/
theorem getCore_of_listed {s : State} {n : Nat} {P : Core → Prop} (reset : P Core.reset) (listed : ∀ c ∈ s.cores, c.1 = n → P c.2) :
    P (getCore s n) := by
  unfold getCore
  split
  · next c found => exact listed c (List.mem_of_find?_eq_some found) (by simpa using List.find?_some found)
  · exact reset

/-! ## Gating and wakes (R381, R382) -/

/-- The state to which a wake request takes a cluster (R381). -/
def wokenState : PState → PState
  | .hold => .active
  | .gated => .waking
  | p => p

theorem clusterAt_wakeCluster (s : State) (cl : Fin 20) :
    clusterAt (wakeCluster s cl) cl = { clusterAt s cl with pstate := wokenState (clusterAt s cl).pstate } := by
  rw [wakeCluster, getElem?_clusters s cl.isLt]
  dsimp only
  cases state : (clusterAt s cl).pstate with
  | hold => exact clusterAt_modCluster_same ..
  | gated => exact clusterAt_modCluster_same ..
  | active =>
    show clusterAt s cl = { clusterAt s cl with pstate := .active }
    rw [← state]
  | waking =>
    show clusterAt s cl = { clusterAt s cl with pstate := .waking }
    rw [← state]

/-- A gated cluster queues for its ramp. -/
theorem arbiter_wakeCluster (s : State) (cl : Fin 20) :
    (wakeCluster s cl).arbiter = if (clusterAt s cl).pstate = .gated then s.arbiter ++ [cl.val] else s.arbiter := by
  rw [wakeCluster, getElem?_clusters s cl.isLt]
  dsimp only
  cases state : (clusterAt s cl).pstate with
  | gated => exact modCluster_arbiter ..
  | hold => exact modCluster_arbiter ..
  | active => rfl
  | waking => rfl

@[simp] theorem wakeCluster_cores (s : State) (cl : Nat) : (wakeCluster s cl).cores = s.cores := by
  unfold wakeCluster
  split
  · split <;> simp
  · rfl

@[simp] theorem clusterAt_setPState (s : State) (cl : Fin 20) (p : PState) :
    clusterAt (setPState s cl p) cl = { clusterAt s cl with pstate := p } := clusterAt_modCluster_same ..

section
variable {s : State} {cl : Fin 20}

theorem gateHoldEnd_active (active : (clusterAt s cl).pstate = .active) (enabled : (clusterAt s cl).gateen = true)
    (idle : clusterIdle s cl = true) : exec (.gateHoldEnd cl) s = .next (setPState s cl .hold) := by
  show execGateHoldEnd cl s = _
  simp only [execGateHoldEnd, active, enabled, idle]
  rfl

theorem gateHoldEnd_hold (hold : (clusterAt s cl).pstate = .hold) :
    exec (.gateHoldEnd cl) s = .next (setPState s cl (if clusterIdle s cl then .gated else .active)) := by
  show execGateHoldEnd cl s = _
  simp only [execGateHoldEnd, hold]
  rfl

theorem wakeRampStart_first {rest : List Nat} (free : s.ramping = none) (waiting : s.arbiter = cl.val :: rest) :
    exec .wakeRampStart s = .next { s with ramping := some cl.val, arbiter := rest } := by
  show execWakeRampStart s = _
  simp only [execWakeRampStart, free, waiting]
  rfl

/-- The cores of a cluster that comes up, zeroed (R381). -/
def zeroCluster (cl : Nat) (c : Nat × Core) : Nat × Core := if clusterOf c.1 = cl then (c.1, zeroedCore c.2) else c

theorem wakeDone_ramp (ramping : s.ramping = some cl.val) : exec .wakeDone s =
    .next { setPState { s with cores := s.cores.map (zeroCluster cl) } cl .active with ramping := none } := by
  show execWakeDone s = _
  simp only [execWakeDone, ramping]
  rfl

/-- A core of a cluster that has come up has no galley declared and an empty scratchpad. -/
theorem getCore_zeroed {core : Nat} {t : State} (h : t.cores = s.cores.map (zeroCluster cl)) (here : core / 16 = cl.val) :
    (getCore t core).scratch = [] ∧ (getCore t core).galleys = Vector.replicate 32 0 := by
  refine getCore_of_listed (P := fun c => c.scratch = [] ∧ c.galleys = Vector.replicate 32 0) ⟨rfl, rfl⟩ fun c hc number => ?_
  rw [h] at hc
  obtain ⟨c, -, rfl⟩ := List.mem_map.1 hc
  by_cases inside : clusterOf c.1 = cl.val
  · rw [zeroCluster, if_pos inside]
    exact ⟨rfl, rfl⟩
  · rw [zeroCluster, if_neg inside] at number
    exact absurd (number ▸ here) inside

end

/-- What the events of a cluster leave of it (R376, R377, R381, R382). -/
theorem clusterEvents (cl : Fin 20) (s : State) (c : Cluster) (hc : c = s.clusters[cl]) :
    (∃ t, exec (.levelWindowBoundary cl) s = .next t ∧ t.clusters[cl] = { c with elevel := BitVec.ofNat 5 (Nat.min
      (Nat.max 4 (Nat.min 16 c.level.toNat)) (Nat.min c.thermal (Nat.min (dieAt s (cl.val / 10)).power (dieAt s (cl.val / 10)).thermal))) }) ∧
    (∀ v, ∃ t, exec (.tempRefresh cl v) s = .next t ∧ t.clusters[cl] = { c with temp := v } ∧ t.mem = s.mem) ∧
    (c.pstate = .active → c.gateen = true → clusterIdle s cl = true → ∃ t, exec (.gateHoldEnd cl) s = .next t ∧
      t.clusters[cl] = { c with pstate := .hold }) ∧
    (c.pstate = .hold → ∃ t, exec (.gateHoldEnd cl) s = .next t ∧
      t.clusters[cl] = { c with pstate := if clusterIdle s cl then .gated else .active }) ∧
    (c.pstate = .gated → ∃ t, exec (.wakeRequest cl) s = .next t ∧ t.clusters[cl] = { c with pstate := .waking } ∧
      t.arbiter = s.arbiter ++ [cl.val]) ∧
    (c.pstate = .hold → ∃ t, exec (.wakeRequest cl) s = .next t ∧ t.clusters[cl] = { c with pstate := .active }) ∧
    (∃ t, exec (.gateenWrite cl true) s = .next t ∧ t.clusters[cl] = { c with gateen := true } ∧ t.arbiter = s.arbiter) ∧
    (∃ t, exec (.gateenWrite cl false) s = .next t ∧
      t.clusters[cl] = { c with gateen := false, pstate := wokenState c.pstate } ∧
      t.arbiter = if c.pstate = .gated then s.arbiter ++ [cl.val] else s.arbiter) ∧
    (∀ rest, s.ramping = none → s.arbiter = cl.val :: rest →
      exec .wakeRampStart s = .next { s with ramping := some cl.val, arbiter := rest }) ∧
    (s.ramping = some cl.val → ∃ t, exec .wakeDone s = .next t ∧ t.ramping = none ∧ t.clusters[cl] = { c with pstate := .active } ∧
      ∀ core, core / 16 = cl.val → (getCore t core).scratch = [] ∧ (getCore t core).galleys = Vector.replicate 32 0) := by
  rw [← clusterAt_eq] at hc
  subst hc
  simp only [← clusterAt_eq]
  refine ⟨⟨_, rfl, clusterAt_modCluster_same ..⟩, fun v => ⟨_, rfl, clusterAt_modCluster_same .., modCluster_mem ..⟩,
    fun active enabled idle => ⟨_, gateHoldEnd_active active enabled idle, clusterAt_setPState ..⟩,
    fun hold => ⟨_, gateHoldEnd_hold hold, clusterAt_setPState ..⟩, fun gated => ⟨_, rfl, ?_, ?_⟩, fun hold => ⟨_, rfl, ?_⟩,
    ⟨_, rfl, clusterAt_modCluster_same .., modCluster_arbiter ..⟩, ⟨_, rfl, ?_, ?_⟩,
    fun rest free waiting => wakeRampStart_first free waiting, fun ramping => ⟨_, wakeDone_ramp ramping, rfl, ?_, fun core here => ?_⟩⟩
  · rw [clusterAt_wakeCluster, gated]
    rfl
  · rw [arbiter_wakeCluster, if_pos gated]
  · rw [clusterAt_wakeCluster, hold]
    rfl
  · exact (clusterAt_wakeCluster _ cl).trans (by rw [clusterAt_modCluster_same])
  · exact (arbiter_wakeCluster _ cl).trans (by rw [clusterAt_modCluster_same, modCluster_arbiter])
  · exact clusterAt_setPState _ cl .active
  · exact getCore_zeroed (modCluster_cores ..) here

/-! ## Power and heat (R379, R380) -/

theorem powerEval_die (die : Fin 2) (s : State) (mw : Nat) : ∃ t, exec (.powerEval die mw) s = .next t ∧ (dieAt t die).power =
    if (dieAt s die).pcap.toNat * 1000 < mw then Nat.max 4 ((dieAt s die).power - 1)
    else if mw < (dieAt s die).pcap.toNat * 950 then Nat.min 16 ((dieAt s die).power + 1) else (dieAt s die).power := by
  refine ⟨_, rfl, ?_⟩
  refine (congrArg Die.power ((logIf_records ..).dies die)).trans ?_
  rw [dieAt_modDie_same]
  rfl

/-- The state in which heat is evaluated. -/
def evaluated (s : State) (die : Nat) : State := modDie s die fun d => { d with evals := d.evals + 1 }

theorem tempOf_evaluated (s : State) (die cl : Nat) : tempOf (evaluated s die) cl = tempOf s cl := by
  rw [tempOf, evaluated, clusterAt_modDie, tempOf]

theorem thot_evaluated (s : State) (die : Fin 2) : (dieAt (evaluated s die) die).thot = (dieAt s die).thot := by
  rw [evaluated, dieAt_modDie_same]

theorem thermal_evaluated (s : State) (die : Fin 2) : (dieAt (evaluated s die) die).thermal = (dieAt s die).thermal := by
  rw [evaluated, dieAt_modDie_same]

/-- Where no cluster has reached 110 degrees, none is found. -/
theorem find_burning {s : State} {die : Nat} (cool : ∀ cl ∈ clustersOf die, tempOf s cl < 110) :
    (clustersOf die).find? (fun cl => decide (110 ≤ tempOf (evaluated s die) cl)) = none := by
  refine List.find?_eq_none.2 fun cl h => ?_
  rw [tempOf_evaluated, decide_eq_true_eq]
  exact Nat.not_le.2 (cool cl h)

section
variable {s : State} {die : Fin 2}

/-- A die on which every cluster is too hot takes its limit one step down. -/
theorem thermalEval_hot (hot : ∀ cl ∈ clustersOf die, tempOf s cl < 110 ∧ (dieAt s die).thot.toNat < tempOf s cl) :
    ∃ t, exec (.thermalEval die) s = .next t ∧ (dieAt t die).thermal = Nat.max 4 ((dieAt s die).thermal - 1) := by
  have every : (clustersOf die).filter (fun cl => decide ((dieAt (evaluated s die) die).thot.toNat < tempOf (evaluated s die) cl)) =
      clustersOf die := by
    refine List.filter_eq_self.2 fun cl h => ?_
    rw [tempOf_evaluated, thot_evaluated, decide_eq_true_eq]
    exact (hot cl h).2
  have outcome : exec (.thermalEval die) s = .next (
      logIf (stepDown (dieAt (evaluated s die) die).thermal != (dieAt (evaluated s die) die).thermal)
        (modDie (evaluated s die) die fun d => { d with thermal := stepDown d.thermal })) := by
    show execThermalEval die s = _
    rw [evaluated] at every
    simp only [execThermalEval, every]
    rw [← evaluated, find_burning fun cl h => (hot cl h).1]
    rfl
  refine ⟨_, outcome, ?_⟩
  refine (congrArg Die.thermal ((logIf_records ..).dies die)).trans ?_
  rw [dieAt_modDie_same, thermal_evaluated]
  rfl

/-- A cluster that has reached 110 degrees stops the package (R323, R380). -/
theorem thermalEval_burning (burning : ∃ cl ∈ clustersOf die, 110 ≤ tempOf s cl) (up : s.fatal = none) :
    ∃ t, exec (.thermalEval die) s = .next t ∧ t.fatal ≠ none := by
  obtain ⟨cl, hot⟩ : ∃ cl, (clustersOf die).find? (fun cl => decide (110 ≤ tempOf (evaluated s die) cl)) = some cl := by
    rw [← Option.isSome_iff_exists, List.find?_isSome]
    simpa only [tempOf_evaluated, decide_eq_true_eq] using burning
  have outcome : exec (.thermalEval die) s = .next (goFatal (evaluated s die) 1 die cl) := by
    show execThermalEval die s = _
    rw [evaluated] at hot
    simp only [execThermalEval, hot]
    rfl
  have still : (evaluated s die).fatal = none := (modDie_fatal ..).trans up
  refine ⟨_, outcome, ?_⟩
  rw [goFatal, still]
  exact Option.some_ne_none _

/-- A change of clusters one after another leaves a die as it was. -/
theorem dieAt_foldl_modCluster (l : List Nat) (f : Cluster → Cluster) (s : State) (d : Nat) :
    dieAt (l.foldl (fun s cl => modCluster s cl f) s) d = dieAt s d :=
  List.foldlRecOn l (fun s cl => modCluster s cl f) (motive := fun t => dieAt t d = dieAt s d) rfl
    fun t h cl _ => (dieAt_modCluster t cl f d).trans h

/-- A die on which every cluster is at least 5 degrees below THOT takes its limit one step up. -/
theorem thermalEval_cool (cool : ∀ cl ∈ clustersOf die, tempOf s cl < 110 ∧ tempOf s cl + 5 ≤ (dieAt s die).thot.toNat) :
    ∃ t, exec (.thermalEval die) s = .next t ∧ (dieAt t die).thermal = Nat.min 16 ((dieAt s die).thermal + 1) := by
  have nowhere : (clustersOf die).filter (fun cl => decide ((dieAt (evaluated s die) die).thot.toNat < tempOf (evaluated s die) cl)) =
      [] := by
    refine List.filter_eq_nil_iff.2 fun cl h => ?_
    rw [tempOf_evaluated, thot_evaluated, decide_eq_true_eq]
    have := (cool cl h).2
    omega
  have every : ((clustersOf die).all fun cl => decide (tempOf (evaluated s die) cl + 5 ≤ (dieAt (evaluated s die) die).thot.toNat)) =
      true := by
    refine List.all_eq_true.2 fun cl h => ?_
    rw [tempOf_evaluated, thot_evaluated, decide_eq_true_eq]
    exact (cool cl h).2
  have outcome : exec (.thermalEval die) s = .next (
      logIf (decide ((dieAt (evaluated s die) die).thermal < 16) ||
          (clustersOf die).any fun cl => decide ((clusterAt (evaluated s die) cl).thermal < 16))
        ((clustersOf die).foldl (fun s cl => modCluster s cl fun c => { c with thermal := stepUp c.thermal })
          (modDie (evaluated s die) die fun d => { d with thermal := stepUp d.thermal }))) := by
    show execThermalEval die s = _
    rw [evaluated] at nowhere every
    simp only [execThermalEval, nowhere, every]
    rw [← evaluated, find_burning fun cl h => (cool cl h).1]
    rfl
  refine ⟨_, outcome, ?_⟩
  refine (congrArg Die.thermal ((logIf_records ..).dies die)).trans ?_
  rw [dieAt_foldl_modCluster, dieAt_modDie_same, thermal_evaluated]
  rfl

end

/-! ## The SRAM rail (R322, R383, R384) -/

/-- An evaluation of the rail clears what it counts. -/
theorem railAfter_clears (d : Die) : (railAfter d).srErrs = 0 ∧ (railAfter d).srUe = false := by
  unfold railAfter
  dsimp only
  split
  · exact ⟨rfl, rfl⟩
  · next sound =>
    have sound : d.srUe = false := Bool.eq_false_iff.2 sound
    split <;> exact ⟨rfl, sound⟩

/-- After an uncorrectable error the rail stands at its ceiling, and is held there. -/
theorem railAfter_uncorrectable {d : Die} (h : d.srUe = true) : (railAfter d).vnow = d.vmax ∧ (railAfter d).vheld = 99 := by
  rw [railAfter, if_pos h]
  exact ⟨rfl, rfl⟩

theorem railAfter_held {d : Die} (sound : d.srUe = false) (held : 0 < d.vheld) :
    (railAfter d).vnow = d.vnow ∧ (railAfter d).vheld = d.vheld - 1 := by
  rw [railAfter, if_neg (by simp [sound]), if_pos held]
  exact ⟨rfl, rfl⟩

theorem railAfter_moves {d : Die} (sound : d.srUe = false) (free : d.vheld = 0) : (railAfter d).vnow = BitVec.ofNat 10 (
    if d.ceset.toNat < d.srErrs then Nat.min d.vmax.toNat (d.vnow.toNat + 10)
    else if 2 * d.srErrs < d.ceset.toNat then Nat.max (Nat.min d.vmin.toNat d.vmax.toNat) (d.vnow.toNat - 5)
    else d.vnow.toNat) := by
  rw [railAfter, if_neg (by simp [sound]), if_neg (by omega)]
  rfl

theorem getCore_modDie (s : State) (d : Nat) (f : Die → Die) (n : Nat) : getCore (modDie s d f) n = getCore s n :=
  getCore_of_cores (modDie_memory ..).2 n

theorem dieAt_modCore (s : State) (n : Nat) (f : Core → Core) (d : Nat) : dieAt (modCore s n f) d = dieAt s d := rfl

/-- Corrected errors of a core are counted with it. -/
theorem sramce_correctSram (s : State) (core n : Nat) (latch : Bool) :
    (getCore (correctSram s core n latch) core).sramce = (getCore s core).sramce + BitVec.ofNat 64 n := by
  unfold correctSram
  dsimp only
  split
  · rw [getCore_modCore_same]
    rfl
  · rw [getCore_modDie, getCore_modCore_same]
    rfl

theorem correctSram_mem (s : State) (core n : Nat) (latch : Bool) : (correctSram s core n latch).mem = s.mem := by
  cases latch
  · exact (modDie_memory ..).1
  · rfl

/-- The state in which the rail of a die follows its errors: those that a core has found last are counted. -/
def railCounted (s : State) (die core found : Nat) : State :=
  if found ≠ 0 ∧ dieOf core = die ∧ clusterActive s (clusterOf core) = true then correctSram s core found false else s

section
variable {s : State} {die : Fin 2} {core found n : Nat}

/-- What is counted, with the core and with its die. -/
theorem railCounted_counts (hn : n = if core / 160 = die.val ∧ clusterActive s (core / 16) = true then found else 0) :
    dieAt (railCounted s die core found) die = { dieAt s die with srErrs := (dieAt s die).srErrs + n } ∧
      (getCore (railCounted s die core found) core).sramce = (getCore s core).sramce + BitVec.ofNat 64 n := by
  by_cases counted : found ≠ 0 ∧ dieOf core = die ∧ clusterActive s (clusterOf core) = true
  · obtain rfl : n = found := hn.trans (if_pos counted.2)
    have here : dieOf core = die := counted.2.1
    rw [railCounted, if_pos counted]
    refine ⟨?_, sramce_correctSram ..⟩
    show dieAt (modDie (modCore s core _) (dieOf core) _) die = _
    rw [here, dieAt_modDie_same, dieAt_modCore]
  · have none : n = 0 := by
      rw [hn]
      split
      · next here =>
        by_contra found
        exact counted ⟨found, here⟩
      · rfl
    rw [railCounted, if_neg counted, none]
    exact ⟨rfl, (BitVec.add_zero _).symm⟩

/-- An evaluation of the rail: its die, and the core whose errors it counts. -/
theorem vsramEval_die (hn : n = if core / 160 = die.val ∧ clusterActive s (core / 16) = true then found else 0) :
    ∃ t, exec (.vsramEval die core found) s = .next t ∧
      dieAt t die = { railAfter { dieAt s die with srErrs := (dieAt s die).srErrs + n } with mcb := (dieAt t die).mcb } ∧
      (getCore t core).sramce = (getCore s core).sramce + BitVec.ofNat 64 n := by
  obtain ⟨counted, sramce⟩ := railCounted_counts hn
  have outcome : exec (.vsramEval die core found) s = .next (
      logIf ((railAfter (dieAt (railCounted s die core found) die)).vnow != (dieAt (railCounted s die core found) die).vnow)
        (modDie (railCounted s die core found) die railAfter)) := rfl
  refine ⟨_, outcome, ((logIf_records ..).dies die).trans ?_, ?_⟩
  · rw [dieAt_modDie_same, counted]
  · rw [getCore_of_cores (logIf_cores ..), getCore_modDie, sramce]

end

/-- What the events of a die leave of it (R379, R380, R383). -/
theorem dieEvents (die : Fin 2) (s : State) (d : Die) (hd : d = s.dies[die]) :
    (∀ mw, ∃ t, exec (.powerEval die mw) s = .next t ∧ t.dies[die].power =
      (if d.pcap.toNat * 1000 < mw then Nat.max 4 (d.power - 1) else if mw < d.pcap.toNat * 950 then Nat.min 16 (d.power + 1) else d.power)) ∧
    ((∀ cl ∈ clustersOf die, tempOf s cl < 110 ∧ d.thot.toNat < tempOf s cl) →
      ∃ t, exec (.thermalEval die) s = .next t ∧ t.dies[die].thermal = Nat.max 4 (d.thermal - 1)) ∧
    ((∃ cl ∈ clustersOf die, 110 ≤ tempOf s cl) → s.fatal = none → ∃ t, exec (.thermalEval die) s = .next t ∧ t.fatal ≠ none) ∧
    ((∀ cl ∈ clustersOf die, tempOf s cl < 110 ∧ tempOf s cl + 5 ≤ d.thot.toNat) →
      ∃ t, exec (.thermalEval die) s = .next t ∧ t.dies[die].thermal = Nat.min 16 (d.thermal + 1)) ∧
    ∀ core found n, n = (if core / 160 = die.val ∧ clusterActive s (core / 16) = true then found else 0) →
      ∃ t, exec (.vsramEval die core found) s = .next t ∧ t.dies[die].srErrs = 0 ∧ t.dies[die].srUe = false ∧
      (getCore t core).sramce = (getCore s core).sramce + BitVec.ofNat 64 n ∧
      (d.srUe = true → t.dies[die].vnow = d.vmax ∧ t.dies[die].vheld = 99) ∧
      (d.srUe = false → 0 < d.vheld → t.dies[die].vnow = d.vnow ∧ t.dies[die].vheld = d.vheld - 1) ∧
      (d.srUe = false → d.vheld = 0 → t.dies[die].vnow = BitVec.ofNat 10 (
        if d.ceset.toNat < d.srErrs + n then Nat.min d.vmax.toNat (d.vnow.toNat + 10)
        else if 2 * (d.srErrs + n) < d.ceset.toNat then Nat.max (Nat.min d.vmin.toNat d.vmax.toNat) (d.vnow.toNat - 5)
        else d.vnow.toNat)) := by
  rw [← dieAt_eq] at hd
  subst hd
  simp only [← dieAt_eq]
  refine ⟨powerEval_die die s, thermalEval_hot, thermalEval_burning, thermalEval_cool, fun core found n hn => ?_⟩
  obtain ⟨t, outcome, rail, sramce⟩ := vsramEval_die hn
  refine ⟨t, outcome, ?_⟩
  rw [rail]
  exact ⟨(railAfter_clears _).1, (railAfter_clears _).2, sramce, fun h => railAfter_uncorrectable h,
    fun sound held => railAfter_held sound held, fun sound free => railAfter_moves sound free⟩

end Sys2Proof.Machine
end

section
/-! PROOF. Scrubs of a core, the move of its harts and its retirement (R10, R296, R322, R381, R384, R385). -/

namespace Sys2Proof.Machine

/-! ## Scrubs (R322, R384) -/

section
variable {s : State} {core : Nat}

/-- A patrol scrub that corrects a word of the SRAM. -/
theorem sramScrub_corrects (active : clusterActive s (core / 16) = true) :
    exec (.sramScrub core 1 0) s = .next (correctSram s core 1 false) := by
  show execSramScrub core 1 0 s = _
  simp only [execSramScrub, clusterOf, active]
  rfl

/-- A patrol scrub that finds a word of a scratchpad uncorrectable: the word is known bad, and the die notes the error. -/
def scrubbedBad (s : State) (core pos : Nat) : State :=
  modDie (modCore s core fun c => { c with badWords := if c.badWords.contains pos then c.badWords else pos :: c.badWords }) (dieOf core)
    fun d => { d with srUe := true }

theorem sramScrub_uncorrectable (active : clusterActive s (core / 16) = true) {pos : Nat} (inside : pos < 40960) :
    exec (.sramScrub core 4 pos) s = .next (scrubbedBad s core pos) := by
  show execSramScrub core 4 pos s = _
  simp only [execSramScrub, clusterOf, active, if_pos inside]
  rfl

theorem sramScrub_inactive (inactive : clusterActive s (core / 16) = false) (what pos : Nat) :
    exec (.sramScrub core what pos) s = .next s := by
  show execSramScrub core what pos s = _
  simp only [execSramScrub, clusterOf, inactive]
  rfl

theorem scrubbedBad_badWords (s : State) (core pos : Nat) : pos ∈ (getCore (scrubbedBad s core pos) core).badWords := by
  rw [scrubbedBad, getCore_modDie, getCore_modCore_same]
  dsimp only
  split
  · next known => simpa using known
  · exact List.mem_cons_self

theorem scrubbedBad_srUe (s : State) (pos : Nat) (h : core < 320) : (dieAt (scrubbedBad s core pos) (core / 160)).srUe = true := by
  rw [scrubbedBad, dieOf, dieAt_modDie _ _ _ _ (by omega), if_pos rfl]

theorem scrubbedBad_mem (s : State) (core pos : Nat) : (scrubbedBad s core pos).mem = s.mem := (modDie_memory ..).1

end

/-! ## Every hart of the package -/

/-- A property of every hart that the state holds, launched or not. -/
def EachHart (P : Hart → Prop) (s : State) : Prop := P s.me ∧ ∀ h ∈ s.rest, P h

theorem EachHart.modHarts {P Q : Hart → Prop} {s : State} {f : Hart → Hart} (each : EachHart P s) (step : ∀ h, P h → Q (f h)) :
    EachHart Q (modHarts s f) := by
  refine ⟨step _ each.1, fun h hh => ?_⟩
  obtain ⟨g, hg, rfl⟩ := List.mem_map.1 hh
  exact step g (each.2 g hg)

theorem EachHart.all {P : Hart → Prop} {s : State} (each : EachHart P s) : ∀ h ∈ allHarts s, P h := by
  intro h hh
  unfold allHarts at hh
  split at hh
  · exact each.2 h hh
  · rcases List.mem_cons.1 hh with rfl | hh
    · exact each.1
    · exact each.2 h hh

/-- Taking a pin leaves the name and the core of the hart in focus as they were. -/
theorem takePin_place (s : State) : (takePin s).me.hid = s.me.hid ∧ (takePin s).me.core = s.me.core := by
  unfold takePin
  split <;> exact ⟨rfl, rfl⟩

theorem EachHart.takePins {P : Hart → Prop} {s : State} {core : Nat} (each : EachHart P s)
    (placed : ∀ g h : Hart, h.hid = g.hid → h.core = g.core → P g → P h) : EachHart P (takePins s core) := by
  refine each.modHarts fun h hh => ?_
  split
  · exact placed h _ (takePin_place { s with me := h }).1 (takePin_place { s with me := h }).2 hh
  · exact hh

theorem getCore_takePins (s : State) (core n : Nat) : getCore (takePins s core) n = getCore s n :=
  getCore_of_cores (modHarts_cores ..) n

theorem getCore_stopHarts (s : State) (core n : Nat) : getCore (stopHarts s core) n = getCore s n :=
  getCore_of_cores (modHarts_cores ..) n

/-! ## The move of harts (R296, R381) -/

/-- The target of a move is another core of the same die. -/
theorem moveTarget_spec {s : State} {core target : Nat} (h : moveTarget s core = some target) :
    target ≠ core ∧ target / 160 = core / 160 := by
  have chosen := List.find?_some h
  obtain ⟨i, hi, rfl⟩ := List.mem_map.1 (List.mem_of_find?_eq_some h)
  rw [Bool.and_eq_true, bne_iff_ne] at chosen
  have := List.mem_range.1 hi
  refine ⟨chosen.1, ?_⟩
  unfold dieOf
  omega

section
variable {s : State} {core target : Nat}

/-- A hart of a core, moved with what it holds places of. -/
def movedHart (core target : Nat) (h : Hart) : Hart :=
  if h.core = core ∧ h.hid ≠ 0 then
    { carryPlaces (fun p => if p.core = some core then { p with core := some target } else p) h with core := target }
  else h

/-- No hart is left on a core whose harts have moved. -/
theorem moveCore_harts (apart : target ≠ core) : ∀ h ∈ allHarts (moveCore s core target), h.hid ≠ 0 → h.core ≠ core := by
  have moved : EachHart (fun h => h.hid ≠ 0 → h.core ≠ core) (modHarts (stopHarts s core) (movedHart core target)) := by
    refine EachHart.modHarts (P := fun _ => True) ⟨trivial, fun _ _ => trivial⟩ fun h _ => ?_
    unfold movedHart
    split
    · exact fun _ => apart
    · next elsewhere => exact fun launched here => elsewhere ⟨here, launched⟩
  exact EachHart.all (EachHart.takePins ⟨moved.1, moved.2⟩ fun g h hid place left => by rwa [hid, place])

/-- What the target of a move holds then. -/
theorem moveCore_target (apart : target ≠ core) : (getCore (moveCore s core target) target).scratch = (getCore s core).scratch ∧
    (getCore (moveCore s core target) target).galleys = (getCore s core).galleys := by
  unfold moveCore
  dsimp only
  rw [getCore_takePins, getCore_modCore_other _ _ _ _ apart, getCore_modCore_same]
  exact ⟨rfl, rfl⟩

theorem moveCore_leaving : (getCore (moveCore s core target) core).leaving = false := by
  unfold moveCore
  dsimp only
  rw [getCore_takePins, getCore_modCore_same]

theorem moveCore_mem : (moveCore s core target).mem = s.mem := rfl

section
variable (leaving : (getCore s core).leaving = true) (ready : moveWaits s core = false) (chosen : moveTarget s core = some target)
  (free : galleysBusy s target = false)
include leaving ready chosen free

theorem hartMigration_moves (active : clusterActive s (target / 16) = true) :
    exec (.hartMigration core) s = .next (moveCore s core target) := by
  show execHartMigration core s = _
  simp [execHartMigration, leaving, ready, chosen, free, clusterOf, active]

theorem hartMigration_wakes {cl : Fin 20} (place : target / 16 = cl) (gated : (clusterAt s cl).pstate = .gated) :
    exec (.hartMigration core) s = .next (wakeCluster s cl) := by
  show execHartMigration core s = _
  simp [execHartMigration, leaving, ready, chosen, free, clusterOf, place, clusterActive_eq s cl.isLt, gated]

end

/-! ## Retirement (R10, R385) -/

/-- A core that the spare has replaced: its harts have stopped, and its caches are empty. -/
def sparedCore (s : State) (core : Nat) : State :=
  takePins (modCore (stopHarts s core) core fun c =>
    { c with orc := [], maps := [], icache := [], arrived := (dieAt s (dieOf core)).evals + 1 }) core

theorem coreRetire_spare (present : (getCore s core).present = true) (free : (clusterAt s (core / 16)).spareUsed = false)
    (ready : moveWaits s core = false) : exec (.coreRetire core) s =
      .next (logService (modCluster (sparedCore s core) (core / 16) fun c => { c with spareUsed := true })) := by
  show execCoreRetire core s = _
  simp only [execCoreRetire, present, clusterOf, free, ready]
  rfl

theorem coreRetire_withdraws (present : (getCore s core).present = true) (used : (clusterAt s (core / 16)).spareUsed = true) :
    exec (.coreRetire core) s =
      .next (logService (modCore s core fun c => { c with present := false, leaving := coreInUse s core, heatAt := 0 })) := by
  show execCoreRetire core s = _
  simp only [execCoreRetire, present, clusterOf, used]
  rfl

end

/-- What scrubs, moves and retirement leave of a core. -/
theorem coreEvents (core : Nat) (s : State) (h : core < 320) :
    (clusterActive s (core / 16) = true → ∃ t, exec (.sramScrub core 1 0) s = .next t ∧
      (getCore t core).sramce = (getCore s core).sramce + 1 ∧ t.mem = s.mem) ∧
    (∀ pos, clusterActive s (core / 16) = true → pos < 40960 → ∃ t, exec (.sramScrub core 4 pos) s = .next t ∧
      pos ∈ (getCore t core).badWords ∧ (dieAt t (core / 160)).srUe = true ∧ t.mem = s.mem) ∧
    (clusterActive s (core / 16) = false → ∀ what pos, exec (.sramScrub core what pos) s = .next s) ∧
    (∀ target, (getCore s core).leaving = true → moveWaits s core = false → moveTarget s core = some target →
      galleysBusy s target = false → (clusterActive s (target / 16) = true →
        ∃ t, exec (.hartMigration core) s = .next t ∧ (∀ h ∈ allHarts t, h.hid ≠ 0 → h.core ≠ core) ∧
          (getCore t target).scratch = (getCore s core).scratch ∧ (getCore t target).galleys = (getCore s core).galleys ∧
          (getCore t core).leaving = false ∧ t.mem = s.mem) ∧
      ((clusterAt s (target / 16)).pstate = .gated → ∃ t, exec (.hartMigration core) s = .next t ∧
        (clusterAt t (target / 16)).pstate = .waking ∧ getCore t core = getCore s core ∧ getCore t target = getCore s target)) ∧
    ((getCore s core).present = true → (clusterAt s (core / 16)).spareUsed = false → moveWaits s core = false →
      ∃ t, exec (.coreRetire core) s = .next t ∧ (clusterAt t (core / 16)).spareUsed = true ∧ (getCore t core).present = true) ∧
    ((getCore s core).present = true → (clusterAt s (core / 16)).spareUsed = true →
      ∃ t, exec (.coreRetire core) s = .next t ∧ (getCore t core).present = false ∧ (getCore t core).leaving = coreInUse s core) := by
  refine ⟨fun active => ⟨_, sramScrub_corrects active, sramce_correctSram .., correctSram_mem ..⟩,
    fun pos active inside => ⟨_, sramScrub_uncorrectable active inside, scrubbedBad_badWords .., scrubbedBad_srUe s pos h, scrubbedBad_mem ..⟩,
    sramScrub_inactive, fun target leaving ready chosen free => ⟨fun active => ?_, fun gated => ?_⟩, fun present free ready => ?_,
    fun present used => ?_⟩
  · obtain ⟨apart, -⟩ := moveTarget_spec chosen
    obtain ⟨scratch, galleys⟩ := moveCore_target (s := s) apart
    exact ⟨_, hartMigration_moves leaving ready chosen free active, moveCore_harts apart, scratch, galleys, moveCore_leaving, moveCore_mem⟩
  · have inside : target / 16 < 20 := by
      have := (moveTarget_spec chosen).2
      omega
    refine ⟨_, hartMigration_wakes (cl := ⟨target / 16, inside⟩) leaving ready chosen free rfl gated, ?_,
      getCore_of_cores (wakeCluster_cores ..) _, getCore_of_cores (wakeCluster_cores ..) _⟩
    rw [clusterAt_wakeCluster s ⟨target / 16, inside⟩]
    exact congrArg wokenState gated
  · refine ⟨_, coreRetire_spare present free ready, ?_, ?_⟩
    · refine (congrArg Cluster.spareUsed ((logService_records _).clusters _)).trans ?_
      exact congrArg Cluster.spareUsed (clusterAt_modCluster_same _ ⟨core / 16, by omega⟩ _)
    · rw [getCore_of_cores (logService_cores _), getCore_of_cores (modCluster_cores ..), sparedCore, getCore_takePins, getCore_modCore_same,
        getCore_stopHarts]
      exact present
  · refine ⟨_, coreRetire_withdraws present used, ?_⟩
    rw [getCore_of_cores (logService_cores _), getCore_modCore_same]
    exact ⟨rfl, rfl⟩

/-- Settles O60: clusters, dies and cores, each by what its events leave of it. -/
theorem powerEvents : Obligations.PowerEvents := by
  refine ⟨fun cl s c hc => ?_, dieEvents, coreEvents⟩
  obtain ⟨level, temp, holds, gates, queues, wakes, enabled, ⟨t, outcome, cluster, arbiter⟩, ramps, comesUp⟩ := clusterEvents cl s c hc
  refine ⟨level, temp, holds, gates, queues, wakes, enabled, ⟨t, outcome, cluster.trans ?_, arbiter⟩, ramps, comesUp⟩
  cases c.pstate <;> rfl

end Sys2Proof.Machine
end

section
/-! PROOF. Digits of a number, and the slots of a product and the fields of a word as its digits (R33, R204 to R208, R224, R225). -/

namespace Sys2Proof.Machine

/-! ## Digits of an integer -/

/-- The integer that n digits make to a base, the least significant first. -/
def digitSum (base : Int) (d : Nat → Int) (n : Nat) : Int := ∑ s ∈ Finset.range n, d s * base ^ s

theorem digitSum_succ (base : Int) (d : Nat → Int) (n : Nat) : digitSum base d (n + 1) = digitSum base d n + d n * base ^ n := by
  rw [digitSum, Finset.sum_range_succ, digitSum]

theorem digitSum_range {base : Int} {d : Nat → Int} {n : Nat} (digits : ∀ s, s < n → 0 ≤ d s ∧ d s < base) :
    0 ≤ digitSum base d n ∧ digitSum base d n < base ^ n := by
  induction n with
  | zero => simp [digitSum]
  | succ n ih =>
    obtain ⟨low, high⟩ := ih fun s hs => digits s (by omega)
    obtain ⟨low', high'⟩ := digits n (by omega)
    rw [digitSum_succ, pow_succ]
    have room : 0 < base ^ n := by omega
    constructor <;> nlinarith

/-- The digits from k on are a multiple of base^k, whose quotient ends in digit k. -/
theorem digitSum_split (base : Int) (d : Nat → Int) {k n : Nat} (h : k < n) :
    ∃ r, digitSum base d n = digitSum base d k + base ^ k * (d k + base * r) := by
  induction n, h using Nat.le_induction with
  | base => exact ⟨0, by rw [digitSum_succ]; ring⟩
  | succ n hn ih =>
    obtain ⟨r, hr⟩ := ih
    obtain ⟨j, rfl⟩ : ∃ j, n = k + 1 + j := ⟨n - (k + 1), by omega⟩
    exact ⟨r + d (k + 1 + j) * base ^ j, by rw [digitSum_succ, hr]; ring⟩

/-- A digit above digits in range is read back modulo the base, whatever stands above it. -/
theorem digitSum_digit {base : Int} {d : Nat → Int} {k n : Nat} (h : k < n) (pos : 0 < base)
    (below : ∀ s, s < k → 0 ≤ d s ∧ d s < base) : digitSum base d n / base ^ k % base = d k % base := by
  obtain ⟨r, hr⟩ := digitSum_split base d h
  obtain ⟨low, high⟩ := digitSum_range below
  rw [hr, Int.add_mul_ediv_left _ _ (by positivity), Int.ediv_eq_zero_of_lt low high, zero_add, Int.add_mul_emod_self_left]

/-! ## Two's complement (R33) -/

theorem lowBits_eq (i : Int) (n : Nat) : (lowBits i n : Int) = i % 2 ^ n := by
  rw [lowBits, Int.toNat_of_nonneg (Int.emod_nonneg _ (by positivity))]
  norm_cast

theorem lowBits_lt (i : Int) (n : Nat) : lowBits i n < 2 ^ n := by
  have := Int.emod_lt_of_pos i (show (0 : Int) < 2 ^ n by positivity)
  have := lowBits_eq i n
  zify
  omega

/-- The low bits of an integer in range, read as an unsigned number, are the integer. -/
theorem lowBits_of_range {i : Int} {n : Nat} (low : 0 ≤ i) (high : i < 2 ^ n) : (lowBits i n : Int) = i := by
  rw [lowBits_eq, Int.emod_eq_of_lt low high]

/-- Two's complement is the integer of the signed range with the same low bits. -/
theorem signedOf_eq_iff {x n : Nat} (pos : n ≠ 0) (i : Int) :
    signedOf x n = i ↔ -2 ^ (n - 1) ≤ i ∧ i < 2 ^ (n - 1) ∧ ((x : Int) - i) % 2 ^ n = 0 := by
  obtain ⟨n, rfl⟩ := Nat.exists_eq_succ_of_ne_zero pos
  have whole : (2 : Int) ^ (n + 1) = 2 * 2 ^ n := by ring
  have room : (0 : Int) < 2 ^ n := by positivity
  have split := Int.emod_add_mul_ediv (x : Int) (2 ^ (n + 1))
  have low := Int.emod_nonneg (x : Int) (show (2 : Int) ^ (n + 1) ≠ 0 by positivity)
  have high := Int.emod_lt_of_pos (x : Int) (show (0 : Int) < 2 ^ (n + 1) by positivity)
  have cast : ((x % 2 ^ (n + 1) : Nat) : Int) = (x : Int) % 2 ^ (n + 1) := by norm_cast
  have test : x % 2 ^ (n + 1) < 2 ^ n ↔ (x : Int) % 2 ^ (n + 1) < 2 ^ n := by rw [← cast]; norm_cast
  simp only [signedOf, Nat.succ_eq_add_one, Nat.add_one_sub_one, if_neg (Nat.succ_ne_zero n), test, cast]
  push_cast
  rw [← Int.dvd_iff_emod_eq_zero]
  generalize (x : Int) % 2 ^ (n + 1) = y at *
  generalize (x : Int) / 2 ^ (n + 1) = q at *
  rw [whole] at *
  constructor
  · intro h
    split at h <;> subst h
    · exact ⟨by omega, by omega, q, by linarith⟩
    · exact ⟨by omega, by omega, q + 1, by linarith⟩
  · rintro ⟨h1, h2, c, hc⟩
    have : y - i = 2 * 2 ^ n * (c - q) := by linarith
    obtain h | h | h : c - q ≤ -1 ∨ c - q = 0 ∨ 1 ≤ c - q := by omega
    · nlinarith
    · rw [h] at this; split <;> omega
    · obtain h' | h' : c - q = 1 ∨ 2 ≤ c - q := by omega
      · rw [h'] at this; split <;> omega
      · nlinarith

/-- The low bits of an integer in the signed range, read in two's complement, are the integer. -/
theorem signedOf_lowBits {i : Int} {n : Nat} (pos : n ≠ 0) (low : -2 ^ (n - 1) ≤ i) (high : i < 2 ^ (n - 1)) :
    signedOf (lowBits i n) n = i :=
  (signedOf_eq_iff pos i).2 ⟨low, high, by
    rw [lowBits_eq, ← Int.dvd_iff_emod_eq_zero]
    exact Int.dvd_sub_self_of_emod_eq rfl⟩

/-! ## Slots of a product (R206, R208) -/

section

variable {f : Word} {v : Nat → Int} {p : Int}

/-- A slot of a product is legal (R206). -/
def slotLegal (f : Word) (x : Int) : Prop := -2 ^ (fW f - 2) ≤ x ∧ x < 2 ^ (fW f - 2)

/-- The bias makes digits of the slots: slot s becomes the digit v s + 2^(w-1) to the base 2^w. -/
theorem biased_eq_digitSum (hp : p = ((List.range (slotCount f)).map fun s => v s * 2 ^ (fW f * s)).sum) :
    biased f p = digitSum (2 ^ fW f) (fun s => v s + 2 ^ (fW f - 1)) (slotCount f) := by
  rw [biased, hp, ← List.sum_map_add]
  refine Finset.sum_congr (s₁ := Finset.range (slotCount f)) rfl fun s _ => ?_
  push_cast
  rw [pow_add, pow_mul]
  ring

/-- The powers of two about the width of a slot, in quarters of its range. -/
theorem slot_quarters (wide : 4 ≤ fW f) :
    (2 : Int) ^ (fW f - 1) = 2 * 2 ^ (fW f - 2) ∧ (2 : Int) ^ fW f = 4 * 2 ^ (fW f - 2) := by
  obtain ⟨w, hw⟩ : ∃ w, fW f = w + 2 := ⟨fW f - 2, by omega⟩
  rw [hw, show w + 2 - 1 = w + 1 by omega, Nat.add_sub_cancel]
  constructor <;> ring

/-- Above legal slots a slot reads as its digit modulo 2^w, whatever stands above it. -/
theorem intField_biased (wide : 4 ≤ fW f) (hp : p = ((List.range (slotCount f)).map fun s => v s * 2 ^ (fW f * s)).sum)
    {s : Nat} (hs : s < slotCount f) (below : ∀ k, k < s → slotLegal f (v k)) :
    (intField f (biased f p) s : Int) = (v s + 2 ^ (fW f - 1)) % 2 ^ fW f := by
  obtain ⟨half, whole⟩ := slot_quarters wide
  have room : (0 : Int) < 2 ^ (fW f - 2) := by positivity
  rw [intField, lowBits_eq, biased_eq_digitSum hp, Nat.cast_pow, Nat.cast_ofNat, pow_mul,
    digitSum_digit hs (by positivity) fun k hk => ?_]
  obtain ⟨low, high⟩ := below k hk
  omega

/-- The check of a field in quarters of its range: it lies in the second or the third. -/
theorem leadingOk_iff (x : Nat) :
    leadingOk f x = true ↔ (2 : Int) ^ (fW f - 2) ≤ x ∧ (x : Int) < 3 * 2 ^ (fW f - 2) := by
  have room : 0 < 2 ^ (fW f - 2) := by positivity
  rw [show (2 : Int) ^ (fW f - 2) = ((2 ^ (fW f - 2) : Nat) : Int) by norm_cast]
  simp only [leadingOk, Nat.shiftRight_eq_div_pow, Bool.or_eq_true, beq_iff_eq]
  generalize 2 ^ (fW f - 2) = m at *
  have one : x / m = 1 ↔ m ≤ x ∧ x < 2 * m := by
    rw [Nat.div_eq_iff room]
    omega
  have two : x / m = 2 ↔ 2 * m ≤ x ∧ x < 3 * m := by
    rw [Nat.div_eq_iff room]
    omega
  omega

/-- A legal slot above legal slots passes the check. -/
theorem leadingOk_legal (wide : 4 ≤ fW f) (hp : p = ((List.range (slotCount f)).map fun s => v s * 2 ^ (fW f * s)).sum)
    {s : Nat} (hs : s < slotCount f) (upTo : ∀ k, k ≤ s → slotLegal f (v k)) :
    leadingOk f (intField f (biased f p) s) = true := by
  obtain ⟨half, whole⟩ := slot_quarters wide
  obtain ⟨low, high⟩ := upTo s le_rfl
  rw [leadingOk_iff, intField_biased wide hp hs fun k hk => upTo k hk.le, Int.emod_eq_of_lt (by omega) (by omega)]
  omega

/-- An illegal slot above legal slots, of no more than three quarters of a range, fails the check. -/
theorem leadingOk_illegal (wide : 4 ≤ fW f) (hp : p = ((List.range (slotCount f)).map fun s => v s * 2 ^ (fW f * s)).sum)
    {s : Nat} (hs : s < slotCount f) (below : ∀ k, k < s → slotLegal f (v k)) (illegal : ¬ slotLegal f (v s))
    (high : v s < 3 * 2 ^ (fW f - 2)) (low : -(3 * 2 ^ (fW f - 2)) ≤ v s) :
    leadingOk f (intField f (biased f p) s) = false := by
  obtain ⟨half, whole⟩ := slot_quarters wide
  rw [← Bool.not_eq_true, leadingOk_iff, intField_biased wide hp hs below]
  unfold slotLegal at illegal
  rw [half, whole]
  generalize (2 : Int) ^ (fW f - 2) = m at *
  obtain h | h | h : v s + 2 * m < 0 ∨ (0 ≤ v s + 2 * m ∧ v s + 2 * m < 4 * m) ∨ 4 * m ≤ v s + 2 * m := by omega
  · rw [← Int.add_mul_emod_self_left _ (4 * m) 1, Int.emod_eq_of_lt (by omega) (by omega)]
    omega
  · rw [Int.emod_eq_of_lt h.1 h.2]
    omega
  · rw [← Int.sub_mul_emod_self_left _ (4 * m) 1, Int.emod_eq_of_lt (by omega) (by omega)]
    omega

/-- A product of legal slots passes the check. -/
theorem failingSlot_legal (wide : 4 ≤ fW f) (hp : p = ((List.range (slotCount f)).map fun s => v s * 2 ^ (fW f * s)).sum)
    (legal : ∀ s, s < slotCount f → slotLegal f (v s)) : failingSlot f p = none := by
  rw [failingSlot, List.find?_eq_none]
  intro s hs
  have hs := List.mem_range.1 hs
  simp [leadingOk_legal wide hp hs fun k hk => legal k (by omega)]

/-- A slot of a product of legal slots reads back. -/
theorem slotValue_legal (wide : 4 ≤ fW f) (hp : p = ((List.range (slotCount f)).map fun s => v s * 2 ^ (fW f * s)).sum)
    (legal : ∀ s, s < slotCount f → slotLegal f (v s)) {s : Nat} (hs : s < slotCount f) : slotValue f p s = v s := by
  obtain ⟨half, whole⟩ := slot_quarters wide
  obtain ⟨low, high⟩ := legal s hs
  rw [slotValue, intField_biased wide hp hs fun k hk => legal k (by omega), Int.emod_eq_of_lt (by omega) (by omega)]
  push_cast
  ring

/-- The lowest illegal slot is the one that fails. -/
theorem failingSlot_illegal (wide : 4 ≤ fW f) (hp : p = ((List.range (slotCount f)).map fun s => v s * 2 ^ (fW f * s)).sum)
    {s : Nat} (hs : s < slotCount f) (below : ∀ k, k < s → slotLegal f (v k)) (illegal : ¬ slotLegal f (v s))
    (high : v s < 3 * 2 ^ (fW f - 2)) (low : -(3 * 2 ^ (fW f - 2)) ≤ v s) : failingSlot f p = some s := by
  rw [failingSlot, List.find?_range_eq_some]
  refine ⟨by simp [leadingOk_illegal wide hp hs below illegal high low], List.mem_range.2 hs, fun k hk => ?_⟩
  simp [leadingOk_legal wide hp (hk.trans hs) fun j hj => below j (by omega)]

end

/-! ## Numbers laid down at places of a width (R33, R224, R225) -/

/-- Numbers of w bits laid down side by side: each with the number of its place. -/
def laidDown (w : Nat) (l : List (Nat × Nat)) : Nat := (l.map fun p => p.2 <<< (w * p.1)).sum

/-- The digit at a place: what the numbers laid down there add up to. -/
def placeDigit (l : List (Nat × Nat)) (s : Nat) : Int := ((l.filter fun p => p.1 == s).map fun p => (p.2 : Int)).sum

theorem placeDigit_cons (p : Nat × Nat) (l : List (Nat × Nat)) (s : Nat) :
    placeDigit (p :: l) s = (if p.1 = s then (p.2 : Int) else 0) + placeDigit l s := by
  by_cases h : p.1 = s <;> simp [placeDigit, h]

/-- Nothing is laid down at a place: its digit is 0. -/
theorem placeDigit_absent {l : List (Nat × Nat)} {s : Nat} (absent : s ∉ l.map (·.1)) : placeDigit l s = 0 := by
  have none_ : l.filter (fun p => p.1 == s) = [] := by
    rw [List.filter_eq_nil_iff]
    intro p hp
    simpa using fun e => absent (List.mem_map.2 ⟨p, hp, e⟩)
  rw [placeDigit, none_, List.map_nil, List.sum_nil]

section

variable {w : Nat} {l : List (Nat × Nat)} (own : (l.map (·.1)).Nodup)

include own

/-- A number at a place of its own is the digit there. -/
theorem placeDigit_own {p : Nat × Nat} (hp : p ∈ l) : placeDigit l p.1 = p.2 := by
  induction l with
  | nil => cases hp
  | cons q l ih =>
    rw [List.map_cons, List.nodup_cons] at own
    rw [placeDigit_cons]
    rcases List.mem_cons.1 hp with rfl | hp
    · rw [if_pos rfl, placeDigit_absent own.1, add_zero]
    · rw [if_neg fun e : q.1 = p.1 => own.1 (e ▸ List.mem_map_of_mem hp), ih own.2 hp, zero_add]

/-- Numbers of w bits at places of their own give digits in range. -/
theorem placeDigit_range (small : ∀ p ∈ l, p.2 < 2 ^ w) (s : Nat) : 0 ≤ placeDigit l s ∧ placeDigit l s < 2 ^ w := by
  by_cases h : s ∈ l.map (·.1)
  · obtain ⟨p, hp, rfl⟩ := List.mem_map.1 h
    rw [placeDigit_own own hp]
    exact ⟨by positivity, by exact_mod_cast small p hp⟩
  · rw [placeDigit_absent h]
    exact ⟨le_rfl, by positivity⟩

end

/-- Numbers laid down are the number that the digits at their places make. -/
theorem laidDown_eq_digitSum (w : Nat) (l : List (Nat × Nat)) {n : Nat} (inside : ∀ p ∈ l, p.1 < n) :
    (laidDown w l : Int) = digitSum (2 ^ w) (placeDigit l) n := by
  induction l with
  | nil => simp [laidDown, digitSum, placeDigit]
  | cons p l ih =>
    have place : p.1 ∈ Finset.range n := Finset.mem_range.2 (inside p (List.mem_cons_self ..))
    have rest := ih fun q hq => inside q (List.mem_cons_of_mem _ hq)
    simp only [digitSum, placeDigit_cons, add_mul, ite_mul, zero_mul, Finset.sum_add_distrib, Finset.sum_ite_eq, if_pos place]
    rw [← digitSum, ← rest, laidDown, List.map_cons, List.sum_cons, Nat.shiftLeft_eq]
    push_cast
    rw [← pow_mul, laidDown]
    push_cast
    rfl

/-- The places of a list have a bound. -/
theorem exists_place_bound (l : List (Nat × Nat)) : ∃ n, ∀ p ∈ l, p.1 < n := by
  obtain ⟨n, hn⟩ := (l.map (·.1)).toFinset.bddAbove
  exact ⟨n + 1, fun q hq => Nat.lt_succ_of_le (hn (by simpa using ⟨q.2, hq⟩))⟩

/-- A number laid down at a place of its own is read back. -/
theorem bitsOf_laidDown {w : Nat} {l : List (Nat × Nat)} (own : (l.map (·.1)).Nodup) (small : ∀ p ∈ l, p.2 < 2 ^ w)
    {p : Nat × Nat} (hp : p ∈ l) : bitsOf (laidDown w l) (w * p.1) w = p.2 := by
  obtain ⟨n, inside⟩ := exists_place_bound l
  have read : (bitsOf (laidDown w l) (w * p.1) w : Int) = (laidDown w l : Int) / (2 ^ w) ^ p.1 % 2 ^ w := by
    rw [bitsOf, Nat.shiftRight_eq_div_pow, ← pow_mul]
    push_cast
    rfl
  zify
  rw [read, laidDown_eq_digitSum w l inside, digitSum_digit (inside p hp) (by positivity) fun s _ => placeDigit_range own small s,
    placeDigit_own own hp, Int.emod_eq_of_lt (by positivity) (by exact_mod_cast small p hp)]

/-! ## Fields of a word (R33, R224, R225) -/

theorem packWord_eq_laidDown (f : Word) (l : List (Nat × Int)) :
    packWord f l = laidDown (fW f) (l.map fun p => (p.1, lowBits p.2 (fW f))) := by
  rw [packWord, laidDown, List.map_map]
  rfl

/-- A value in a field of its own leaves its low bits there. -/
theorem rawField_packWord (f : Word) {l : List (Nat × Int)} (own : (l.map (·.1)).Nodup) {p : Nat × Int} (hp : p ∈ l) :
    rawField f (packWord f l) p.1 = lowBits p.2 (fW f) := by
  rw [rawField, packWord_eq_laidDown]
  refine bitsOf_laidDown (p := (p.1, lowBits p.2 (fW f))) (by rwa [List.map_map]) (fun q hq => ?_) (List.mem_map.2 ⟨p, hp, rfl⟩)
  obtain ⟨r, -, rfl⟩ := List.mem_map.1 hq
  exact lowBits_lt r.2 (fW f)

/-- A value lies in the range of the fields of a forme (R33, R225). -/
def fitsField (f : Word) (v : Int) : Prop :=
  if fSigned f then -2 ^ (fW f - 1) ≤ v ∧ v < 2 ^ (fW f - 1) else 0 ≤ v ∧ v < 2 ^ fW f

/-- A field that holds the low bits of a value in its range reads as the value. -/
theorem unpackField_of_raw {f : Word} (wide : fW f ≠ 0) {word i : Nat} {v : Int} (raw : rawField f word i = lowBits v (fW f))
    (fits : fitsField f v) : unpackField f word i = v := by
  rw [unpackField, raw]
  unfold fitsField at fits
  split at fits
  · next signed => rw [if_pos signed, signedOf_lowBits wide fits.1 fits.2]
  · next unsigned => rw [if_neg unsigned, lowBits_of_range fits.1 fits.2]

theorem formeAccepted_wide {f : Word} (h : formeAccepted f) : 4 ≤ fW f := by
  obtain ⟨-, wide, -⟩ := h
  rwa [fW, field_eq]

/-- Settles O45: the slots are digits above their bias, and the fields of a word the digits of its values. -/
theorem packedWordsRead : Obligations.PackedWordsRead := by
  refine ⟨fun f v p wide hp => ⟨fun legal => ⟨failingSlot_legal wide hp legal, fun s => slotValue_legal wide hp legal⟩, ?_⟩, ?_⟩
  · intro s hs below illegal high low
    refine failingSlot_illegal wide hp hs below ?_ high low
    rintro ⟨low, high⟩
    omega
  · intro f vals accepted _ _ fits i hi
    have wide := formeAccepted_wide accepted
    have own : ((vals.zipIdx.map fun p => (p.2, p.1)).map (·.1)).Nodup := by
      rw [List.map_map, show (Prod.fst ∘ fun p : Int × Nat => (p.2, p.1)) = Prod.snd from rfl, List.zipIdx_map_snd]
      exact List.nodup_range'
    have here : (i, vals.getD i 0) ∈ vals.zipIdx.map fun p => (p.2, p.1) := by
      simp [List.mem_zipIdx_iff_getElem?, List.getD_eq_getElem?_getD, List.getElem?_eq_getElem hi]
    refine unpackField_of_raw (by omega) (rawField_packWord f own here) ?_
    exact fits _ (List.getD_eq_getElem vals 0 hi ▸ List.getElem_mem hi)

end Sys2Proof.Machine
end

section
/-! PROOF. Rounding: the binade of a magnitude, and a magnitude in units of a power of two rounded as a mode says (R39, R40). -/

namespace Sys2Proof.Machine

/-! ## Powers of two as fractions -/

theorem pow2_pos (e : Int) : 0 < (pow2 e).1 ∧ 0 < (pow2 e).2 := by
  unfold pow2
  split <;> exact ⟨by positivity, by positivity⟩

/-- The fraction that stands for 2^e. -/
theorem pow2_ratio (e : Int) : ((pow2 e).1 : Rat) / (pow2 e).2 = 2 ^ e := by
  unfold pow2
  split
  · next h =>
    obtain ⟨n, rfl⟩ := Int.eq_ofNat_of_zero_le h
    simp
  · next h =>
    obtain ⟨n, hn⟩ := Int.eq_ofNat_of_zero_le (show 0 ≤ -e by omega)
    obtain rfl : e = -(n : Int) := by omega
    simp

/-- A binade is named by one exponent. -/
theorem binade_unique {x : Rat} {j k : Int} (hj : (2 : Rat) ^ j ≤ x) (hj' : x < (2 : Rat) ^ (j + 1)) (hk : (2 : Rat) ^ k ≤ x)
    (hk' : x < (2 : Rat) ^ (k + 1)) : j = k := by
  have h1 := (zpow_lt_zpow_iff_right₀ (show (1 : Rat) < 2 by norm_num)).1 (hj.trans_lt hk')
  have h2 := (zpow_lt_zpow_iff_right₀ (show (1 : Rat) < 2 by norm_num)).1 (hk.trans_lt hj')
  omega

/-- A positive number lies between the power of two of its logarithm and the next. -/
theorem log2_binade {n : Nat} (pos : 0 < n) : (2 : Rat) ^ (n.log2 : Int) ≤ n ∧ (n : Rat) < 2 ^ ((n.log2 : Int) + 1) := by
  constructor
  · rw [zpow_natCast]
    exact_mod_cast Nat.log2_self_le pos.ne'
  · exact_mod_cast Nat.lt_log2_self (n := n)

/-- A fraction lies in the binade of its floored logarithm. -/
theorem floorLog2_binade {n d : Nat} (hn : 0 < n) (hd : 0 < d) :
    (2 : Rat) ^ floorLog2 n d ≤ (n : Rat) / d ∧ (n : Rat) / d < 2 ^ (floorLog2 n d + 1) := by
  obtain ⟨n1, n2⟩ := log2_binade hn
  obtain ⟨d1, d2⟩ := log2_binade hd
  have dpos : (0 : Rat) < d := by exact_mod_cast hd
  have two : (2 : Rat) ≠ 0 := by norm_num
  have above : (n : Rat) / d < 2 ^ ((n.log2 : Int) - d.log2 + 1) := by
    rw [div_lt_iff₀ dpos]
    calc (n : Rat) < 2 ^ ((n.log2 : Int) + 1) := n2
      _ = 2 ^ ((n.log2 : Int) - d.log2 + 1) * 2 ^ (d.log2 : Int) := by rw [← zpow_add₀ two]; ring_nf
      _ ≤ 2 ^ ((n.log2 : Int) - d.log2 + 1) * d := by gcongr
  have below : (2 : Rat) ^ ((n.log2 : Int) - d.log2 - 1) ≤ (n : Rat) / d := by
    rw [le_div_iff₀ dpos]
    calc (2 : Rat) ^ ((n.log2 : Int) - d.log2 - 1) * d ≤ 2 ^ ((n.log2 : Int) - d.log2 - 1) * 2 ^ ((d.log2 : Int) + 1) := by gcongr
      _ = 2 ^ (n.log2 : Int) := by rw [← zpow_add₀ two]; ring_nf
      _ ≤ n := n1
  obtain ⟨p1, p2⟩ := pow2_pos ((n.log2 : Int) - d.log2)
  have test : n * (pow2 ((n.log2 : Int) - d.log2)).2 < d * (pow2 ((n.log2 : Int) - d.log2)).1 ↔
      (n : Rat) / d < 2 ^ ((n.log2 : Int) - d.log2) := by
    rw [← pow2_ratio, div_lt_div_iff₀ dpos (by exact_mod_cast p2), mul_comm _ (d : Rat)]
    norm_cast
  unfold floorLog2
  dsimp only
  split
  · next h => exact ⟨below, by simpa using test.1 h⟩
  · next h => exact ⟨by simpa using (not_congr test).1 h, above⟩

/-! ## A magnitude in units (R39, R40) -/

/-- How a magnitude y is rounded to a whole number k in a mode of R39, under a sign. -/
structure RoundsMag (m : RMode) (neg : Bool) (y : Rat) (k : Nat) : Prop where
  near : |(k : Rat) - y| < 1
  nearest : m = .rnd 0 ∨ m = .rnd 4 → 2 * |(k : Rat) - y| ≤ 1
  even : m = .rnd 0 → 2 * |(k : Rat) - y| = 1 → k % 2 = 0
  away : m = .rnd 4 → 2 * |(k : Rat) - y| = 1 → y ≤ k
  down : m = .rnd 1 ∨ (m = .rnd 2 ∧ neg = false) ∨ (m = .rnd 3 ∧ neg = true) → (k : Rat) ≤ y
  up : (m = .rnd 2 ∧ neg = true) ∨ (m = .rnd 3 ∧ neg = false) → y ≤ k

/-- A whole number is rounded to itself. -/
theorem RoundsMag.exact (m : RMode) (neg : Bool) (k : Nat) : RoundsMag m neg k k := by
  constructor <;> simp

/-- Between k and k + 1, at x above k, the mode chooses the end. -/
theorem roundsMag_between (m : RMode) (neg : Bool) {k rem den : Nat} (pos : 0 < rem) (small : rem < den) :
    RoundsMag m neg (k + (rem : Rat) / den) (k + bit (roundsUp m neg k rem den)) := by
  have dpos : (0 : Rat) < den := by exact_mod_cast pos.trans small
  have x0 : (0 : Rat) < (rem : Rat) / den := div_pos (by exact_mod_cast pos) dpos
  have x1 : (rem : Rat) / den < 1 := (div_lt_one dpos).2 (by exact_mod_cast small)
  have above : den < 2 * rem ↔ (1 : Rat) < 2 * (rem / den) := by
    rw [← mul_div_assoc, one_lt_div dpos]; norm_cast
  have middle : 2 * rem = den ↔ (2 : Rat) * (rem / den) = 1 := by
    rw [← mul_div_assoc, div_eq_one_iff_eq dpos.ne']; norm_cast
  have least : den ≤ 2 * rem ↔ (1 : Rat) ≤ 2 * (rem / den) := by
    rw [← mul_div_assoc, one_le_div dpos]; norm_cast
  generalize hx : (rem : Rat) / den = x at *
  have off (b : Bool) : (((k + bit b : Nat) : Rat)) - (k + x) = if b then 1 - x else -x := by
    cases b <;> simp [bit]
  have size (b : Bool) : |((k + bit b : Nat) : Rat) - (k + x)| = if b then 1 - x else x := by
    rw [off]
    cases b
    · rw [if_neg Bool.false_ne_true, abs_neg, abs_of_pos x0, if_neg Bool.false_ne_true]
    · rw [if_pos rfl, abs_of_pos (by linarith), if_pos rfl]
  have lower (b : Bool) : ((k + bit b : Nat) : Rat) ≤ k + x ↔ b = false := by
    rw [← sub_nonpos, off]
    cases b <;> simp <;> linarith
  have upper (b : Bool) : (k : Rat) + x ≤ ((k + bit b : Nat) : Rat) ↔ b = true := by
    rw [← sub_nonneg, off]
    cases b <;> simp <;> linarith
  constructor
  · rw [size]
    split <;> linarith
  · intro mode
    rw [size]
    obtain rfl | rfl := mode
    · have choice : roundsUp (.rnd 0) neg k rem den = true ↔ 1 < 2 * x ∨ 2 * x = 1 ∧ k % 2 = 1 := by
        simp [roundsUp, pos.ne', above, middle]
      split <;> next up => rw [choice] at up; grind
    · have choice : roundsUp (.rnd 4) neg k rem den = true ↔ 1 ≤ 2 * x := by simp [roundsUp, pos.ne', least]
      split <;> next up => rw [choice] at up; linarith
  · rintro rfl tie
    rw [size] at tie
    have half : 2 * x = 1 := by split at tie <;> linarith
    have odd : roundsUp (.rnd 0) neg k rem den = decide (k % 2 = 1) := by
      simp only [roundsUp, if_neg pos.ne', beq_iff_eq.2 (middle.2 half)]
      simp [above, half, beq_eq_decide]
    rw [odd]
    by_cases h : k % 2 = 1 <;> simp [bit, h] <;> omega
  · rintro rfl tie
    rw [size] at tie
    have half : 2 * x = 1 := by split at tie <;> linarith
    exact (upper _).2 (by simp [roundsUp, pos.ne', least, half])
  · rintro (rfl | ⟨rfl, rfl⟩ | ⟨rfl, rfl⟩) <;> exact (lower _).2 (by simp [roundsUp])
  · rintro (⟨rfl, rfl⟩ | ⟨rfl, rfl⟩) <;> exact (upper _).2 (by simp [roundsUp, pos.ne'])

/-- A fraction is rounded to its floor or above, as the mode says of its remainder; it is inexact when it is not what it is rounded to. -/
theorem roundsMag_div (m : RMode) (neg : Bool) (num : Nat) {den : Nat} (pos : 0 < den) :
    RoundsMag m neg ((num : Rat) / den) (num / den + bit (roundsUp m neg (num / den) (num % den) den)) ∧
      ((num % den != 0) = true ↔ (num : Rat) / den ≠ (num / den + bit (roundsUp m neg (num / den) (num % den) den) : Nat)) := by
  have dpos : (0 : Rat) < den := by exact_mod_cast pos
  have value : (num : Rat) / den = (num / den : Nat) + ((num % den : Nat) : Rat) / den := by
    have split : (num : Rat) = den * (num / den : Nat) + (num % den : Nat) := by exact_mod_cast (Nat.div_add_mod ..).symm
    rw [split, add_div, mul_div_cancel_left₀ _ dpos.ne']
  have small := Nat.mod_lt num pos
  rw [value]
  generalize num / den = k
  generalize num % den = rem at *
  obtain rfl | rpos := Nat.eq_zero_or_pos rem
  · simpa [roundsUp, bit] using RoundsMag.exact m neg k
  · refine ⟨roundsMag_between m neg rpos small, ?_⟩
    have x0 : (0 : Rat) < (rem : Rat) / den := div_pos (by exact_mod_cast rpos) dpos
    have x1 : (rem : Rat) / den < 1 := (div_lt_one dpos).2 (by exact_mod_cast small)
    cases roundsUp .. <;> simp [bit, x1.ne, rpos.ne', dpos.ne']

/-- A magnitude n / d in units of 2^q is rounded as the mode says, and is inexact when it is not the number it is rounded to. -/
theorem roundUnits_rounds (m : RMode) (neg : Bool) (n : Nat) {d : Nat} (hd : 0 < d) (q : Int) :
    RoundsMag m neg ((n : Rat) / d / 2 ^ q) (roundUnits m neg n d q).1 ∧
      ((roundUnits m neg n d q).2 = true ↔ (n : Rat) / d / 2 ^ q ≠ (roundUnits m neg n d q).1) := by
  have value : (n : Rat) / d / 2 ^ q = (n * (pow2 q).2 : Nat) / (d * (pow2 q).1 : Nat) := by
    rw [← pow2_ratio, div_div_div_eq, Nat.cast_mul, Nat.cast_mul]
  rw [value]
  exact roundsMag_div m neg _ (Nat.mul_pos hd (pow2_pos q).1)

end Sys2Proof.Machine
end

section
/-! PROOF. Floating-point formats: the value of a code, and the code of a magnitude that is rounded to one (R27, R31, R39, R42, R43). -/

namespace Sys2Proof.Machine

/-! ## Formats by their numbers (R27, R31) -/

/-- A floating-point format by the exponents of its smallest normal number and of its largest binade, the span between them, and the
significand of its largest number, whose code and every one below it is that of a finite number. -/
structure FloatShape (et : Nat) (f : FFmt) (emin emax : Int) (span top : Nat) : Prop where
  fmt : ffmt et = some f
  bias : emin = 1 - f.bias
  binades : emax = emin + span
  normal : 1 ≤ span
  topLow : 2 ^ f.m ≤ top
  topHigh : top < 2 ^ (f.m + 1)
  max : f.maxCode = span * 2 ^ f.m + top
  fits : f.maxCode < 2 ^ f.magBits
  finite : et = 20 → f.maxCode < 0x7F
  exponents : noSpecials et = false → et ≠ 20 → f.maxCode >>> f.m < 2 ^ f.e - 1

/-- The magnitude of a code. -/
def codeMag (f : FFmt) (c : Nat) : Rat :=
  ((if c >>> f.m = 0 then c % 2 ^ f.m else 2 ^ f.m + c % 2 ^ f.m : Nat) : Rat) *
    2 ^ ((if c >>> f.m = 0 then 1 else c >>> f.m : Int) - f.bias - f.m)

/-- The value of a scaled magnitude. -/
theorem scale_fin (s : Bool) (n d : Nat) (hd : d ≠ 0) (e : Int) :
    ∃ n' d', d' ≠ 0 ∧ (Val.fin s n d).scale e = .fin s n' d' ∧ (n' : Rat) / d' = n / d * 2 ^ e := by
  obtain ⟨p1, p2⟩ := pow2_pos e
  refine ⟨_, _, Nat.mul_ne_zero hd p2.ne', rfl, ?_⟩
  rw [← pow2_ratio e, Nat.cast_mul, Nat.cast_mul, div_mul_div_comm]

section

variable {et : Nat} {f : FFmt} {emin emax : Int} {span top : Nat}

/-- A code of significand k in binade h above the smallest, one step carried into the next binade included. -/
theorem codeMag_units (f : FFmt) {h k : Nat} (le : k ≤ 2 ^ (f.m + 1)) (normal : h = 0 ∨ 2 ^ f.m ≤ k) :
    codeMag f (h * 2 ^ f.m + k) = k * 2 ^ ((h : Int) + 1 - f.bias - f.m) := by
  have pos : 0 < 2 ^ f.m := by positivity
  have two : (2 : Rat) ≠ 0 := by norm_num
  have next_ : 2 ^ (f.m + 1) = 2 * 2 ^ f.m := by ring
  rw [codeMag, Nat.shiftRight_eq_div_pow, mul_comm h, Nat.mul_add_div pos, Nat.mul_add_mod]
  obtain small | normal_ | carry : k < 2 ^ f.m ∨ (2 ^ f.m ≤ k ∧ k < 2 * 2 ^ f.m) ∨ k = 2 * 2 ^ f.m := by omega
  · obtain rfl : h = 0 := by omega
    rw [Nat.div_eq_of_lt small, Nat.mod_eq_of_lt small]
    simp
  · have one : k / 2 ^ f.m = 1 := by rw [Nat.div_eq_iff pos]; omega
    have rest : 2 ^ f.m + k % 2 ^ f.m = k := by
      have := Nat.div_add_mod k (2 ^ f.m)
      rw [one] at this
      omega
    rw [one, if_neg (by omega), rest, if_neg (by omega)]
    push_cast
    ring_nf
  · rw [carry, Nat.mul_div_cancel _ pos, Nat.mul_mod_left, if_neg (by omega), if_neg (by omega)]
    push_cast
    rw [add_zero, mul_comm (2 : Rat), mul_assoc, ← zpow_one_add₀ two]
    ring_nf

/-- The sign and the magnitude of a code are read back. -/
theorem signCode_parts {c : Nat} (fits : c < 2 ^ f.magBits) (neg : Bool) :
    (signCode f neg c).testBit f.magBits = neg ∧ signCode f neg c % 2 ^ f.magBits = c := by
  cases neg
  · simp [signCode, bit, Nat.testBit_lt_two_pow fits, Nat.mod_eq_of_lt fits]
  · have code : signCode f true c = 2 ^ f.magBits + c := by simp [signCode, bit, Nat.shiftLeft_eq, add_comm]
    rw [code, Nat.testBit_two_pow_add_eq, Nat.testBit_lt_two_pow fits, Nat.add_mod_left, Nat.mod_eq_of_lt fits]
    exact ⟨rfl, rfl⟩

/-- A code up to the largest is that of a finite number of its magnitude. -/
theorem decodeVal_signCode (shape : FloatShape et f emin emax span top) (neg : Bool) {c : Nat} (le : c ≤ f.maxCode) :
    ∃ n d, d ≠ 0 ∧ decodeVal et (signCode f neg c) = .fin neg n d ∧ (n : Rat) / d = codeMag f c := by
  obtain ⟨sign, mag⟩ := signCode_parts (le.trans_lt shape.fits) neg
  have ends : c >>> f.m ≤ f.maxCode >>> f.m := by
    simpa [Nat.shiftRight_eq_div_pow] using Nat.div_le_div_right le
  obtain ⟨n, d, hd, value, ratio⟩ := scale_fin neg (if c >>> f.m = 0 then c % 2 ^ f.m else 2 ^ f.m + c % 2 ^ f.m) 1 one_ne_zero
    ((if c >>> f.m = 0 then 1 else c >>> f.m : Int) - f.bias - f.m)
  refine ⟨n, d, hd, ?_, by rw [ratio, codeMag, Nat.cast_one, div_one]⟩
  rw [decodeVal, shape.fmt]
  dsimp only [decodeFloat]
  rw [sign, mag, ← value]
  cases special : noSpecials et with
  | true => rfl
  | false =>
    rw [if_neg Bool.false_ne_true]
    by_cases wide : et = 20
    · rw [if_pos wide, if_neg (by have := shape.finite wide; omega)]
    · rw [if_neg wide, if_neg (by have := shape.exponents special wide; omega)]

/-! ## Rounding a magnitude to a format (R39, R43) -/

/-- The exponent of the last place of a magnitude in binade e. -/
def lastPlace (f : FFmt) (emin e : Int) : Int := max e emin - f.m

/-- The significand of a magnitude n / d: what it is rounded to in units of its last place. -/
def significand (f : FFmt) (emin : Int) (m : RMode) (neg : Bool) (n d : Nat) : Nat :=
  (roundUnits m neg n d (lastPlace f emin (floorLog2 n d))).1

/-- The code that rounding a magnitude comes to before its size is checked. -/
def magCode (f : FFmt) (emin : Int) (m : RMode) (neg : Bool) (n d : Nat) : Nat :=
  (max (floorLog2 n d) emin - emin).toNat * 2 ^ f.m + significand f emin m neg n d

/-- Rounding a magnitude: what a code that is too large gives, and the code and the flags of one in range. -/
theorem roundMag_eq (shape : FloatShape et f emin emax span top) (m : RMode) (sat neg : Bool) (n d : Nat) :
    ∃ tiny : Bool, (tiny = true → floorLog2 n d < emin) ∧ roundMag et f m sat neg n d =
      if f.maxCode < magCode f emin m neg n d then overflowCode et f m sat neg
      else
        let inexact := (roundUnits m neg n d (lastPlace f emin (floorLog2 n d))).2
        (magCode f emin m neg n d, (if inexact then fNX else 0) ||| if inexact && tiny then fUF else 0) := by
  have place : (if floorLog2 n d < 1 - (f.bias : Int) then 1 - (f.bias : Int) else floorLog2 n d) - f.m =
      lastPlace f emin (floorLog2 n d) := by
    rw [lastPlace, shape.bias]
    split <;> omega
  have code : (lastPlace f emin (floorLog2 n d) + f.m + f.bias - 1).toNat <<< f.m +
      (roundUnits m neg n d (lastPlace f emin (floorLog2 n d))).1 = magCode f emin m neg n d := by
    rw [Nat.shiftLeft_eq, magCode, significand, show lastPlace f emin (floorLog2 n d) + f.m + f.bias - 1 =
      max (floorLog2 n d) emin - emin by rw [lastPlace, shape.bias]; ring]
  refine ⟨decide (floorLog2 n d < 1 - (f.bias : Int)) && !(floorLog2 n d + 1 == 1 - (f.bias : Int) &&
    (roundUnits m neg n d (floorLog2 n d - f.m)).1 == 2 ^ (f.m + 1)), fun tiny => ?_, ?_⟩
  · rw [Bool.and_eq_true, decide_eq_true_iff, ← shape.bias] at tiny
    exact tiny.1
  · rw [roundMag]
    dsimp only
    rw [place, code]

/-- A magnitude whose code is in range has that code, NX when it is inexact, UF at most below the normal range, and no other flag. -/
theorem roundMag_inRange (shape : FloatShape et f emin emax span top) {m : RMode} (sat : Bool) {neg : Bool} {n d : Nat} (hd : 0 < d)
    (inRange : magCode f emin m neg n d ≤ f.maxCode) :
    ∃ fl : FlagSet, roundMag et f m sat neg n d = (magCode f emin m neg n d, fl) ∧ fl.toNat < 4 ∧
      (fl.getLsbD 0 = true ↔ (n : Rat) / d / 2 ^ lastPlace f emin (floorLog2 n d) ≠ significand f emin m neg n d) ∧
      (fl.getLsbD 1 = true → floorLog2 n d < emin) := by
  obtain ⟨tiny, below, value⟩ := roundMag_eq shape m sat neg n d
  have inexact := (roundUnits_rounds m neg n hd (lastPlace f emin (floorLog2 n d))).2
  rw [value, if_neg inRange.not_gt]
  refine ⟨_, rfl, ?_⟩
  rw [significand, ← inexact]
  generalize (roundUnits m neg n d (lastPlace f emin (floorLog2 n d))).2 = x
  cases x <;> cases tiny <;> simp_all [fNX, fUF]

/-! ## The size of a code -/

section

variable (shape : FloatShape et f emin emax span top) {m : RMode} {neg : Bool} {n d : Nat} (hn : 0 < n) (hd : 0 < d)

include hn hd in
/-- The significand of a magnitude is at most that of the next binade, and at least a normal one from the normal range on. -/
theorem significand_range (f : FFmt) (emin : Int) (m : RMode) (neg : Bool) : significand f emin m neg n d ≤ 2 ^ (f.m + 1) ∧
    (max (floorLog2 n d) emin - emin = 0 ∨ 2 ^ f.m ≤ significand f emin m neg n d) := by
  obtain ⟨low, high⟩ := floorLog2_binade hn hd
  have near := (roundUnits_rounds m neg n hd (lastPlace f emin (floorLog2 n d))).1.near
  rw [abs_lt, ← significand] at near
  have two : (2 : Rat) ≠ 0 := by norm_num
  have unit : (0 : Rat) < 2 ^ lastPlace f emin (floorLog2 n d) := by positivity
  constructor
  · have above : (n : Rat) / d / 2 ^ lastPlace f emin (floorLog2 n d) < (2 ^ (f.m + 1) : Nat) := by
      rw [div_lt_iff₀ unit]
      refine high.trans_le ?_
      rw [Nat.cast_pow, Nat.cast_ofNat, ← zpow_natCast, ← zpow_add₀ two]
      exact zpow_le_zpow_right₀ (by norm_num) (by rw [lastPlace]; push_cast; omega)
    have : (significand f emin m neg n d : Rat) < (2 ^ (f.m + 1) : Nat) + 1 := by linarith
    exact Nat.lt_succ_iff.1 (by exact_mod_cast this)
  · by_cases normal : emin < floorLog2 n d
    · right
      have below : ((2 ^ f.m : Nat) : Rat) ≤ (n : Rat) / d / 2 ^ lastPlace f emin (floorLog2 n d) := by
        rw [le_div_iff₀ unit]
        refine le_trans ?_ low
        rw [Nat.cast_pow, Nat.cast_ofNat, ← zpow_natCast, ← zpow_add₀ two]
        exact zpow_le_zpow_right₀ (by norm_num) (by rw [lastPlace]; omega)
      have : ((2 ^ f.m : Nat) : Rat) < significand f emin m neg n d + 1 := by linarith
      exact Nat.lt_succ_iff.1 (by exact_mod_cast this)
    · left
      omega

include shape hn hd

/-- The magnitude of a code in range is its significand in units of its last place. -/
theorem codeMag_magCode : codeMag f (magCode f emin m neg n d) =
    significand f emin m neg n d * 2 ^ lastPlace f emin (floorLog2 n d) := by
  obtain ⟨le, normal⟩ := significand_range hn hd f emin m neg
  rw [magCode, codeMag_units f le (by omega), lastPlace, Int.toNat_of_nonneg (by omega), shape.bias]
  ring_nf

omit hn hd in
/-- The largest number of a format lies in its largest binade. -/
theorem top_binade : (2 : Rat) ^ emax ≤ top * 2 ^ (emax - f.m) ∧ (top : Rat) * 2 ^ (emax - f.m) < 2 ^ (emax + 1) := by
  have two : (2 : Rat) ≠ 0 := by norm_num
  have low : (2 : Rat) ^ (f.m : Int) ≤ top := by exact_mod_cast shape.topLow
  have high : (top : Rat) < 2 ^ ((f.m : Int) + 1) := by exact_mod_cast shape.topHigh
  constructor
  · calc (2 : Rat) ^ emax = 2 ^ (f.m : Int) * 2 ^ (emax - f.m) := by rw [← zpow_add₀ two]; ring_nf
      _ ≤ top * 2 ^ (emax - f.m) := by gcongr
  · calc (top : Rat) * 2 ^ (emax - f.m) < 2 ^ ((f.m : Int) + 1) * 2 ^ (emax - f.m) := by gcongr
      _ = 2 ^ (emax + 1) := by rw [← zpow_add₀ two]; ring_nf

omit shape in
/-- A magnitude from a power of two on lies in its binade or above. -/
theorem le_floorLog2 {k : Int} (ge : (2 : Rat) ^ k ≤ (n : Rat) / d) : k ≤ floorLog2 n d := by
  have := (zpow_lt_zpow_iff_right₀ (show (1 : Rat) < 2 by norm_num)).1 (ge.trans_lt (floorLog2_binade hn hd).2)
  omega

omit shape in
/-- A magnitude below a power of two lies in a binade below. -/
theorem floorLog2_lt {k : Int} (lt : (n : Rat) / d < 2 ^ k) : floorLog2 n d < k :=
  (zpow_lt_zpow_iff_right₀ (show (1 : Rat) < 2 by norm_num)).1 ((floorLog2_binade hn hd).1.trans_lt lt)

/-- A magnitude above the largest binade of a format has a code that is too large. -/
theorem magCode_above (above : emax < floorLog2 n d) : f.maxCode < magCode f emin m neg n d := by
  obtain ⟨-, normal⟩ := significand_range hn hd f emin m neg
  have binades := shape.binades
  have high := shape.topHigh
  obtain ⟨j, hj⟩ : ∃ j : Nat, (max (floorLog2 n d) emin - emin).toNat = span + 1 + j :=
    ⟨(max (floorLog2 n d) emin - emin).toNat - (span + 1), by omega⟩
  rw [shape.max, magCode, hj, add_mul, add_mul]
  rw [pow_succ] at high
  omega

omit hn hd in
/-- A magnitude of the largest binade has the code of its significand there. -/
theorem magCode_last (last : floorLog2 n d = emax) : magCode f emin m neg n d = span * 2 ^ f.m + significand f emin m neg n d := by
  have binades := shape.binades
  rw [magCode, show (max (floorLog2 n d) emin - emin).toNat = span by omega]

/-- A magnitude up to the largest number of a format has a code in range. -/
theorem magCode_inRange (le : (n : Rat) / d ≤ top * 2 ^ (emax - f.m)) : magCode f emin m neg n d ≤ f.maxCode := by
  have binades := shape.binades
  have e := floorLog2_lt hn hd (le.trans_lt (top_binade shape).2)
  obtain last | below : floorLog2 n d = emax ∨ floorLog2 n d < emax := by omega
  · have near := (roundUnits_rounds m neg n hd (lastPlace f emin (floorLog2 n d))).1.near
    have place : lastPlace f emin (floorLog2 n d) = emax - f.m := by rw [lastPlace]; omega
    have y : (n : Rat) / d / 2 ^ lastPlace f emin (floorLog2 n d) ≤ top := by rwa [place, div_le_iff₀ (by positivity)]
    rw [abs_lt, ← significand] at near
    have : (significand f emin m neg n d : Rat) < top + 1 := by linarith
    have : significand f emin m neg n d < top + 1 := by exact_mod_cast this
    rw [magCode_last shape last, shape.max]
    omega
  · obtain ⟨le, -⟩ := significand_range hn hd f emin m neg
    have normal := shape.normal
    have low := shape.topLow
    obtain ⟨j, hj⟩ : ∃ j : Nat, span = (max (floorLog2 n d) emin - emin).toNat + 1 + j :=
      ⟨span - ((max (floorLog2 n d) emin - emin).toNat + 1), by omega⟩
    rw [shape.max, magCode, hj, add_mul, add_mul]
    rw [pow_succ] at le
    omega

/-- A magnitude past the largest binade of a format has a code that is too large. -/
theorem magCode_tooLarge (ge : (2 : Rat) ^ (emax + 1) ≤ (n : Rat) / d) : f.maxCode < magCode f emin m neg n d :=
  magCode_above shape hn hd (by have := le_floorLog2 hn hd ge; omega)

/-- A magnitude above the largest number whose code is in range is rounded to the largest number. -/
theorem magCode_top (gt : top * 2 ^ (emax - f.m) < (n : Rat) / d) (inRange : magCode f emin m neg n d ≤ f.maxCode) :
    floorLog2 n d = emax ∧ significand f emin m neg n d = top := by
  have binades := shape.binades
  have ge := le_floorLog2 hn hd ((top_binade shape).1.trans gt.le)
  have last : floorLog2 n d = emax := by
    by_contra other
    exact absurd (magCode_above shape hn hd (by omega)) inRange.not_gt
  have near := (roundUnits_rounds m neg n hd (lastPlace f emin (floorLog2 n d))).1.near
  have place : lastPlace f emin (floorLog2 n d) = emax - f.m := by rw [lastPlace]; omega
  have y : (top : Rat) < (n : Rat) / d / 2 ^ lastPlace f emin (floorLog2 n d) := by rwa [place, lt_div_iff₀ (by positivity)]
  rw [abs_lt, ← significand] at near
  have : (top : Rat) < significand f emin m neg n d + 1 := by linarith
  have : top < significand f emin m neg n d + 1 := by exact_mod_cast this
  rw [magCode_last shape last, shape.max] at inRange
  exact ⟨last, by omega⟩

end

end

end Sys2Proof.Machine
end

section
/-! PROOF. Exact values as rational numbers, and what rounding one to a format or to an integer gives (R39, R42 to R45, R184). -/

namespace Sys2Proof.Machine

/-! ## Exact values as rational numbers -/

/-- A magnitude with a sign. -/
def withSign (neg : Bool) (x : Rat) : Rat := if neg then -x else x

/-- A value is finite, and is a rational number. -/
def IsRat (v : Val) (q : Rat) : Prop := ∃ s n d, v = .fin s n d ∧ d ≠ 0 ∧ ratOf v = q

theorem ratOf_fin (s : Bool) (n d : Nat) : ratOf (.fin s n d) = withSign s ((n : Rat) / d) := by
  cases s <;> simp [ratOf, withSign, Val.signed, Val.den, neg_div]

theorem abs_withSign (s : Bool) {x : Rat} (h : 0 ≤ x) : |withSign s x| = x := by
  cases s <;> simp [withSign, h]

theorem withSign_sub (s : Bool) (x y : Rat) : withSign s x - withSign s y = withSign s (x - y) := by
  cases s <;> simp [withSign] ; ring

theorem withSign_inj (s : Bool) {x y : Rat} : withSign s x = withSign s y ↔ x = y := by
  cases s <;> simp [withSign]

theorem abs_withSign_sub (s : Bool) (x y : Rat) : |withSign s x - withSign s y| = |x - y| := by
  rw [withSign_sub]
  cases s <;> simp [withSign, abs_sub_comm]

theorem isRat_fin (s : Bool) (n : Nat) {d : Nat} (hd : d ≠ 0) : IsRat (.fin s n d) (withSign s ((n : Rat) / d)) :=
  ⟨s, n, d, rfl, hd, ratOf_fin s n d⟩

theorem IsRat.ratOf_eq {v : Val} {q : Rat} (h : IsRat v q) : ratOf v = q := by
  obtain ⟨_, _, _, _, _, value⟩ := h
  exact value

/-- An integer over a denominator, as a signed magnitude. -/
theorem isRat_int (t : Int) {d : Nat} (hd : d ≠ 0) : IsRat (.fin (decide (t < 0)) t.natAbs d) ((t : Rat) / d) := by
  refine ⟨_, _, _, rfl, hd, ?_⟩
  have sign : (Val.fin (decide (t < 0)) t.natAbs d).signed = t := by
    by_cases h : t < 0
    · simp only [Val.signed, h, decide_true, if_true]
      omega
    · simp only [Val.signed, h, decide_false, Bool.false_eq_true, if_false]
      omega
  rw [ratOf, sign, Val.den]

theorem isRat_ofInt (t : Int) : IsRat (Val.ofInt t) t := by simpa [Val.ofInt] using isRat_int t one_ne_zero

theorem signed_ofInt (t : Int) : (Val.ofInt t).signed = t := by
  have := (isRat_ofInt t).ratOf_eq
  rw [ratOf, show (Val.ofInt t).den = 1 from rfl, Nat.cast_one, div_one] at this
  exact_mod_cast this

/-- The signed numerator over the denominator. -/
theorem signed_eq (s : Bool) (n : Nat) {d : Nat} (hd : d ≠ 0) : ((Val.fin s n d).signed : Rat) = ratOf (.fin s n d) * d := by
  rw [ratOf, Val.den, div_mul_cancel₀]
  exact_mod_cast hd

section

variable {x y z : Val} {p q r : Rat}

theorem IsRat.neg (h : IsRat x p) : IsRat x.neg (-p) := by
  obtain ⟨s, n, d, rfl, hd, rfl⟩ := h
  refine ⟨!s, n, d, rfl, hd, ?_⟩
  rw [Val.neg, ratOf_fin, ratOf_fin]
  cases s <;> simp [withSign]

theorem IsRat.scale (h : IsRat x p) (e : Int) : IsRat (x.scale e) (p * 2 ^ e) := by
  obtain ⟨s, n, d, rfl, hd, rfl⟩ := h
  obtain ⟨n', d', hd', value, ratio⟩ := scale_fin s n d hd e
  rw [value]
  refine ⟨s, n', d', rfl, hd', ?_⟩
  rw [ratOf_fin, ratOf_fin, ratio]
  cases s <;> simp [withSign]

/-- The exact sum of finite values raises no flag (R184). -/
theorem IsRat.add (hx : IsRat x p) (hy : IsRat y q) (down : Bool) : IsRat (x.add down y).1 (p + q) ∧ (x.add down y).2 = 0 := by
  obtain ⟨a, n, d, rfl, hd, rfl⟩ := hx
  obtain ⟨b, m, e, rfl, he, rfl⟩ := hy
  have sum : ratOf (.fin a n d) + ratOf (.fin b m e) = (((Val.fin a n d).signed * e + (Val.fin b m e).signed * d : Int) : Rat) /
      (d * e : Nat) := by
    have hd' : (d : Rat) ≠ 0 := by exact_mod_cast hd
    have he' : (e : Rat) ≠ 0 := by exact_mod_cast he
    push_cast
    rw [signed_eq a n hd, signed_eq b m he]
    field_simp
  rw [sum]
  by_cases zeros : n = 0 ∧ m = 0
  · obtain ⟨rfl, rfl⟩ := zeros
    refine ⟨?_, by simp [Val.add]⟩
    have none_ (s : Bool) : (Val.fin s 0 d).signed = 0 := by cases s <;> rfl
    have none' (s : Bool) : (Val.fin s 0 e).signed = 0 := by cases s <;> rfl
    rw [none_, none']
    simpa [Val.add, withSign] using isRat_fin (if a = b then a else down) 0 one_ne_zero
  · by_cases cancel : (Val.fin a n d).signed * e + (Val.fin b m e).signed * d = 0
    · refine ⟨?_, by simp [Val.add, zeros, cancel]⟩
      rw [cancel]
      simpa [Val.add, zeros, cancel, withSign] using isRat_fin down 0 one_ne_zero
    · refine ⟨?_, by simp [Val.add, zeros, cancel]⟩
      simpa [Val.add, zeros, cancel] using
        isRat_int ((Val.fin a n d).signed * e + (Val.fin b m e).signed * d) (Nat.mul_ne_zero hd he)

/-- The exact difference of finite values raises no flag (R184). -/
theorem IsRat.sub (hx : IsRat x p) (hy : IsRat y q) (down : Bool) :
    IsRat (x.add down y.neg).1 (p - q) ∧ (x.add down y.neg).2 = 0 := by
  rw [sub_eq_add_neg]
  exact hx.add hy.neg down

theorem withSign_mul (a b : Bool) (x y : Rat) : withSign a x * withSign b y = withSign (a != b) (x * y) := by
  cases a <;> cases b <;> simp [withSign]

/-- The exact product of finite values raises no flag (R184). -/
theorem IsRat.mul (hx : IsRat x p) (hy : IsRat y q) : IsRat (x.mul y).1 (p * q) ∧ (x.mul y).2 = 0 := by
  obtain ⟨a, n, d, rfl, hd, rfl⟩ := hx
  obtain ⟨b, m, e, rfl, he, rfl⟩ := hy
  refine ⟨⟨a != b, n * m, d * e, rfl, Nat.mul_ne_zero hd he, ?_⟩, rfl⟩
  rw [ratOf_fin, ratOf_fin, withSign_mul, div_mul_div_comm, ← Nat.cast_mul, ← Nat.cast_mul, ← ratOf_fin]
  rfl

/-- The numerator of a number other than 0. -/
theorem num_ne_zero {s : Bool} {n d : Nat} (h : ratOf (.fin s n d) ≠ 0) : n ≠ 0 := by
  rintro rfl
  exact h (by cases s <;> simp [ratOf_fin, withSign])

/-- The exact quotient by a value other than 0 raises no flag (R184). -/
theorem IsRat.div (hx : IsRat x p) (hy : IsRat y q) (defined : q ≠ 0) : IsRat (x.div y).1 (p / q) ∧ (x.div y).2 = 0 := by
  obtain ⟨a, n, d, rfl, hd, rfl⟩ := hx
  obtain ⟨b, m, e, rfl, he, rfl⟩ := hy
  have hm := num_ne_zero defined
  have value : (Val.fin a n d).div (.fin b m e) = (.fin (a != b) (n * e) (d * m), 0) := by simp [Val.div, hm]
  rw [value]
  refine ⟨⟨_, _, _, rfl, Nat.mul_ne_zero hd hm, ?_⟩, rfl⟩
  rw [ratOf_fin, ratOf_fin, ratOf_fin, Nat.cast_mul, Nat.cast_mul, ← div_div_div_eq]
  cases a <;> cases b <;> simp [withSign, neg_div, div_neg]

/-- The exact product plus a value raises no flag (R184). -/
theorem IsRat.fma (hx : IsRat x p) (hy : IsRat y q) (hz : IsRat z r) (down : Bool) :
    IsRat (fmaVal down x y z).1 (p * q + r) ∧ (fmaVal down x y z).2 = 0 := by
  obtain ⟨product, quiet⟩ := hx.mul hy
  obtain ⟨sum, quiet'⟩ := product.add hz down
  have finite : (x.mul y).1.isNan = false := by
    obtain ⟨s, n, d, value, -, -⟩ := product
    rw [value]
    rfl
  rw [fmaVal]
  dsimp only
  rw [if_neg (by simp [finite]), quiet, quiet']
  exact ⟨sum, rfl⟩

/-- The exact product less a value raises no flag (R184). -/
theorem IsRat.fms (hx : IsRat x p) (hy : IsRat y q) (hz : IsRat z r) (down : Bool) :
    IsRat (fmaVal down x y z.neg).1 (p * q - r) ∧ (fmaVal down x y z.neg).2 = 0 := by
  rw [sub_eq_add_neg]
  exact hx.fma hy hz.neg down

/-- The reciprocal of a value other than 0 raises no flag (R186). -/
theorem IsRat.rcp (hx : IsRat x p) (defined : p ≠ 0) : IsRat (unaryVal 1 x).1 (1 / p) ∧ (unaryVal 1 x).2 = 0 := by
  obtain ⟨s, n, d, rfl, hd, rfl⟩ := hx
  have hn := num_ne_zero defined
  have value : unaryVal 1 (.fin s n d) = if n = 0 then (.inf s, fDZ) else (.fin s d n, 0) := rfl
  rw [value, if_neg hn]
  refine ⟨⟨s, d, n, rfl, hn, ?_⟩, rfl⟩
  rw [ratOf_fin, ratOf_fin]
  cases s <;> simp [withSign]

end

/-- What a code decodes to has a denominator (R27 to R31). -/
theorem decodeVal_den (t c : Nat) : (decodeVal t c).den ≠ 0 := by
  have magnitude (s : Bool) (k : Nat) (e : Int) : ((Val.fin s k 1).scale e).den ≠ 0 := by
    obtain ⟨n, d, hd, value, -⟩ := scale_fin s k 1 one_ne_zero e
    rwa [value]
  unfold decodeVal
  split
  · unfold decodeFloat
    dsimp only
    split
    · exact magnitude _ _ _
    · split
      · split
        · exact one_ne_zero
        · exact magnitude _ _ _
      · split
        · split <;> exact one_ne_zero
        · exact magnitude _ _ _
  · split <;> exact one_ne_zero

/-- A finite value with a denominator is its rational number. -/
theorem isRat_self {v : Val} (den : v.den ≠ 0) (finite : ∃ s n d, v = .fin s n d) : IsRat v (ratOf v) := by
  obtain ⟨s, n, d, rfl⟩ := finite
  exact ⟨s, n, d, rfl, den, rfl⟩

theorem isRat_decodeVal {t c : Nat} (finite : ∃ s n d, decodeVal t c = .fin s n d) : IsRat (decodeVal t c) (ratOf (decodeVal t c)) :=
  isRat_self (decodeVal_den t c) finite

/-! ## Rounding with a sign (R39) -/

/-- How a number q is rounded to a multiple z of a unit in a mode of R39. -/
structure RoundsTo (m : RMode) (u q z : Rat) : Prop where
  whole : ∃ t : Int, z = t * u ∧ (m = .rnd 0 → 2 * |z - q| = u → t % 2 = 0)
  near : |z - q| < u
  nearest : m = .rnd 0 ∨ m = .rnd 4 → 2 * |z - q| ≤ u
  away : m = .rnd 4 → 2 * |z - q| = u → |q| ≤ |z|
  toZero : m = .rnd 1 → |z| ≤ |q|
  down : m = .rnd 2 → z ≤ q
  up : m = .rnd 3 → q ≤ z

/-- A magnitude rounded under a sign is a number rounded. -/
theorem RoundsMag.roundsTo {m : RMode} {s : Bool} {u x : Rat} {k : Nat} (h : RoundsMag m s (x / u) k) (hu : 0 < u) (hx : 0 ≤ x) :
    RoundsTo m u (withSign s x) (withSign s (k * u)) := by
  have off : |withSign s (k * u) - withSign s x| = |(k : Rat) - x / u| * u := by
    rw [abs_withSign_sub, ← abs_of_pos hu, ← abs_mul, abs_of_pos hu, sub_mul, div_mul_cancel₀ _ hu.ne']
  have k0 : (0 : Rat) ≤ k * u := by positivity
  have below : (k : Rat) ≤ x / u ↔ k * u ≤ x := le_div_iff₀ hu
  have above : x / u ≤ k ↔ x ≤ k * u := div_le_iff₀ hu
  have tie : 2 * |withSign s (k * u) - withSign s x| = u ↔ 2 * |(k : Rat) - x / u| = 1 := by
    rw [off, ← mul_assoc, mul_eq_right₀ hu.ne']
  refine ⟨⟨if s then -k else k, ?_, fun mode h' => ?_⟩, ?_, fun mode => ?_, fun mode h' => ?_, fun mode => ?_, fun mode => ?_,
    fun mode => ?_⟩
  · cases s <;> simp [withSign]
  · have := h.even mode (tie.1 h')
    cases s <;> simp <;> omega
  · rw [off]
    exact (mul_lt_iff_lt_one_left hu).2 h.near
  · rw [off, ← mul_assoc]
    exact mul_le_of_le_one_left hu.le (h.nearest mode)
  · rw [abs_withSign s hx, abs_withSign s k0]
    exact above.1 (h.away mode (tie.1 h'))
  · rw [abs_withSign s hx, abs_withSign s k0]
    exact below.1 (h.down (.inl mode))
  · cases s
    · exact below.1 (h.down (.inr (.inl ⟨mode, rfl⟩)))
    · exact neg_le_neg (above.1 (h.up (.inl ⟨mode, rfl⟩)))
  · cases s
    · exact above.1 (h.up (.inr ⟨mode, rfl⟩))
    · exact neg_le_neg (below.1 (h.down (.inr (.inr ⟨mode, rfl⟩))))

/-- A number rounded to an integer, and inexact when it is not that integer (R45). -/
theorem roundToInt_rounds (m : RMode) (s : Bool) (n : Nat) {d : Nat} (hd : d ≠ 0) :
    RoundsTo m 1 (ratOf (.fin s n d)) (roundToInt m s n d).1 ∧
      ((roundToInt m s n d).2 = true ↔ ratOf (.fin s n d) ≠ (roundToInt m s n d).1) := by
  obtain ⟨rounds, inexact⟩ := roundUnits_rounds m s n (Nat.pos_of_ne_zero hd) 0
  have value : ((roundToInt m s n d).1 : Rat) = withSign s ((roundUnits m s n d 0).1 * 1) := by
    cases s <;> simp [roundToInt, withSign]
  rw [zpow_zero, div_one] at inexact
  rw [ratOf_fin, value]
  refine ⟨RoundsMag.roundsTo (by simpa using rounds) one_pos (by positivity), inexact.trans ?_⟩
  cases s <;> simp [withSign]

/-! ## Rounding to a format (R42 to R44) -/

section

variable {et : Nat} {f : FFmt} {emin emax : Int} {span top : Nat} (shape : FloatShape et f emin emax span top) {v : Val} {q : Rat}
  (value : IsRat v q)

include shape value

/-- Zero is converted to a zero, with no flag. -/
theorem toFloat_zero (m : RMode) (sat : Bool) (zero : q = 0) :
    IsRat (decodeVal et (toFloat et f m sat v).1) 0 ∧ (toFloat et f m sat v).2 = 0 := by
  obtain ⟨s, n, d, rfl, hd, rfl⟩ := value
  have none_ : n = 0 := by
    by_contra hn
    rw [ratOf_fin, withSign] at zero
    cases s <;> simp_all
  subst none_
  obtain ⟨n', d', hd', code, ratio⟩ := decodeVal_signCode shape s (Nat.zero_le f.maxCode)
  have mag : codeMag f 0 = 0 := by simp [codeMag]
  rw [toFloat, if_pos rfl, code]
  refine ⟨⟨s, n', d', rfl, hd', ?_⟩, rfl⟩
  rw [ratOf_fin, ratio, mag]
  cases s <;> simp [withSign]

omit shape in
/-- A number other than 0 is converted by rounding its magnitude. -/
theorem toFloat_eq (m : RMode) (sat : Bool) (nonzero : q ≠ 0) : ∃ n d : Nat, 0 < n ∧ 0 < d ∧ |q| = (n : Rat) / d ∧
    q = withSign (decide (q < 0)) ((n : Rat) / d) ∧ toFloat et f m sat v =
      (signCode f (decide (q < 0)) (roundMag et f m sat (decide (q < 0)) n d).1, (roundMag et f m sat (decide (q < 0)) n d).2) := by
  obtain ⟨s, n, d, rfl, hd, rfl⟩ := value
  have hn := Nat.pos_of_ne_zero (num_ne_zero nonzero)
  have hd := Nat.pos_of_ne_zero hd
  have mag : (0 : Rat) < (n : Rat) / d := by positivity
  have sign : decide (ratOf (.fin s n d) < 0) = s := by
    rw [ratOf_fin]
    cases s <;> simp [withSign, mag, mag.le]
  rw [sign]
  refine ⟨n, d, hn, hd, ?_, ratOf_fin s n d, by rw [toFloat, if_neg hn.ne']⟩
  rw [ratOf_fin, abs_withSign s mag.le]

/-- A number up to the largest of a format is rounded in its last place; NX says that it is inexact, UF is raised at most below the normal
range, and nothing else is. -/
theorem toFloat_inRange (m : RMode) (sat : Bool) (inRange : |q| ≤ top * 2 ^ (emax - f.m)) {k : Int} (low : (2 : Rat) ^ k ≤ |q|)
    (high : |q| < 2 ^ (k + 1)) :
    ∃ z, IsRat (decodeVal et (toFloat et f m sat v).1) z ∧ RoundsTo m (2 ^ (max k emin - (f.m : Int))) q z ∧
      ((toFloat et f m sat v).2.getLsbD 0 = true ↔ z ≠ q) ∧ (toFloat et f m sat v).2.toNat < 4 ∧
      ((toFloat et f m sat v).2.getLsbD 1 = true → k < emin) := by
  have nonzero : q ≠ 0 := by
    rintro rfl
    have : (0 : Rat) < 2 ^ k := by positivity
    simp at low
    linarith
  obtain ⟨n, d, hn, hd, mag, signed, eq⟩ := toFloat_eq value m sat nonzero
  rw [mag] at low high inRange
  obtain ⟨low', high'⟩ := floorLog2_binade hn hd
  obtain rfl := binade_unique low high low' high'
  have fits := magCode_inRange shape hn hd inRange (m := m) (neg := decide (q < 0))
  obtain ⟨fl, code, few, inexact, tiny⟩ := roundMag_inRange shape sat hd fits
  obtain ⟨n', d', hd', decoded, ratio⟩ := decodeVal_signCode shape (decide (q < 0)) fits
  rw [codeMag_magCode shape hn hd] at ratio
  have unit : (0 : Rat) < 2 ^ lastPlace f emin (floorLog2 n d) := by positivity
  have rounds := (roundUnits_rounds m (decide (q < 0)) n hd (lastPlace f emin (floorLog2 n d))).1.roundsTo unit (by positivity)
  rw [← signed, ← significand] at rounds
  rw [eq, code, decoded]
  refine ⟨_, ⟨_, n', d', rfl, hd', by rw [ratOf_fin, ratio]⟩, rounds, inexact.trans (not_congr ?_), few, tiny⟩
  rw [div_eq_iff unit.ne', eq_comm, ← withSign_inj (decide (q < 0)), ← signed]

omit value in
/-- The code of the largest magnitude, under a sign. -/
theorem decodeVal_maxCode (neg : Bool) : IsRat (decodeVal et (signCode f neg f.maxCode)) (withSign neg (top * 2 ^ (emax - f.m))) := by
  obtain ⟨n, d, hd, decoded, ratio⟩ := decodeVal_signCode shape neg le_rfl
  have mag : codeMag f f.maxCode = top * 2 ^ (emax - f.m) := by
    rw [shape.max, codeMag_units f shape.topHigh.le (.inr shape.topLow), shape.binades, shape.bias]
    ring_nf
  exact ⟨_, n, d, decoded, hd, by rw [decoded, ratOf_fin, ratio, mag]⟩

/-- A number past the largest binade of a format is too large. -/
theorem toFloat_tooLarge (m : RMode) (sat : Bool) (large : (2 : Rat) ^ (emax + 1) ≤ |q|) : toFloat et f m sat v =
    (signCode f (decide (q < 0)) (overflowCode et f m sat (decide (q < 0))).1, (overflowCode et f m sat (decide (q < 0))).2) := by
  have nonzero : q ≠ 0 := by
    rintro rfl
    have : (0 : Rat) < 2 ^ (emax + 1) := by positivity
    simp at large
    linarith
  obtain ⟨n, d, hn, hd, mag, -, eq⟩ := toFloat_eq value m sat nonzero
  rw [mag] at large
  obtain ⟨tiny, _, code⟩ := roundMag_eq shape m sat (decide (q < 0)) n d
  rw [eq, code, if_pos (magCode_tooLarge shape hn hd large)]

end

end Sys2Proof.Machine
end

section
/-! PROOF. Elements: the values and flags of integer, bit and floating-point operations (R28, R39, R43, R184 to R187). -/

namespace Sys2Proof.Machine

/-! ## The three F types (R27) -/

/-- The numbers of an F type are those of its format. -/
theorem floatTypes_shape {et b m : Nat} {emin emax : Int} (h : (et, b, m, emin, emax) ∈ floatTypes) : ∃ f span,
    FloatShape et f emin emax span (2 ^ (m + 1) - 1) ∧ f.m = m ∧ et ≠ 20 ∧ noSpecials et = false ∧ tyF.contains et = true := by
  simp only [floatTypes, List.mem_cons, List.not_mem_nil, or_false, Prod.mk.injEq] at h
  obtain ⟨rfl, rfl, rfl, rfl, rfl⟩ | ⟨rfl, rfl, rfl, rfl, rfl⟩ | ⟨rfl, rfl, rfl, rfl, rfl⟩ := h
  · exact ⟨_, 253, ⟨rfl, by decide, by decide, by decide, by decide, by decide, by decide, by decide, by decide, by decide⟩, rfl,
      by decide, rfl, rfl⟩
  · exact ⟨_, 29, ⟨rfl, by decide, by decide, by decide, by decide, by decide, by decide, by decide, by decide, by decide⟩, rfl,
      by decide, rfl, rfl⟩
  · exact ⟨_, 253, ⟨rfl, by decide, by decide, by decide, by decide, by decide, by decide, by decide, by decide, by decide⟩, rfl,
      by decide, rfl, rfl⟩

/-- The largest number of a format whose significands are all ones in its last binade. -/
theorem most_eq (m : Nat) (emax : Int) :
    ((2 : Rat) - (2 : Rat) ^ (-(m : Int))) * (2 : Rat) ^ emax = (2 ^ (m + 1) - 1 : Nat) * 2 ^ (emax - m) := by
  have two : (2 : Rat) ≠ 0 := by norm_num
  rw [Nat.cast_sub (Nat.one_le_two_pow), sub_eq_add_neg emax, zpow_add₀ two]
  push_cast
  rw [pow_succ, zpow_neg, zpow_natCast]
  field_simp

/-- The code of infinity is read as infinity (R27). -/
theorem decodeVal_infCode {et : Nat} {f : FFmt} (fmt : ffmt et = some f) (wide : et ≠ 20) (specials : noSpecials et = false)
    (neg : Bool) : decodeVal et (signCode f neg (infCode f)) = .inf neg := by
  have fits : infCode f < 2 ^ f.magBits := by
    rw [infCode, Nat.shiftLeft_eq, FFmt.magBits, pow_add]
    exact Nat.mul_lt_mul_of_pos_right (Nat.sub_lt (by positivity) one_pos) (by positivity)
  obtain ⟨sign, mag⟩ := signCode_parts fits neg
  rw [decodeVal, fmt]
  dsimp only [decodeFloat]
  rw [sign, mag, specials, if_neg Bool.false_ne_true, if_neg wide, infCode, Nat.shiftLeft_shiftRight, if_pos rfl, Nat.shiftLeft_eq,
    Nat.mul_mod_left, if_pos rfl]

/-! ## Operations that round an exact result (R184, R186) -/

section

variable {c : VCtx} {f : FFmt} {v : Val × FlagSet} {q : Rat}

/-- A finite result with no flag of its own is converted to ETYPE. -/
theorem rounded_finite (fmt : ffmt c.et = some f) (value : IsRat v.1 q) (quiet : v.2 = 0) :
    rounded c v = toFloat c.et f c.rm (slotSat c.slot) v.1 := by
  obtain ⟨v, fl⟩ := v
  obtain ⟨s, n, d, rfl, -, -⟩ := value
  obtain rfl : fl = 0 := quiet
  simp only [rounded, roundTo, fmt]
  exact Prod.ext rfl (BitVec.or_zero)

/-- Each operation on finite elements converts a value that is the exact result (R184, R186). -/
theorem roundOps_exact {a b d : Nat} (float : c.float = true) (fmt : ffmt c.et = some f)
    (finite : ∀ v ∈ [a, b, d], ∃ s n k, decodeVal c.et v = .fin s n k) {e} (he : e ∈ roundOps)
    (defined : e.2.2 (ratOf (decodeVal c.et a)) (ratOf (decodeVal c.et b))) :
    ∃ v, IsRat v (e.2.1 (ratOf (decodeVal c.et a)) (ratOf (decodeVal c.et b)) (ratOf (decodeVal c.et d))) ∧
      e.1 c a b d = toFloat c.et f c.rm (slotSat c.slot) v := by
  have hx := isRat_decodeVal (finite a (by simp))
  have hy := isRat_decodeVal (finite b (by simp))
  have hz := isRat_decodeVal (finite d (by simp))
  have finish {op : Nat × FlagSet} {v : Val × FlagSet} {q : Rat} (exact_ : IsRat v.1 q ∧ v.2 = 0) (h : op = rounded c v) :
      ∃ v, IsRat v q ∧ op = toFloat c.et f c.rm (slotSat c.slot) v :=
    ⟨v.1, exact_.1, h.trans (rounded_finite fmt exact_.1 exact_.2)⟩
  simp only [roundOps, List.mem_cons, List.not_mem_nil, or_false] at he
  obtain rfl | rfl | rfl | rfl | rfl | rfl | rfl := he
  · exact finish (hx.add hy _) (if_pos float)
  · exact finish (hx.sub hy _) (if_pos float)
  · exact finish (hx.mul hy) (if_pos float)
  · exact finish (hx.div hy defined) (if_pos float)
  · exact finish (hx.fma hy hz _) (if_pos float)
  · exact finish (hx.fms hy hz _) (if_pos float)
  · exact finish (hx.rcp defined) rfl

/-- The mode of a slot is RND, but for RND 5, which acts as 0 (R40). -/
theorem rm_eq (c : VCtx) (rnd : Nat) (h : slotRnd c.slot = rnd) : c.rm = .rnd (if rnd = 5 then 0 else rnd) := by
  rw [VCtx.rm, rmode, h]

/-- An infinity keeps its sign and the flags of its operation, whatever SAT is. -/
theorem rounded_inf (fmt : ffmt c.et = some f) (n : Bool) (fl : FlagSet) : rounded c (.inf n, fl) = (signCode f n (infCode f), fl) := by
  simp only [rounded, roundTo, fmt]
  exact Prod.ext rfl (BitVec.zero_or)

/-- A NaN becomes the canonical quiet NaN with the flags of its operation (R28). -/
theorem rounded_nan (fmt : ffmt c.et = some f) (specials : noSpecials c.et = false) (fl : FlagSet) :
    rounded c (.nan false, fl) = (quietNan c.et, fl) := by
  simp only [rounded, roundTo, fmt, toFloat, specials]
  exact Prod.ext rfl (BitVec.zero_or)

/-- A magnitude that is too large becomes the largest under SAT (R43). -/
theorem overflowCode_sat (et : Nat) (f : FFmt) (m : RMode) (neg : Bool) : overflowCode et f m true neg = (f.maxCode, 37) :=
  if_pos (.inr (.inr rfl))

/-- A magnitude that is too large becomes infinity when it is rounded to the nearest without SAT (R43). -/
theorem overflowCode_nearest {et : Nat} (f : FFmt) {m : RMode} (neg : Bool) (wide : et ≠ 20) (specials : noSpecials et = false)
    (mode : m = .rnd 0 ∨ m = .rnd 4) : overflowCode et f m false neg = (infCode f, 5) := by
  have finite : ¬(et = 20 ∨ noSpecials et = true ∨ false = true) := by simp [wide, specials]
  obtain rfl | rfl := mode <;> exact if_neg finite

/-- A result that is too large and of an F type is the largest number under SAT, and rounding to nearest infinity (R43). -/
theorem overflow_F {et : Nat} {emin emax : Int} {span top : Nat} (shape : FloatShape et f emin emax span top) (wide : et ≠ 20)
    (specials : noSpecials et = false) {v : Val} (value : IsRat v q) (large : (2 : Rat) ^ (emax + 1) ≤ |q|) (m : RMode) (sat : Bool) :
    (sat = true → ratOf (decodeVal et (toFloat et f m sat v).1) = withSign (decide (q < 0)) (top * (2 : Rat) ^ (emax - f.m)) ∧
      (toFloat et f m sat v).2 = 37) ∧
    (sat = false → m = .rnd 0 ∨ m = .rnd 4 →
      decodeVal et (toFloat et f m sat v).1 = .inf (decide (q < 0)) ∧ (toFloat et f m sat v).2 = 5) := by
  rw [toFloat_tooLarge shape value m sat large]
  constructor
  · rintro rfl
    rw [overflowCode_sat]
    exact ⟨(decodeVal_maxCode shape (decide (q < 0))).ratOf_eq, rfl⟩
  · rintro rfl mode
    rw [overflowCode_nearest f _ wide specials mode]
    exact ⟨decodeVal_infCode shape.fmt wide specials _, rfl⟩

end

/-- The exact results of operations on finite elements of the F types, rounded once (R39, R43, R184, R186). -/
theorem roundOps_rounded (c : VCtx) (a b d m : Nat) (emin emax : Int) (type : (c.et, c.b, m, emin, emax) ∈ floatTypes)
    (rnd : Nat) (hrnd : slotRnd c.slot = rnd) (few : rnd ≤ 5)
    (finite : ∀ v ∈ [a, b, d], ∃ s n k, decodeVal c.et v = .fin s n k) {e} (he : e ∈ roundOps)
    (defined : e.2.2 (ratOf (decodeVal c.et a)) (ratOf (decodeVal c.et b))) {q most : Rat}
    (hq : q = e.2.1 (ratOf (decodeVal c.et a)) (ratOf (decodeVal c.et b)) (ratOf (decodeVal c.et d)))
    (hmost : most = (2 - (2 : Rat) ^ (-(m : Int))) * (2 : Rat) ^ emax) :
    let r := decodeVal c.et (e.1 c a b d).1
    let z := ratOf r
    let fl := (e.1 c a b d).2
    (q = 0 → z = 0 ∧ fl = 0) ∧
    (∀ (k : Int) (u : Rat), (2 : Rat) ^ k ≤ |q| → |q| < (2 : Rat) ^ (k + 1) → |q| ≤ most → u = (2 : Rat) ^ (max k emin - (m : Int)) →
      (∃ s n j, r = .fin s n j) ∧ RoundsTo c.rm u q z ∧ (fl.getLsbD 0 = decide (z ≠ q)) ∧ fl.toNat < 4 ∧
      (fl.getLsbD 1 = true → k < emin)) ∧
    ((2 : Rat) ^ (emax + 1) ≤ |q| →
      (slotSat c.slot = true → z = (if q < 0 then -most else most) ∧ fl = 37) ∧
      (slotSat c.slot = false → (rnd = 0 ∨ rnd = 4 ∨ rnd = 5) → r = .inf (decide (q < 0)) ∧ fl = 5)) := by
  obtain ⟨f, span, shape, rfl, wide, specials, float⟩ := floatTypes_shape type
  obtain ⟨v, value, eq⟩ := roundOps_exact float shape.fmt finite he defined
  rw [← hq] at value
  rw [most_eq] at hmost
  dsimp only
  rw [eq, hmost]
  refine ⟨fun zero => ?_, fun k u low high inRange hu => ?_, fun large => ?_⟩
  · obtain ⟨code, quiet⟩ := toFloat_zero shape value c.rm (slotSat c.slot) zero
    exact ⟨code.ratOf_eq, quiet⟩
  · obtain ⟨z, code, rounds, inexact, few, tiny⟩ := toFloat_inRange shape value c.rm (slotSat c.slot) inRange low high
    rw [code.ratOf_eq, hu]
    obtain ⟨s, n, j, fin, -, -⟩ := code
    exact ⟨⟨s, n, j, fin⟩, rounds, Bool.eq_iff_iff.2 (inexact.trans decide_eq_true_iff.symm), few, tiny⟩
  · obtain ⟨saturates, overflows⟩ := overflow_F shape wide specials value large c.rm (slotSat c.slot)
    refine ⟨by simpa [withSign] using saturates, fun sat nearest => overflows sat ?_⟩
    rw [rm_eq c rnd hrnd]
    obtain rfl | rfl | rfl := nearest <;> simp

/-! ## NaN, infinities and division by zero (R28, R184, R189) -/

section

variable {x y : Val} (number : ∀ k, y ≠ .nan k)

theorem not_nan_neg (number : ∀ k, y ≠ .nan k) (k : Bool) : y.neg ≠ .nan k := by
  cases y with
  | nan g => exact absurd rfl (number g)
  | inf s => exact Val.noConfusion
  | fin s n d => exact Val.noConfusion

include number

/-- A NaN operand gives a NaN, invalid when it signals (R28). -/
theorem nan_operand (g down : Bool) : (Val.nan g).add down y = (.nan false, if g then 16 else 0) ∧
    y.add down (.nan g) = (.nan false, if g then 16 else 0) ∧ (Val.nan g).mul y = (.nan false, if g then 16 else 0) ∧
    y.mul (.nan g) = (.nan false, if g then 16 else 0) ∧ (Val.nan g).div y = (.nan false, if g then 16 else 0) ∧
    y.div (.nan g) = (.nan false, if g then 16 else 0) := by
  cases y with
  | nan k => exact absurd rfl (number k)
  | inf s => cases g <;> exact ⟨rfl, rfl, rfl, rfl, rfl, rfl⟩
  | fin s n d => cases g <;> exact ⟨rfl, rfl, rfl, rfl, rfl, rfl⟩

/-- A NaN operand of VMIN and VMAX gives the canonical NaN (R28, R189). -/
theorem pickFloat_nan {et a b : Nat} {g : Bool} (ha : decodeVal et a = .nan g) (hb : decodeVal et b = y) (mx : Bool) :
    pickFloat et mx a b = (quietNan et, if g then 16 else 0) := by
  rw [pickFloat, ha, hb]
  cases y with
  | nan k => exact absurd rfl (number k)
  | inf s => cases g <;> rfl
  | fin s n d => cases g <;> rfl

end

/-- The sign bit of a number, put or complemented (R184). -/
theorem signCode_abs (f : FFmt) (a : Nat) : signCode f false (a % 2 ^ f.magBits) = a % 2 ^ f.magBits := by
  simp [signCode, bit]

theorem signCode_neg (f : FFmt) {a : Nat} (ha : a < 2 ^ (f.magBits + 1)) :
    signCode f (!a.testBit f.magBits) (a % 2 ^ f.magBits) = a ^^^ 2 ^ f.magBits := by
  have split : a = 2 ^ f.magBits * (a / 2 ^ f.magBits) + a % 2 ^ f.magBits := (Nat.div_add_mod ..).symm
  have top : a / 2 ^ f.magBits < 2 := Nat.div_lt_of_lt_mul (by rwa [pow_succ] at ha)
  have low := Nat.mod_lt a (show 0 < 2 ^ f.magBits by positivity)
  have put {x : Nat} (hx : x < 2 ^ f.magBits) : x ^^^ 2 ^ f.magBits = 2 ^ f.magBits + x := by
    refine Nat.eq_of_testBit_eq fun i => ?_
    obtain lt | rfl | gt := Nat.lt_trichotomy i f.magBits
    · rw [Nat.testBit_xor, Nat.testBit_two_pow_add_gt lt, Nat.testBit_two_pow_of_ne lt.ne', Bool.xor_false]
    · rw [Nat.testBit_xor, Nat.testBit_two_pow_add_eq, Nat.testBit_two_pow_self, Bool.xor_true]
    · rw [Nat.testBit_xor, Nat.testBit_two_pow_of_ne gt.ne, Nat.testBit_lt_two_pow (hx.trans (Nat.pow_lt_pow_right one_lt_two gt)),
        Nat.testBit_lt_two_pow]
      · rfl
      · calc 2 ^ f.magBits + x < 2 ^ (f.magBits + 1) := by rw [pow_succ]; omega
          _ ≤ 2 ^ i := Nat.pow_le_pow_right two_pos gt
  obtain zero | one : a / 2 ^ f.magBits = 0 ∨ a / 2 ^ f.magBits = 1 := by
    generalize a / 2 ^ f.magBits = t at top
    omega
  · rw [zero, mul_zero, zero_add] at split
    rw [← split, put (split ▸ low), Nat.testBit_lt_two_pow (split ▸ low)]
    simp [signCode, bit, Nat.shiftLeft_eq, add_comm]
  · rw [one, mul_one] at split
    have sign : a.testBit f.magBits = true := by
      rw [split, Nat.testBit_two_pow_add_eq, Nat.testBit_lt_two_pow low]
      rfl
    rw [sign]
    nth_rw 2 [split]
    rw [← put low, Nat.xor_assoc, Nat.xor_self, Nat.xor_zero]
    simp [signCode, bit]

/-- The F types by their formats, with the bits of a magnitude (R27). -/
theorem tyF_format {et b m : Nat} (h : (et, b, m) ∈ [(0, 32, 31), (1, 16, 15), (2, 16, 15)]) : ∃ f,
    ffmt et = some f ∧ f.magBits = m ∧ b = m + 1 ∧ et ≠ 20 ∧ noSpecials et = false ∧ tyF.contains et = true := by
  simp only [List.mem_cons, List.not_mem_nil, or_false, Prod.mk.injEq] at h
  obtain ⟨rfl, rfl, rfl⟩ | ⟨rfl, rfl, rfl⟩ | ⟨rfl, rfl, rfl⟩ := h <;> exact ⟨_, rfl, rfl, rfl, by decide, rfl, rfl⟩

section

variable {c : VCtx} {f : FFmt} {a b d : Nat} (float : c.float = true) (fmt : ffmt c.et = some f) (specials : noSpecials c.et = false)

include float fmt specials

/-- A NaN operand makes the result of every operation the canonical NaN (R28, R184). -/
theorem nan_results {g : Bool} (ha : decodeVal c.et a = .nan g) (number : ∀ k, decodeVal c.et b ≠ .nan k) :
    let r : Nat × FlagSet := (quietNan c.et, if g then 16 else 0)
    opAdd false c a b d = r ∧ opAdd false c b a d = r ∧ opAdd true c a b d = r ∧ opMul c a b d = r ∧ opMul c b a d = r ∧
      opDiv c a b d = r ∧ opDiv c b a d = r ∧ opPick false c a b d = r ∧ opPick true c a b d = r := by
  obtain ⟨addL, addR, mulL, mulR, divL, divR⟩ := nan_operand number g c.rm.isDown
  have subL := (nan_operand (not_nan_neg number) g c.rm.isDown).1
  have finish {v : Val × FlagSet} (h : v = (.nan false, if g then 16 else 0)) :
      rounded c v = (quietNan c.et, if g then 16 else 0) := h ▸ rounded_nan fmt specials _
  simp only [opAdd, opMul, opDiv, opPick, float, if_true, Bool.false_eq_true, if_false, ha]
  exact ⟨finish addL, finish addR, finish subL, finish mulL, finish mulR, finish divL, finish divR,
    pickFloat_nan number ha rfl _, pickFloat_nan number ha rfl _⟩

/-- The sum of opposite infinities is invalid (R184). -/
theorem opAdd_opposite {n : Bool} (ha : decodeVal c.et a = .inf n) (hb : decodeVal c.et b = .inf (!n)) :
    opAdd false c a b d = (quietNan c.et, 16) := by
  rw [opAdd, if_pos float, ha, hb]
  cases n <;> exact rounded_nan fmt specials _

/-- The product of an infinity and zero is invalid (R184). -/
theorem opMul_infinity_zero {n k : Bool} {e : Nat} (ha : decodeVal c.et a = .inf n) (hb : decodeVal c.et b = .fin k 0 e) :
    opMul c a b d = (quietNan c.et, 16) := by
  rw [opMul, if_pos float, ha, hb]
  exact rounded_nan fmt specials _

/-- A finite value other than zero divided by zero is an infinity and raises DZ (R184). -/
theorem opDiv_by_zero (wide : c.et ≠ 20) {s z : Bool} {n k e : Nat} (ha : decodeVal c.et a = .fin s n k) (hn : n ≠ 0)
    (hb : decodeVal c.et b = .fin z 0 e) : (opDiv c a b d).2 = 8 ∧ decodeVal c.et (opDiv c a b d).1 = .inf (s != z) := by
  have value : (Val.fin s n k).div (.fin z 0 e) = (.inf (s != z), 8) := by
    rw [Val.div, if_pos rfl, if_neg hn]
    rfl
  rw [opDiv, if_pos float, ha, hb, value, rounded_inf fmt]
  exact ⟨rfl, decodeVal_infCode fmt wide specials _⟩

omit float specials in
/-- VABS and VNEG of a number change the sign bit alone (R184). -/
theorem opSign_number (number : ∀ g, decodeVal c.et a ≠ .nan g) (ha : a < 2 ^ (f.magBits + 1)) :
    opSign false c a b d = (a % 2 ^ f.magBits, 0) ∧ opSign true c a b d = (a ^^^ 2 ^ f.magBits, 0) := by
  have notNan : (decodeVal c.et a).isNan = false := by
    cases h : decodeVal c.et a with
    | nan g => exact absurd h (number g)
    | inf s => rfl
    | fin s n d => rfl
  simp only [opSign, fmt, notNan, Bool.false_eq_true, if_false, Bool.false_and, Bool.true_and, signCode_abs, signCode_neg f ha]
  trivial

end

/-! ## Integers (R185) and bits (R187) -/

/-- Two's complement of a number of its width. -/
theorem signedOf_eq_toInt (x n : Nat) : signedOf x n = (BitVec.ofNat n x).toInt := by
  rw [BitVec.toInt_eq_toNat_cond, BitVec.toNat_ofNat, signedOf]
  cases n with
  | zero => simp [Nat.mod_one]
  | succ n =>
    have half : x % 2 ^ (n + 1) < 2 ^ n ↔ 2 * (x % 2 ^ (n + 1)) < 2 ^ (n + 1) := by
      rw [pow_succ]
      omega
    simp only [Nat.add_one_sub_one, half, if_neg (Nat.succ_ne_zero n)]

theorem low_eq (i : Int) (n : Nat) : lowBits i n = (i % 2 ^ n).toNat := by
  rw [lowBits]
  push_cast
  rfl

/-- The low bits of an integer are its bits at that width. -/
theorem lowBits_eq_ofInt (i : Int) (n : Nat) : lowBits i n = (BitVec.ofInt n i).toNat := by
  rw [low_eq, BitVec.toNat_ofInt]
  push_cast
  rfl

/-- The shifts and the logical operations are those of bit vectors of the width (R187). -/
theorem bit_results (c : VCtx) {a b : Nat} (d : Nat) (ha : a < 2 ^ c.b) (hb : b < 2 ^ c.b) :
    opShl c a b d = ((BitVec.ofNat c.b a <<< (b % c.b)).toNat, 0) ∧ opShr c a b d = ((BitVec.ofNat c.b a >>> (b % c.b)).toNat, 0) ∧
    opSra c a b d = (((BitVec.ofNat c.b a).sshiftRight (b % c.b)).toNat, 0) ∧ opNot c a b d = ((~~~BitVec.ofNat c.b a).toNat, 0) ∧
    opBits (fun x y => x &&& y) c a b d = ((BitVec.ofNat c.b a &&& BitVec.ofNat c.b b).toNat, 0) ∧
    opBits (fun x y => x ||| y) c a b d = ((BitVec.ofNat c.b a ||| BitVec.ofNat c.b b).toNat, 0) ∧
    opBits (fun x y => x ^^^ y) c a b d = ((BitVec.ofNat c.b a ^^^ BitVec.ofNat c.b b).toNat, 0) := by
  have sra : opSra c a b d = (((BitVec.ofNat c.b a).sshiftRight (b % c.b)).toNat, 0) := by
    rw [opSra, lowBits_eq_ofInt, signedOf_eq_toInt, BitVec.sshiftRight, Int.shiftRight_eq_div_pow]
  refine ⟨?_, ?_, sra, ?_, ?_, ?_, ?_⟩ <;>
    simp [opShl, opShr, opNot, opBits, Nat.mod_eq_of_lt ha, Nat.mod_eq_of_lt hb]

/-- The I types of 16 and 32 bits (R25). -/
def wideInts : List (Nat × Nat × Bool) := [(3, 32, true), (4, 32, false), (5, 16, true), (6, 16, false)]

theorem wideInts_format {et b : Nat} {sg : Bool} (h : (et, b, sg) ∈ wideInts) :
    tyF.contains et = false ∧ ffmt et = none ∧ ifmt et = some (sg, b) ∧ b ≠ 0 := by
  simp only [wideInts, List.mem_cons, List.not_mem_nil, or_false, Prod.mk.injEq] at h
  obtain ⟨rfl, rfl, rfl⟩ | ⟨rfl, rfl, rfl⟩ | ⟨rfl, rfl, rfl⟩ | ⟨rfl, rfl, rfl⟩ := h <;> exact ⟨rfl, rfl, rfl, by decide⟩

/-- The value of an element of an I type. -/
def intVal (b : Nat) (sg : Bool) (x : Nat) : Int := if sg then (BitVec.ofNat b x).toInt else x

/-- An integer as the element of an I type that is nearest to it, with SX when it is out of range (R185). -/
def fitted (b : Nat) (lo hi i : Int) : Nat × FlagSet :=
  if hi < i then (lowBits hi b, 32) else if i < lo then (lowBits lo b, 32) else (lowBits i b, 0)

section

variable {c : VCtx} {sg : Bool} (type : (c.et, c.b, sg) ∈ wideInts)

include type

theorem int_eq {x : Nat} (hx : x < 2 ^ c.b) : c.int x = intVal c.b sg x := by
  obtain ⟨-, float, fmt, -⟩ := wideInts_format type
  cases sg <;> simp only [VCtx.int, decodeVal, float, fmt, signed_ofInt, intVal]
  · rw [Nat.mod_eq_of_lt hx]
    rfl
  · rw [signedOf_eq_toInt]
    rfl

theorem fit_wraps (wraps : slotSat c.slot = false) (i : Int) : fit c i = (lowBits i c.b, 0) := by
  obtain ⟨-, -, fmt, -⟩ := wideInts_format type
  rw [fit, fmt]
  simp [fitInt, wraps]

theorem fit_clamps (clamps : slotSat c.slot = true) {lo hi : Int} (hlo : lo = if sg then -2 ^ (c.b - 1) else 0)
    (hhi : hi = if sg then 2 ^ (c.b - 1) - 1 else 2 ^ c.b - 1) (i : Int) : fit c i = fitted c.b lo hi i := by
  obtain ⟨-, -, fmt, -⟩ := wideInts_format type
  have range : intRange sg c.b = (lo, hi) := by cases sg <;> simp [intRange, hlo, hhi]
  have ends : lo ≤ hi := by
    have half : (0 : Int) < 2 ^ (c.b - 1) := by positivity
    have whole : (0 : Int) < 2 ^ c.b := by positivity
    cases sg
    · rw [if_neg Bool.false_ne_true] at hlo hhi
      omega
    · rw [if_pos rfl] at hlo hhi
      omega
  rw [fit, fmt]
  simp only [fitInt, range, clamps, Bool.not_true, Bool.false_eq_true, if_false, fitted]
  by_cases low : i < lo
  · rw [if_pos low, if_neg (by omega), if_pos low]
    rfl
  · rw [if_neg low, if_neg low]
    rfl

/-- Each integer operation fits its exact result (R185). -/
theorem int_results {a b d : Nat} (ha : a < 2 ^ c.b) (hb : b < 2 ^ c.b) (hd : d < 2 ^ c.b) :
    let x := intVal c.b sg a
    let y := intVal c.b sg b
    let z := intVal c.b sg d
    opAdd false c a b d = fit c (x + y) ∧ opAdd true c a b d = fit c (x - y) ∧ opMul c a b d = fit c (x * y) ∧
      opFma false c a b d = fit c (x * y + z) ∧ opFma true c a b d = fit c (x * y - z) ∧
      opSign false c a b d = fit c x.natAbs ∧ opSign true c a b d = fit c (-x) ∧
      opDiv c a b d = (if y = 0 then (2 ^ c.b - 1, 8) else fit c (x.tdiv y)) ∧
      opPick false c a b d = (if x < y then a else b, 0) ∧ opPick true c a b d = (if x < y then b else a, 0) := by
  obtain ⟨float, none_, -, -⟩ := wideInts_format type
  have float : c.float = false := float
  simp only [opAdd, opMul, opFma, opDiv, opSign, opPick, float, none_, int_eq type ha, int_eq type hb, int_eq type hd,
    Bool.false_eq_true, if_false, if_true, decide_eq_true_eq, decide_eq_false_iff_not, ite_not]
  exact ⟨trivial, trivial, trivial, trivial, trivial, trivial, trivial, rfl, trivial, trivial⟩

end

/-- Settles O36: integers fit their exact results, bits are those of bit vectors, and floating-point results round exact values once. -/
theorem elementValues : Obligations.ElementValues := by
  refine ⟨?_, fun c a b d _ ha hb => bit_results c d ha hb, fun c a b d m type ha hb => ?_, ?_⟩
  · intro c a b d sg type ha hb hd val low
    obtain ⟨add, sub, mul, fma, fms, abs, neg, div, min_, max_⟩ := int_results type ha hb hd
    refine ⟨fun wraps => ?_, fun zero => div.trans (if_pos zero), min_, max_, fun clamps lo hi hlo hhi => ?_⟩
    · have wrap (i : Int) : fit c i = (low i, 0) := by rw [fit_wraps type wraps, low_eq]
      exact ⟨add.trans (wrap _), sub.trans (wrap _), mul.trans (wrap _), fma.trans (wrap _), fms.trans (wrap _),
        fun nonzero => (div.trans (if_neg nonzero)).trans (wrap _), abs.trans (wrap _), neg.trans (wrap _)⟩
    · intro fitted_
      have clamp (i : Int) : fit c i = fitted_ i := by simp only [fit_clamps type clamps hlo hhi, fitted, low_eq]; rfl
      refine ⟨fun e he => ?_, fun nonzero => (div.trans (if_neg nonzero)).trans (clamp _)⟩
      simp only [exactOps, List.mem_cons, List.not_mem_nil, or_false] at he
      obtain rfl | rfl | rfl | rfl | rfl | rfl | rfl := he
      exacts [add.trans (clamp _), sub.trans (clamp _), mul.trans (clamp _), fma.trans (clamp _), fms.trans (clamp _),
        abs.trans (clamp _), neg.trans (clamp _)]
  · obtain ⟨f, fmt, rfl, width, wide, specials, float⟩ := tyF_format type
    refine ⟨fun g => nan_results float fmt specials, fun n => opAdd_opposite float fmt specials,
      fun n k e => opMul_infinity_zero float fmt specials, fun s n k e z ha hn => opDiv_by_zero float fmt specials wide ha hn,
      fun number => opSign_number fmt number (width ▸ ha)⟩
  · intro c a b d m emin emax type _ _ _ few finite e he x y q r z fl rnd most defined
    obtain ⟨zero, inRange, large⟩ := roundOps_rounded c a b d m emin emax type rnd rfl few finite he defined rfl rfl
    refine ⟨zero, fun k u low high fits hu => ?_, large⟩
    obtain ⟨fin, rounds, inexact, few', tiny⟩ := inRange k u low high fits hu
    rw [rm_eq c rnd rfl] at rounds
    obtain ⟨⟨t, ht, even⟩, near, nearest, away, toZero, down, up⟩ := rounds
    have mode {n : Nat} (hn : n ≠ 5) (h : rnd = n) : RMode.rnd (if rnd = 5 then 0 else rnd) = .rnd n := by rw [h, if_neg hn]
    have even_ (h : rnd = 0 ∨ rnd = 5) : RMode.rnd (if rnd = 5 then 0 else rnd) = .rnd 0 := by
      obtain h | h := h <;> rw [h] <;> rfl
    refine ⟨fin, ⟨t, ht, fun h => even (even_ h)⟩, fun h => nearest ?_, fun h => away (mode (by decide) h),
      fun h => ⟨toZero (mode (by decide) h), near⟩, fun h => ⟨down (mode (by decide) h), ?_⟩,
      fun h => ⟨up (mode (by decide) h), (le_abs_self _).trans_lt near⟩, inexact, few', tiny⟩
    · obtain h | h | h := h
      · exact .inl (even_ (.inl h))
      · exact .inr (mode (by decide) h)
      · exact .inl (even_ (.inr h))
    · rw [← neg_sub]
      exact (neg_le_abs _).trans_lt near

end Sys2Proof.Machine
end

section
/-! PROOF. Instructions of the vector stream that start as they are dispatched, and the registers that DRAIN, DRAINA, DRAINQ and DRAINRC
write (R178, R234 to R239). -/

namespace Sys2Proof.Machine

/-! ## An instruction that starts as it is dispatched -/

section

variable {s : State} {g : Fin 8} {env : Env} {c : VCtx}

/-- An instruction of the vector stream whose body answers a state retires in it. -/
theorem runStream_retires (i : Instr) (keeps : ignoresStrip i = false) (start : starts s g env c)
    {body : Env → State → StreamResult} {t : State} (done : body env s = .ok (t, none)) :
    runStream i 0 false g none none body s = retires env t := by
  obtain ⟨⟨replay, parked, room⟩, dispatched, -⟩ := start
  simp only [runStream, replay, dispatched, parked, room, done, Bool.false_eq_true, if_false, Bool.not_true, heldBy, keeps, retires]
  rfl

end

/-- A check that passes goes on. -/
theorem ensure_bind {α : Type} {b : Bool} {code : Nat} (h : b = true) (k : PUnit → Except Stop α) :
    (ensure b code >>= k) = k ⟨⟩ := by
  rw [ensure, if_pos h]
  rfl

theorem ok_bind {α β : Type} {m : Except Stop α} {a : α} (h : m = .ok a) (k : α → Except Stop β) : (m >>= k) = k a := by
  rw [h]
  rfl

theorem operand_v (n : Fin 64) {tiers : List Nat} (h : tiers.contains 0 = true) : operand (.v n) tiers 1 = .ok ⟨⟩ := by
  rw [operand, ensure_ok, show tierOf (.v n) = 0 from rfl, h, Nat.mod_one]
  rfl

theorem operand_z (n : Fin 4) {tiers : List Nat} (h : tiers.contains 2 = true) (f : Nat) : operand (.z n) tiers f = .ok ⟨⟩ := by
  simp [operand, show tierOf (.z n) = 2 from rfl, List.contains_iff_mem.1 h]

/-- Element l of a list over the first n numbers, or a default. -/
theorem getD_map_range {α : Type} (f : Nat → α) (n l : Nat) (d : α) : ((List.range n).map f).getD l d = if l < n then f l else d := by
  rw [List.getD_eq_getElem?_getD, List.getElem?_map]
  split
  · next h => rw [List.getElem?_range h]; rfl
  · next h => rw [List.getElem?_eq_none (by simpa using h)]; rfl

/-! ## DRAIN and DRAINA (R234 to R237) -/

/-- The types that DRAIN takes, and those that DRAINA takes (R236, R237). -/
def drainTypes (folds : Bool) : List Nat := if folds then [0, 1, 2, 20, 21] else [0, 1, 2, 3, 4, 5, 6, 16, 17, 18, 19, 20, 21]

/-- The tiles that DRAIN reads, and those that DRAINA folds (R236, R237). -/
def drainTiles (folds : Bool) (t : Tile) (k : Nat) : List Nat :=
  if folds then (List.range 4).filter fun q => decide (k ≤ q) && (q - k) % (if t.count ≤ 1024 then 1 else 2) == 0 else [k]

/-- A drain writes the results of the positions of every lane into its run (R234). -/
theorem drainBody_writes (folds : Bool) {s s1 : State} {env : Env} {c : VCtx} {t : Tile} {kcm1 cnt : Nat} (n : Fin 64) (k : Fin 4)
    (hc : c = vctx s env) (ht : t = tileOf c.lanes c.slot env.forme env.vl) (hk : drainKcm1 s t = (kcm1, s1))
    (hcnt : cnt = ceilDiv (t.count * c.b) 4096) (fits : n.val + cnt ≤ 64)
    (checks : drainChecks c env t (drainTypes folds) k = .ok ⟨⟩) (sides : drainSides t (drainTiles folds t k) (runRegs n cnt) = true)
    (ready : useRegs s env.seq (runRegs n cnt ++ (drainTiles folds t k).flatMap t.zregs ++ drainSideRegs t (drainTiles folds t k)) =
      .ok ⟨⟩) {res : Nat → List (Nat × FlagSet)}
    (hres : ∀ l, res l = if l < c.lanes then (List.range t.count).map fun i =>
      if folds then foldedOne c t s.me.r kcm1 k (drainTiles folds t k) l i else drainOne c t s.me.r kcm1 k l i else []) :
    drainBody folds (.v n) (.z k) env s = .ok (withRegs s1 (commit c (laneFlags c.lanes res) Counts.zero
      (putResults s.me.r n c.lanes cnt c.b res)), none) := by
  have results : res = fun l => ((List.range c.lanes).map fun l => (List.range t.count).map fun i =>
      if folds then foldedOne c t s.me.r kcm1 k (drainTiles folds t k) l i else drainOne c t s.me.r kcm1 k l i).getD l [] :=
    funext fun l => by rw [hres, getD_map_range]
  have room : (runOk n cnt && drainSides t (drainTiles folds t k) (runRegs n cnt)) = true := by
    rw [sides, Bool.and_true]
    exact decide_eq_true fits
  subst hcnt
  rw [drainBody]
  dsimp only
  rw [← hc, ← ht, hk, matOperand, ok_bind (operand_v n rfl), matOperand, ok_bind (operand_z k rfl _)]
  exact (ok_bind checks _).trans ((ensure_bind room _).trans ((ok_bind ready _).trans (by rw [results]; rfl)))

/-! ## DRAINQ and DRAINRC (R238, R239) -/

/-- Writing no register leaves a run as it was. -/
theorem putRun_none (r : Regs) (reg lanes : Nat) (f : Nat → Nat) : putRun r reg lanes 0 f = r := by
  rw [putRun]
  induction List.range lanes with
  | nil => rfl
  | cons l ls ih => exact ih

/-- What a lane of a list over the lanes gives. -/
theorem getD_getElem?_map_range {α : Type} (f : Nat → α) (g : α → Nat) (n l : Nat) :
    ((((List.range n).map f)[l]?).map g).getD 0 = if l < n then g (f l) else 0 := by
  rw [List.getElem?_map]
  split
  · next h => rw [List.getElem?_range h]; rfl
  · next h => rw [List.getElem?_eq_none (by simpa using h)]; rfl

/-- The lane of a quantising drain: its values in groups along rows, or down columns (R238, R239). -/
def drainLane (c : VCtx) (t : Tile) (r : Regs) (k : Nat) (vals : Nat → List (Val × FlagSet)) (cols : Bool) (l : Nat) : QLane :=
  quantiseLane t cols c.et (slotRnd c.slot) (phaseOf r k) ((vals l).map (·.1))

/-- What a quantising drain makes of a lane: its copy along rows, its copy down columns where it makes both, and the flags of its values. -/
def drainCopies (both : Bool) (lane : Bool → Nat → QLane) (vals : Nat → List (Val × FlagSet)) (l : Nat) : QLane × QLane × FlagSet :=
  (lane false l, if both then lane true l else { codes := 0, scales := 0, flags := 0, nans := 0 },
    (vals l).foldl (fun (a : FlagSet) v => a ||| v.2) 0)

/-- The registers with the code run and the scale run of every lane, from a register on (R238, R239). -/
def putQuantised (reg lanes : Nat) (n : Nat × Nat) (lane : Nat → QLane) (r : Regs) : Regs :=
  putRun (putRun r reg lanes n.1 fun l => if l < lanes then (lane l).codes else 0)
    (reg + n.1) lanes n.2 fun l => if l < lanes then (lane l).scales else 0

/-- The types that DRAINQ and DRAINRC take (R238). -/
def quantisedTypes : List Nat := [16, 18, 20, 21, 22, 23, 24]

/-- The values that a quantising drain takes of a lane: those of a tile, or those of a v run (R238). -/
def drainVals (c : VCtx) (t : Tile) (r : Regs) (kcm1 : Nat) (va : VOp) (l : Nat) : List (Val × FlagSet) :=
  (List.range t.count).map fun i =>
    if tierOf va == 0 then (decodeVal 0 (getLane r (vNumber va) c.lanes l (32 * i) 32), 0) else tileValue t r kcm1 (zNumber va) l i

/-- The registers that a quantising drain reads (R238). -/
def drainSource (t : Tile) (va : VOp) : List RegName :=
  if tierOf va == 0 then runRegs (vNumber va) (ceilDiv (t.count * 32) 4096) else t.zregs (zNumber va) ++ drainSideRegs t [zNumber va]

section

variable {s s1 : State} {env : Env} {c : VCtx} {t : Tile} {kcm1 : Nat} (n : Fin 64) {va : VOp} (hc : c = vctx s env)
  (ht : t = tileOf c.lanes c.slot env.forme env.vl) (hva : operand va [2, 0] c.f = .ok ⟨⟩)
  (checks : drainChecks c env t quantisedTypes (zNumber va) = .ok ⟨⟩)
  (hk : (if tierOf va == 0 then (0, s) else drainKcm1 s t) = (kcm1, s1))

/-- A run does not meet what it is filled from, and its source is in place (R221, R234, R238). -/
def drainApart (t : Tile) (va : VOp) (run : List RegName) : Bool :=
  if tierOf va == 0 then t.base == 0 && runOk (vNumber va) (ceilDiv (t.count * 32) 4096) && !run.any (drainSource t va).contains
  else drainSides t [zNumber va] run

include hc ht hva checks hk

/-- A quantising drain writes the code and scale runs along rows and, where it does both, down columns; its NaN elements of every copy
count, and the dither phase of its source advances (R41, R44, R238, R239). -/
theorem quantBody_writes (both : Bool) {rows cols : Nat × Nat} (hrows : rows = quantRegs t false c.et)
    (hcols : cols = if both then quantRegs t true c.et else (0, 0))
    (fits : n.val + (rows.1 + rows.2 + cols.1 + cols.2) ≤ 64)
    (apart : drainApart t va (runRegs n (rows.1 + rows.2 + cols.1 + cols.2)) = true)
    (ready : useRegs s env.seq (runRegs n (rows.1 + rows.2 + cols.1 + cols.2) ++ drainSource t va) = .ok ⟨⟩) :
    let k := if tierOf va == 0 then 4 else zNumber va
    let vals := drainVals c t s.me.r kcm1 va
    let copies := drainCopies both (drainLane c t s.me.r k vals) vals
    let out := (List.range c.lanes).map copies
    quantBody both (.v n) va env s = .ok (withRegs s1 (commit c (out.foldl (fun a q => a ||| q.1.flags ||| q.2.1.flags ||| q.2.2) 0)
      { Counts.zero with nanenc := (out.map fun q => q.1.nans + q.2.1.nans).sum }
      (advancePhase k (putQuantised (n + rows.1 + rows.2) c.lanes cols (fun l => (copies l).2.1)
        (putQuantised n c.lanes rows (fun l => (copies l).1) s.me.r)))), none) := by
  intro k vals copies out
  have room : (runOk n (rows.1 + rows.2 + cols.1 + cols.2) && drainApart t va (runRegs n (rows.1 + rows.2 + cols.1 + cols.2))) = true := by
    rw [apart, Bool.and_true]
    exact decide_eq_true fits
  subst hrows hcols
  rw [quantBody]
  dsimp only
  rw [← hc, ← ht, hk, matOperand, ok_bind (operand_v n rfl), matOperand, ok_bind hva]
  refine (ok_bind checks _).trans ?_
  simp only [getD_getElem?_map_range]
  unfold out copies vals k drainCopies drainLane drainVals putQuantised
  cases through : tierOf va == 0 <;>
    simp only [drainSource, drainApart, through, if_true, if_false, Bool.false_eq_true] at ready room ⊢
  all_goals exact (ensure_bind room _).trans ((ok_bind ready _).trans (by simp only [vdone, withRegs, show vNumber (.v n) = n from rfl]))

end

/-! ## The instructions (R234 to R239) -/

/-- DRAIN and DRAINA, started with their registers in place, write the results of every lane (R234, R236, R237). -/
theorem drain_results (g : Fin 8) (n : Fin 64) (k : Fin 4) (s s1 : State) (env : Env) (c : VCtx) (t : Tile) (kcm1 cnt : Nat)
    (start : starts s g env c) (ht : t = tileOf c.lanes c.slot env.forme env.vl) (hk : drainKcm1 s t = (kcm1, s1))
    (hcnt : cnt = ceilDiv (t.count * c.b) 4096) (fits : n.val + cnt ≤ 64) (folds : Bool)
    (checks : drainChecks c env t (drainTypes folds) k = .ok ⟨⟩) (sides : drainSides t (drainTiles folds t k) (runRegs n cnt) = true)
    (ready : useRegs s env.seq (runRegs n cnt ++ (drainTiles folds t k).flatMap t.zregs ++ drainSideRegs t (drainTiles folds t k)) =
      .ok ⟨⟩) {res : Nat → List (Nat × FlagSet)}
    (hres : ∀ l, res l = if l < c.lanes then (List.range t.count).map fun i =>
      if folds then foldedOne c t s.me.r kcm1 k (drainTiles folds t k) l i else drainOne c t s.me.r kcm1 k l i else []) :
    exec (if folds then .draina g (.v n) (.z k) else .drain g (.v n) (.z k)) s =
      retires env (withRegs s1 (commit c (laneFlags c.lanes res) Counts.zero (putResults s.me.r n c.lanes cnt c.b res))) := by
  have body := drainBody_writes folds n k start.2.2 ht hk hcnt fits checks sides ready hres
  cases folds
  · exact runStream_retires (.drain g (.v n) (.z k)) rfl start body
  · exact runStream_retires (.draina g (.v n) (.z k)) rfl start body

/-- The NaN elements of both copies are those of each. -/
theorem sum_nans (copies : Nat → QLane × QLane × FlagSet) (n : Nat) :
    (((List.range n).map copies).map fun q => q.1.nans + q.2.1.nans).sum =
      ((List.range n).map fun l => (copies l).1.nans).sum + ((List.range n).map fun l => (copies l).2.1.nans).sum := by
  rw [List.map_map, ← List.sum_map_add]
  rfl

theorem phaseOf_advancePhase (k : Nat) (hk : k ≤ 4) (r : Regs) : phaseOf (advancePhase k r) k = (phaseOf r k + 1) % 32 := by
  rw [phaseOf, advancePhase, field_putField_same _ _ _ _ (by omega)]
  rfl

section

variable {g : Fin 8} {n : Fin 64} {va : VOp} {s s1 : State} {env : Env} {c : VCtx} {t : Tile} {kcm1 k : Nat} (start : starts s g env c)
  (ht : t = tileOf c.lanes c.slot env.forme env.vl) (hva : operand va [2, 0] c.f = .ok ⟨⟩)
  (checks : drainChecks c env t quantisedTypes (zNumber va) = .ok ⟨⟩)
  (hk : (if tierOf va == 0 then (0, s) else drainKcm1 s t) = (kcm1, s1)) (phase : k = if tierOf va == 0 then 4 else zNumber va)
  {lane : Bool → Nat → QLane} (hlane : lane = drainLane c t s.me.r k (drainVals c t s.me.r kcm1 va))

include start ht hva checks hk phase hlane

/-- DRAINQ, started with its registers in place, writes the codes and the scales along rows (R238). -/
theorem drainq_results {rows : Nat × Nat} (hrows : rows = quantRegs t false c.et) (fits : n.val + rows.1 + rows.2 ≤ 64)
    (apart : drainApart t va (runRegs n (rows.1 + rows.2)) = true)
    (ready : useRegs s env.seq (runRegs n (rows.1 + rows.2) ++ drainSource t va) = .ok ⟨⟩) : ∃ fl : FlagSet,
    exec (.drainq g (.v n) va) s = retires env (withRegs s1 (commit c fl
      { Counts.zero with nanenc := ((List.range c.lanes).map fun l => (lane false l).nans).sum }
      (advancePhase k (putQuantised n c.lanes rows (lane false) s.me.r)))) := by
  have body := quantBody_writes n start.2.2 ht hva checks hk false hrows rfl (cols := (0, 0)) (by rw [add_zero, add_zero]; omega) apart ready
  have run := runStream_retires (.drainq g (.v n) va) rfl start body
  rw [sum_nans, ← phase, putQuantised, putRun_none, putRun_none, ← hlane] at run
  simp only [drainCopies, Bool.false_eq_true, if_false, List.map_const', List.sum_replicate, smul_zero, add_zero] at run
  exact ⟨_, run⟩

/-- DRAINRC, started with its registers in place, writes the codes and the scales along rows, then those down columns (R239). -/
theorem drainrc_results {rows cols : Nat × Nat} (hrows : rows = quantRegs t false c.et) (hcols : cols = quantRegs t true c.et)
    (fits : n.val + rows.1 + rows.2 + cols.1 + cols.2 ≤ 64)
    (apart : drainApart t va (runRegs n (rows.1 + rows.2 + cols.1 + cols.2)) = true)
    (ready : useRegs s env.seq (runRegs n (rows.1 + rows.2 + cols.1 + cols.2) ++ drainSource t va) = .ok ⟨⟩) : ∃ fl : FlagSet,
    exec (.drainrc g (.v n) va) s = retires env (withRegs s1 (commit c fl
      { Counts.zero with nanenc := ((List.range c.lanes).map fun l => (lane false l).nans).sum +
        ((List.range c.lanes).map fun l => (lane true l).nans).sum }
      (advancePhase k (putQuantised (n + rows.1 + rows.2) c.lanes cols (lane true) (putQuantised n c.lanes rows (lane false) s.me.r))))) := by
  have body := quantBody_writes n start.2.2 ht hva checks hk true hrows hcols (by omega) apart ready
  have run := runStream_retires (.drainrc g (.v n) va) rfl start body
  rw [sum_nans, ← phase, ← hlane] at run
  exact ⟨_, run⟩

end

end Sys2Proof.Machine
end

section
/-! PROOF. The values of tile positions, and what DRAIN, DRAINA and the quantising drains round them to (R38, R46, R49, R235 to R238). -/

namespace Sys2Proof.Machine

/-! ## Conversions that round to the nearest (R42, R45) -/

section

variable {et : Nat} {f : FFmt} {emin emax : Int} {span top : Nat} {v : Val} {q : Rat}

/-- A finite value is converted to a format as RND 0 says. -/
theorem toFloat_nearest (shape : FloatShape et f emin emax span top) (value : IsRat v q) (sat : Bool) :
    nearest et f.m emin (top * 2 ^ (emax - f.m)) q (toFloat et f (.rnd 0) sat v) := by
  refine ⟨fun zero => (toFloat_zero shape value (.rnd 0) sat zero).1.ratOf_eq, fun k u low high inRange hu => ?_⟩
  obtain ⟨z, code, rounds, inexact, -⟩ := toFloat_inRange shape value (.rnd 0) sat inRange low high
  rw [code.ratOf_eq, hu]
  obtain ⟨t, ht, even⟩ := rounds.whole
  exact ⟨⟨t, ht, even rfl⟩, rounds.nearest (.inl rfl), Bool.eq_iff_iff.2 (inexact.trans decide_eq_true_iff.symm)⟩

/-- Other flags than NX do not matter to what is nearest. -/
theorem nearest_flags {m : Nat} {most : Rat} {r r' : Nat × FlagSet} (near : nearest et m emin most q r) (code : r'.1 = r.1)
    (nx : r'.2.getLsbD 0 = r.2.getLsbD 0) : nearest et m emin most q r' := by
  unfold nearest
  rw [code, nx]
  exact near

/-- The integer types by their formats. -/
theorem intRanges_format {lo hi : Int} (h : (et, lo, hi) ∈ intRanges) :
    ∃ sg w, w ≠ 0 ∧ ffmt et = none ∧ ifmt et = some (sg, w) ∧ intRange sg w = (lo, hi) ∧ lo ≤ hi := by
  simp only [intRanges, List.mem_cons, List.not_mem_nil, or_false, Prod.mk.injEq] at h
  obtain ⟨rfl, rfl, rfl⟩ | ⟨rfl, rfl, rfl⟩ | ⟨rfl, rfl, rfl⟩ | ⟨rfl, rfl, rfl⟩ | ⟨rfl, rfl, rfl⟩ | ⟨rfl, rfl, rfl⟩ | ⟨rfl, rfl, rfl⟩ |
    ⟨rfl, rfl, rfl⟩ := h <;> exact ⟨_, _, by decide, rfl, rfl, rfl, by decide⟩

/-- An integer in the range of an integer type is read back from its code. -/
theorem decodeVal_lowBits {sg : Bool} {w : Nat} {lo hi i : Int} (pos : w ≠ 0) (float : ffmt et = none) (fmt : ifmt et = some (sg, w))
    (range : intRange sg w = (lo, hi)) (low : lo ≤ i) (high : i ≤ hi) : (decodeVal et (lowBits i w)).signed = i := by
  cases sg
  · obtain ⟨rfl, rfl⟩ := Prod.mk.inj range
    push_cast at high
    simp only [decodeVal, float, fmt, signed_ofInt, Nat.mod_eq_of_lt (lowBits_lt i w)]
    exact lowBits_of_range low (by omega)
  · obtain ⟨rfl, rfl⟩ := Prod.mk.inj range
    push_cast at low high
    simp only [decodeVal, float, fmt, signed_ofInt]
    exact signedOf_lowBits pos low (by omega)

/-- A finite value converted to an integer type: the integer nearest to it, or the end of the range on its side (R44, R45). -/
theorem floatToInt_nearest {sg : Bool} {w : Nat} {lo hi : Int} (pos : w ≠ 0) (float : ffmt et = none) (fmt : ifmt et = some (sg, w))
    (range : intRange sg w = (lo, hi)) (ends : lo ≤ hi) (value : IsRat v q) :
    let z := (decodeVal et (floatToInt sg w (.rnd 0) v).1).signed
    let fl := (floatToInt sg w (.rnd 0) v).2
    ((lo : Rat) ≤ q → q ≤ hi → 2 * |q - z| ≤ 1 ∧ (2 * |q - z| = 1 → z % 2 = 0) ∧ fl.getLsbD 0 = decide (q ≠ z)) ∧
      ((hi : Rat) + 1 ≤ q → z = hi ∧ fl.getLsbD 4 = true) ∧ (q ≤ (lo : Rat) - 1 → z = lo ∧ fl.getLsbD 4 = true) := by
  obtain ⟨s, n, d, rfl, hd, rfl⟩ := value
  obtain ⟨rounds, inexact⟩ := roundToInt_rounds (.rnd 0) s n hd
  have near := rounds.nearest (.inl rfl)
  obtain ⟨t, ht, even⟩ := rounds.whole
  have read (i : Int) := decodeVal_lowBits (i := i) pos float fmt range
  rw [floatToInt, range]
  dsimp only
  generalize ratOf (.fin s n d) = q at *
  generalize roundToInt (.rnd 0) s n d = r at *
  obtain ⟨i, x⟩ := r
  rw [mul_one, Int.cast_inj] at ht
  subst ht
  obtain ⟨below, above⟩ := abs_le.1 (show |(i : Rat) - q| ≤ 1 / 2 by linarith)
  have whole {a b : Int} (h : (a : Rat) < b + 1) : a ≤ b := Int.lt_add_one_iff.1 (by exact_mod_cast h)
  have invalid : fNV.getLsbD 4 = true := by decide
  refine ⟨fun low high => ?_, fun large => ?_, fun small => ?_⟩
  · have hlo : lo ≤ i := whole (by linarith)
    have hhi : i ≤ hi := whole (by linarith)
    rw [if_neg hlo.not_gt, if_neg hhi.not_gt, read i hlo hhi, abs_sub_comm]
    refine ⟨near, even rfl, ?_⟩
    by_cases exact_ : q = i <;> cases x <;> simp_all [fNX]
  · have out : hi < i := Int.lt_iff_add_one_le.2 (whole (by push_cast; linarith))
    rw [if_neg (by omega), if_pos out, read hi ends le_rfl]
    exact ⟨rfl, invalid⟩
  · have out : i < lo := Int.lt_iff_add_one_le.2 (whole (by push_cast; linarith))
    rw [if_pos out, read lo le_rfl ends]
    exact ⟨rfl, invalid⟩

end

/-! ## The value of a tile position (R235) -/

/-- The factors of a position are codes or powers of two. -/
theorem scaleFactor_den (f : Word) (sc ze : Nat) : (scaleFactor f sc ze).den ≠ 0 := by
  unfold scaleFactor
  split
  · exact decodeVal_den 1 sc
  · split
    · exact one_ne_zero
    · obtain ⟨s, n, d, power, hd, -⟩ := (isRat_ofInt 1).scale (signedOf sc 16 + ze - 127)
      rwa [power]

theorem intoInt32_eq (p : Int) :
    intoInt32 p = (max (-2 ^ 31) (min (2 ^ 31 - 1) p), if -2 ^ 31 ≤ p ∧ p < 2 ^ 31 then 0 else 4) := by
  rw [intoInt32]
  norm_num
  by_cases low : p < -2147483648
  · rw [if_pos low, if_neg (by omega), show max (-2147483648) (min 2147483647 p) = -2147483648 by omega]
    rfl
  · by_cases high : 2147483648 ≤ p
    · rw [if_neg low, if_pos high, if_neg (by omega), show max (-2147483648) (min 2147483647 p) = 2147483647 by omega]
      rfl
    · rw [if_neg low, if_neg high, if_pos (by omega), show max (-2147483648) (min 2147483647 p) = p by omega]

/-- A partial under finite factors is their exact product (R235). -/
theorem scaledPartial_finite {sa sb : Val} {a b : Rat} (p : Int) (ha : IsRat sa a) (hb : IsRat sb b) :
    IsRat (scaledPartial p sa sb).1 (p * a * b) ∧ (scaledPartial p sa sb).2 = 0 := by
  have product := (((isRat_ofInt p).mul ha).1.mul hb).1
  obtain ⟨s, n, d, rfl, -, -⟩ := ha
  obtain ⟨t, m, e, rfl, -, -⟩ := hb
  exact ⟨product, rfl⟩

/-- A factor that is a NaN makes a NaN (R38, R235). -/
theorem scaledPartial_nan {sa sb : Val} (p : Int) (nan : sa.isNan = true ∨ sb.isNan = true) : (scaledPartial p sa sb).1 = .nan false := by
  rw [scaledPartial, if_pos (by simpa using nan)]

section

variable {c : VCtx} {t : Tile} {r : Regs} {kcm1 k l i : Nat} {row col : SideRecord} {p : Int}
  (hrow : row = sideRecord t r k l (i / t.tc) kcm1) (hcol : col = sideRecord t r k l (t.tr + i % t.tc) kcm1)
  (hp : p = oldTile r k t l i - zeroPoint t.f col.ze * row.sum - zeroPoint t.f row.ze * col.sum +
    (row.kcm1 + 1) * zeroPoint t.f row.ze * zeroPoint t.f col.ze)

include hrow hcol hp

/-- The value of a position is its corrected partial, brought into INT32, under its factors (R235). -/
theorem tileValue_eq : tileValue t r kcm1 k l i =
    ((scaledPartial (max (-2 ^ 31) (min (2 ^ 31 - 1) p)) (scaleFactor t.f row.sc row.ze) (scaleFactor t.f col.sc col.ze)).1,
      (if -2 ^ 31 ≤ p ∧ p < 2 ^ 31 then 0 else 4) |||
        (scaledPartial (max (-2 ^ 31) (min (2 ^ 31 - 1) p)) (scaleFactor t.f row.sc row.ze) (scaleFactor t.f col.sc col.ze)).2) := by
  rw [tileValue]
  dsimp only
  rw [← hrow, ← hcol, Nat.cast_succ, ← hp, intoInt32_eq]

/-- A position under finite factors has the exact product, with OF where its partial leaves INT32 (R235). -/
theorem tileValue_finite (fa : ∃ s n d, scaleFactor t.f row.sc row.ze = .fin s n d)
    (fb : ∃ s n d, scaleFactor t.f col.sc col.ze = .fin s n d) :
    IsRat (tileValue t r kcm1 k l i).1 ((max (-2 ^ 31) (min (2 ^ 31 - 1) p) : Int) * ratOf (scaleFactor t.f row.sc row.ze) *
      ratOf (scaleFactor t.f col.sc col.ze)) ∧ (tileValue t r kcm1 k l i).2 = if -2 ^ 31 ≤ p ∧ p < 2 ^ 31 then 0 else 4 := by
  obtain ⟨value, quiet⟩ := scaledPartial_finite (max (-2 ^ 31) (min (2 ^ 31 - 1) p)) 
    (isRat_self (scaleFactor_den _ _ _) fa) (isRat_self (scaleFactor_den _ _ _) fb)
  rw [tileValue_eq hrow hcol hp, quiet]
  exact ⟨value, BitVec.or_zero⟩

end

theorem getLsbD_or_of_clear {a : FlagSet} {j : Nat} (clear : a.getLsbD j = false) (b : FlagSet) : (a ||| b).getLsbD j = b.getLsbD j := by
  rw [BitVec.getLsbD_or, clear, Bool.false_or]

/-- Under RND 0 a drain rounds a value to the nearest (R40, R236). -/
theorem drainOne_nearest {c : VCtx} {t : Tile} {r : Regs} {kcm1 k l i : Nat} {x : Rat} (value : IsRat (tileValue t r kcm1 k l i).1 x)
    (flags : (tileValue t r kcm1 k l i).2.getLsbD 0 = false ∧ (tileValue t r kcm1 k l i).2.getLsbD 4 = false)
    (rnd : slotRnd c.slot = 0) :
    (∀ (b m : Nat) (emin emax : Int), (c.et, b, m, emin, emax) ∈ floatTypes →
      nearest c.et m emin ((2 - (2 : Rat) ^ (-(m : Int))) * (2 : Rat) ^ emax) x (drainOne c t r kcm1 k l i)) ∧
    (∀ lo hi : Int, (c.et, lo, hi) ∈ intRanges → let z := (decodeVal c.et (drainOne c t r kcm1 k l i).1).signed
      let fl := (drainOne c t r kcm1 k l i).2
      ((lo : Rat) ≤ x → x ≤ hi → 2 * |x - z| ≤ 1 ∧ (2 * |x - z| = 1 → z % 2 = 0) ∧ fl.getLsbD 0 = decide (x ≠ z)) ∧
      ((hi : Rat) + 1 ≤ x → z = hi ∧ fl.getLsbD 4 = true) ∧ (x ≤ (lo : Rat) - 1 → z = lo ∧ fl.getLsbD 4 = true)) := by
  have mode : drainMode (slotRnd c.slot) (phaseOf r k) i = .rnd 0 := by rw [rnd]; rfl
  rw [drainOne]
  dsimp only
  rw [mode]
  refine ⟨fun b m emin emax type => ?_, fun lo hi type => ?_⟩
  · obtain ⟨f, span, shape, rfl, -⟩ := floatTypes_shape type
    rw [most_eq, convert, shape.fmt]
    exact nearest_flags (toFloat_nearest shape value _) rfl (getLsbD_or_of_clear flags.1 _)
  · obtain ⟨sg, w, pos, float, fmt, range, ends⟩ := intRanges_format type
    have code : convert 0 c.et (.rnd 0) (slotSat c.slot) (tileValue t r kcm1 k l i).1 =
        floatToInt sg w (.rnd 0) (tileValue t r kcm1 k l i).1 := by
      rw [convert, float, fmt]
      rfl
    rw [code, getLsbD_or_of_clear flags.1, getLsbD_or_of_clear flags.2]
    exact floatToInt_nearest pos float fmt range ends value

/-! ## Folds (R49, R237) -/

/-- A fold of finite values rounds their sum to FP32 (R49, R237). -/
theorem foldOne_nearest {acc : Nat} {v : Val} (finite : ∃ s n d, decodeVal 0 acc = .fin s n d) (value : IsRat v (ratOf v)) :
    nearest 0 23 (-126) ((2 - (2 : Rat) ^ (-23 : Int)) * (2 : Rat) ^ (127 : Int)) (ratOf (decodeVal 0 acc) + ratOf v)
      (foldOne (.rnd 0) (acc, 0) (v, 0)) := by
  obtain ⟨f, span, shape, mantissa, -⟩ := floatTypes_shape (et := 0) (b := 32) (m := 23) (emin := -126) (emax := 127) (by decide)
  obtain ⟨sum, quiet⟩ := (isRat_decodeVal finite).add value (RMode.isDown (.rnd 0))
  have near := toFloat_nearest shape sum false
  rw [mantissa, ← most_eq] at near
  refine nearest_flags near ?_ ?_
  · simp only [foldOne, convert, shape.fmt]
  · simp only [foldOne, convert, shape.fmt, quiet]
    exact congrArg (fun fl : FlagSet => fl.getLsbD 0) BitVec.zero_or

/-- The flags of a fold join those of its operands. -/
theorem foldOne_flags (m : RMode) (acc : Nat) (v : Val) (f0 f1 : FlagSet) :
    (foldOne m (acc, f0) (v, f1)).2 = f0 ||| f1 ||| (foldOne m (acc, 0) (v, 0)).2 := by
  have none_ (x : FlagSet) : 0 ||| 0 ||| x = x := BitVec.zero_or
  rw [foldOne, foldOne]
  dsimp only
  rw [BitVec.or_assoc (f0 ||| f1), BitVec.or_assoc (0 ||| 0), none_]

/-! ## The scale of a group (R46) -/

end Sys2Proof.Machine
end

section
/-! PROOF. The scale of a group, and the codes of its elements over that scale (R44, R46, R238). -/

namespace Sys2Proof.Machine

/-! ## The largest magnitude of a group -/

/-- The largest magnitude among the finite values of a list, or 0 when it holds none. -/
def LargestOf (vs : List Val) (a : Rat) : Prop :=
  (∀ v ∈ vs, (∃ s n d, v = .fin s n d) → |ratOf v| ≤ a) ∧
    ((∃ v ∈ vs, (∃ s n d, v = .fin s n d) ∧ |ratOf v| = a) ∨ (a = 0 ∧ ∀ v ∈ vs, ¬∃ s n d, v = .fin s n d))

theorem LargestOf.nonneg {vs : List Val} {a : Rat} (h : LargestOf vs a) : 0 ≤ a := by
  obtain ⟨v, -, -, rfl⟩ | ⟨rfl, -⟩ := h.2
  · exact abs_nonneg _
  · exact le_rfl

theorem LargestOf.unique {vs : List Val} {a b : Rat} (ha : LargestOf vs a) (hb : LargestOf vs b) : a = b := by
  have le {a b : Rat} (ha : LargestOf vs a) (hb : LargestOf vs b) : a ≤ b := by
    obtain ⟨v, hv, fin, rfl⟩ | ⟨rfl, -⟩ := ha.2
    · exact hb.1 v hv fin
    · exact hb.nonneg
  exact le_antisymm (le ha hb) (le hb ha)

theorem LargestOf.concat_other {vs : List Val} {a : Rat} {v : Val} (h : LargestOf vs a) (other : ¬∃ s n d, v = .fin s n d) :
    LargestOf (vs ++ [v]) a := by
  obtain ⟨bound, attained | ⟨rfl, none_⟩⟩ := h
  · obtain ⟨w, hw, att⟩ := attained
    exact ⟨List.forall_mem_append.2 ⟨bound, List.forall_mem_singleton.2 fun fin => absurd fin other⟩,
      .inl ⟨w, List.mem_append_left _ hw, att⟩⟩
  · exact ⟨List.forall_mem_append.2 ⟨bound, List.forall_mem_singleton.2 fun fin => absurd fin other⟩,
      .inr ⟨rfl, List.forall_mem_append.2 ⟨none_, List.forall_mem_singleton.2 other⟩⟩⟩

theorem LargestOf.concat_fin {vs : List Val} {a : Rat} {v : Val} (h : LargestOf vs a) (fin : ∃ s n d, v = .fin s n d) :
    LargestOf (vs ++ [v]) (max a |ratOf v|) := by
  refine ⟨List.forall_mem_append.2 ⟨fun w hw fin => le_max_of_le_left (h.1 w hw fin),
    List.forall_mem_singleton.2 fun _ => le_max_right _ _⟩, .inl ?_⟩
  obtain le | ge := le_total a |ratOf v|
  · exact ⟨v, by simp, fin, (max_eq_right le).symm⟩
  · rw [max_eq_left ge]
    obtain ⟨w, hw, att⟩ | ⟨rfl, -⟩ := h.2
    · exact ⟨w, List.mem_append_left _ hw, att⟩
    · exact ⟨v, by simp, fin, le_antisymm ge (abs_nonneg _)⟩

theorem amaxOf_concat_fin (vs : List Val) (s : Bool) (n d : Nat) : amaxOf (vs ++ [.fin s n d]) =
    if (amaxOf vs).1 * d < n * (amaxOf vs).2 then (n, d) else amaxOf vs := by
  rw [amaxOf, List.foldl_append]
  rfl

theorem amaxOf_concat_other (vs : List Val) {v : Val} (other : ¬∃ s n d, v = .fin s n d) : amaxOf (vs ++ [v]) = amaxOf vs := by
  rw [amaxOf, List.foldl_append]
  cases v with
  | fin s n d => exact absurd ⟨s, n, d, rfl⟩ other
  | inf s => rfl
  | nan g => rfl

/-- The largest magnitude of a group, as a fraction (R46). -/
theorem amaxOf_largest (vs : List Val) (den : ∀ v ∈ vs, v.den ≠ 0) :
    0 < (amaxOf vs).2 ∧ LargestOf vs ((amaxOf vs).1 / (amaxOf vs).2) := by
  induction vs using List.reverseRecOn with
  | nil => exact ⟨one_pos, by simp [amaxOf, LargestOf]⟩
  | append_singleton vs v ih =>
    obtain ⟨pos, largest⟩ := ih fun v hv => den v (by simp [hv])
    by_cases fin : ∃ s n d, v = .fin s n d
    · have largest := largest.concat_fin fin
      obtain ⟨s, n, d, rfl⟩ := fin
      have hd : 0 < d := Nat.pos_of_ne_zero (den (.fin s n d) (by simp))
      rw [ratOf_fin, abs_withSign s (by positivity)] at largest
      have less : (amaxOf vs).1 * d < n * (amaxOf vs).2 ↔ ((amaxOf vs).1 : Rat) / (amaxOf vs).2 < n / d := by
        rw [div_lt_div_iff₀ (by exact_mod_cast pos) (by exact_mod_cast hd)]
        exact_mod_cast Iff.rfl
      rw [amaxOf_concat_fin]
      by_cases lt : (amaxOf vs).1 * d < n * (amaxOf vs).2
      · rw [if_pos lt]
        rw [max_eq_right (less.1 lt).le] at largest
        exact ⟨hd, largest⟩
      · rw [if_neg lt]
        rw [max_eq_left (not_lt.1 (mt less.2 lt))] at largest
        exact ⟨pos, largest⟩
    · rw [amaxOf_concat_other vs fin]
      exact ⟨pos, largest.concat_other fin⟩

/-! ## Floating-point targets (R31, R46) -/

/-- The numbers of a target are those of its format. -/
theorem quantTypes_shape {et m : Nat} {emin emax : Int} {most : Rat} (h : (et, m, emin, emax, most) ∈ quantTypes) : ∃ f span top,
    FloatShape et f emin emax span top ∧ f.m = m ∧ most = top * 2 ^ (emax - m) ∧ intTarget et = false ∧ emaxOf et = emax := by
  simp only [quantTypes, List.mem_cons, List.not_mem_nil, or_false, Prod.mk.injEq] at h
  obtain ⟨rfl, rfl, rfl, rfl, rfl⟩ | ⟨rfl, rfl, rfl, rfl, rfl⟩ | ⟨rfl, rfl, rfl, rfl, rfl⟩ | ⟨rfl, rfl, rfl, rfl, rfl⟩ |
    ⟨rfl, rfl, rfl, rfl, rfl⟩ := h
  · exact ⟨_, 14, 14, ⟨rfl, by decide, by decide, by decide, by decide, by decide, by decide, by decide, by decide, by decide⟩, rfl,
      by norm_num, rfl, rfl⟩
  · exact ⟨_, 29, 7, ⟨rfl, by decide, by decide, by decide, by decide, by decide, by decide, by decide, by decide, by decide⟩, rfl,
      by norm_num, rfl, rfl⟩
  · exact ⟨_, 2, 15, ⟨rfl, by decide, by decide, by decide, by decide, by decide, by decide, by decide, by decide, by decide⟩, rfl,
      by norm_num, rfl, rfl⟩
  · exact ⟨_, 6, 7, ⟨rfl, by decide, by decide, by decide, by decide, by decide, by decide, by decide, by decide, by decide⟩, rfl,
      by norm_num, rfl, rfl⟩
  · exact ⟨_, 2, 3, ⟨rfl, by decide, by decide, by decide, by decide, by decide, by decide, by decide, by decide, by decide⟩, rfl,
      by norm_num, rfl, rfl⟩

/-- The scale of a group with a floating-point target is a power of two, by the binade of its largest magnitude (R46). -/
theorem groupScale_float {et : Nat} {vs : List Val} {amax : Rat} (den : ∀ v ∈ vs, v.den ≠ 0) (largest : LargestOf vs amax)
    (target : intTarget et = false) : ∃ k : Int, ((groupScale et vs).num : Rat) / (groupScale et vs).den = 2 ^ k ∧
      0 < (groupScale et vs).num ∧ 0 < (groupScale et vs).den ∧ (groupScale et vs).code = (k + 127).toNat ∧
      (amax = 0 → k = 0) ∧ ∀ e : Int, (2 : Rat) ^ e ≤ amax → amax < 2 ^ (e + 1) → k = max (-127) (min 127 (e - emaxOf et)) := by
  obtain ⟨pos, largest'⟩ := amaxOf_largest vs den
  have hpos : (0 : Rat) < (amaxOf vs).2 := by exact_mod_cast pos
  obtain rfl := largest'.unique largest
  rw [groupScale]
  dsimp only
  rw [target, if_neg Bool.false_ne_true]
  refine ⟨_, pow2_ratio _, (pow2_pos _).1, (pow2_pos _).2, rfl, fun zero => ?_, fun e low high => ?_⟩
  · rw [div_eq_zero_iff, or_iff_left hpos.ne', Nat.cast_eq_zero] at zero
    rw [if_pos zero]
  · have nonzero : (amaxOf vs).1 ≠ 0 := by
      intro zero
      rw [zero, Nat.cast_zero, zero_div] at low
      exact absurd low (not_le.2 (by positivity))
    obtain ⟨low', high'⟩ := floorLog2_binade (Nat.pos_of_ne_zero nonzero) pos
    rw [if_neg nonzero, binade_unique low' high' low high]

/-- NX and no other of the flags up to UF. -/
theorem flags_nx : ∀ fl : FlagSet, fl.toNat < 4 → fl.getLsbD 0 = true → fl.getLsbD 1 = false → fl = 1 := by decide

section

variable {et : Nat} {f : FFmt} {emin emax : Int} {span top : Nat} (shape : FloatShape et f emin emax span top) {v : Val} {q : Rat}
  (value : IsRat v q) (m : RMode)

include shape value

/-- Under SAT a conversion raises OF only for a magnitude that is too large, and then gives the largest of its sign (R43). -/
theorem toFloat_sat : (toFloat et f m true v).2.toNat < 4 ∨
    toFloat et f m true v = (signCode f (decide (q < 0)) f.maxCode, 37) := by
  by_cases zero : q = 0
  · rw [(toFloat_zero shape value m true zero).2]
    exact .inl (by decide)
  · obtain ⟨n, d, -, hd, -, -, eq⟩ := toFloat_eq value m true zero
    by_cases large : f.maxCode < magCode f emin m (decide (q < 0)) n d
    · obtain ⟨tiny, -, code⟩ := roundMag_eq shape m true (decide (q < 0)) n d
      rw [eq, code, if_pos large, overflowCode_sat]
      exact .inr rfl
    · obtain ⟨fl, code, few, -⟩ := roundMag_inRange shape true hd (not_lt.1 large)
      rw [eq, code]
      exact .inl few

/-- A number above the largest of a format gives the largest under SAT, with OF or, when it is rounded down to it, NX alone (R43). -/
theorem toFloat_above (above : top * 2 ^ (emax - f.m) < |q|) :
    ratOf (decodeVal et (toFloat et f m true v).1) = withSign (decide (q < 0)) (top * 2 ^ (emax - f.m)) ∧
      ((toFloat et f m true v).2 = 37 ∨ (toFloat et f m true v).2 = 1) := by
  have most : (0 : Rat) ≤ top * 2 ^ (emax - f.m) := by positivity
  have nonzero : q ≠ 0 := by
    rintro rfl
    rw [abs_zero] at above
    exact absurd above most.not_gt
  obtain ⟨n, d, hn, hd, mag, -, eq⟩ := toFloat_eq value m true nonzero
  rw [mag] at above
  by_cases large : f.maxCode < magCode f emin m (decide (q < 0)) n d
  · obtain ⟨tiny, -, code⟩ := roundMag_eq shape m true (decide (q < 0)) n d
    rw [eq, code, if_pos large, overflowCode_sat]
    exact ⟨(decodeVal_maxCode shape _).ratOf_eq, .inl rfl⟩
  · obtain ⟨fl, code, few, inexact, tiny⟩ := roundMag_inRange shape true hd (not_lt.1 large)
    obtain ⟨last, full⟩ := magCode_top shape hn hd above (not_lt.1 large)
    have binades := shape.binades
    have place : lastPlace f emin (floorLog2 n d) = emax - f.m := by rw [lastPlace]; omega
    have unit : (0 : Rat) < 2 ^ (emax - (f.m : Int)) := by positivity
    rw [place, full] at inexact
    have nx := inexact.2 ((lt_div_iff₀ unit).2 above).ne'
    have notTiny : fl.getLsbD 1 = false := by
      by_contra h
      have := tiny (by simpa using h)
      omega
    rw [eq, code, magCode_last shape last, full, ← shape.max]
    exact ⟨(decodeVal_maxCode shape _).ratOf_eq, .inr (flags_nx fl few nx notTiny)⟩

end

/-- The flags of an element of a group with a floating-point target: a clamped element is merely inexact (R46). -/
def groupFlags (fl : FlagSet) : FlagSet := if fl &&& fOF = fOF then fNX else fl

theorem groupFlags_few : ∀ fl : FlagSet, fl.toNat < 4 → groupFlags fl = fl := by decide

theorem groupFlags_sat : groupFlags 37 = 1 := by decide

/-- The value of an element over the scale of its group. -/
theorem isRat_overScale {s : Bool} {n d a b : Nat} (hd : d ≠ 0) (ha : 0 < a) :
    IsRat (.fin s (n * b) (d * a)) (ratOf (.fin s n d) / ((a : Rat) / b)) := by
  refine ⟨_, _, _, rfl, Nat.mul_ne_zero hd ha.ne', ?_⟩
  rw [ratOf_fin, ratOf_fin, Nat.cast_mul, Nat.cast_mul, ← div_div_div_eq]
  cases s <;> simp [withSign, neg_div]

theorem groupCode_float {et : Nat} {f : FFmt} (fmt : ffmt et = some f) (target : intTarget et = false) (m : RMode) (g : GroupScale)
    (s : Bool) (n d : Nat) : groupCode et m g (.fin s n d) =
      ((toFloat et f m true (.fin s (n * g.den) (d * g.num))).1, groupFlags (toFloat et f m true (.fin s (n * g.den) (d * g.num))).2) := by
  simp only [groupCode, target, Bool.false_eq_true, if_false, convert, fmt]
  rfl

/-- An element over the scale of its group is rounded to the nearest number of a floating-point target, or clamped to the largest
(R46). -/
theorem groupCode_nearest {et : Nat} {f : FFmt} {emin emax : Int} {span top : Nat} (shape : FloatShape et f emin emax span top)
    (target : intTarget et = false) {g : GroupScale} (hg : 0 < g.num) (s : Bool) (n : Nat) {d : Nat} (hd : d ≠ 0) {q : Rat}
    (hq : q = ratOf (.fin s n d) / ((g.num : Rat) / g.den)) :
    let z := groupCode et (.rnd 0) g (.fin s n d)
    nearest et f.m emin (top * 2 ^ (emax - f.m)) q z ∧ (top * 2 ^ (emax - f.m) < |q| →
      ratOf (decodeVal et z.1) = (if q < 0 then -(top * 2 ^ (emax - f.m) : Rat) else top * 2 ^ (emax - f.m)) ∧ z.2 = 1) := by
  have value : IsRat (.fin s (n * g.den) (d * g.num)) q := hq ▸ isRat_overScale hd hg
  intro z
  have hz : z = _ := groupCode_float shape.fmt target (.rnd 0) g s n d
  rw [hz]
  refine ⟨nearest_flags (toFloat_nearest shape value true) rfl ?_, fun above => ?_⟩
  · obtain few | top_ := toFloat_sat shape value (.rnd 0)
    · rw [groupFlags_few _ few]
    · rw [top_, groupFlags_sat]
      exact (by decide : (1 : FlagSet).getLsbD 0 = (37 : FlagSet).getLsbD 0)
  · obtain ⟨code, flags⟩ := toFloat_above shape value (.rnd 0) above
    refine ⟨by simpa [withSign] using code, ?_⟩
    obtain flags | flags := flags <;> rw [flags]
    · exact groupFlags_sat
    · exact groupFlags_few 1 (by decide)

/-! ## Integer targets (R46) -/

/-- FP16, the format of the scale of a group with an integer target. -/
def fp16 : FFmt := { e := 5, m := 10, bias := 15, maxCode := 0x7BFF }

theorem fp16_shape : FloatShape 1 fp16 (-14) 15 29 2047 :=
  ⟨rfl, by decide, by decide, by decide, by decide, by decide, by decide, by decide, by decide, by decide⟩

/-- The code of the scale before it is clamped: the largest magnitude over that of the target, rounded to FP16. -/
def scaleCode (et : Nat) (vs : List Val) : Nat :=
  (toFloat 1 fp16 (.rnd 0) false (.fin false (amaxOf vs).1 ((amaxOf vs).2 * qmaxOf et))).1

/-- The code of the scale, clamped to the finite numbers other than 0. -/
def clampScale (c : Nat) : Nat := if c = 0 then 1 else if c = 0x7C00 then 0x7BFF else c

theorem signCode_false (f : FFmt) (c : Nat) : signCode f false c = c := by simp [signCode, bit]

theorem fp16_one : ratOf (decodeVal 1 0x3C00) = 1 := by
  rw [show decodeVal 1 0x3C00 = .fin false 1024 1024 by decide, ratOf_fin]
  norm_num [withSign]

theorem fp16_smallest : ratOf (decodeVal 1 1) = 2 ^ (-24 : Int) := by
  rw [show decodeVal 1 1 = .fin false 1 (2 ^ 24) by decide, ratOf_fin]
  norm_num [withSign]

theorem fp16_largest : ratOf (decodeVal 1 0x7BFF) = 65504 := by
  rw [show decodeVal 1 0x7BFF = .fin false 65504 1 by decide, ratOf_fin]
  norm_num [withSign]

/-- A code up to that of the largest number is that of a number without a sign. -/
theorem decodeVal_fp16 {c : Nat} (pos : c ≠ 0) (le : c ≤ 0x7BFF) : ∃ n d, 0 < n ∧ 0 < d ∧ decodeVal 1 c = .fin false n d := by
  obtain ⟨n, d, hd, value, ratio⟩ := decodeVal_signCode fp16_shape false (c := c) le
  refine ⟨n, d, Nat.pos_of_ne_zero ?_, Nat.pos_of_ne_zero hd, by rwa [signCode_false] at value⟩
  rintro rfl
  rw [Nat.cast_zero, zero_div, codeMag, eq_comm, mul_eq_zero, or_iff_left (by positivity), Nat.cast_eq_zero, Nat.shiftRight_eq_div_pow] at ratio
  split at ratio
  · next low =>
    have := Nat.div_add_mod c (2 ^ fp16.m)
    rw [low, ratio] at this
    omega
  · have : 0 < 2 ^ fp16.m := by positivity
    omega

/-- What is too large becomes the largest number or, without SAT, infinity (R43). -/
theorem overflowCode_code (et : Nat) (f : FFmt) (m : RMode) (sat neg : Bool) :
    (overflowCode et f m sat neg).1 = f.maxCode ∨ (sat = false ∧ (overflowCode et f m sat neg).1 = infCode f) := by
  cases sat
  · by_cases clamps : et = 20 ∨ noSpecials et = true ∨ false = true
    · unfold overflowCode
      rw [if_pos clamps]
      exact .inl rfl
    · unfold overflowCode
      rw [if_neg clamps]
      dsimp only
      split_ifs
      · exact .inr ⟨rfl, rfl⟩
      · exact .inl rfl
  · rw [overflowCode_sat]
    exact .inl rfl

/-- The code of a finite number is a magnitude up to the largest, or without SAT infinity, under its sign. -/
theorem toFloat_code {et : Nat} {f : FFmt} {emin emax : Int} {span top : Nat} (shape : FloatShape et f emin emax span top) (m : RMode)
    (sat s : Bool) (n d : Nat) : ∃ c, (toFloat et f m sat (.fin s n d)).1 = signCode f s c ∧ (c ≤ f.maxCode ∨ (sat = false ∧ c = infCode f)) := by
  by_cases zero : n = 0
  · exact ⟨0, by rw [toFloat, if_pos zero], .inl (Nat.zero_le _)⟩
  · refine ⟨(roundMag et f m sat s n d).1, by rw [toFloat, if_neg zero], ?_⟩
    obtain ⟨tiny, -, eq⟩ := roundMag_eq shape m sat s n d
    rw [eq]
    split
    · exact (overflowCode_code et f m sat s).imp_left le_of_eq
    · next fits => exact .inl (not_lt.1 fits)

theorem scaleCode_le (et : Nat) (vs : List Val) : scaleCode et vs ≤ 0x7C00 := by
  obtain ⟨c, code, le | ⟨-, inf⟩⟩ := toFloat_code fp16_shape (.rnd 0) false false (amaxOf vs).1 ((amaxOf vs).2 * qmaxOf et)
  · rw [scaleCode, code, signCode_false]
    exact le.trans (by decide)
  · rw [scaleCode, code, signCode_false, inf]
    decide

theorem groupScale_int_code {et : Nat} {vs : List Val} (target : intTarget et = true) (nonzero : (amaxOf vs).1 ≠ 0) :
    (groupScale et vs).code = clampScale (scaleCode et vs) := by
  rw [groupScale]
  dsimp only
  rw [if_pos target, if_neg nonzero]
  split <;> rfl

/-- The scale of a group with an integer target (R46). -/
theorem groupScale_int {et : Nat} {vs : List Val} (target : intTarget et = true) (nonzero : (amaxOf vs).1 ≠ 0)
    (le : clampScale (scaleCode et vs) ≤ 0x7BFF) : ∃ n d, 0 < n ∧ 0 < d ∧ decodeVal 1 (clampScale (scaleCode et vs)) = .fin false n d ∧
      groupScale et vs = ⟨clampScale (scaleCode et vs), n, d, if clampScale (scaleCode et vs) = scaleCode et vs then 0 else fOF⟩ := by
  obtain ⟨n, d, hn, hd, value⟩ := decodeVal_fp16 (by unfold clampScale; split_ifs <;> omega) le
  refine ⟨n, d, hn, hd, value, ?_⟩
  rw [groupScale]
  dsimp only
  rw [if_pos target, if_neg nonzero]
  have value' := value
  unfold clampScale scaleCode fp16 at value'
  rw [value']
  rfl

section

variable {f : FFmt} {emin : Int} {m : RMode} {neg : Bool} {n d : Nat} (hn : 0 < n) (hd : 0 < d)

include hn hd

/-- A magnitude from the smallest number on does not vanish. -/
theorem magCode_ne_zero (low : (2 : Rat) ^ (emin - f.m) ≤ (n : Rat) / d) : magCode f emin m neg n d ≠ 0 := by
  have binade := le_floorLog2 hn hd low
  have units : (1 : Rat) ≤ (n : Rat) / d / 2 ^ lastPlace f emin (floorLog2 n d) := by
    rw [le_div_iff₀ (by positivity), one_mul]
    refine le_trans (zpow_le_zpow_right₀ (by norm_num) ?_) (floorLog2_binade hn hd).1
    rw [lastPlace]
    omega
  obtain ⟨below, -⟩ := abs_lt.1 (roundUnits_rounds m neg n hd (lastPlace f emin (floorLog2 n d))).1.near
  rw [← significand] at below
  have positive : (0 : Rat) < significand f emin m neg n d := by linarith
  have positive : 0 < significand f emin m neg n d := by exact_mod_cast positive
  rw [magCode]
  omega

/-- A magnitude below half the smallest number vanishes under RND 0. -/
theorem magCode_eq_zero (small : (n : Rat) / d < 2 ^ (emin - f.m - 1)) : magCode f emin (.rnd 0) neg n d = 0 := by
  have binade := floorLog2_lt hn hd small
  have place : lastPlace f emin (floorLog2 n d) = emin - f.m := by
    rw [lastPlace]
    omega
  have units : (n : Rat) / d / 2 ^ lastPlace f emin (floorLog2 n d) < 1 / 2 := by
    rw [div_lt_iff₀ (by positivity), place]
    exact small.trans_eq (by rw [zpow_sub_one₀ (by norm_num)]; ring)
  have near := (roundUnits_rounds (.rnd 0) neg n hd (lastPlace f emin (floorLog2 n d))).1.nearest (.inl rfl)
  rw [← significand, ← le_div_iff₀' two_pos, abs_le] at near
  obtain ⟨-, above⟩ := near
  have below : (significand f emin (.rnd 0) neg n d : Rat) < (1 : Nat) := by
    rw [Nat.cast_one]
    linarith
  have none_ : significand f emin (.rnd 0) neg n d = 0 := Nat.lt_one_iff.1 (Nat.cast_lt.1 below)
  rw [magCode, none_, show (max (floorLog2 n d) emin - emin).toNat = 0 by omega, zero_mul]

end

/-- The code of the scale is 0 below half the smallest number, that of infinity past the largest binade, and else that of the nearest
number (R42, R43, R46). -/
theorem scaleCode_cases {et : Nat} {vs : List Val} {x : Rat} (hx : x = (amaxOf vs).1 / (amaxOf vs).2 / qmaxOf et) (hd : 0 < (amaxOf vs).2)
    (hq : 0 < qmaxOf et) (pos : 0 < x) :
      ((2 : Rat) ^ (-24 : Int) ≤ x → x ≤ 65504 → scaleCode et vs ≠ 0 ∧ scaleCode et vs ≤ 0x7BFF ∧
        ∃ fl, nearest 1 10 (-14) 65504 x (scaleCode et vs, fl)) ∧
      (65536 ≤ x → scaleCode et vs = 0x7C00) ∧ (x < (2 : Rat) ^ (-25 : Int) → scaleCode et vs = 0) := by
  have value : IsRat (.fin false (amaxOf vs).1 ((amaxOf vs).2 * qmaxOf et)) x := by
    rw [hx, div_div, ← Nat.cast_mul]
    exact isRat_fin false _ (Nat.mul_ne_zero hd.ne' hq.ne')
  obtain ⟨n, d, hn, hd', mag, -, eq⟩ := toFloat_eq (et := 1) (f := fp16) value (.rnd 0) false pos.ne'
  rw [decide_eq_false pos.le.not_gt, abs_of_pos pos] at *
  have code : scaleCode et vs = if fp16.maxCode < magCode fp16 (-14) (.rnd 0) false n d then 0x7C00
      else magCode fp16 (-14) (.rnd 0) false n d := by
    obtain ⟨tiny, -, round_⟩ := roundMag_eq fp16_shape (.rnd 0) false false n d
    rw [scaleCode, eq, round_, signCode_false]
    split <;> rfl
  have top_ : ((2047 : Nat) : Rat) * 2 ^ ((15 : Int) - fp16.m) = 65504 := by norm_num [fp16]
  have max_ : fp16.maxCode = 0x7BFF := rfl
  refine ⟨fun low high => ?_, fun large => ?_, fun small => ?_⟩
  · have fits := magCode_inRange fp16_shape hn hd' (m := .rnd 0) (neg := false) (by rwa [top_, ← mag])
    have near := toFloat_nearest fp16_shape value false
    rw [top_] at near
    refine ⟨?_, by rwa [code, if_neg fits.not_gt], ⟨_, near⟩⟩
    rw [code, if_neg fits.not_gt]
    exact magCode_ne_zero hn hd' (mag ▸ low)
  · rw [code, if_pos (magCode_tooLarge fp16_shape hn hd' (by rw [← mag]; norm_num; exact large))]
  · rw [code, magCode_eq_zero hn hd' (mag ▸ small), if_neg (Nat.not_lt_zero _)]

/-- The integer targets by their formats. -/
theorem intTarget_format {et : Nat} (h : et ∈ [16, 18]) : ∃ w, w ≠ 0 ∧ intTarget et = true ∧ ffmt et = none ∧
    ifmt et = some (true, w) ∧ (etypeBits et).getD 8 = w ∧ 0 < qmaxOf et ∧ qmaxOf et = (if et = 16 then 127 else 7) ∧
    intRange true w = (-(qmaxOf et : Int) - 1, (qmaxOf et : Int)) := by
  simp only [List.mem_cons, List.not_mem_nil, or_false] at h
  obtain rfl | rfl := h <;> exact ⟨_, by decide, rfl, rfl, rfl, rfl, by decide, rfl, by decide⟩

theorem groupScale_zero {et : Nat} {vs : List Val} (target : intTarget et = true) (zero : (amaxOf vs).1 = 0) :
    groupScale et vs = ⟨0x3C00, 1, 1, 0⟩ := by
  rw [groupScale]
  dsimp only
  rw [if_pos target, if_pos zero]

/-- The scale of a group with an integer target is a finite number other than 0, the value of its code (R46). -/
theorem groupScale_code {et : Nat} {vs : List Val} {amax : Rat} (h : et ∈ [16, 18]) (den : ∀ v ∈ vs, v.den ≠ 0)
    (largest : LargestOf vs amax) : 0 < (groupScale et vs).num ∧ 0 < (groupScale et vs).den ∧
      ((groupScale et vs).num : Rat) / (groupScale et vs).den = ratOf (decodeVal 1 (groupScale et vs).code) ∧
      (amax = 0 → groupScale et vs = ⟨0x3C00, 1, 1, 0⟩) ∧
      (0 < amax → (groupScale et vs).code = clampScale (scaleCode et vs) ∧
        (groupScale et vs).flags = if clampScale (scaleCode et vs) = scaleCode et vs then 0 else fOF) := by
  obtain ⟨w, -, target, -⟩ := intTarget_format h
  obtain ⟨pos, largest'⟩ := amaxOf_largest vs den
  have hpos : (0 : Rat) < (amaxOf vs).2 := by exact_mod_cast pos
  obtain rfl := largest'.unique largest
  have zero_iff : ((amaxOf vs).1 : Rat) / (amaxOf vs).2 = 0 ↔ (amaxOf vs).1 = 0 := by
    rw [div_eq_zero_iff, or_iff_left hpos.ne', Nat.cast_eq_zero]
  by_cases zero : (amaxOf vs).1 = 0
  · have one : ((1 : Nat) : Rat) / (1 : Nat) = ratOf (decodeVal 1 0x3C00) := by rw [fp16_one, Nat.cast_one, div_one]
    rw [groupScale_zero target zero]
    exact ⟨one_pos, one_pos, one, fun _ => rfl, fun positive => absurd (zero_iff.2 zero) positive.ne'⟩
  · have le := scaleCode_le et vs
    obtain ⟨n, d, hn, hd, value, eq⟩ := groupScale_int target zero (by unfold clampScale; split_ifs <;> omega)
    rw [eq]
    exact ⟨hn, hd, by rw [value, ratOf_fin]; rfl, fun none_ => absurd (zero_iff.1 none_) zero, fun _ => ⟨rfl, rfl⟩⟩

/-- An element over the scale of its group is rounded to the nearest integer, or clamped to the largest of the target (R45, R46). -/
theorem groupCode_int {et : Nat} (h : et ∈ [16, 18]) {g : GroupScale} (hg : 0 < g.num) (s : Bool) (n : Nat) {d : Nat}
    (hd : d ≠ 0) {q : Rat} (hq : q = ratOf (.fin s n d) / ((g.num : Rat) / g.den)) {qmax : Nat} (hm : qmax = if et = 16 then 127 else 7) :
    let z := groupCode et (.rnd 0) g (.fin s n d)
    let i := (decodeVal et z.1).signed
    (|q| ≤ qmax → 2 * |q - i| ≤ 1 ∧ (2 * |q - i| = 1 → i % 2 = 0) ∧ z.2 = (if q = i then 0 else 1)) ∧
      ((qmax : Rat) < |q| → i = (if q < 0 then -(qmax : Int) else qmax) ∧ z.2 = 1) := by
  obtain ⟨w, pos, target, float, fmt, width, -, qmax_, range⟩ := intTarget_format h
  rw [← hm] at qmax_
  rw [qmax_] at range
  have value : IsRat (.fin s (n * g.den) (d * g.num)) q := hq ▸ isRat_overScale hd hg
  obtain ⟨rounds, inexact⟩ := roundToInt_rounds (.rnd 0) s (n * g.den) (Nat.mul_ne_zero hd hg.ne')
  have near := rounds.nearest (.inl rfl)
  obtain ⟨t, ht, even⟩ := rounds.whole
  have read (i : Int) := decodeVal_lowBits (i := i) pos float fmt range
  rw [groupCode]
  dsimp only
  rw [if_pos target, qmax_, width]
  rw [value.ratOf_eq] at *
  generalize roundToInt (.rnd 0) s (n * g.den) (d * g.num) = r at *
  obtain ⟨i, x⟩ := r
  rw [mul_one, Int.cast_inj] at ht
  subst ht
  obtain ⟨below, above⟩ := abs_le.1 (show |(i : Rat) - q| ≤ 1 / 2 by linarith)
  have whole {a b : Int} (h : (a : Rat) < b + 1) : a ≤ b := Int.lt_add_one_iff.1 (by exact_mod_cast h)
  refine ⟨fun small => ?_, fun large => ?_⟩
  · obtain ⟨low, high⟩ := abs_le.1 small
    have hlo : -(qmax : Int) ≤ i := whole (by push_cast; linarith)
    have hhi : i ≤ qmax := whole (by push_cast; linarith)
    simp only [if_neg hlo.not_gt, if_neg hhi.not_gt, bne_self_eq_false, Bool.or_false]
    rw [read i (by omega) hhi, abs_sub_comm]
    refine ⟨near, even rfl, ?_⟩
    by_cases exact_ : q = i <;> cases x <;> simp_all [fNX]
  · obtain ⟨positive, large⟩ | ⟨negative, large⟩ : (0 ≤ q ∧ (qmax : Rat) < q) ∨ (q < 0 ∧ q < -qmax) := by
      obtain sign | sign := lt_or_ge q 0
      · exact .inr ⟨sign, by rw [abs_of_neg sign] at large; linarith⟩
      · exact .inl ⟨sign, by rwa [abs_of_nonneg sign] at large⟩
    · have hi : (qmax : Int) ≤ i := whole (by push_cast; linarith)
      rw [if_neg (by omega), if_neg positive.not_gt]
      obtain eq | lt := hi.eq_or_lt
      · have nx : x = true := inexact.2 (by rw [← eq]; exact_mod_cast large.ne')
        rw [if_neg (by omega), nx, ← eq]
        exact ⟨read qmax (by omega) le_rfl, rfl⟩
      · simp only [if_pos lt, bne_iff_ne.2 lt.ne', Bool.or_true, if_true]
        exact ⟨read qmax (by omega) le_rfl, rfl⟩
    · have lo : i ≤ -(qmax : Int) := whole (by push_cast; linarith)
      rw [if_pos negative]
      obtain eq | lt := lo.eq_or_lt
      · have nx : x = true := inexact.2 (by rw [eq]; push_cast; exact large.ne)
        rw [if_neg (by omega), if_neg (by omega), nx, eq]
        exact ⟨read _ (by omega) (by omega), rfl⟩
      · simp only [if_pos lt, bne_iff_ne.2 lt.ne, Bool.or_true, if_true]
        exact ⟨read _ (by omega) (by omega), rfl⟩

/-! ## NaN elements (R44) -/

/-- A group with an FP6 or FP4 target that holds a NaN has the scale 0xFF. -/
theorem quantise_nan {et : Nat} {vs : List Val} (target : noSpecials et = true) (nan : ∃ v ∈ vs, v.isNan = true) (rnd phase : Nat) :
    (quantise et rnd phase vs).scale = 0xFF := by
  obtain ⟨v, hv, hnan⟩ := nan
  have some_ : (vs.filter Val.isNan).length ≠ 0 := by
    rw [Ne, List.length_eq_zero_iff, List.filter_eq_nil_iff]
    exact fun none_ => none_ v hv hnan
  rw [quantise]
  dsimp only
  rw [if_pos target, if_neg some_]

/-- The scale of a group with an integer target rounds its largest magnitude over that of the target to FP16, and is clamped to the
smallest and the largest number with OF (R46). -/
theorem groupScale_int_values {et : Nat} {vs : List Val} {amax : Rat} (h : et ∈ [16, 18]) (den : ∀ v ∈ vs, v.den ≠ 0)
    (largest : LargestOf vs amax) {qmax : Nat} (hm : qmax = if et = 16 then 127 else 7) :
    let g := groupScale et vs
    let scale : Rat := (g.num : Rat) / g.den
    ((2 : Rat) ^ (-24 : Int) ≤ amax / qmax → amax / qmax ≤ 65504 → ∃ fl, nearest 1 10 (-14) 65504 (amax / qmax) (g.code, fl) ∧ g.flags = 0) ∧
      (65536 ≤ amax / qmax → scale = 65504 ∧ g.flags = 4) ∧
      (0 < amax / qmax → amax / qmax < (2 : Rat) ^ (-25 : Int) → scale = (2 : Rat) ^ (-24 : Int) ∧ g.flags = 4) := by
  obtain ⟨w, -, -, -, -, -, hq, qmax_, -⟩ := intTarget_format h
  obtain ⟨-, -, value, -, positive⟩ := groupScale_code h den largest
  obtain ⟨pos, largest'⟩ := amaxOf_largest vs den
  have cases_ := scaleCode_cases (et := et) (vs := vs) rfl pos hq
  rw [largest'.unique largest, qmax_, ← hm] at cases_
  rw [qmax_, ← hm] at hq
  have hq' : (0 : Rat) < qmax := by exact_mod_cast hq
  have clamped (some_ : 0 < amax / qmax) := positive ((div_pos_iff_of_pos_right hq').1 some_)
  dsimp only
  refine ⟨fun low high => ?_, fun large => ?_, fun some_ small => ?_⟩
  · have some_ : 0 < amax / qmax := lt_of_lt_of_le (by positivity) low
    obtain ⟨code, flags⟩ := clamped some_
    obtain ⟨inRange, -⟩ := cases_ some_
    obtain ⟨nonzero, le, fl, near⟩ := inRange low high
    have same : clampScale (scaleCode et vs) = scaleCode et vs := by rw [clampScale, if_neg nonzero, if_neg (by omega)]
    rw [code, flags, same, if_pos rfl]
    exact ⟨fl, near, rfl⟩
  · have some_ : 0 < amax / qmax := lt_of_lt_of_le (by norm_num) large
    obtain ⟨code, flags⟩ := clamped some_
    obtain ⟨-, above, -⟩ := cases_ some_
    rw [value, code, flags, above large]
    exact ⟨fp16_largest, rfl⟩
  · obtain ⟨code, flags⟩ := clamped some_
    obtain ⟨-, -, below⟩ := cases_ some_
    rw [value, code, flags, below small]
    exact ⟨fp16_smallest, rfl⟩

end Sys2Proof.Machine
end

section
/-! PROOF. The code and scale runs of a quantised lane: each group's codes and scale in their places (R238, R239). -/

namespace Sys2Proof.Machine

/-! ## Lists of results, laid down -/

/-- The numbers of a list are read back from their bit string. -/
theorem bitsOf_bitString {w : Nat} {l : List Nat} (small : ∀ x ∈ l, x < 2 ^ w) (j : Nat) : bitsOf (bitString w l) (w * j) w = l.getD j 0 := by
  induction l generalizing j with
  | nil => simp [bitString, bitsOf]
  | cons x l ih =>
    obtain ⟨hx, hl⟩ := List.forall_mem_cons.1 small
    have step : bitString w (x :: l) = 2 ^ w * bitString w l + x := by
      rw [mul_comm, add_comm, ← Nat.shiftLeft_eq]
      rfl
    cases j with
    | zero => rw [mul_zero, bitsOf, step, Nat.shiftRight_zero, Nat.mul_add_mod, Nat.mod_eq_of_lt hx, List.getD_cons_zero]
    | succ j =>
      rw [List.getD_cons_succ, ← ih hl, bitsOf, bitsOf, step, mul_add_one, add_comm (w * j), Nat.shiftRight_add,
        Nat.shiftRight_eq_div_pow _ w, Nat.mul_add_div (by positivity), Nat.div_eq_of_lt hx, add_zero]

/-- Lists that share no element, one after another, repeat none. -/
theorem nodup_flatMap_range {α : Type} {n : Nat} {f : Nat → List α} (each : ∀ a, a < n → (f a).Nodup)
    (apart : ∀ a b x, a < n → b < n → x ∈ f a → x ∈ f b → a = b) : ((List.range n).flatMap f).Nodup := by
  rw [List.nodup_flatMap]
  refine ⟨fun a ha => each a (List.mem_range.1 ha), List.nodup_range.pairwise_of_forall_ne fun a ha b hb ne => ?_⟩
  rw [List.mem_range] at ha hb
  exact fun x hxa hxb => ne (apart a b x ha hb hxa hxb)

/-- Lists of one length, one after another. -/
theorem getElem?_flatMap_map_range {α : Type} (f : Nat → Nat → α) {n m a b : Nat} (ha : a < n) (hb : b < m) :
    ((List.range n).flatMap fun a => (List.range m).map (f a))[a * m + b]? = some (f a b) := by
  have length (n : Nat) : ((List.range n).flatMap fun a => (List.range m).map (f a)).length = n * m := by
    simp [List.length_flatMap]
  induction n with
  | zero => omega
  | succ n ih =>
    rw [List.range_succ, List.flatMap_append]
    obtain lt | rfl := Nat.lt_succ_iff_lt_or_eq.1 ha
    · have : a * m + b < n * m := by
        calc a * m + b < (a + 1) * m := by rw [add_one_mul]; omega
          _ ≤ n * m := Nat.mul_le_mul_right m lt
      rw [List.getElem?_append_left (by rwa [length]), ih lt]
    · rw [List.getElem?_append_right (by rw [length]; omega), length, Nat.add_sub_cancel_left, List.flatMap_singleton, List.getElem?_map,
        List.getElem?_range hb]
      rfl

/-! ## The groups of a lane (R238, R239) -/

/-- Groups by two numbers, one list after another, each of its own length. -/
def groupGrid (n m : Nat) (k : Nat → Nat → Nat) (h : Nat → Nat → Nat → Nat) : List (List Nat) :=
  (List.range n).flatMap fun a => (List.range m).map fun b => (List.range (k a b)).map (h a b)

theorem groupsOf_rows (t : Tile) : groupsOf t false =
    groupGrid t.tr (ceilDiv t.tc 32) (fun _ q => min 32 (t.tc - 32 * q)) fun ρ q i => ρ * t.tc + 32 * q + i := rfl

theorem groupsOf_cols (t : Tile) : groupsOf t true =
    groupGrid (ceilDiv t.tr 32) t.tc (fun q _ => min 32 (t.tr - 32 * q)) fun q κ i => (32 * q + i) * t.tc + κ := rfl

section

variable {n m : Nat} {k : Nat → Nat → Nat} {h : Nat → Nat → Nat → Nat}

theorem mem_groupGrid {l : List Nat} : l ∈ groupGrid n m k h ↔ ∃ a < n, ∃ b < m, l = (List.range (k a b)).map (h a b) := by
  simp only [groupGrid, List.mem_flatMap, List.mem_map, List.mem_range, eq_comm]

/-- Places that tell the groups and the positions in them apart are each taken once. -/
theorem groupGrid_places_nodup {φ : Nat → Nat}
    (inj : ∀ a b i a' b' i', a < n → b < m → i < k a b → a' < n → b' < m → i' < k a' b' → φ (h a b i) = φ (h a' b' i') →
      a = a' ∧ b = b' ∧ i = i') : ((groupGrid n m k h).flatMap fun l => l.map φ).Nodup := by
  have flat : (groupGrid n m k h).flatMap (fun l => l.map φ) =
      (List.range n).flatMap fun a => (List.range m).flatMap fun b => (List.range (k a b)).map fun i => φ (h a b i) := by
    simp only [groupGrid, List.flatMap_assoc, List.flatMap_map, List.map_map]
    rfl
  rw [flat]
  refine nodup_flatMap_range (fun a ha => nodup_flatMap_range (fun b hb => ?_) fun b b' x hb hb' hx hx' => ?_)
    fun a a' x ha ha' hx hx' => ?_
  · exact List.Nodup.map_on (fun i hi i' hi' eq => (inj a b i a b i' ha hb (List.mem_range.1 hi) ha hb (List.mem_range.1 hi') eq).2.2)
      List.nodup_range
  · simp only [List.mem_map, List.mem_range] at hx hx'
    obtain ⟨i, hi, rfl⟩ := hx
    obtain ⟨i', hi', eq⟩ := hx'
    exact (inj a b i a b' i' ha hb hi ha hb' hi' eq.symm).2.1
  · simp only [List.mem_flatMap, List.mem_map, List.mem_range] at hx hx'
    obtain ⟨b, hb, i, hi, rfl⟩ := hx
    obtain ⟨b', hb', i', hi', eq⟩ := hx'
    exact (inj a b i a' b' i' ha hb hi ha' hb' hi' eq.symm).1

end

/-! ## The sizes of codes and scales (R44, R46) -/

theorem signCode_lt {f : FFmt} {c : Nat} (fits : c < 2 ^ f.magBits) (s : Bool) : signCode f s c < 2 ^ (f.magBits + 1) := by
  rw [pow_succ]
  cases s
  · rw [signCode_false]
    omega
  · have : signCode f true c = c + 2 ^ f.magBits := by simp [signCode, bit, Nat.shiftLeft_eq]
    omega

/-- A target of the quantising drains is an integer one or a floating-point one (R238). -/
theorem quantised_target {et : Nat} (h : et ∈ quantisedTypes) :
    et ∈ [16, 18] ∨ ∃ m emin emax most, (et, m, emin, emax, most) ∈ quantTypes := by
  simp only [quantisedTypes, List.mem_cons, List.not_mem_nil, or_false] at h
  obtain rfl | rfl | rfl | rfl | rfl | rfl | rfl := h <;> simp [quantTypes]

/-- The bits of a floating-point target are those of its format, and its NaN fits them. -/
theorem quantised_bits {et : Nat} {f : FFmt} (h : et ∈ quantisedTypes) (fmt : ffmt et = some f) :
    (etypeBits et).getD 8 = f.magBits + 1 ∧ quietNan et < 2 ^ (f.magBits + 1) := by
  simp only [quantisedTypes, List.mem_cons, List.not_mem_nil, or_false] at h
  obtain rfl | rfl | rfl | rfl | rfl | rfl | rfl := h <;> cases fmt <;> exact ⟨rfl, by decide⟩

/-- The code of an element fits its bits (R44, R46). -/
theorem groupCode_lt {et : Nat} (h : et ∈ quantisedTypes) (m : RMode) (g : GroupScale) (v : Val) :
    (groupCode et m g v).1 < 2 ^ (etypeBits et).getD 8 := by
  obtain int | ⟨_, _, _, _, float⟩ := quantised_target h
  · obtain ⟨w, -, target, -⟩ := intTarget_format int
    have pos : 0 < 2 ^ (etypeBits et).getD 8 := by positivity
    cases v <;> simp only [groupCode, target, if_true]
    · exact pos
    · exact lowBits_lt _ _
    · exact lowBits_lt _ _
  · obtain ⟨f, span, top, shape, -, -, target, -⟩ := quantTypes_shape float
    obtain ⟨bits, nan⟩ := quantised_bits h shape.fmt
    rw [bits]
    cases v <;> simp only [groupCode, target, Bool.false_eq_true, if_false, convert, shape.fmt]
    · rw [toFloat]
      split_ifs
      · positivity
      · exact nan
      · exact nan
    · rw [toFloat, if_pos (.inr rfl)]
      exact signCode_lt shape.fits _
    · obtain ⟨c, code, le | ⟨sat, -⟩⟩ := toFloat_code shape m true _ _ _
      · rw [code]
        exact signCode_lt (le.trans_lt shape.fits) _
      · cases sat

/-- The bits of a scale hold the scale of a group (R46, R238). -/
theorem groupScale_code_lt {et : Nat} (vs : List Val) : (groupScale et vs).code < 2 ^ scaleBits et := by
  by_cases target : intTarget et = true
  · rw [scaleBits, if_pos target]
    by_cases zero : (amaxOf vs).1 = 0
    · rw [groupScale_zero target zero]
      decide
    · have le := scaleCode_le et vs
      rw [groupScale_int_code target zero]
      unfold clampScale
      split_ifs <;> omega
  · rw [scaleBits, groupScale]
    dsimp only
    rw [if_neg target, if_neg target]
    split_ifs <;> dsimp only <;> omega

theorem quantise_scale_lt (et rnd phase : Nat) (vs : List Val) : (quantise et rnd phase vs).scale < 2 ^ scaleBits et := by
  have code := groupScale_code_lt (et := et) vs
  have nan : 0xFF < 2 ^ scaleBits et := by
    rw [scaleBits]
    split <;> decide
  rw [quantise]
  dsimp only
  split_ifs <;> assumption

theorem quantise_codes_lt {et : Nat} (h : et ∈ quantisedTypes) (rnd phase : Nat) (vs : List Val) {x : Nat × FlagSet}
    (hx : x ∈ (quantise et rnd phase vs).codes) : x.1 < 2 ^ (etypeBits et).getD 8 := by
  obtain ⟨p, -, rfl⟩ := List.mem_map.1 hx
  exact groupCode_lt h _ _ _

theorem quantise_codes_length (et rnd phase : Nat) (vs : List Val) : (quantise et rnd phase vs).codes.length = vs.length := by
  simp [quantise]

/-! ## The runs of a lane (R238, R239) -/

/-- A group of a lane, quantised. -/
def groupOf (et rnd phase : Nat) (vs : List Val) (g : List Nat) : QGroup := quantise et rnd phase (g.map fun i => vs.getD i .zero)

/-- The codes of a group at their places. -/
def placedCodes (φ : Nat → Nat) (q : List Nat → QGroup) (g : List Nat) : List (Nat × Nat) := (g.zip (q g).codes).map fun p => (φ p.1, p.2.1)

/-- The codes of a group take the places of its members. -/
theorem placedCodes_places (φ : Nat → Nat) {q : List Nat → QGroup} {g : List Nat} (length : (q g).codes.length = g.length) :
    (placedCodes φ q g).map (·.1) = g.map φ := by
  rw [placedCodes, List.map_map, show (fun x : Nat × Nat => x.1) ∘ (fun p : Nat × Nat × FlagSet => (φ p.1, p.2.1)) = φ ∘ Prod.fst from rfl,
    ← List.map_map, List.map_fst_zip length.ge]

/-- A code of a group is at the place of its member. -/
theorem mem_placedCodes {φ : Nat → Nat} {q : List Nat → QGroup} {g : List Nat} (length : (q g).codes.length = g.length) {i : Nat}
    (hi : i < g.length) : (φ g[i], ((q g).codes.getD i (0, 0)).1) ∈ placedCodes φ q g := by
  refine List.mem_map.2 ⟨(g[i], (q g).codes[i]), List.mem_iff_getElem.2 ⟨i, by simpa [length] using hi, List.getElem_zip⟩, ?_⟩
  rw [List.getD_eq_getElem _ _ (length ▸ hi)]

theorem quantiseLane_codes (t : Tile) (cols : Bool) (et rnd phase : Nat) (vs : List Val) : (quantiseLane t cols et rnd phase vs).codes =
    laidDown ((etypeBits et).getD 8) ((groupsOf t cols).flatMap (placedCodes (codeIndex t cols) (groupOf et rnd phase vs))) := by
  have zipped (l : List (List Nat)) (q : List Nat → QGroup) : l.zip (l.map q) = l.map fun g => (g, q g) := by
    induction l with
    | nil => rfl
    | cons g l ih => rw [List.map_cons, List.zip_cons_cons, ih, List.map_cons]
  rw [quantiseLane]
  dsimp only
  rw [zipped, List.flatMap_map]
  rfl

theorem quantiseLane_scales (t : Tile) (cols : Bool) (et rnd phase : Nat) (vs : List Val) : (quantiseLane t cols et rnd phase vs).scales =
    bitString (scaleBits et) ((groupsOf t cols).map fun g => (groupOf et rnd phase vs g).scale) := by
  rw [quantiseLane]
  dsimp only
  rw [List.map_map]
  rfl

section

variable {n m : Nat} {k : Nat → Nat → Nat} {h : Nat → Nat → Nat → Nat} {t : Tile} {cols : Bool} {et : Nat} (target : et ∈ quantisedTypes)
  (rnd phase : Nat) (vs : List Val) (groups : groupsOf t cols = groupGrid n m k h)

include target groups

/-- The code of an element of a group stands at its place. -/
theorem bitsOf_codes
    (inj : ∀ a b i a' b' i', a < n → b < m → i < k a b → a' < n → b' < m → i' < k a' b' →
      codeIndex t cols (h a b i) = codeIndex t cols (h a' b' i') → a = a' ∧ b = b' ∧ i = i')
    {a b i : Nat} (ha : a < n) (hb : b < m) (hi : i < k a b) :
    bitsOf (quantiseLane t cols et rnd phase vs).codes ((etypeBits et).getD 8 * codeIndex t cols (h a b i)) ((etypeBits et).getD 8) =
      ((groupOf et rnd phase vs ((List.range (k a b)).map (h a b))).codes.getD i (0, 0)).1 := by
  have length (g : List Nat) : (groupOf et rnd phase vs g).codes.length = g.length := by
    rw [groupOf, quantise_codes_length, List.length_map]
  have member : (List.range (k a b)).map (h a b) ∈ groupsOf t cols := groups ▸ mem_groupGrid.2 ⟨a, ha, b, hb, rfl⟩
  have placed := mem_placedCodes (φ := codeIndex t cols) (length ((List.range (k a b)).map (h a b))) (i := i) (by simpa using hi)
  rw [List.getElem_map, List.getElem_range] at placed
  rw [quantiseLane_codes]
  refine bitsOf_laidDown ?_ (fun p hp => ?_) (List.mem_flatMap.2 ⟨_, member, placed⟩)
  · rw [List.map_flatMap, groups]
    simp only [placedCodes_places _ (length _)]
    exact groupGrid_places_nodup inj
  · obtain ⟨g, -, hp⟩ := List.mem_flatMap.1 hp
    obtain ⟨x, hx, rfl⟩ := List.mem_map.1 hp
    exact quantise_codes_lt target rnd phase _ (List.of_mem_zip hx).2

omit target in
/-- The scale of a group stands at its number. -/
theorem bitsOf_scales {a b : Nat} (ha : a < n) (hb : b < m) :
    bitsOf (quantiseLane t cols et rnd phase vs).scales (scaleBits et * (a * m + b)) (scaleBits et) =
      (groupOf et rnd phase vs ((List.range (k a b)).map (h a b))).scale := by
  rw [quantiseLane_scales, bitsOf_bitString, groups, groupGrid, List.map_flatMap]
  · simp only [List.map_map]
    rw [List.getD_eq_getElem?_getD, getElem?_flatMap_map_range _ ha hb]
    rfl
  · intro x hx
    obtain ⟨g, -, rfl⟩ := List.mem_map.1 hx
    exact quantise_scale_lt et rnd phase _

end

/-- A quotient and a remainder are those of the number that they make. -/
theorem mul_add_inj {n a b x y : Nat} (hx : x < n) (hy : y < n) (eq : a * n + x = b * n + y) : a = b ∧ x = y := by
  have pos : 0 < n := by omega
  constructor
  · have := congrArg (· / n) eq
    simpa [Nat.mul_comm _ n, Nat.mul_add_div pos, Nat.div_eq_of_lt hx, Nat.div_eq_of_lt hy] using this
  · have := congrArg (· % n) eq
    simpa [Nat.mul_comm _ n, Nat.mul_add_mod, Nat.mod_eq_of_lt hx, Nat.mod_eq_of_lt hy] using this

theorem groupOf_map (et rnd phase : Nat) (vs : List Val) (k : Nat) (f : Nat → Nat) :
    groupOf et rnd phase vs ((List.range k).map f) = quantise et rnd phase ((List.range k).map fun i => vs.getD (f i) .zero) := by
  rw [groupOf, List.map_map]
  rfl

section

variable {t : Tile} {et ρ κ : Nat} (target : et ∈ quantisedTypes) (hρ : ρ < t.tr) (hκ : κ < t.tc) (rnd phase : Nat) (vs : List Val)

include target hρ hκ

/-- The code and the scale of an element quantised along its row (R238). -/
theorem rows_runs :
    let along := quantise et rnd phase
      ((List.range (min 32 (t.tc - 32 * (κ / 32)))).map fun i => vs.getD (ρ * t.tc + 32 * (κ / 32) + i) .zero)
    let rows := quantiseLane t false et rnd phase vs
    bitsOf rows.codes ((etypeBits et).getD 8 * (ρ * t.tc + κ)) ((etypeBits et).getD 8) = (along.codes.getD (κ % 32) (0, 0)).1 ∧
      bitsOf rows.scales (scaleBits et * (ρ * ceilDiv t.tc 32 + κ / 32)) (scaleBits et) = along.scale := by
  have group : κ / 32 < ceilDiv t.tc 32 := by
    rw [ceilDiv]
    omega
  have codes := bitsOf_codes target rnd phase vs (groupsOf_rows t) (fun a b i a' b' i' ha hb hi ha' hb' hi' eq => by
    simp only [codeIndex, Bool.false_eq_true, if_false, add_assoc] at eq
    obtain ⟨row, place⟩ := mul_add_inj (by omega) (by omega) eq
    omega) (i := κ % 32) hρ group (by omega)
  have scales := bitsOf_scales (et := et) rnd phase vs (groupsOf_rows t) hρ group
  rw [groupOf_map] at codes scales
  simp only [codeIndex, Bool.false_eq_true, if_false, add_assoc, Nat.div_add_mod] at codes
  simp only [add_assoc] at scales ⊢
  exact ⟨codes, scales⟩

/-- The code and the scale of an element quantised down its column (R239). -/
theorem cols_runs :
    let down := quantise et rnd phase
      ((List.range (min 32 (t.tr - 32 * (ρ / 32)))).map fun i => vs.getD ((32 * (ρ / 32) + i) * t.tc + κ) .zero)
    let cols := quantiseLane t true et rnd phase vs
    bitsOf cols.codes ((etypeBits et).getD 8 * (κ * t.tr + ρ)) ((etypeBits et).getD 8) = (down.codes.getD (ρ % 32) (0, 0)).1 ∧
      bitsOf cols.scales (scaleBits et * (ρ / 32 * t.tc + κ)) (scaleBits et) = down.scale := by
  have group : ρ / 32 < ceilDiv t.tr 32 := by
    rw [ceilDiv]
    omega
  have index (x : Nat) {y : Nat} (hy : y < t.tc) : codeIndex t true (x * t.tc + y) = y * t.tr + x := by
    rw [codeIndex, if_pos rfl, mul_comm x, Nat.mul_add_mod, Nat.mod_eq_of_lt hy, Nat.mul_add_div (by omega), Nat.div_eq_of_lt hy, add_zero]
  have codes := bitsOf_codes target rnd phase vs (groupsOf_cols t) (fun a b i a' b' i' ha hb hi ha' hb' hi' eq => by
    rw [index _ hb, index _ hb'] at eq
    obtain ⟨column, place⟩ := mul_add_inj (by omega) (by omega) eq
    omega) (i := ρ % 32) group hκ (by omega)
  have scales := bitsOf_scales (et := et) rnd phase vs (groupsOf_cols t) group hκ
  rw [groupOf_map] at codes scales
  rw [index _ hκ, Nat.div_add_mod] at codes
  exact ⟨codes, scales⟩

end

theorem scaleBits_eq (et : Nat) : scaleBits et = if et ∈ [16, 18] then 16 else 8 := by
  simp [scaleBits, intTarget]

/-- Settles O49: the drains write what they convert, fold and quantise; the values, scales and codes are the exact ones rounded; and each
code and scale is in its place. -/
theorem drainResults : Obligations.DrainResults := by
  refine ⟨?_, ?_, ?_, ?_, ?_, ?_⟩
  · intro g n k s s1 env c r t kcm1 cnt start ht hr hk hcnt fits
    subst hr
    constructor
    · intro checks sides ready res hres
      exact drain_results g n k s s1 env c t kcm1 cnt start ht hk hcnt fits false checks sides (by simpa [drainTiles] using ready) hres
    · intro ks hks checks sides ready res hres
      subst hks
      exact drain_results g n k s s1 env c t kcm1 cnt start ht hk hcnt fits true checks sides ready hres
  · intro g n va s s1 env c r t k kcm1 src vals start ht hr hva checks source apart n1 n2 n3 n4 lane nans rows
    subst hr
    have facts : ∃ kc, (if tierOf va == 0 then (0, s) else drainKcm1 s t) = (kc, s1) ∧ k = (if tierOf va == 0 then 4 else zNumber va) ∧
        lane = drainLane c t s.me.r k (drainVals c t s.me.r kc va) ∧ src = drainSource t va ∧ (if tierOf va = 0 then 0 else k) = zNumber va ∧
        ∀ run, apart run → drainApart t va run = true := by
      cases va with
      | z z =>
        obtain ⟨rfl, rfl, hk, rfl⟩ := source
        exact ⟨kcm1, hk, rfl, rfl, rfl, rfl, fun run h => h⟩
      | v m =>
        obtain ⟨rfl, rfl, base, room, rfl, rfl⟩ := source
        refine ⟨0, rfl, rfl, rfl, rfl, rfl, fun run h => ?_⟩
        have clear : run.any (runRegs m (ceilDiv (t.count * 32) 4096)).contains = false :=
          List.any_eq_false.2 fun x hx => by simpa using h x hx
        have place : runOk m (ceilDiv (t.count * 32) 4096) = true := decide_eq_true room
        exact (congrArg (fun b => t.base == 0 && runOk m (ceilDiv (t.count * 32) 4096) && !b) clear).trans (by rw [base, place]; rfl)
      | _ => exact source.elim
    obtain ⟨kc, hk, phase, hlane, rfl, number, apart_⟩ := facts
    rw [number] at checks
    have k4 : k ≤ 4 := by
      have z : zNumber va < 4 := by cases va <;> simp [zNumber]
      rw [phase]
      split <;> omega
    refine ⟨fun fits ap ready => ?_, fun fits ap ready => ?_⟩
    · obtain ⟨fl, run⟩ := drainq_results start ht hva checks hk phase hlane rfl fits (apart_ _ ap) ready
      exact ⟨fl, run, phaseOf_advancePhase k k4 _⟩
    · exact drainrc_results start ht hva checks hk phase hlane rfl rfl fits (apart_ _ ap) ready
  · intro c t r kcm1 k l i row col a b p x hrow hcol ha hb hp sa sb
    subst ha hb
    refine ⟨fun nan => ?_, fun fa fb hx => ?_⟩
    · rw [tileValue_eq hrow hcol hp]
      exact scaledPartial_nan _ nan
    · obtain ⟨value, flags⟩ := tileValue_finite hrow hcol hp fa fb
      rw [← hx] at value
      obtain ⟨s, n, d, fin, -, -⟩ := id value
      refine ⟨⟨s, n, d, fin⟩, value.ratOf_eq, flags, fun rnd => drainOne_nearest value ?_ rnd⟩
      rw [flags]
      split_ifs <;> decide
  · intro acc f0 f1 v _ fin hv
    obtain ⟨s, n, d, rfl, hd⟩ := hv
    exact ⟨foldOne_nearest fin (isRat_self hd ⟨s, n, d, rfl⟩), foldOne_flags _ _ _ _ _⟩
  · intro et vs amax den bound attained g scale
    have largest : LargestOf vs amax := ⟨bound, attained⟩
    refine ⟨fun m emin emax most type => ?_, fun type => ?_, fun nan type rnd phase => quantise_nan ?_ nan rnd phase⟩
    · obtain ⟨f, span, top, shape, rfl, hmost, target, hemax⟩ := quantTypes_shape type
      obtain ⟨k, power, num, -, code, zero, binade⟩ := groupScale_float den largest target
      rw [hemax] at binade
      refine ⟨fun none_ => ?_, fun e low high => ?_, fun s n d hd => ?_⟩
      · rw [zero none_] at power code
        exact ⟨code, power⟩
      · rw [← binade e low high]
        have range := binade e low high
        exact ⟨power, by rw [code]; omega⟩
      · rw [hmost]
        exact groupCode_nearest shape target num s n hd rfl
    · obtain ⟨num, -, value, zero, -⟩ := groupScale_code type den largest
      refine ⟨fun none_ => ?_, value, fun qmax hm => ?_⟩
      · have one : g = ⟨0x3C00, 1, 1, 0⟩ := zero none_
        simp [scale, one]
      · obtain ⟨inRange, above, below⟩ := groupScale_int_values type den largest hm
        exact ⟨inRange, above, below, fun s n d hd => groupCode_int type num s n hd rfl hm⟩
    · simp only [List.mem_cons, List.not_mem_nil, or_false] at type
      obtain rfl | rfl | rfl := type <;> rfl
  · intro t et rnd phase vs ρ κ w b target hρ hκ hw hb
    rw [← scaleBits_eq] at hw
    subst hw hb
    obtain ⟨codes, scales⟩ := rows_runs target hρ hκ rnd phase vs
    obtain ⟨codes', scales'⟩ := cols_runs target hρ hκ rnd phase vs
    exact ⟨codes, scales, codes', scales'⟩

end Sys2Proof.Machine
end

section
/-! PROOF. Block alignment: the exponent of a block, and its elements in units of it (R37, R38). -/

namespace Sys2Proof.Machine

theorem special_iff (v : Val) : special v = true ↔ ∀ n a b, v ≠ .fin n a b := by
  cases v <;> simp [special]

theorem not_special_iff (v : Val) : special v = false ↔ ∃ n a b, v = .fin n a b := by
  cases v <;> simp [special]

/-- A finite value is not zero exactly when its number is not. -/
theorem nonZero_iff {v : Val} (den : v.den ≠ 0) (fin : ∃ n a b, v = .fin n a b) : nonZero v = true ↔ ratOf v ≠ 0 := by
  obtain ⟨s, n, d, rfl⟩ := fin
  have hd : (d : Rat) ≠ 0 := by exact_mod_cast den
  rw [ratOf_fin]
  cases s <;> simp [nonZero, withSign, hd]

/-- The binade of a value that is not zero. -/
theorem logOf_binade {v : Val} (den : v.den ≠ 0) (nonzero : nonZero v = true) :
    (2 : Rat) ^ logOf v ≤ |ratOf v| ∧ |ratOf v| < 2 ^ (logOf v + 1) := by
  cases v with
  | fin s n d =>
    rw [ratOf_fin, abs_withSign s (by positivity)]
    exact floorLog2_binade (Nat.pos_of_ne_zero (by simpa [nonZero] using nonzero)) (Nat.pos_of_ne_zero den)
  | inf s => cases nonzero
  | nan g => cases nonzero

/-- The largest of a list, by folding, is one of it and none is above it. -/
theorem foldl_max_spec (e : Int) (es : List Int) : es.foldl max e ∈ e :: es ∧ ∀ x ∈ e :: es, x ≤ es.foldl max e := by
  induction es generalizing e with
  | nil => simp
  | cons y es ih =>
    obtain ⟨mem, bound⟩ := ih (max e y)
    rw [List.foldl_cons]
    refine ⟨?_, ?_⟩
    · obtain h | h := List.mem_cons.1 mem
      · obtain le | le := le_total e y
        · rw [h, max_eq_right le]
          simp
        · rw [h, max_eq_left le]
          simp
      · simp [h]
    · intro x hx
      have top := bound (max e y) (by simp)
      simp only [List.mem_cons] at hx
      obtain rfl | rfl | hx := hx
      · exact (le_max_left _ _).trans top
      · exact (le_max_right _ _).trans top
      · exact bound x (List.mem_cons_of_mem _ hx)

/-- An element in units of the block. -/
def blockUnits (e : Int) (v : Val) : Int := match v.scale (-e) with
  | .fin s n d => (roundToInt (.rnd 0) s n d).1
  | _ => 0

section

variable (mb : Nat) {xs : List Val}

/-- A NaN or an infinity makes a NaN block (R38). -/
theorem alignBlock_special (h : ∃ v ∈ xs, ∀ n a b, v ≠ .fin n a b) : alignBlock mb xs = (-32768, xs.map fun _ => 0, 16) := by
  obtain ⟨v, hv, sp⟩ := h
  rw [alignBlock, if_pos (List.any_eq_true.2 ⟨v, hv, (special_iff v).2 sp⟩)]
  rfl

variable (fin : ∀ v ∈ xs, ∃ n a b, v = .fin n a b)

include fin

theorem no_special : ¬ xs.any special = true := by
  rw [Bool.not_eq_true, List.any_eq_false]
  exact fun v hv => by simp [(not_special_iff v).2 (fin v hv)]

/-- A block of zeros has the exponent 0 (R37). -/
theorem alignBlock_zero (den : ∀ v ∈ xs, v.den ≠ 0) (zero : ∀ v ∈ xs, ratOf v = 0) : alignBlock mb xs = (0, xs.map fun _ => 0, 0) := by
  have none_ : xs.filter nonZero = [] := by
    rw [List.filter_eq_nil_iff]
    exact fun v hv nz => (nonZero_iff (den v hv) (fin v hv)).1 nz (zero v hv)
  rw [alignBlock, if_neg (no_special fin), none_]
  rfl

/-- A block that holds a number other than 0 has its elements in units that the binade of the largest fixes (R37). -/
theorem alignBlock_units (nonzero : ∃ v ∈ xs, nonZero v = true) : ∃ E : Int, (∃ v ∈ xs, nonZero v = true ∧ logOf v = E) ∧
    (∀ v ∈ xs, nonZero v = true → logOf v ≤ E) ∧ alignBlock mb xs = (E - (mb - 2 : Nat), xs.map (blockUnits (E - (mb - 2 : Nat))), 0) := by
  obtain ⟨v, hv, nz⟩ := nonzero
  have mem {v : Val} (hv : v ∈ xs) (nz : nonZero v = true) : logOf v ∈ (xs.filter nonZero).map logOf :=
    List.mem_map.2 ⟨v, List.mem_filter.2 ⟨hv, nz⟩, rfl⟩
  obtain ⟨e, es, logs⟩ : ∃ e es, (xs.filter nonZero).map logOf = e :: es := List.exists_cons_of_ne_nil (List.ne_nil_of_mem (mem hv nz))
  obtain ⟨largest, bound⟩ := foldl_max_spec e es
  rw [← logs] at largest bound
  obtain ⟨w, hw, top⟩ := List.mem_map.1 largest
  rw [List.mem_filter] at hw
  refine ⟨es.foldl max e, ⟨w, hw.1, hw.2, top⟩, fun v hv nz => bound _ (mem hv nz), ?_⟩
  rw [alignBlock, if_neg (no_special fin), logs]
  rfl

end

/-- An element in units of the block is the nearest integer, the even one on a tie (R37). -/
theorem blockUnits_nearest {v : Val} (value : IsRat v (ratOf v)) (e : Int) : 2 * |ratOf v / 2 ^ e - blockUnits e v| ≤ 1 ∧
    (2 * |ratOf v / 2 ^ e - blockUnits e v| = 1 → blockUnits e v % 2 = 0) := by
  have scaled_ := value.scale (-e)
  rw [zpow_neg, ← div_eq_mul_inv] at scaled_
  obtain ⟨s, n, d, eq, hd, ratio⟩ := scaled_
  obtain ⟨rounds, -⟩ := roundToInt_rounds (.rnd 0) s n hd
  have near := rounds.nearest (.inl rfl)
  obtain ⟨t, ht, even⟩ := rounds.whole
  rw [mul_one, Int.cast_inj] at ht
  have units : blockUnits e v = (roundToInt (.rnd 0) s n d).1 := by rw [blockUnits, eq]
  rw [← eq, ratio] at near even
  rw [units, abs_sub_comm]
  exact ⟨near, ht ▸ even rfl⟩

/-- A block of finite values, one of them not 0, has the exponent of its largest, and its elements are rounded to its unit (R37). -/
theorem alignBlock_finite {mb : Nat} (hmb : 2 ≤ mb) {xs : List Val} (den : ∀ v ∈ xs, v.den ≠ 0) (fin : ∀ v ∈ xs, ∃ n a b, v = .fin n a b)
    (nonzero : ∃ v ∈ xs, ratOf v ≠ 0) : ∃ (e : Int) (q : List Int), alignBlock mb xs = (e, q, 0) ∧ q.length = xs.length ∧
      (∃ v ∈ xs, (2 : Rat) ^ (e + mb - 2) ≤ |ratOf v|) ∧ (∀ v ∈ xs, |ratOf v| < (2 : Rat) ^ (e + mb - 1)) ∧
      ∀ i, i < xs.length → 2 * |ratOf (xs.getD i .zero) / (2 : Rat) ^ e - q.getD i 0| ≤ 1 ∧
        (2 * |ratOf (xs.getD i .zero) / (2 : Rat) ^ e - q.getD i 0| = 1 → q.getD i 0 % 2 = 0) := by
  obtain ⟨v, hv, nz⟩ := nonzero
  obtain ⟨E, ⟨w, hw, wnz, top⟩, bound, eq⟩ := alignBlock_units mb fin ⟨v, hv, (nonZero_iff (den v hv) (fin v hv)).2 nz⟩
  refine ⟨_, _, eq, List.length_map _, ⟨w, hw, ?_⟩, fun x hx => ?_, fun i hi => ?_⟩
  · rw [show E - (mb - 2 : Nat) + mb - 2 = E by omega, ← top]
    exact (logOf_binade (den w hw) wnz).1
  · rw [show E - (mb - 2 : Nat) + mb - 1 = E + 1 by omega]
    by_cases xnz : nonZero x = true
    · exact (logOf_binade (den x hx) xnz).2.trans_le (zpow_le_zpow_right₀ (by norm_num) (by linarith [bound x hx xnz]))
    · rw [not_not.1 (mt (nonZero_iff (den x hx) (fin x hx)).2 xnz), abs_zero]
      positivity
  · have member := List.getElem_mem hi
    rw [List.getD_eq_getElem _ _ hi, List.getD_eq_getElem _ _ (by simpa using hi), List.getElem_map]
    exact blockUnits_nearest (isRat_self (den _ member) (fin _ member)) _

end Sys2Proof.Machine
end

section
/-! PROOF. The words of VLDPK: each field reads back as the value put into it, and the selector of a sparse word holds the indices
(R166, R224, R226). -/

namespace Sys2Proof.Machine

/-! ## The fields of a word (R166) -/

/-- The places of the fields of a word (R166). -/
def fieldPlaces (f : Word) (role : Bool) : List Nat :=
  if fConv f then if role then (List.range (fK f)).map fun x => fK f - 1 - x else List.range (fM f + fK f - 1)
  else (List.range (if role then fN f else fM f)).flatMap fun x => (List.range (fK f)).map fun i =>
    if role then fK f - 1 - i + (2 * fK f - 1) * x else i + (2 * fK f - 1) * fN f * x

theorem pkFields_places (f : Word) (role : Bool) (klen ratio j : Nat) : (pkFields f role klen ratio j).map (·.1) = fieldPlaces f role := by
  unfold pkFields fieldPlaces
  cases fConv f <;> cases role <;> simp [List.map_flatMap, Function.comp_def]

theorem fK_pos (f : Word) : 0 < fK f := Nat.succ_pos _
theorem fN_pos (f : Word) : 0 < fN f := Nat.succ_pos _

/-- No two fields of a word share a place. -/
theorem fieldPlaces_nodup (f : Word) (role : Bool) : (fieldPlaces f role).Nodup := by
  have hk := fK_pos f
  have rows {n step : Nat} {g : Nat → Nat} (inside : ∀ i, i < fK f → g i < step) (inj : ∀ i i', i < fK f → i' < fK f → g i = g i' → i = i') :
      ((List.range n).flatMap fun x => (List.range (fK f)).map fun i => g i + step * x).Nodup := by
    refine nodup_flatMap_range (fun x _ => List.Nodup.map_on (fun i hi i' hi' eq => ?_) List.nodup_range) fun x x' y _ _ hy hy' => ?_
    · exact inj i i' (List.mem_range.1 hi) (List.mem_range.1 hi') (by omega)
    · simp only [List.mem_map, List.mem_range] at hy hy'
      obtain ⟨i, hi, rfl⟩ := hy
      obtain ⟨i', hi', eq⟩ := hy'
      rw [add_comm, mul_comm, add_comm (g i), mul_comm step x] at eq
      exact (mul_add_inj (inside i' hi') (inside i hi) eq).1.symm
  unfold fieldPlaces
  split_ifs
  · exact List.Nodup.map_on (fun x hx y hy eq => by rw [List.mem_range] at hx hy; omega) List.nodup_range
  · exact List.nodup_range
  · exact rows (by omega) (by omega)
  · have := Nat.mul_le_mul_left (2 * fK f - 1) (fN_pos f)
    exact rows (by omega) (by omega)

/-- The fields of operand B of a bundle lie within its number of fields (R120). -/
theorem fieldPlaces_lt {f : Word} (bundle : fConv f = false) {x : Nat} (hx : x ∈ fieldPlaces f true) : x < fFieldsB f := by
  simp only [fieldPlaces, bundle, Bool.false_eq_true, if_false, if_true, List.mem_flatMap, List.mem_map, List.mem_range] at hx
  obtain ⟨n, hn, i, hi, rfl⟩ := hx
  have := Nat.mul_le_mul_left (2 * fK f - 1) (show n ≤ fN f - 1 by omega)
  simp only [fFieldsB, bundle, Bool.false_eq_true, if_false]
  omega

/-! ## Values packed into fields (R224) -/

/-- Numbers laid down at places below a bound stay below it. -/
theorem laidDown_lt {w n : Nat} {l : List (Nat × Nat)} (own : (l.map (·.1)).Nodup) (small : ∀ p ∈ l, p.2 < 2 ^ w)
    (inside : ∀ p ∈ l, p.1 < n) : laidDown w l < 2 ^ (w * n) := by
  have := (digitSum_range (n := n) fun s _ => placeDigit_range own small s).2
  rw [← laidDown_eq_digitSum w l inside, ← pow_mul] at this
  exact_mod_cast this

section

variable {f : Word} {sat : Bool} {l : List (Nat × Int)}

theorem packFields_word : (packFields f sat l).1 = packWord f (l.map fun p => (p.1, (packValue f sat p.2).1)) := by
  rw [packFields]
  dsimp only
  rw [List.map_map]
  rfl

variable (own : (l.map (·.1)).Nodup)

include own

/-- A field of a word that is built reads back as the low bits of its value. -/
theorem rawField_packFields {p : Nat × Int} (hp : p ∈ l) :
    rawField f (packFields f sat l).1 p.1 = lowBits (packValue f sat p.2).1 (fW f) := by
  rw [packFields_word]
  exact rawField_packWord f (by rwa [List.map_map]) (List.mem_map.2 ⟨p, hp, rfl⟩)

theorem packFields_lt {n : Nat} (inside : ∀ p ∈ l, p.1 < n) : (packFields f sat l).1 < 2 ^ (fW f * n) := by
  rw [packFields_word, packWord_eq_laidDown]
  refine laidDown_lt (by rwa [List.map_map, List.map_map]) (fun p hp => ?_) fun p hp => ?_
  · obtain ⟨q, -, rfl⟩ := List.mem_map.1 hp
    exact lowBits_lt _ _
  · rw [List.map_map] at hp
    obtain ⟨q, hq, rfl⟩ := List.mem_map.1 hp
    exact inside q hq

end

/-! ## The selector (R211, R226) -/

/-- The selector of a sparse word: an index for each field of column 0. -/
def selectorOf (n : Nat) (idx : Nat → Nat) : Nat := laidDown 2 ((List.range n).map fun k => (k, idx k))

theorem selectorOf_shifted (n : Nat) (idx : Nat → Nat) :
    ((List.range n).map fun k => idx k <<< (224 + 2 * k)).sum = selectorOf n idx <<< 224 := by
  rw [selectorOf, laidDown, List.map_map, Nat.shiftLeft_eq, ← List.sum_map_mul_right]
  congr 1
  refine List.map_congr_left fun k _ => ?_
  simp only [Function.comp_apply, Nat.shiftLeft_eq]
  rw [add_comm, pow_add, mul_assoc]

/-- The bits of a word above its fields do not reach a field below them. -/
theorem bitsOf_add_shift {lo n top : Nat} (below : lo + n ≤ top) (x s : Nat) : bitsOf (x + s <<< top) lo n = bitsOf x lo n := by
  obtain ⟨d, rfl⟩ := Nat.exists_eq_add_of_le below
  rw [bitsOf, bitsOf, Nat.shiftLeft_eq, Nat.shiftRight_eq_div_pow, Nat.shiftRight_eq_div_pow, pow_add, pow_add,
    show s * (2 ^ lo * 2 ^ n * 2 ^ d) = 2 ^ lo * (2 ^ n * (s * 2 ^ d)) by ring, Nat.add_mul_div_left _ _ (by positivity), Nat.add_mul_mod_self_left]

/-- The bits of a word above its fields are read from their place on. -/
theorem bitsOf_shift_add {top : Nat} {x : Nat} (small : x < 2 ^ top) (s lo n : Nat) :
    bitsOf (x + s <<< top) (top + lo) n = bitsOf s lo n := by
  rw [bitsOf, bitsOf, Nat.shiftRight_add, Nat.shiftLeft_eq, Nat.shiftRight_eq_div_pow _ top, Nat.add_mul_div_right _ _ (by positivity),
    Nat.div_eq_of_lt small, zero_add]

theorem selIndex_selector {word n k : Nat} {idx : Nat → Nat} (small : word < 2 ^ 224) (fits : ∀ k, idx k < 4) (hk : k < n) :
    selIndex (word + selectorOf n idx <<< 224) k = idx k := by
  rw [selIndex, bitsOf_shift_add small, selectorOf]
  refine bitsOf_laidDown (p := (k, idx k)) ?_ (fun p hp => ?_) (List.mem_map.2 ⟨k, List.mem_range.2 hk, rfl⟩)
  · rw [List.map_map]
    exact (List.map_id (List.range n)).symm ▸ List.nodup_range
  · obtain ⟨k, -, rfl⟩ := List.mem_map.1 hp
    exact fits k

/-! ## Integer words (R166, R226) -/

section

variable {f : Word} {sat role : Bool} {klen ratio fmt j : Nat} {vs : List Nat}

/-- The fields of a word with the values that fill them, for an integer source. -/
def fieldValues (f : Word) (role : Bool) (klen ratio fmt j : Nat) (vs : List Nat) : List (Nat × Int) :=
  (pkFields f role klen ratio j).zipIdx.map fun p => (p.1.1, (decodeVal fmt (vs.getD p.2 0)).signed)

theorem fieldValues_places : (fieldValues f role klen ratio fmt j vs).map (·.1) = fieldPlaces f role := by
  rw [fieldValues, List.map_map, ← pkFields_places f role klen ratio j]
  conv_rhs => rw [← List.zipIdx_map_fst 0 (pkFields f role klen ratio j), List.map_map]
  rfl

theorem mem_fieldValues {i : Nat} (hi : i < (pkFields f role klen ratio j).length) :
    (((pkFields f role klen ratio j).getD i (0, none)).1, (decodeVal fmt (vs.getD i 0)).signed) ∈ fieldValues f role klen ratio fmt j vs := by
  refine List.mem_map.2 ⟨((pkFields f role klen ratio j)[i], i), ?_, by rw [List.getD_eq_getElem _ _ hi]⟩
  rw [List.mem_zipIdx_iff_getElem?]
  exact List.getElem?_eq_getElem hi

/-- A word of an integer source: its fields and, when it is sparse, its selector. -/
theorem packLoaded_int (int : sfmtInt f = true) : (packLoaded f sat role klen ratio fmt j vs).word =
    (packFields f sat (fieldValues f role klen ratio fmt j vs)).1 +
      (if ratio = 1 then 0 else selectorOf (fK f) (fun k => vs.getD ((pkFields f role klen ratio j).length + k) 0 % 4)) <<< 224 := by
  rw [packLoaded]
  dsimp only
  rw [if_pos int]
  split
  · rw [Nat.zero_shiftLeft]
    rfl
  · rw [selectorOf_shifted]
    rfl

variable (accepted : formeAccepted f) (int : sfmtInt f = true)
  (dense : ratio = 1 ∨ (role = true ∧ fConv f = false ∧ fW f * fFieldsB f ≤ 224))

include int dense

include accepted in
/-- A field of an integer word reads back as its value. -/
theorem unpackField_packLoaded {i : Nat} (hi : i < (pkFields f role klen ratio j).length) {v : Int}
    (hv : v = (packValue f sat (decodeVal fmt (vs.getD i 0)).signed).1) (fits : fitsField f v) :
    unpackField f (packLoaded f sat role klen ratio fmt j vs).word ((pkFields f role klen ratio j).getD i (0, none)).1 = v := by
  have wide := formeAccepted_wide accepted
  have own : ((fieldValues f role klen ratio fmt j vs).map (·.1)).Nodup := fieldValues_places ▸ fieldPlaces_nodup f role
  have member := mem_fieldValues (fmt := fmt) (vs := vs) hi
  refine unpackField_of_raw (by omega) ?_ fits
  rw [hv, ← rawField_packFields own member, rawField, packLoaded_int int]
  obtain rfl | ⟨rfl, bundle, room⟩ := dense
  · rw [if_pos rfl, Nat.zero_shiftLeft, add_zero]
    rfl
  · have place := fieldPlaces_lt bundle (x := ((pkFields f true klen ratio j).getD i (0, none)).1)
      (fieldValues_places (fmt := fmt) (vs := vs) ▸ List.mem_map.2 ⟨_, member, rfl⟩)
    have := Nat.mul_le_mul_left (fW f) (Nat.succ_le_of_lt place)
    exact bitsOf_add_shift (by rw [← Nat.mul_succ]; omega) _ _

/-- The selector of a sparse word holds the indices of column 0. -/
theorem selIndex_packLoaded (sparse : ratio ≠ 1) {k : Nat} (hk : k < fK f) : selIndex (packLoaded f sat role klen ratio fmt j vs).word k =
    vs.getD ((pkFields f role klen ratio j).length + k) 0 % 4 := by
  have own : ((fieldValues f role klen ratio fmt j vs).map (·.1)).Nodup := fieldValues_places ▸ fieldPlaces_nodup f role
  obtain rfl | ⟨rfl, bundle, room⟩ := dense
  · exact absurd rfl sparse
  · rw [packLoaded_int int, if_neg sparse]
    refine selIndex_selector (lt_of_lt_of_le (packFields_lt own fun p hp => ?_) (Nat.pow_le_pow_right two_pos room))
      (fun k => Nat.mod_lt _ (by decide)) hk
    exact fieldPlaces_lt bundle (fieldValues_places (fmt := fmt) (vs := vs) ▸ List.mem_map.2 ⟨p, hp, rfl⟩)

end

/-! ## Words of a floating-point source (R37, R166) -/

/-- The fields of a word with their values, from its aligned blocks. -/
def blockFieldValue (bs : List ((Nat × Nat) × (Int × List Int × FlagSet))) (p : Nat × Option (Nat × Nat)) : Nat × Int :=
  match p.2 with
  | none => (p.1, 0)
  | some q =>
    match bs.find? fun b => b.1 == (q.1, q.2 / 32) with
    | some b => (p.1, b.2.2.1.getD (q.2 % 32) 0)
    | none => (p.1, 0)

theorem blockFieldValue_place (bs : List ((Nat × Nat) × (Int × List Int × FlagSet))) (p : Nat × Option (Nat × Nat)) :
    (blockFieldValue bs p).1 = p.1 := by
  unfold blockFieldValue
  split
  · rfl
  · split <;> rfl

/-- An entry is found by a key of its own. -/
theorem find?_own {α β : Type} [BEq α] [LawfulBEq α] {l : List (α × β)} (own : (l.map (·.1)).Nodup) {k : α} {v : β} (hx : (k, v) ∈ l) :
    l.find? (fun y => y.1 == k) = some (k, v) := by
  induction l with
  | nil => cases hx
  | cons y l ih =>
    rw [List.map_cons, List.nodup_cons] at own
    obtain rfl | hx := List.mem_cons.1 hx
    · rw [List.find?_cons_of_pos (by simp)]
    · rw [List.find?_cons_of_neg, ih own.2 hx]
      intro eq
      exact own.1 (eq_of_beq eq ▸ List.mem_map.2 ⟨_, hx, rfl⟩)

theorem nodup_eraseDups {α : Type} [BEq α] [LawfulBEq α] (l : List α) : l.eraseDups.Nodup := by
  induction h : l.length using Nat.strong_induction_on generalizing l with
  | _ n ih =>
    cases l with
    | nil => exact List.nodup_nil
    | cons x l =>
      have shorter := List.length_filter_le (fun y => !y == x) l
      rw [List.length_cons] at h
      rw [List.eraseDups_cons, List.nodup_cons, List.mem_eraseDups]
      exact ⟨by simp, ih _ (by omega) _ rfl⟩

section

variable {f : Word} {sat role : Bool} {klen ratio fmt j : Nat} {vs : List Nat}

/-- The blocks of a word, aligned. -/
def wordBlocks (f : Word) (role : Bool) (klen ratio fmt j : Nat) (vs : List Nat) : List ((Nat × Nat) × (Int × List Int × FlagSet)) :=
  blocksOf (fSfmt f) fmt (pkBlocks (pkFields f role klen ratio j)) vs

theorem packLoaded_float (float : sfmtInt f = false) :
    (packLoaded f sat role klen ratio fmt j vs).word =
      (packFields f sat ((pkFields f role klen ratio j).map (blockFieldValue (wordBlocks f role klen ratio fmt j vs)))).1 ∧
    (packLoaded f sat role klen ratio fmt j vs).blocks = (wordBlocks f role klen ratio fmt j vs).map fun b => (b.1, b.2.1) := by
  rw [packLoaded]
  dsimp only
  rw [if_neg (by simp [float])]
  exact ⟨rfl, rfl⟩

theorem wordBlocks_keys : (wordBlocks f role klen ratio fmt j vs).map (·.1) = pkBlocks (pkFields f role klen ratio j) := by
  rw [wordBlocks, blocksOf, List.map_map]
  exact List.zipIdx_map_fst 0 _

theorem wordBlocks_nodup : ((wordBlocks f role klen ratio fmt j vs).map (·.1)).Nodup := by
  rw [wordBlocks_keys]
  exact nodup_eraseDups _

/-- A block of a word is the alignment of its elements, under their scales when the object carries them (R32, R34, R37). -/
theorem mem_wordBlocks {n b : Nat} (hb : b < (pkBlocks (pkFields f role klen ratio j)).length) (hn : n ∈ [32, 64])
    (length : vs.length = n * (pkBlocks (pkFields f role klen ratio j)).length) :
    ((pkBlocks (pkFields f role klen ratio j)).getD b (0, 0),
      alignBlock (if fSfmt f = 6 then 4 else if fSfmt f = 7 then 8 else 12) ((List.range 32).map fun x =>
        scaled fmt (((vs.drop (b * n)).take n).getD x 0) (if n = 64 then some (((vs.drop (b * n)).take n).getD (32 + x) 0) else none))) ∈
      wordBlocks f role klen ratio fmt j vs := by
  have scales : decide (32 * (pkBlocks (pkFields f role klen ratio j)).length < vs.length) = decide (n = 64) := by
    simp only [List.mem_cons, List.not_mem_nil, or_false] at hn
    obtain rfl | rfl := hn
    · simp [length]
    · simp [length]
      omega
  have size : (if n = 64 then 64 else 32) = n := by
    simp only [List.mem_cons, List.not_mem_nil, or_false] at hn
    obtain rfl | rfl := hn <;> rfl
  rw [wordBlocks, blocksOf, scales]
  refine List.mem_map.2 ⟨((pkBlocks (pkFields f role klen ratio j))[b], b), ?_, ?_⟩
  · rw [List.mem_zipIdx_iff_getElem?]
    exact List.getElem?_eq_getElem hb
  · rw [List.getD_eq_getElem _ _ hb, blockBits, blockVals]
    simp only [decide_eq_true_eq, size]
    refine congrArg (fun l => (_, alignBlock _ l)) (List.map_congr_left fun x hx => ?_)
    rw [List.mem_range] at hx
    by_cases wide : n = 64
    · have size : 32 + x < ((vs.drop (b * n)).take n).length := by
        have := Nat.mul_le_mul_left n (Nat.succ_le_of_lt hb)
        rw [List.length_take, List.length_drop, length]
        rw [Nat.mul_succ, mul_comm n b] at this
        omega
      rw [if_pos wide, if_pos wide, List.getD_eq_getElem _ _ size, List.getD_eq_getElem _ _ size]
    · rw [if_neg wide, if_neg wide]

/-- A field of a word of a floating-point source reads back as its element in units of its block. -/
theorem unpackField_blocks (accepted : formeAccepted f) (float : sfmtInt f = false) {i fld row kk : Nat}
    (hi : i < (pkFields f role klen ratio j).length) (field_ : (pkFields f role klen ratio j).getD i (0, none) = (fld, some (row, kk)))
    {a : Int × List Int × FlagSet} (block : ((row, kk / 32), a) ∈ wordBlocks f role klen ratio fmt j vs) {v : Int}
    (hv : v = (packValue f sat (a.2.1.getD (kk % 32) 0)).1) (fits : fitsField f v) :
    unpackField f (packLoaded f sat role klen ratio fmt j vs).word fld = v := by
  have wide := formeAccepted_wide accepted
  have value : blockFieldValue (wordBlocks f role klen ratio fmt j vs) (fld, some (row, kk)) = (fld, a.2.1.getD (kk % 32) 0) := by
    simp only [blockFieldValue, find?_own wordBlocks_nodup block]
  have own : (((pkFields f role klen ratio j).map (blockFieldValue (wordBlocks f role klen ratio fmt j vs))).map (·.1)).Nodup := by
    rw [List.map_map, show Prod.fst ∘ blockFieldValue (wordBlocks f role klen ratio fmt j vs) = Prod.fst from
      funext (blockFieldValue_place _), pkFields_places]
    exact fieldPlaces_nodup f role
  have member : (fld, a.2.1.getD (kk % 32) 0) ∈ (pkFields f role klen ratio j).map (blockFieldValue (wordBlocks f role klen ratio fmt j vs)) :=
    List.mem_map.2 ⟨_, field_ ▸ List.getD_eq_getElem _ _ hi ▸ List.getElem_mem hi, value⟩
  refine unpackField_of_raw (by omega) ?_ fits
  rw [(packLoaded_float float).1, hv]
  exact rawField_packFields own member

end

end Sys2Proof.Machine
end

section
/-! PROOF. Side entries: what stands in them after a write, and the exponents that VLDPK writes into them (R221, R226). -/

namespace Sys2Proof.Machine

/-! ## Fields of a wide register -/

theorem testBit_bitsOf (x lo n i : Nat) : (bitsOf x lo n).testBit i = (decide (i < n) && x.testBit (lo + i)) := by
  rw [bitsOf, Nat.testBit_mod_two_pow, Nat.testBit_shiftRight]

section

variable {w : Nat} (x : BitVec w) {off n : Nat} (v : Nat)

theorem wideGet_widePut_same (fits : off + n ≤ w) : wideGet (widePut x off n v) off n = v % 2 ^ n := by
  refine Nat.eq_of_testBit_eq fun i => ?_
  rw [wideGet, widePut, testBit_bitsOf, BitVec.toNat_ofNat, Nat.testBit_mod_two_pow, testBit_putBits, Nat.testBit_mod_two_pow,
    Nat.add_sub_cancel_left]
  by_cases hi : i < n
  · rw [if_pos (by omega), decide_eq_true (show off + i < w by omega), Bool.true_and]
  · rw [decide_eq_false hi, Bool.false_and, Bool.false_and]

theorem wideGet_widePut_other {off' n' : Nat} (fits : off' + n' ≤ w) (apart : off' + n' ≤ off ∨ off + n ≤ off') :
    wideGet (widePut x off n v) off' n' = wideGet x off' n' := by
  refine Nat.eq_of_testBit_eq fun i => ?_
  rw [wideGet, wideGet, widePut, testBit_bitsOf, testBit_bitsOf, BitVec.toNat_ofNat, Nat.testBit_mod_two_pow, testBit_putBits]
  by_cases hi : i < n'
  · rw [if_neg (by omega), decide_eq_true (show off' + i < w by omega), Bool.true_and]
  · rw [decide_eq_false hi, Bool.false_and, Bool.false_and]

end

theorem vget_vset_other {α : Type} {n : Nat} (v : Vector α n) {i j : Nat} (x d : α) (other : i ≠ j) :
    vget (vset v i x) j d = vget v j d := by
  simp [vget, vset, List.getD_eq_getElem?_getD, List.getElem?_set_ne other]

/-! ## Side entries (R221) -/

/-- The number of entry x of a lane among the entries of its register (R108, R221). -/
def entryIndex (lanes lane x : Nat) : Nat := x % 64 / 8 * (8 * lanes) + 8 * lane + x % 8

theorem entryIndex_lt {lanes lane : Nat} (hl : lane < lanes) (x : Nat) : entryIndex lanes lane x < 64 * lanes := by
  have := Nat.mul_le_mul_right (8 * lanes) (show x % 64 / 8 ≤ 7 by omega)
  rw [entryIndex]
  omega

theorem entryIndex_inj {lanes l l' x x' : Nat} (hl : l < lanes) (hl' : l' < lanes) (eq : entryIndex lanes l x = entryIndex lanes l' x') :
    l = l' ∧ x % 64 = x' % 64 := by
  rw [entryIndex, entryIndex, add_assoc, add_assoc] at eq
  obtain ⟨high, low⟩ := mul_add_inj (show 8 * l + x % 8 < 8 * lanes by omega) (show 8 * l' + x' % 8 < 8 * lanes by omega) eq
  omega

/-- The bits of an entry in the register that holds it. -/
theorem laneBit_entry {lanes lane off : Nat} (x : Nat) (inside : off < 64) :
    laneBit lanes lane (8 * (8 * x % 512) + off) = 64 * entryIndex lanes lane x + off := by
  rw [laneBit, entryIndex, show (8 * (8 * x % 512) + off) / 512 = x % 64 / 8 by omega,
    show (8 * (8 * x % 512) + off) % 512 = 64 * (x % 8) + off by omega]
  ring

section

variable {t : Tile} {k lane x off n : Nat} (hl : lane < t.lanes) (inside : off < 64)

include hl inside

theorem entry_place : laneBit t.lanes lane (8 * (8 * x % 512) + off) / regBits t.lanes = 0 ∧
    laneBit t.lanes lane (8 * (8 * x % 512) + off) % regBits t.lanes = 64 * entryIndex t.lanes lane x + off := by
  have lt := entryIndex_lt hl x
  have room : 64 * entryIndex t.lanes lane x + off < regBits t.lanes := by
    rw [regBits]
    omega
  rw [laneBit_entry x inside]
  exact ⟨Nat.div_eq_of_lt room, Nat.mod_eq_of_lt room⟩

theorem tileGet_eq (r : Regs) : t.get r k lane x off n =
    wideGet (getV r (t.base + k * t.sr + x / 64)) (64 * entryIndex t.lanes lane x + off) n := by
  obtain ⟨reg, place⟩ := entry_place (x := x) hl inside
  simp only [Tile.get, Tile.entry, getLane, reg, place, add_zero, show 8 * x / 512 = x / 64 by omega]

theorem tilePut_v (v : Nat) (r : Regs) : (t.put k lane x off n v r).v = vset r.v (t.base + k * t.sr + x / 64)
    (widePut (getV r (t.base + k * t.sr + x / 64)) (64 * entryIndex t.lanes lane x + off) n v) := by
  obtain ⟨reg, place⟩ := entry_place (x := x) hl inside
  simp only [Tile.put, Tile.entry, setLane, reg, place, add_zero, show 8 * x / 512 = x / 64 by omega]

end

section

variable {t : Tile} {k lane x off n : Nat} (narrow : t.lanes ≤ 32) (hl : lane < t.lanes) (inside : off + n ≤ 64) (some_ : 0 < n)
  (reg : t.base + k * t.sr + x / 64 < 64) (v : Nat) (r : Regs)

include narrow hl inside some_ reg

theorem tileGet_tilePut_same : t.get (t.put k lane x off n v r) k lane x off n = v % 2 ^ n := by
  have lt := entryIndex_lt hl x
  rw [tileGet_eq hl (by omega), getV, tilePut_v hl (by omega), vget_vset _ _ _ _ _ reg, if_pos rfl]
  exact wideGet_widePut_same _ _ (by omega)

theorem tileGet_tilePut_other {lane' x' off' n' : Nat} (hl' : lane' < t.lanes) (inside' : off' + n' ≤ 64) (some' : 0 < n')
    (apart : (lane', x') ≠ (lane, x) ∨ off + n ≤ off' ∨ off' + n' ≤ off) :
    t.get (t.put k lane' x' off' n' v r) k lane x off n = t.get r k lane x off n := by
  have lt := entryIndex_lt hl x
  rw [tileGet_eq hl (by omega), tileGet_eq hl (by omega), getV, tilePut_v hl' (by omega)]
  by_cases same : t.base + k * t.sr + x / 64 = t.base + k * t.sr + x' / 64
  · have other : entryIndex t.lanes lane x ≠ entryIndex t.lanes lane' x' ∨ off + n ≤ off' ∨ off' + n' ≤ off := by
      refine apart.imp_left fun ne eq => ne ?_
      obtain ⟨lanes, low⟩ := entryIndex_inj hl hl' eq
      rw [lanes, show x' = x by omega]
    rw [← same, vget_vset _ _ _ _ _ reg, if_pos rfl]
    exact wideGet_widePut_other _ _ (by omega) (by omega)
  · rw [vget_vset_other _ _ _ (Ne.symm same), getV]

end

/-! ## The exponents of blocks (R226) -/

/-- An exponent put into an entry: SC takes it and ZE 127. -/
def putExponent (t : Tile) (k : Nat) (w : Nat × Nat × Int) (r : Regs) : Regs :=
  t.put k w.1 w.2.1 16 8 127 (t.put k w.1 w.2.1 0 16 (lowBits w.2.2 16) r)

section

variable {t : Tile} {k lane x : Nat} (narrow : t.lanes ≤ 32) (hl : lane < t.lanes) (reg : t.base + k * t.sr + x / 64 < 64)

include narrow hl reg

theorem putExponent_same (e : Int) (r : Regs) : t.get (putExponent t k (lane, x, e) r) k lane x 0 16 = lowBits e 16 ∧
    t.get (putExponent t k (lane, x, e) r) k lane x 16 8 = 127 ∧
    t.get (putExponent t k (lane, x, e) r) k lane x 24 40 = t.get r k lane x 24 40 := by
  have below (v : Nat) (r : Regs) : t.get (t.put k lane x 16 8 v r) k lane x 0 16 = t.get r k lane x 0 16 :=
    tileGet_tilePut_other narrow hl (by decide) (by decide) reg v r hl (by decide) (by decide) (.inr (.inl le_rfl))
  have above (off n v : Nat) (low : off + n ≤ 24) (some_ : 0 < n) (r : Regs) :
      t.get (t.put k lane x off n v r) k lane x 24 40 = t.get r k lane x 24 40 :=
    tileGet_tilePut_other narrow hl (by decide) (by decide) reg v r hl (by omega) some_ (.inr (.inr low))
  refine ⟨?_, ?_, ?_⟩
  · rw [putExponent, below, tileGet_tilePut_same narrow hl (by decide) (by decide) reg, Nat.mod_eq_of_lt (lowBits_lt _ _)]
  · exact tileGet_tilePut_same narrow hl (by decide) (by decide) reg _ _
  · rw [putExponent, above _ _ _ (by decide) (by decide), above _ _ _ (by decide) (by decide)]

theorem putExponent_other {w : Nat × Nat × Int} (hw : w.1 < t.lanes) (other : (w.1, w.2.1) ≠ (lane, x)) {off n : Nat} (inside : off + n ≤ 64)
    (some_ : 0 < n) (r : Regs) : t.get (putExponent t k w r) k lane x off n = t.get r k lane x off n := by
  rw [putExponent, tileGet_tilePut_other narrow hl inside some_ reg _ _ hw (by decide) (by decide) (.inl other),
    tileGet_tilePut_other narrow hl inside some_ reg _ _ hw (by decide) (by decide) (.inl other)]

/-- Exponents put into other entries leave an entry as it was. -/
theorem foldl_putExponent_other {l : List (Nat × Nat × Int)} (lanes : ∀ w ∈ l, w.1 < t.lanes) (other : ∀ w ∈ l, (w.1, w.2.1) ≠ (lane, x))
    {off n : Nat} (inside : off + n ≤ 64) (some_ : 0 < n) (r : Regs) :
    t.get (l.foldl (fun r w => putExponent t k w r) r) k lane x off n = t.get r k lane x off n := by
  induction l generalizing r with
  | nil => rfl
  | cons w l ih =>
    obtain ⟨hw, hl'⟩ := List.forall_mem_cons.1 lanes
    obtain ⟨ho, others⟩ := List.forall_mem_cons.1 other
    rw [List.foldl_cons, ih hl' others, putExponent_other narrow hl reg hw ho inside some_]

/-- Exponents put into entries of their own stand there, with ZE 127, and the rest of each entry stays. -/
theorem foldl_putExponent {l : List (Nat × Nat × Int)} (lanes : ∀ w ∈ l, w.1 < t.lanes) (own : (l.map fun w => (w.1, w.2.1)).Nodup) {e : Int}
    (he : (lane, x, e) ∈ l) (r : Regs) :
    t.get (l.foldl (fun r w => putExponent t k w r) r) k lane x 0 16 = lowBits e 16 ∧
      t.get (l.foldl (fun r w => putExponent t k w r) r) k lane x 16 8 = 127 ∧
      t.get (l.foldl (fun r w => putExponent t k w r) r) k lane x 24 40 = t.get r k lane x 24 40 := by
  induction l generalizing r with
  | nil => cases he
  | cons w l ih =>
    obtain ⟨hw, lanes'⟩ := List.forall_mem_cons.1 lanes
    rw [List.map_cons, List.nodup_cons] at own
    rw [List.foldl_cons]
    obtain rfl | he := List.mem_cons.1 he
    · have other : ∀ w ∈ l, (w.1, w.2.1) ≠ (lane, x) := fun w hw eq => own.1 (List.mem_map.2 ⟨w, hw, eq⟩)
      have rest (off n : Nat) (inside : off + n ≤ 64) (some_ : 0 < n) :=
        foldl_putExponent_other narrow hl reg lanes' other inside some_ (putExponent t k (lane, x, e) r)
      rw [rest 0 16 (by decide) (by decide), rest 16 8 (by decide) (by decide), rest 24 40 (by decide) (by decide)]
      exact putExponent_same narrow hl reg e r
    · obtain ⟨sc, ze, kept⟩ := ih lanes' own.2 he (putExponent t k w r)
      refine ⟨sc, ze, kept.trans (putExponent_other narrow hl reg hw (fun eq => own.1 ?_) (by decide) (by decide) r)⟩
      exact List.mem_map.2 ⟨_, he, eq.symm⟩

end

/-- The rows or columns of a word of a bundle. -/
def pkLines (f : Word) (role : Bool) : Nat := if role then fN f else fM f

/-- The exponents that a word writes, each with its lane and its entry (R226). -/
def exponentWrites (t : Tile) (role : Bool) (klen j : Nat) (p : Packed) : List (Nat × Nat × Int) :=
  (pkEntries t.f role klen j).flatMap fun e => if role
    then (List.range t.lanes).map fun l => (l, t.tr + j * fN t.f + e.1, entryExponent t.f role klen j p e)
    else [(pwLane t.lanes j, pwIndex t.lanes j / t.ratio * fM t.f + e.1, entryExponent t.f role klen j p e)]

theorem putExponents_eq (t : Tile) (role : Bool) (klen eu j : Nat) (base : Word) (p : Packed) (r : Regs) : putExponents t role klen eu j base p r =
    (exponentWrites t role klen j p).foldl (fun r w => putExponent t (pkGroup t.f role klen eu j base) w r) r := by
  rw [putExponents, exponentWrites, List.foldl_flatMap]
  dsimp only
  congr 1
  funext r e
  cases role
  · rfl
  · rw [if_pos rfl, if_pos rfl, List.foldl_map]
    rfl

section

variable {t : Tile} {role : Bool} {klen j : Nat} {p : Packed} (bundle : fConv t.f = false)

include bundle

theorem pkEntries_bundle : pkEntries t.f role klen j = (List.range (pkLines t.f role)).map fun x =>
    (x, (j / ceilDiv klen (pkStep t.f role 1) * pkLines t.f role + x, pkFirst t.f role klen 1 j / 32)) := by
  rw [pkEntries]
  dsimp only
  rw [if_neg (by simp [bundle])]
  rfl

/-- The exponent of a line of a word of a bundle is that of its block. -/
theorem entryExponent_bundle (own : (p.blocks.map (·.1)).Nodup) {x : Nat} {block : Nat × Nat} {e : Int} (he : (block, e) ∈ p.blocks) :
    entryExponent t.f role klen j p (x, block) = e := by
  rw [entryExponent]
  dsimp only
  rw [find?_own own he, bundle]
  rfl

/-- The exponents of the rows of a word stand in its own lane. -/
theorem exponentWrites_rows : exponentWrites t false klen j p = (List.range (fM t.f)).map fun x =>
    (pwLane t.lanes j, pwIndex t.lanes j / t.ratio * fM t.f + x, entryExponent t.f false klen j p
      (x, (j / ceilDiv klen (pkStep t.f false 1) * fM t.f + x, pkFirst t.f false klen 1 j / 32))) := by
  rw [exponentWrites, pkEntries_bundle bundle, List.flatMap_map, List.map_eq_flatMap]
  rfl

/-- The exponents of the columns of a word stand in every lane. -/
theorem exponentWrites_cols : exponentWrites t true klen j p = (List.range (fN t.f)).flatMap fun x => (List.range t.lanes).map fun l =>
    (l, t.tr + j * fN t.f + x, entryExponent t.f true klen j p
      (x, (j / ceilDiv klen (pkStep t.f true 1) * fN t.f + x, pkFirst t.f true klen 1 j / 32))) := by
  rw [exponentWrites, pkEntries_bundle bundle, List.flatMap_map]
  rfl

theorem exponentWrites_own : ((exponentWrites t role klen j p).map fun w => (w.1, w.2.1)).Nodup := by
  cases role
  · rw [exponentWrites_rows bundle, List.map_map]
    exact List.Nodup.map (fun x y eq => by simpa using eq) List.nodup_range
  · rw [exponentWrites_cols bundle, List.map_flatMap]
    refine nodup_flatMap_range (fun x _ => ?_) fun x y w _ _ hx hy => ?_
    · rw [List.map_map]
      exact List.Nodup.map (fun l m eq => (Prod.mk.inj eq).1) List.nodup_range
    · simp only [List.map_map, List.mem_map, Function.comp_apply] at hx hy
      obtain ⟨l, -, rfl⟩ := hx
      obtain ⟨m, -, eq⟩ := hy
      have := (Prod.mk.inj eq).2
      omega

theorem exponentWrites_lanes (some_ : 0 < t.lanes) : ∀ w ∈ exponentWrites t role klen j p, w.1 < t.lanes := by
  intro w hw
  cases role
  · rw [exponentWrites_rows bundle] at hw
    obtain ⟨x, -, rfl⟩ := List.mem_map.1 hw
    exact Nat.mod_lt _ some_
  · rw [exponentWrites_cols bundle] at hw
    obtain ⟨x, -, hw⟩ := List.mem_flatMap.1 hw
    obtain ⟨l, hl, rfl⟩ := List.mem_map.1 hw
    exact List.mem_range.1 hl

/-- A line of a word writes the exponent of its block into its entry, in the lane of the word or in every lane. -/
theorem mem_exponentWrites {lane x : Nat} {e : Int} (own : (p.blocks.map (·.1)).Nodup) (hx : x < if role then fN t.f else fM t.f)
    (he : ((j / ceilDiv klen (pkStep t.f role 1) * (if role then fN t.f else fM t.f) + x, pkFirst t.f role klen 1 j / 32), e) ∈ p.blocks)
    (hl : lane < t.lanes) (home : role = false → lane = pwLane t.lanes j) :
    (lane, if role then t.tr + j * fN t.f + x else pwIndex t.lanes j / t.ratio * fM t.f + x, e) ∈ exponentWrites t role klen j p := by
  cases role
  · simp only [Bool.false_eq_true, if_false] at hx he ⊢
    rw [exponentWrites_rows bundle]
    exact List.mem_map.2 ⟨x, List.mem_range.2 hx, by rw [entryExponent_bundle bundle own he, home rfl]⟩
  · simp only [if_true] at hx he ⊢
    rw [exponentWrites_cols bundle]
    exact List.mem_flatMap.2 ⟨x, List.mem_range.2 hx, List.mem_map.2 ⟨lane, List.mem_range.2 hl, by
      rw [entryExponent_bundle bundle own he]⟩⟩

omit bundle in
/-- The register of an entry of a group of exponents lies in the file. -/
theorem entryRegister_lt {t : Tile} {k entry : Nat} (room : t.base + (k + 1) * t.sr ≤ 64) (size : t.sr = ceilDiv ((t.tr + t.tc) * 8) 512)
    (hx : entry < t.tr + t.tc) : t.base + k * t.sr + entry / 64 < 64 := by
  rw [Nat.succ_mul] at room
  have : entry / 64 < t.sr := by
    rw [size, ceilDiv]
    omega
  omega

/-- VLDPK writes the exponent of a block into the entry of each line of it (R226). -/
theorem putExponents_get {eu lane x k entry : Nat} {base : Word} {e : Int} (hk : k = pkGroup t.f role klen eu j base)
    (entry_ : entry = if role then t.tr + j * fN t.f + x else pwIndex t.lanes j / t.ratio * fM t.f + x)
    (hl : lane < t.lanes) (narrow : t.lanes ≤ 32) (low : -2 ^ 15 ≤ e) (high : e < 2 ^ 15) (reg : t.base + k * t.sr + entry / 64 < 64)
    (own : (p.blocks.map (·.1)).Nodup) (hx : x < if role then fN t.f else fM t.f)
    (he : ((j / ceilDiv klen (pkStep t.f role 1) * (if role then fN t.f else fM t.f) + x, pkFirst t.f role klen 1 j / 32), e) ∈ p.blocks)
    (home : role = false → lane = pwLane t.lanes j) (r : Regs) :
    signedOf (t.get (putExponents t role klen eu j base p r) k lane entry 0 16) 16 = e ∧
      t.get (putExponents t role klen eu j base p r) k lane entry 16 8 = 127 ∧
      t.get (putExponents t role klen eu j base p r) k lane entry 24 40 = t.get r k lane entry 24 40 := by
  subst hk entry_
  obtain ⟨sc, ze, kept⟩ := foldl_putExponent narrow hl reg (exponentWrites_lanes bundle (Nat.zero_lt_of_lt hl)) (exponentWrites_own bundle)
    (mem_exponentWrites bundle own hx he hl home) r
  rw [putExponents_eq, sc]
  exact ⟨signedOf_lowBits (by decide) low high, ze, kept⟩

end

end Sys2Proof.Machine
end

section
/-! PROOF. Accesses of a hart with nothing outstanding: what they take, what stays, their issue and their retirement (R111, R153, R270, R273). -/

namespace Sys2Proof.Machine

/-! ## What an access takes -/

/-- A scalar field of an access changes queues and what waits at their heads, and nothing else. -/
theorem accessSrc_pops {o : SOp} {w v : Word} {s t : State} (h : accessSrc o w s = .ok (v, t)) :
    ∃ q p, t = modMe s fun h => { h with r := { h.r with q := q }, popped := p } := by
  cases o with
  | s n =>
    obtain ⟨-, rfl⟩ : w = v ∧ s = t := by simpa [accessSrc] using h
    exact ⟨_, _, rfl⟩
  | q k =>
    simp only [accessSrc] at h
    split at h
    · unfold popQ at h
      split at h
      · simp only [Except.ok.injEq, Prod.mk.injEq] at h
        exact ⟨_, _, h.2.symm⟩
      · split at h
        · cases h
        · simp only [Except.ok.injEq, Prod.mk.injEq] at h
          exact ⟨_, _, h.2.symm⟩
    · cases h

/-! ## Data that stays -/

/-- Two states hold the same data, with the same words of it in error. -/
structure SameData (s t : State) : Prop where
  mem : t.mem = s.mem
  badMem : t.badMem = s.badMem
  scratch : ∀ n, (getCore t n).scratch = (getCore s n).scratch
  badWords : ∀ n, (getCore t n).badWords = (getCore s n).badWords

namespace SameData

variable {s t u : State}

theorem refl (s : State) : SameData s s := ⟨rfl, rfl, fun _ => rfl, fun _ => rfl⟩

theorem trans (h : SameData s t) (g : SameData t u) : SameData s u :=
  ⟨g.mem.trans h.mem, g.badMem.trans h.badMem, fun n => (g.scratch n).trans (h.scratch n), fun n => (g.badWords n).trans (h.badWords n)⟩

theorem modMe (s : State) (f : Hart → Hart) : SameData s (modMe s f) := ⟨rfl, rfl, fun _ => rfl, fun _ => rfl⟩

/-- A change of a core that keeps its scratchpad. -/
theorem modCore (s : State) (n : Nat) {f : Core → Core} (scratch : ∀ c, (f c).scratch = c.scratch) (bad : ∀ c, (f c).badWords = c.badWords) :
    SameData s (modCore s n f) := by
  have core (m : Nat) : getCore (Machine.modCore s n f) m = if m = n then f (getCore s m) else getCore s m := by
    split
    · next h => rw [h, getCore_modCore_same]
    · next h => exact getCore_modCore_other _ _ _ _ h
  refine ⟨rfl, rfl, fun m => ?_, fun m => ?_⟩
  · rw [core]
    split
    · exact scratch _
    · rfl
  · rw [core]
    split
    · exact bad _
    · rfl

theorem cellsOf (h : SameData s t) (core : Option Nat) : cellsOf t core = cellsOf s core := by
  cases core with
  | none => exact h.mem
  | some n => exact h.scratch n

theorem readPlace (h : SameData s t) (p : Place) : readPlace t p = readPlace s p := by
  rw [Machine.readPlace, Machine.readPlace, h.cellsOf]

theorem placeBad (h : SameData s t) (p : Place) : placeBad t p = placeBad s p := by
  simp only [Machine.placeBad, h.badMem, h.badWords]

end SameData

/-- Writes to places leave the same in memories that held the same. -/
theorem cellsOf_putPlaces_congr {s t : State} (same : ∀ core, cellsOf t core = cellsOf s core) (ws : List (Place × Nat)) (core : Option Nat) :
    cellsOf (putPlaces t ws) core = cellsOf (putPlaces s ws) core := by
  induction ws generalizing s t with
  | nil => exact same core
  | cons w ws ih =>
    refine ih fun other => ?_
    by_cases here : other = w.1.core
    · rw [here, cellsOf_setCells_same, cellsOf_setCells_same, same]
    · rw [cellsOf_setCells_other _ _ _ _ here, cellsOf_setCells_other _ _ _ _ here, same]

theorem cellsOf_writePlaces_congr {s t : State} (same : SameData s t) (ws : List (Place × Nat)) (core : Option Nat) :
    cellsOf (writePlaces t ws) core = cellsOf (writePlaces s ws) core := by
  rw [cellsOf_writePlaces, cellsOf_writePlaces, cellsOf_putPlaces_congr same.cellsOf]

theorem cellsOf_modHart (s : State) (hid : Nat) (f : Hart → Hart) (core : Option Nat) : cellsOf (modHart s hid f) core = cellsOf s core := by
  cases core <;> rfl

/-! ## Translation leaves caches only (R74) -/

/-- A state differs from another in the caches of its cores alone. -/
def OnlyCaches (s t : State) : Prop := SameData s t ∧ t = { s with cores := t.cores }

namespace OnlyCaches

variable {s t u : State}

theorem refl (s : State) : OnlyCaches s s := ⟨.refl s, rfl⟩

theorem trans (h : OnlyCaches s t) (g : OnlyCaches t u) : OnlyCaches s u := by
  refine ⟨h.1.trans g.1, ?_⟩
  rw [g.2, h.2]

theorem me (h : OnlyCaches s t) : t.me = s.me := by rw [h.2]

theorem foldl {α : Type} {f : State → α → State} (step : ∀ s a, OnlyCaches s (f s a)) (l : List α) (s : State) : OnlyCaches s (l.foldl f s) := by
  induction l generalizing s with
  | nil => exact .refl s
  | cons a l ih => exact (step s a).trans (ih _)

end OnlyCaches

theorem touchOrc_caches (s : State) (core ctx h : Nat) (words : Record) : OnlyCaches s (touchOrc s core ctx h words) :=
  ⟨SameData.modCore s core (fun _ => rfl) fun _ => rfl, rfl⟩

theorem touchMap_caches (s : State) (core ctx h st : Nat) (entry : Word) : OnlyCaches s (touchMap s core ctx h st entry) :=
  ⟨SameData.modCore s core (fun _ => rfl) fun _ => rfl, rfl⟩

theorem touchHandle_caches {s : State} (clean : s.softMem = []) (w : Who) (h : Nat) (subs : List Nat) :
    OnlyCaches s (touchHandle s w h subs) := by
  unfold touchHandle
  rw [correctTable_clean s w h subs clean]
  split
  · exact .refl s
  · dsimp only
    split
    · split
      · exact (touchOrc_caches ..).trans (.foldl (fun t st => touchMap_caches ..) _ _)
      · exact touchOrc_caches ..
    · exact .refl s

/-- With no correctable error waiting, the translation of elements changes the caches of the core alone. -/
theorem touchElements_caches {s : State} (clean : s.softMem = []) (es : List Element) : OnlyCaches s (touchElements s es) := by
  unfold touchElements
  split
  · exact .refl s
  · split
    · exact .refl s
    · exact touchHandle_caches clean ..

/-! ## Issue with nothing outstanding (R273) -/

theorem calm_caches {s t : State} (h : calm s) (caches : OnlyCaches s t) : calm t := by
  rw [caches.2]
  exact h

/-- A hart that counts one more operation as issued. -/
def issuing (s : State) (stream : Nat) : State := modMe s fun h => countIssued h stream

section

variable {s : State} {f : Flight} (quiet : calm s)

include quiet

theorem calm_noWindows : noWindows s = true := by
  obtain ⟨⟨-, -, -, -, -, -, none_, -, -⟩, -⟩ := quiet
  rw [noWindows, List.all_eq_true]
  exact fun d hd => by rw [none_ d hd]; rfl

theorem calm_streamRoom (stream : Nat) : streamRoom s stream = .ok ⟨⟩ := by
  obtain ⟨⟨-, -, -, -, -, -, -, -, room⟩, -⟩ := quiet
  exact if_pos (room stream)

theorem calm_tableRoom : tableRoom s 1 = .ok ⟨⟩ := by
  obtain ⟨⟨-, -, flights, transfers, -⟩, -⟩ := quiet
  simp [tableRoom, tableUsed, flights, transfers, holds]

/-- Nothing keeps an operation from performing. -/
theorem calm_unordered : orderBlocked (issuing s f.stream) (issuing s f.stream).me f false = false := by
  obtain ⟨⟨-, -, flights, transfers, -⟩, stores⟩ := quiet
  have lent : lentBehind (issuing s f.stream).me f.seq f.pmask stillUnperformed = false := by
    simp [lentBehind, stillUnperformed, stillBuffered, issuing, modMe, countIssued, flights, stores]
  rw [orderBlocked, lent]
  simp [ownTransfers, stripBlocks, issuing, modMe, countIssued, flights, transfers, stores]

/-- An operation whose data is clean performs as it issues. -/
theorem issueOp_calm (plain : isMmau f = false) (clean : dataTrap s f = none) :
    issueOp s f = .ok (performFlight (issuing s f.stream) s.me.hid f) := by
  have perform : canPerform (issuing s f.stream) (issuing s f.stream).me f = true := by
    have data : dataTrap (issuing s f.stream) f = none := clean
    have windows : noWindows (issuing s f.stream) = true := calm_noWindows (s := s) quiet
    simp [canPerform, mayPerform, calm_unordered quiet, plain, data, backoffHolds, backoffAt, windows]
  have turn : (issuing s f.stream).me.defer = false := by
    obtain ⟨⟨-, -, -, -, defer, -⟩, -⟩ := quiet
    exact defer
  rw [issueOp, ok_bind (calm_streamRoom quiet _), ok_bind (calm_tableRoom quiet)]
  dsimp only
  rw [← issuing, perform, turn]
  rfl

/-- An operation that performs: its effect and its count. -/
theorem performFlight_calm (plain : isMmau f = false) (clean : dataTrap s f = none) :
    performFlight (issuing s f.stream) s.me.hid f = modHart (performAction (issuing s f.stream) (issuing s f.stream).me f) s.me.hid fun g =>
      keepPerformed f (lentBy (issuing s f.stream).me f) (countPerf
        { g with flights := g.flights.filter fun x => x.parked || x.seq != f.seq || x.released != f.released } f.stream) := by
  obtain ⟨⟨hid, -, -, -, -, soft, -⟩, -⟩ := quiet
  have me : hartOf (issuing s f.stream) s.me.hid = some (issuing s f.stream).me := by
    have named : (issuing s f.stream).me.hid = s.me.hid := rfl
    rw [hartOf, allHarts, if_neg (by rwa [named]), List.find?_cons_of_pos (by simp [named])]
  have data : dataTrap (issuing s f.stream) f = none := clean
  have late : mmauTrap (issuing s f.stream) (issuing s f.stream).me f = none := by
    unfold isMmau at plain
    unfold mmauTrap
    split
    · next h => simp [h] at plain
    · rfl
  have corrected : correctFor (issuing s f.stream) f = issuing s f.stream := by
    have soft' : (issuing s f.stream).softMem = [] := soft
    unfold correctFor
    split
    · rfl
    · rw [soft']; rfl
  simp only [performFlight, me, data, late, corrected, plain, Option.or_none, Bool.false_eq_true, if_false]

/-- A vector load that issues lands the values at its places, and leaves nothing outstanding (R273). -/
theorem issueOp_vload {fmt : Nat} {ps : List (Nat × Place)} (load : f.action = .vload fmt ps) (clean : dataTrap s f = none) :
    ∃ u, issueOp s f = .ok u ∧ u.mem = s.mem ∧ u.me.flights = [] ∧
      u.me.r = landVector f (lanesOf s.me) fmt (ps.map fun p => (p.1, readPlace s p.2)) s.me.r := by
  have plain : isMmau f = false := by rw [isMmau, load]
  refine ⟨_, issueOp_calm quiet plain clean, ?_⟩
  rw [performFlight_calm quiet plain clean]
  obtain ⟨⟨-, -, flights, -⟩, stores⟩ := quiet
  have view (p : Place) : viewPlace (issuing s f.stream) (issuing s f.stream).me f p = readPlace s p := by
    have own : ownStores (issuing s f.stream).me f = [] := by
      simp [ownStores, issuing, modMe, countIssued, stores]
    rw [viewPlace, own]
    rfl
  simp only [performAction, load, view]
  refine ⟨rfl, ?_, ?_⟩
  all_goals simp [modHart, issuing, modMe, countIssued, landRegs, keepPerformed, countPerf, pruneLate, flights, lanesOf]

/-- A vector store that issues writes its values at its places, and leaves nothing outstanding (R273). -/
theorem issueOp_store {ws : List (Place × Nat)} (store : f.action = .store ws) (clean : dataTrap s f = none) :
    ∃ u, issueOp s f = .ok u ∧ (∀ core, cellsOf u core = cellsOf (writePlaces s ws) core) ∧ u.me.flights = [] ∧ u.me.r = s.me.r := by
  have plain : isMmau f = false := by rw [isMmau, store]
  refine ⟨_, issueOp_calm quiet plain clean, ?_⟩
  rw [performFlight_calm quiet plain clean]
  obtain ⟨⟨-, -, flights, -⟩, stores⟩ := quiet
  have write : performAction (issuing s f.stream) (issuing s f.stream).me f = writePlaces (issuing s f.stream) ws := by
    simp [performAction, store, issuing, modMe, countIssued, stores]
  rw [write]
  refine ⟨fun core => ?_, ?_, ?_⟩
  · exact (cellsOf_modHart ..).trans (cellsOf_writePlaces_congr (SameData.modMe s _) ws core)
  all_goals simp [modHart, issuing, modMe, countIssued, keepPerformed, countPerf, pruneLate, flights]

end

end Sys2Proof.Machine
end

section
/-! PROOF. Retirement of an access of a hart with nothing outstanding: what stays and what it counts (R111, R264, R297). -/

namespace Sys2Proof.Machine

/-! ## Retirement of an access (R111, R264) -/

/-- The registers after an access that retires: its flags and its counts, held for PROOF or not, and what passing by changes. -/
def finished (held : Bool) (fl : FlagSet) (d : Counts) (r : Regs) : Regs :=
  let t := addPending held d (raise held fl r)
  { countRetired held { t with pc := nextPc t.pc, stick := stickNext t.stick, armed := false, vstart := 0 } with counts := Counts.zero }

/-- What an access that retires leaves of the registers. -/
theorem finished_keeps (held : Bool) (fl : FlagSet) (d : Counts) (r : Regs) :
    ((finished held fl d r).v = r.v ∧ (finished held fl d r).w = r.w ∧ (finished held fl d r).x = r.x ∧ (finished held fl d r).q = r.q ∧
      (finished held fl d r).z = r.z ∧ (finished held fl d r).m = r.m) ∧ (finished held fl d r).pc = nextPc r.pc ∧
    (finished held fl d r).vstart = 0 ∧ (finished held fl d r).strip.stores = r.strip.stores ∧
    (held = false → (finished held fl d r).fflags = r.fflags ||| fl) := by
  unfold finished countRetired addPending raise
  cases held
  · simp
  · cases isOpen : r.strip.isOpen <;> simp [isOpen]

/-- A hart past an instruction of the vector or access stream, its counts still to reach the core. -/
def passedHart (held : Bool) (h : Hart) : Hart := { passBy false h with r := countRetired held (passBy false h).r, pin := none }

@[simp] theorem passedHart_flights (held : Bool) (h : Hart) : (passedHart held h).flights = h.flights := by
  cases h
  rfl

@[simp] theorem passedHart_r (held : Bool) (h : Hart) : (passedHart held h).r = countRetired held (passBy false h).r := rfl

theorem retireStream_passed (held : Bool) (t : State) : retireStream held false t = settleCounts (modMe t (passedHart held)) := rfl

section

variable (s : State)

@[simp] theorem settleCounts_mem : (settleCounts s).mem = s.mem := by
  unfold settleCounts
  split <;> rfl

@[simp] theorem settleCounts_flights : (settleCounts s).me.flights = s.me.flights := by
  unfold settleCounts
  split <;> rfl

theorem settleCounts_r (settled : s.me.flights.any unretired = false) : (settleCounts s).me.r = { s.me.r with counts := Counts.zero } :=
  congrArg (fun t => t.me.r) (settleCounts_frame s settled)

end

/-- An instruction of the access stream that retires with nothing before it. -/
theorem retireStream_keeps {t : State} (none_ : t.me.flights = []) (held : Bool) :
    (∀ core, cellsOf (retireStream held false t) core = cellsOf t core) ∧ (retireStream held false t).me.flights = [] ∧
      (retireStream held false t).me.r = { countRetired held (passBy false t.me).r with counts := Counts.zero } := by
  have settled : (modMe t (passedHart held)).me.flights.any unretired = false := by simp [none_]
  rw [retireStream_passed, settleCounts_r _ settled, settleCounts_flights, modMe_me, passedHart_flights, passedHart_r]
  refine ⟨fun core => ?_, none_, rfl⟩
  cases core with
  | none => rw [cellsOf, settleCounts_mem, modMe_mem, cellsOf]
  | some n =>
    rw [cellsOf, cellsOf, getCore_settleCounts _ settled, getCore_modMe]
    split
    · rfl
    · rfl

section

variable {i : Instr} {mem : Nat} {g : Fin 8} {sa : SOp} {sb : Option SOp} {body : Env → State → StreamResult} {s : State} {env : Env}
  (quiet : calm s) (dispatched : dispatchEnv s g (some sa) sb = .ok env)

include quiet in
/-- The window has room for one group of a hart with nothing outstanding. -/
theorem calm_windowRoom : windowRoom s 1 = true := by
  obtain ⟨⟨-, -, flights, -⟩, -⟩ := quiet
  have reserve : 1 ≤ windowReserve s.me.nh := le_max_left _ _
  have taken : sharedTaken s.me.nh 0 1 = 0 := by
    rw [sharedTaken]
    omega
  have held : entriesHeld s.me = 0 := by simp [entriesHeld, flights]
  rw [windowRoom]
  dsimp only
  rw [held, taken]
  rfl

include quiet dispatched

/-- A body that ends with its effect retires. -/
theorem runStream_done {t : State} (done : body env s = .ok (t, none)) :
    runStream i mem false g (some sa) sb body s = .next (retireStream (heldBy i env.slot) false t) := by
  have room := calm_windowRoom quiet
  obtain ⟨⟨-, replay, flights, -⟩, -⟩ := quiet
  have parked : anyParked s = false := by simp [anyParked, flights]
  simp only [runStream, replay, dispatched, parked, room, done, Bool.false_eq_true, if_false, Bool.not_true]

/-- A body that traps takes its trap. -/
theorem runStream_traps {t : TrapInfo} (done : body env s = .error (.trap t)) :
    runStream i mem false g (some sa) sb body s = .next (preciseTrap s t (lossSlot i env.slot) false (mem == 1 || mem == 2)) := by
  have room := calm_windowRoom quiet
  obtain ⟨⟨-, replay, flights, -⟩, -⟩ := quiet
  have parked : anyParked s = false := by simp [anyParked, flights]
  simp only [runStream, replay, dispatched, parked, room, done, Bool.false_eq_true, if_false, Bool.not_true]

omit quiet dispatched in
/-- A run that leaves nothing outstanding pins nothing. -/
theorem runAccess_of_runStream {t : State} (ran : runStream i mem false g (some sa) sb body s = .next t) (none_ : t.me.flights = []) :
    runAccess i mem false g sa sb body s = .next t := by
  simp only [runAccess, ran, none_, List.find?_nil]

/-- What an access comes to that leaves nothing outstanding. -/
theorem runAccess_done {t : State} {d : Counts} {fl : FlagSet} {r : Regs} (keeps : heldBy i env.slot = slotStrip env.slot)
    (done : body env s = .ok (t, none)) (none_ : t.me.flights = [])
    (regs : t.me.r = addPending (slotStrip env.slot) d (raise (slotStrip env.slot) fl r)) :
    ∃ u, runAccess i mem false g sa sb body s = .next u ∧ (∀ core, cellsOf u core = cellsOf t core) ∧ u.me.flights = [] ∧
      u.me.r = finished (slotStrip env.slot) fl d r := by
  obtain ⟨cells, flights, after⟩ := retireStream_keeps none_ (heldBy i env.slot)
  refine ⟨_, runAccess_of_runStream (runStream_done quiet dispatched done) flights, cells, flights, ?_⟩
  rw [after, keeps, passBy, regs]
  rfl

end

end Sys2Proof.Machine
end

section
/-! PROOF. VLDPK and VSTPK: the probes of their words, the words they load and store, and what they leave (R166, R167, R226). -/

namespace Sys2Proof.Machine

/-! ## Probes that find no fault (R170) -/

/-- A list with no fault of the highest priority has no fault (R73). -/
theorem worst_none {l : List TrapInfo} (h : worst l = none) : l = [] := by
  have kept (l : List TrapInfo) (t : TrapInfo) : ∃ x, l.foldl (fun m t => match m with
      | none => some t
      | some x => if t.code < x.code then some t else some x) (some t) = some x := by
    induction l generalizing t with
    | nil => exact ⟨t, rfl⟩
    | cons y l ih =>
      rw [List.foldl_cons]
      dsimp only
      split
      · exact ih _
      · exact ih _
  cases l with
  | nil => rfl
  | cons y l =>
    obtain ⟨x, hx⟩ := kept l y
    rw [worst, List.foldl_cons] at h
    exact absurd (h.symm.trans hx) (by simp)

/-- A probe of several elements that finds no fault completes every one. -/
theorem probeAll_none {f : Nat → List (Except TrapInfo Element)} {js : List Nat} {good : List (Nat × List Element)}
    (h : probeAll f js = (good, none)) : good = js.map (fun j => (j, elementsOf (f j))) ∧ ∀ j ∈ js, faultsOf (f j) = [] := by
  induction js generalizing good with
  | nil =>
    obtain rfl : [] = good := (Prod.mk.inj h).1
    exact ⟨rfl, fun j hj => by cases hj⟩
  | cons j js ih =>
    rw [probeAll] at h
    dsimp only at h
    split at h
    · exact absurd (Prod.mk.inj h).2 (by simp)
    · next fine =>
      obtain ⟨rfl, hnone⟩ := Prod.mk.inj h
      obtain ⟨more, rest⟩ := ih (good := (probeAll f js).1) (Prod.ext rfl hnone)
      refine ⟨by rw [more]; rfl, fun i hi => ?_⟩
      obtain rfl | hi := List.mem_cons.1 hi
      · exact worst_none fine
      · exact rest i hi

theorem mem_elementsOf {l : List (Except TrapInfo Element)} {e : Element} : e ∈ elementsOf l ↔ .ok e ∈ l := by
  rw [elementsOf, List.mem_filterMap]
  constructor
  · rintro ⟨r, hr, eq⟩
    split at eq
    · rwa [Option.some.inj eq] at hr
    · cases eq
  · exact fun h => ⟨_, h, rfl⟩

/-- An element that a read finds holds no uncorrectable error (R58). -/
theorem probeOne_clean {s : State} {t : Target} {h kind et : Nat} {a : Option Word} {e : Element}
    (found : probeOne s t h kind et true a = .ok e) : placeBad s e.place = false := by
  unfold probeOne at found
  split at found
  · cases found
  · split at found
    · split at found
      · cases found
      · next fine =>
        obtain rfl := Except.ok.inj found
        simp only [Bool.true_and, Bool.or_eq_true, not_or, Bool.not_eq_true] at fine
        exact fine.1
    · cases found
    · cases found

/-! ## What a word of VLDPK reads holds no error (R58, R166) -/

section

variable {s : State} {t : Target} {h et : Nat} {base d forme : Word} {ratio j : Nat}

/-- The outcomes of a plane are elements that hold no error, or faults. -/
theorem probePlane_clean {es : List (Except TrapInfo Element)} {e : Element} (found : .ok e ∈ probePlane s t h es) :
    placeBad s e.place = false := by
  unfold probePlane at found
  split at found
  · split at found
    · cases found
    · obtain ⟨x, -, eq⟩ := List.mem_map.1 found
      split at eq
      · split at eq
        · cases eq
        · next fine =>
          obtain rfl := Except.ok.inj eq
          simpa using fine
      · cases eq
      · cases eq
  · cases found

/-- A word of an object or of a plain galley reads elements that hold no error. -/
theorem probeWord_clean {e : Element} (found : .ok e ∈ probeWord s t h et base d forme 1 j) : placeBad s e.place = false := by
  have one {l : List (Nat × Nat)}
      (he : .ok e ∈ l.map fun p => probeOne s t h 0 et true (pkAddr base d (offsetUnit (t.bits et)) p)) : placeBad s e.place = false := by
    obtain ⟨p, -, hp⟩ := List.mem_map.1 he
    exact probeOne_clean hp
  simp only [probeWord, ne_eq, not_true_eq_false, if_false] at found
  split at found
  · exact one found
  · obtain ⟨b, -, hb⟩ := List.mem_flatMap.1 found
    obtain hb | hb := List.mem_append.1 hb
    · exact one hb
    · exact probePlane_clean hb

/-- Elements that are woven back among the fields that named them stand at the fields whose outcomes they are. -/
theorem weave_outcomes {outcome : Nat × Nat → Nat → Except TrapInfo Element} {fs : List (Nat × Option (Nat × Nat))} {n : Nat}
    (fine : faultsOf ((fs.zipIdx n).filterMap fun x => x.1.2.map fun q => outcome q x.2) = []) {e : Element} {i : Nat}
    (he : (some e, i) ∈ (weave fs (elementsOf ((fs.zipIdx n).filterMap fun x => x.1.2.map fun q => outcome q x.2))).zipIdx n) :
    ∃ q, outcome q i = .ok e := by
  induction fs generalizing n with
  | nil => cases he
  | cons f fs ih =>
    obtain ⟨place, q⟩ := f
    cases q with
    | none =>
      simp only [List.zipIdx_cons, List.filterMap_cons, Option.map_none] at fine he
      rw [weave, List.zipIdx_cons] at he
      obtain eq | he := List.mem_cons.1 he
      · exact absurd (Prod.mk.inj eq).1 (by simp)
      · exact ih fine he
    | some q =>
      simp only [List.zipIdx_cons, List.filterMap_cons, Option.map_some] at fine he
      cases out : outcome q n with
      | error f => simp [out, faultsOf] at fine
      | ok x =>
        rw [out] at fine he
        rw [show elementsOf (.ok x :: ((fs.zipIdx (n + 1)).filterMap fun x => x.1.2.map fun q => outcome q x.2)) =
          x :: elementsOf ((fs.zipIdx (n + 1)).filterMap fun x => x.1.2.map fun q => outcome q x.2) from rfl, weave, List.zipIdx_cons] at he
        obtain eq | he := List.mem_cons.1 he
        · obtain ⟨rfl, rfl⟩ : e = x ∧ i = n := by simpa using eq
          exact ⟨q, out⟩
        · exact ih (by simpa [faultsOf] using fine) he

/-- A mark of a word of a sparse galley is a value or an index that an element of it was found by. -/
theorem mem_keptMarks {core : Nat} {es : List (Option Element)} {m : Mark} (hm : m ∈ keptMarks core d forme j es) :
    ∃ e i, (some e, i) ∈ es.zipIdx ∧ (m.place = (keptPlaces core d (sfmtBits forme) (e.coord.headD 0) (i % fK forme)).1 ∨
      m.place = (keptPlaces core d (sfmtBits forme) (e.coord.headD 0) (i % fK forme)).2) := by
  rw [keptMarks, List.mem_flatMap] at hm
  obtain ⟨⟨o, p⟩, hx, hm⟩ := hm
  obtain ⟨i, hi, eq⟩ := List.mem_iff_getElem.1 hx
  rw [List.getElem_zip, Prod.mk.injEq] at eq
  obtain ⟨ho, hp⟩ := eq
  cases o with
  | none => cases hm
  | some e =>
    have width : i < es.length := by
      rw [List.length_zip] at hi
      omega
    refine ⟨e, i, List.mem_zipIdx_iff_getElem?.2 (by rw [← ho]; exact List.getElem?_eq_getElem width), ?_⟩
    simp only [sparsePlaces, List.getElem_map, List.getElem_zipIdx, zero_add, ho] at hp
    obtain ⟨q, hq, rfl⟩ := List.mem_map.1 hm
    rw [hp]
    simpa using hq

/-- The elements of an integer SFMT have its width in a galley (R162). -/
theorem etypeBits_sfmt (int : sfmtInt forme = true) : (etypeBits (sfmtType (fSfmt forme))).getD 8 = sfmtBits forme := by
  have small : fSfmt forme ≤ 5 := of_decide_eq_true int
  rw [sfmtBits]
  generalize fSfmt forme = n at *
  interval_cases n <;> rfl

/-- The outcome of field i of a word formed from a sparse galley: its value and its index hold no error (R226, R322). -/
def keptOutcome (s : State) (g : Word) (h b : Nat) (forme : Word) (i : Nat) (found : Except TrapInfo Element) : Except TrapInfo Element :=
  match found with
  | .ok e =>
    let k := keptPlaces s.me.core g b (e.coord.headD 0) (i % fK forme)
    if placeBad s k.1 || placeBad s k.2 then .error { code := cUncorrectable, info := addrInfo h 0 0 0, coord := e.coord } else .ok e
  | r => r

theorem keptOutcome_clean {g : Word} {b i : Nat} {found : Except TrapInfo Element} {e : Element} (out : keptOutcome s g h b forme i found = .ok e) :
    placeBad s (keptPlaces s.me.core g b (e.coord.headD 0) (i % fK forme)).1 = false ∧
      placeBad s (keptPlaces s.me.core g b (e.coord.headD 0) (i % fK forme)).2 = false := by
  cases found with
  | error f => cases out
  | ok x =>
    simp only [keptOutcome] at out
    split at out
    · cases out
    · next clean =>
      obtain rfl := Except.ok.inj out
      simpa only [Bool.or_eq_true, not_or, Bool.not_eq_true] using clean

theorem probeKept_galley (id : Nat) (g : Word) : probeKept s (.galley id g) h et base d forme ratio j =
    (pkFields forme (pkRole d) (pkLen d) ratio j).zipIdx.filterMap fun x => x.1.2.map fun q =>
      keptOutcome s g h (Target.bits (.galley id g) et) forme x.2
        (probeOne s (.galley id g) h 0 et false (pkAddr base d (offsetUnit (Target.bits (.galley id g) et)) q)) := by
  unfold probeKept keptOutcome
  dsimp only
  congr 1
  funext x
  congr 1
  funext q
  cases probeOne s (.galley id g) h 0 et false (pkAddr base d (offsetUnit (Target.bits (.galley id g) et)) q) <;> rfl

/-- What a word of a sparse galley reads holds no error (R58, R226). -/
theorem keptMarks_clean {id : Nat} {g : Word} (int : sfmtInt forme = true) (et_ : et = sfmtType (fSfmt forme))
    (fine : faultsOf (probeKept s (.galley id g) h et base d forme ratio j) = []) {m : Mark}
    (hm : m ∈ keptMarks s.me.core g forme j (weave (pkFields forme (pkRole d) (pkLen d) ratio j)
      (elementsOf (probeKept s (.galley id g) h et base d forme ratio j)))) : placeBad s m.place = false := by
  rw [probeKept_galley] at fine hm
  obtain ⟨e, i, he, place⟩ := mem_keptMarks hm
  obtain ⟨q, out⟩ := weave_outcomes
    (outcome := fun q i => keptOutcome s g h (Target.bits (.galley id g) et) forme i
      (probeOne s (.galley id g) h 0 et false (pkAddr base d (offsetUnit (Target.bits (.galley id g) et)) q))) fine he
  have clean := keptOutcome_clean out
  rw [show Target.bits (.galley id g) et = sfmtBits forme from et_ ▸ etypeBits_sfmt int] at clean
  obtain place | place := place
  · rw [place]
    exact clean.1
  · rw [place]
    exact clean.2

end

end Sys2Proof.Machine
end

section
/-! PROOF. Words from the values that their places read, and what words and exponents change when they land (R166, R226). -/

namespace Sys2Proof.Machine

/-! ## Words from the values that their places read (R166) -/

section

variable {α : Type} {good : List (Nat × α)} {read : Nat × α → List Nat}

/-- The values of words, each with the number of its word. -/
def numberedValues (good : List (Nat × α)) (read : Nat × α → List Nat) : List (Nat × Nat) :=
  good.flatMap fun q => (read q).map fun v => (q.1, v)

theorem fst_numberedValues : (numberedValues good read).map (·.1) = good.flatMap fun q => List.replicate (read q).length q.1 := by
  simp [numberedValues, List.map_flatMap, Function.comp_def]

theorem filter_replicate_flatMap {k : Nat} (other : ∀ q ∈ good, q.1 ≠ k) (n : Nat) :
    (List.replicate n k ++ good.flatMap fun q => List.replicate (read q).length q.1).filter (fun y => !y == k) =
      good.flatMap fun q => List.replicate (read q).length q.1 := by
  rw [List.filter_append, List.filter_eq_nil_iff.2, List.nil_append, List.filter_eq_self]
  · intro y hy
    obtain ⟨q, hq, hy⟩ := List.mem_flatMap.1 hy
    rw [(List.mem_replicate.1 hy).2]
    simpa using other q hq
  · intro y hy
    simp [(List.mem_replicate.1 hy).2]

variable (own : (good.map (·.1)).Nodup)

include own

/-- The numbers of words that each have a value, without repetition. -/
theorem eraseDups_numberedValues (some_ : ∀ q, read q ≠ []) : ((numberedValues good read).map (·.1)).eraseDups = good.map (·.1) := by
  rw [fst_numberedValues]
  induction good with
  | nil => rfl
  | cons q good ih =>
    rw [List.map_cons, List.nodup_cons] at own
    obtain ⟨n, hn⟩ := Nat.exists_eq_succ_of_ne_zero (fun h => some_ q (List.length_eq_zero_iff.1 h))
    have other : ∀ p ∈ good, p.1 ≠ q.1 := fun p hp eq => own.1 (List.mem_map.2 ⟨p, hp, eq⟩)
    rw [List.flatMap_cons, hn, List.replicate_succ, List.cons_append, List.eraseDups_cons, filter_replicate_flatMap other, ih own.2, List.map_cons]

/-- The values of one word among those of all. -/
theorem filter_numberedValues {q : Nat × α} (hq : q ∈ good) :
    ((numberedValues good read).filter fun p => p.1 == q.1).map (·.2) = read q := by
  have others {l : List (Nat × α)} (h : ∀ p ∈ l, p.1 ≠ q.1) : ((numberedValues l read).filter fun p => p.1 == q.1) = [] := by
    rw [List.filter_eq_nil_iff]
    intro x hx
    obtain ⟨p, hp, hx⟩ := List.mem_flatMap.1 hx
    obtain ⟨v, -, rfl⟩ := List.mem_map.1 hx
    simpa using h p hp
  have mine (p : Nat × α) (eq : p.1 = q.1) : (((read p).map fun v => (p.1, v)).filter fun x => x.1 == q.1).map (·.2) = read p := by
    rw [List.filter_eq_self.2 (by simp [eq]), List.map_map]
    exact List.map_id _
  induction good with
  | nil => cases hq
  | cons p good ih =>
    rw [List.map_cons, List.nodup_cons] at own
    rw [numberedValues, List.flatMap_cons, List.filter_append, List.map_append, ← numberedValues]
    obtain rfl | hq := List.mem_cons.1 hq
    · rw [others fun p hp eq => own.1 (List.mem_map.2 ⟨p, hp, eq⟩), mine q rfl, List.map_nil, List.append_nil]
    · have other : p.1 ≠ q.1 := fun eq => own.1 (List.mem_map.2 ⟨q, hq, eq.symm⟩)
      rw [ih own.2 hq, List.filter_eq_nil_iff.2, List.map_nil, List.nil_append]
      intro x hx
      obtain ⟨v, -, rfl⟩ := List.mem_map.1 hx
      simpa using other

end

/-! ## What loaded words change (R226) -/

/-- Registers differ from others in the v and w files alone. -/
def OnlyVectors (r t : Regs) : Prop := t = { r with v := t.v, w := t.w }

namespace OnlyVectors

theorem refl (r : Regs) : OnlyVectors r r := rfl

theorem trans {r t u : Regs} (h : OnlyVectors r t) (g : OnlyVectors t u) : OnlyVectors r u := by
  rw [OnlyVectors, g, h]

theorem foldl {α : Type} {f : Regs → α → Regs} (step : ∀ r a, OnlyVectors r (f r a)) (l : List α) (r : Regs) : OnlyVectors r (l.foldl f r) := by
  induction l generalizing r with
  | nil => exact refl r
  | cons a l ih => exact (step r a).trans (ih _)

theorem setElem (r : Regs) (o : VOp) (lanes b e v : Nat) : OnlyVectors r (setElem r o lanes b e v) := by
  cases o <;> exact rfl

theorem putPacked (vd : VOp) (lanes j w : Nat) (r : Regs) : OnlyVectors r (putPacked vd lanes j w r) := by
  unfold Machine.putPacked
  split
  · exact foldl (fun r l => rfl : ∀ r l, OnlyVectors r (setLaneW r _ lanes l (256 * j) 256 w)) _ _
  · exact setElem r _ lanes 256 j w

theorem tilePut (t : Tile) (k lane x off n v : Nat) (r : Regs) : OnlyVectors r (t.put k lane x off n v r) := rfl

theorem putExponents (t : Tile) (role : Bool) (klen eu j : Nat) (base : Word) (p : Packed) (r : Regs) :
    OnlyVectors r (putExponents t role klen eu j base p r) := by
  rw [putExponents_eq]
  exact foldl (fun r w => (tilePut ..).trans (tilePut ..)) _ _

end OnlyVectors

/-- The registers with words put in their places, and the exponents of those of a floating-point SFMT in the side block (R226). -/
def putWords (vd : VOp) (lanes : Nat) (tile : Tile) (forme d base : Word) (eu : Nat) (words : List (Nat × Packed)) (r : Regs) : Regs :=
  let r1 := words.foldl (fun r w => putPacked vd lanes w.1 w.2.word r) r
  if sfmtInt forme then r1 else words.foldl (fun r w => putExponents tile (pkRole d) (pkLen d) eu w.1 base w.2 r) r1

theorem putWords_vectors (vd : VOp) (lanes : Nat) (tile : Tile) (forme d base : Word) (eu : Nat) (words : List (Nat × Packed)) (r : Regs) :
    OnlyVectors r (putWords vd lanes tile forme d base eu words r) := by
  rw [putWords]
  split
  · exact .foldl (fun r w => .putPacked ..) _ _
  · exact (OnlyVectors.foldl (fun r w => .putPacked ..) _ _).trans (.foldl (fun r w => .putExponents ..) _ _)

/-- What VLDPK makes of the values that the places of its words read (R166, R226). -/
theorem landPacked_words {α : Type} {f : Flight} {good : List (Nat × α)} {read : Nat × α → List Nat} (own : (good.map (·.1)).Nodup)
    (some_ : ∀ q, read q ≠ []) (lanes fmt : Nat) (vd : VOp) (r : Regs) {ratio : Nat}
    (ratio_ : ratio = if pkRole f.env.b then slotRatio f.env.slot else 1) {words : List (Nat × Packed)}
    (words_ : words = good.map fun q =>
      (q.1, packLoaded f.env.forme (slotSat f.env.slot) (pkRole f.env.b) (pkLen f.env.b) ratio fmt q.1 (read q))) :
    landPacked f lanes fmt vd (numberedValues good read) r = raise (slotStrip f.env.slot) (words.foldl (fun a p => a ||| p.2.flags) 0)
      (putWords vd lanes (tileOf lanes f.env.slot f.env.forme f.env.vl) f.env.forme f.env.b f.env.a
        (offsetUnit ((etypeBits fmt).getD 8)) words r) := by
  have same : (((numberedValues good read).map (·.1)).eraseDups.map fun j =>
      (j, packLoaded f.env.forme (slotSat f.env.slot) (pkRole f.env.b) (pkLen f.env.b) ratio fmt j
        (((numberedValues good read).filter fun p => p.1 == j).map (·.2)))) = words := by
    rw [eraseDups_numberedValues own some_, List.map_map, words_]
    exact List.map_congr_left fun q hq => by rw [Function.comp_apply, filter_numberedValues own hq]
  rw [landPacked]
  rw [← ratio_, same]
  rfl

end Sys2Proof.Machine
end

section
/-! PROOF. A packed load whose probes have found no fault lands its values (R58, R170, R273). -/

namespace Sys2Proof.Machine

/-! ## The words that a packed access works on -/

theorem activeElems_nodup (r : Regs) (lanes : Nat) (slot : Word) (lo hi : Nat) : (activeElems r lanes slot lo hi).Nodup :=
  (List.Nodup.map (fun x y eq => by simpa using eq) List.nodup_range).filter _

theorem packWords_nodup (r : Regs) (c : VCtx) (env : Env) (whole : Bool) : (packWords r c env whole).Nodup := by
  rw [packWords]
  split
  · exact List.Nodup.map (fun x y eq => by simpa using eq) List.nodup_range
  · exact activeElems_nodup ..

theorem openTarget_ok {s : State} {h kind e0 : Nat} {matrix : Bool} {a0 : Option Word} {ok : Target → Bool} {t : Target}
    (opened : openTarget s h kind matrix e0 a0 ok = .ok t) : ok t = true := by
  unfold openTarget at opened
  cases found : openAccess s h kind matrix e0 a0 with
  | error f => rw [found] at opened; cases opened
  | ok x =>
    rw [ok_bind found] at opened
    split at opened
    · next fine =>
      obtain rfl := Except.ok.inj opened
      exact fine
    · cases opened

/-! ## A load whose probe has found no fault -/

theorem dataTrap_clean {s : State} {f : Flight} (clean : ∀ m ∈ f.marks, placeBad s m.place = false) (lost : f.lost = []) :
    dataTrap s f = none := by
  rw [dataTrap, List.find?_eq_none.2, Option.map_none]
  exact fun m hm => by simp [clean m hm, lost]

/-- A load whose probe has found no fault lands its values; only its counts follow (R273). -/
theorem load_issues {s : State} (quiet : calm s) {f : Flight} {p : Probed} {fmt : Nat} {ps : List (Nat × Place)} (fine : p.fault = none)
    (load : f.action = .vload fmt ps) (clean : ∀ m ∈ f.marks, placeBad s m.place = false) (lost : f.lost = []) (dt tile held : Bool) (c : VCtx)
    (start n : Nat) : ∃ u d, (issueProbed (touchElements s p.elements) f p >>= fun s3 => accessDone dt tile held c start n p s3) = .ok (u, none) ∧
      u.mem = s.mem ∧ u.me.flights = [] ∧
      u.me.r = addPending held d (landVector f (lanesOf s.me) fmt (ps.map fun p => (p.1, readPlace s p.2)) s.me.r) := by
  obtain ⟨⟨-, -, -, -, -, soft, -⟩, -⟩ := id quiet
  have caches := touchElements_caches soft p.elements
  have me : (touchElements s p.elements).me = s.me := caches.me
  have trap : dataTrap (touchElements s p.elements) f = none :=
    dataTrap_clean (fun m hm => (caches.1.placeBad m.place).trans (clean m hm)) lost
  obtain ⟨u, issued, mem, flights, regs⟩ := issueOp_vload (calm_caches quiet caches) load trap
  have issued : issueProbed (touchElements s p.elements) f p = .ok u := by
    rw [issueProbed, fine]
    exact issued
  rw [ok_bind issued, accessDone, fine]
  refine ⟨_, if n ≤ start then Counts.zero else dtCount dt u.me.r { c with vstart := start, vl := n } c.b, rfl, mem.trans caches.1.mem, flights, ?_⟩
  simp only [modRegs_me, regs, me, caches.1.readPlace]

/-! ## VLDPK (R166, R226) -/

section

variable {s : State} {t : Target} {base d forme slot : Word} {ratio et : Nat} {js : List Nat} {good : List (Nat × List Element)}

/-- The places that word j of VLDPK reads, with its number: one that has no bits for a word that reads none. -/
def packPlaces (s : State) (t : Target) (forme d : Word) (ratio : Nat) (good : List (Nat × List Element)) : List (Nat × Place) :=
  good.flatMap fun g =>
    let l := wordPlaces s t forme d ratio g.1 g.2
    (if l.isEmpty then [nullPlace] else l).map fun (x : Place) => (g.1, x)

/-- What the words of VLDPK read, as a fault of their data names it. -/
def packMarks (s : State) (t : Target) (forme d : Word) (ratio : Nat) (good : List (Nat × List Element)) : List Mark :=
  match t with
  | .galley _ g =>
    if ratio = 1 then marksOf (good.flatMap fun g => g.2.map fun e => (g.1, e))
    else good.flatMap fun x => keptMarks s.me.core g forme x.1 (weave (pkFields forme (pkRole d) (pkLen d) ratio x.1) x.2)
  | .object _ _ => marksOf (good.flatMap fun g => g.2.map fun e => (g.1, e))

/-- What the places of a word read. -/
def packRead (s : State) (t : Target) (forme d : Word) (ratio : Nat) (q : Nat × List Element) : List Nat :=
  (if (wordPlaces s t forme d ratio q.1 q.2).isEmpty then [nullPlace] else wordPlaces s t forme d ratio q.1 q.2).map fun x => readPlace s x

theorem packRead_ne_nil (q : Nat × List Element) : packRead s t forme d ratio q ≠ [] := by
  rw [packRead]
  split
  · simp
  · next h => simpa using h

theorem packPlaces_values : (packPlaces s t forme d ratio good).map (fun p => (p.1, readPlace s p.2)) =
    numberedValues good (packRead s t forme d ratio) := by
  simp [packPlaces, numberedValues, packRead, List.map_flatMap, Function.comp_def]

/-- Words of a dense galley or an object are marked by the elements that they read. -/
theorem marksOf_clean {h : Nat} (probed : good = js.map fun j => (j, elementsOf (probeWord s t h et base d forme 1 j))) {m : Mark}
    (hm : m ∈ marksOf (good.flatMap fun g => g.2.map fun e => (g.1, e))) : placeBad s m.place = false := by
  subst probed
  obtain ⟨⟨j, e⟩, hx, rfl⟩ := List.mem_map.1 hm
  obtain ⟨q, hq, hx⟩ := List.mem_flatMap.1 hx
  obtain ⟨j, -, rfl⟩ := List.mem_map.1 hq
  obtain ⟨e, he, eq⟩ := List.mem_map.1 hx
  obtain ⟨-, rfl⟩ := Prod.mk.inj eq
  exact probeWord_clean (mem_elementsOf.1 he)

/-- What the words of VLDPK read, when their probes have found no fault, holds no error (R58). -/
theorem packMarks_clean {h : Nat} (ratio_ : ratio = if pkRole d then slotRatio slot else 1) (et_ : et = sfmtType (fSfmt forme))
    (suits : packTargetOk forme (pkRole d) (slotSparse slot) t = true)
    (probed : probeAll (fun j => probeWord s t h et base d forme ratio j) js = (good, none)) :
    ∀ m ∈ packMarks s t forme d ratio good, placeBad s m.place = false := by
  intro m hm
  obtain ⟨good_, fine⟩ := probeAll_none probed
  by_cases dense : ratio = 1
  · rw [dense] at good_ hm
    refine marksOf_clean good_ (m := m) ?_
    unfold packMarks at hm
    split at hm
    · exact hm
    · exact hm
  · have sparse : pkRole d = true ∧ slotSparse slot ≠ 0 := by
      cases role : pkRole d
      · exact absurd (by rw [ratio_, role]; rfl) dense
      · refine ⟨rfl, fun zero => dense ?_⟩
        rw [ratio_, role, slotRatio, zero]
        rfl
    cases t with
    | object k r => simp [packTargetOk, sparse.1, sparse.2] at suits
    | galley id g =>
      have int : sfmtInt forme = true := by
        simp only [packTargetOk, Bool.and_eq_true] at suits
        exact suits.1.1
      rw [packMarks, if_neg dense] at hm
      obtain ⟨q, hq, hm⟩ := List.mem_flatMap.1 hm
      rw [good_] at hq
      obtain ⟨j, hj, rfl⟩ := List.mem_map.1 hq
      have word : probeWord s (.galley id g) h et base d forme ratio j = probeKept s (.galley id g) h et base d forme ratio j := if_pos dense
      have faultless := fine j hj
      rw [word] at faultless hm
      exact keptMarks_clean int et_ faultless hm

end

end Sys2Proof.Machine
end

section
/-! PROOF. VLDPK, check by check, and the registers that it leaves (R166, R226). -/

namespace Sys2Proof.Machine

section

variable {dt : Bool} {g : Fin 8} {vd : VOp} {sa sb : SOp} {s s1 s2 : State} {env : Env} {c : VCtx} {base d : Word} {js : List Nat}
  {t : Target} {good : List (Nat × List Element)} {ratio et : Nat} {tile : Tile}

/-- Nothing refuses a VLDPK, and no probe of its words finds a fault: what it checks, in its order (R166, R170, R221, R226). -/
structure PackPasses (vd : VOp) (sa sb : SOp) (s2 : State) (env : Env) (c : VCtx) (base d : Word) (js : List Nat) (t : Target)
    (good : List (Nat × List Element)) (ratio et : Nat) (tile : Tile) : Prop where
  sources : accessOk [sa, sb] = .ok ⟨⟩
  dest : operand vd tVW c.f = .ok ⟨⟩
  type_ : (c.et == 7 && !formeNull env.forme && predOk c.slot c.f c.b &&
    (if tierOf vd == 1 then decide (env.vl ≤ 16) else decide (c.vl ≤ vlmaxBits c.lanes c.f c.b))) = true
  ratio_ : ratio = if pkRole d then slotRatio c.slot else 1
  tile_ : tile = tileOf c.lanes c.slot env.forme env.vl
  descriptor : (descriptorOk env.forme d ratio && (!(tierOf vd == 1) || pkRole d) && !sparseRefused env.forme c.slot) = true
  active : js = packWords s2.me.r c env (tierOf vd == 1)
  sides : (sfmtInt env.forme || packSides tile d base (if fSfmt env.forme = 8 then 2 else 1) (regsOf vd c.f) js) = true
  ready : useParts s2 env.seq (regsOf vd c.f ++ packSideRegs tile env.forme) ((groupBits vd c.lanes c.f 256 env.vstart env.vl).map
    (fun x => (x.1, if x.2 = 0 then 0 else 0xFF)) ++ wholeBits (packSideRegs tile env.forme)) = .ok ⟨⟩
  none_ : js = [] → good = []
  et_ : et = sfmtType (fSfmt env.forme)
  probed : ∀ j0 rest, js = j0 :: rest →
    openTarget s2 (handleOf base) 0 true j0 (formed env.forme base d (packElements env.forme (pkRole d) (pkLen d) ratio j0))
      (packTargetOk env.forme (pkRole d) (slotSparse c.slot)) = .ok t ∧
    probeAll (fun j => probeWord s2 t (handleOf base) et base d env.forme ratio j) js = (good, none) ∧
    ∀ q ∈ good, badColumns s2 t env.forme d ratio q.1 q.2 = false

/-- The words that VLDPK makes of what their places read (R166). -/
def packedWords (s : State) (t : Target) (forme d slot : Word) (ratio et : Nat) (good : List (Nat × List Element)) : List (Nat × Packed) :=
  good.map fun q => (q.1, packLoaded forme (slotSat slot) (pkRole d) (pkLen d) ratio (t.fmt et) q.1 (packRead s t forme d ratio q))

/-- What VLDPK finds of its words: those that are active, with their elements and no fault. -/
def packProbed (t : Target) (js : List Nat) (good : List (Nat × List Element)) : Probed :=
  { target := if js = [] then none else some t, good := good, fault := none }

/-- The body of VLDPK, when no check refuses it and no probe finds a fault. -/
theorem packBody_done (start : accessStarts s g sa (some sb) env c strideMode s1 s2 base d)
    (passes : PackPasses vd sa sb s2 env c base d js t good ratio et tile) (i : Instr) :
    ∃ f : Flight, f.instr = i ∧ f.env = taken env base d ∧
      f.action = .vload (if js = [] then et else t.fmt et) (packPlaces s2 t env.forme d ratio good) ∧
      f.lost = [] ∧ (∀ m ∈ f.marks, placeBad s2 m.place = false) ∧
      packBody i dt vd sa sb env s = (issueProbed (touchElements s2 (packProbed t js good).elements) f (packProbed t js good) >>= fun s3 =>
        accessDone (dt && !(tierOf vd == 1)) false (slotStrip c.slot) c env.vstart env.vl (packProbed t js good) s3) := by
  obtain ⟨sources, dest, type_, ratio_, tile_, descriptor, active, sides, ready, none_, et_, probed⟩ := passes
  obtain ⟨-, -, rfl, -, hbase, (hd : accessSrc sb env.b s1 = .ok (d, s2))⟩ := start
  subst active tile_ ratio_ et_
  generalize ratio_ : (if pkRole d then slotRatio (vctx s env).slot else 1) = ratio at *
  generalize words : packWords s2.me.r (vctx s env) env (tierOf vd == 1) = js at *
  rw [packBody]
  dsimp only
  rw [ok_bind sources, ok_bind dest, ensure_bind type_, ok_bind hbase]
  dsimp only
  rw [ok_bind hd]
  dsimp only
  rw [ratio_, words, ensure_bind descriptor, ensure_bind sides, ok_bind ready]
  cases js with
  | nil =>
    obtain rfl := none_ rfl
    exact ⟨opOf i (taken env base d) s [] false (.vload (sfmtType (fSfmt env.forme)) []) [], rfl, rfl, rfl, rfl,
      fun m hm => absurd hm List.not_mem_nil, rfl⟩
  | cons j0 rest =>
    obtain ⟨opened, found, columns⟩ := probed j0 rest rfl
    have agree : good.find? (fun q => badColumns s2 t env.forme d ratio q.1 q.2) = none :=
      List.find?_eq_none.2 fun q hq => by simp [columns q hq]
    have clean := packMarks_clean ratio_.symm rfl (openTarget_ok opened) found
    simp only [opened, probeFrom, found, agree, settleProbe]
    refine ⟨opOf i (taken env base d) s (boundSpan (handleOf base) (packProbed t (j0 :: rest) good).elements) false
      (.vload (t.fmt (sfmtType (fSfmt env.forme))) (packPlaces s2 t env.forme d ratio good)) (packMarks s2 t env.forme d ratio good),
      rfl, rfl, rfl, rfl, clean, ?_⟩
    cases t <;> rfl

end

/-- No words leave the registers as they were. -/
theorem putWords_nil (vd : VOp) (lanes : Nat) (tile : Tile) (forme d base : Word) (eu : Nat) (r : Regs) :
    putWords vd lanes tile forme d base eu [] r = r := by
  rw [putWords]
  exact ite_self _

theorem exec_vldpk (dt : Bool) (g : Fin 8) (vd : VOp) (sa sb : SOp) (s : State) : exec (.vldpk dt g vd sa sb) s =
    runAccess (.vldpk dt g vd sa sb) 1 false g sa (some sb) (packBody (.vldpk dt g vd sa sb) dt vd sa sb) s := rfl

theorem exec_vstpk (dt : Bool) (g : Fin 8) (vd : VOp) (sa sb : SOp) (s : State) : exec (.vstpk dt g vd sa sb) s =
    runAccess (.vstpk dt g vd sa sb) 2 false g sa (some sb) (unpackBody (.vstpk dt g vd sa sb) dt vd sa sb) s := rfl

section

variable {g : Fin 8} {sa sb : SOp} {s s1 s2 : State} {env : Env} {c : VCtx} {base d : Word}
  (start : accessStarts s g sa (some sb) env c strideMode s1 s2 base d)

include start

/-- The sources of an access change queues and what waits at their heads, and nothing else. -/
theorem accessStarts_pops : ∃ q p, s2 = modMe s fun h => { h with r := { h.r with q := q }, popped := p } := by
  obtain ⟨-, -, -, -, hbase, hd⟩ := start
  obtain ⟨q, p, rfl⟩ := accessSrc_pops hbase
  obtain ⟨q', p', rfl⟩ := accessSrc_pops hd
  exact ⟨q', p', rfl⟩

theorem accessStarts_calm : calm s2 := by
  obtain ⟨q, p, rfl⟩ := accessStarts_pops start
  exact start.1

theorem accessStarts_slot : c.slot = env.slot := by
  obtain ⟨-, -, rfl, -⟩ := start
  rfl

theorem accessStarts_lanes : c.lanes = lanesOf s2.me := by
  obtain ⟨q, p, rfl⟩ := accessStarts_pops start
  obtain ⟨-, -, rfl, -⟩ := start
  rfl

variable {dt : Bool} {vd : VOp} {js : List Nat} {t : Target} {good : List (Nat × List Element)} {ratio et : Nat} {tile : Tile}
  {words : List (Nat × Packed)}

/-- VLDPK, when no check refuses it and no probe finds a fault: its words, put in their places, its exponents and its flags (R166, R226). -/
theorem vldpk_loads (passes : PackPasses vd sa sb s2 env c base d js t good ratio et tile)
    (words_ : words = packedWords s2 t env.forme d c.slot ratio et good) :
    ∃ u n, exec (.vldpk dt g vd sa sb) s = .next u ∧ u.mem = s.mem ∧ u.me.flights = [] ∧
      u.me.r = finished (slotStrip env.slot) (words.foldl (fun a w => a ||| w.2.flags) 0) n
        (putWords vd c.lanes tile env.forme d base (offsetUnit ((etypeBits (t.fmt et)).getD 8)) words s2.me.r) := by
  obtain ⟨f, instr, fenv, load, lost, clean, body⟩ := packBody_done (dt := dt) start passes (.vldpk dt g vd sa sb)
  obtain ⟨-, -, -, ratio_, tile_, -, active, -, -, none_, -, probed⟩ := passes
  obtain ⟨u, n, done, mem, flights, regs⟩ := load_issues (p := packProbed t js good) (accessStarts_calm start) rfl load clean lost
    (dt && !(tierOf vd == 1)) false (slotStrip c.slot) c env.vstart env.vl
  have slot := accessStarts_slot start
  have own : (good.map (·.1)).Nodup := by
    cases js with
    | nil => rw [none_ rfl]; exact List.nodup_nil
    | cons j0 rest =>
      obtain ⟨-, found, -⟩ := probed j0 rest rfl
      rw [(probeAll_none found).1, List.map_map]
      exact (List.map_id _).symm ▸ active ▸ packWords_nodup ..
  have landed : landVector f (lanesOf s2.me) (if js = [] then et else t.fmt et)
      ((packPlaces s2 t env.forme d ratio good).map fun p => (p.1, readPlace s2 p.2)) s2.me.r =
      raise (slotStrip env.slot) (words.foldl (fun a w => a ||| w.2.flags) 0)
        (putWords vd c.lanes tile env.forme d base (offsetUnit ((etypeBits (t.fmt et)).getD 8)) words s2.me.r) := by
    have words' : words = good.map fun q => (q.1, packLoaded f.env.forme (slotSat f.env.slot) (pkRole f.env.b) (pkLen f.env.b) ratio
        (if js = [] then et else t.fmt et) q.1 (packRead s2 t env.forme d ratio q)) := by
      rw [words_, fenv, packedWords, slot]
      cases js with
      | nil => rw [none_ rfl]; rfl
      | cons j0 rest => rfl
    have lands := landPacked_words own packRead_ne_nil (lanesOf s2.me) (if js = [] then et else t.fmt et) vd s2.me.r
      (f := f) (by rw [fenv, ratio_, slot]; rfl) words'
    have instr_ (vals : List (Nat × Nat)) (fmt lanes : Nat) (r : Regs) : landVector f lanes fmt vals r = landPacked f lanes fmt vd vals r := by
      rw [landVector, instr]
    rw [packPlaces_values, instr_, lands, fenv, ← accessStarts_lanes start, tile_, slot]
    cases js with
    | nil =>
      obtain rfl : words = [] := by rw [words_, none_ rfl]; rfl
      simp only [putWords_nil, taken]
    | cons j0 rest => rfl
  rw [landed, slot] at regs
  obtain ⟨q, p, pops⟩ := accessStarts_pops start
  obtain ⟨-, dispatched, -⟩ := id start
  obtain ⟨v, ran, cells, gone, after⟩ := runAccess_done (i := .vldpk dt g vd sa sb) (mem := 1) start.1 dispatched rfl (body.trans done) flights regs
  refine ⟨v, n, (exec_vldpk ..).trans ran, ?_, gone, after⟩
  exact (cells none).trans (mem.trans (by rw [pops]; rfl))

end

end Sys2Proof.Machine
end

section
/-! PROOF. VSTPK, check by check: its store performs, traps or is buffered (R167, R175, R176). -/

namespace Sys2Proof.Machine

/-! ## VSTPK (R167) -/

/-- The fields of word j of VSTPK that a packing has, with their places. -/
def storedFields (forme d : Word) (j : Nat) : List (Nat × (Nat × Nat)) :=
  (pkFields forme (pkRole d) (pkLen d) 1 j).filterMap fun q => q.2.map fun x => (q.1, x)

/-- What VSTPK stores of its words: each field at its place, fitted to the format of the target, with its flags. -/
def storedValues (r : Regs) (c : VCtx) (vd : VOp) (forme d : Word) (fmt : Nat) (good : List (Nat × List Element)) :
    List (Place × (Nat × FlagSet)) :=
  good.flatMap fun q => ((storedFields forme d q.1).zip q.2).map fun x =>
    (x.2.place, unpackTo fmt (slotSat c.slot) (unpackField forme (packedSource r c vd q.1) x.1.1))

/-- The operation of VSTPK. -/
def storeOp (i : Instr) (env : Env) (base d : Word) (s : State) (p : Probed) (ws : List (Place × Nat)) : Flight :=
  opOf i (taken env base d) s (boundSpan (handleOf base) p.elements) true (.store ws)

/-- What follows the issue of a store: its flags and its counts. -/
def storeRun (dt : Bool) (c : VCtx) (env : Env) (p : Probed) (fl : FlagSet) (issued : Except Stop State) : StreamResult :=
  issued >>= fun s => accessDone dt false (slotStrip c.slot) c env.vstart env.vl p (modRegs s (raise (slotStrip c.slot) fl))

theorem storeRun_done {p : Probed} (fine : p.fault = none) (dt : Bool) (c : VCtx) (env : Env) (fl : FlagSet) (u : State) :
    ∃ n, storeRun dt c env p fl (.ok u) = .ok (modRegs u fun r => addPending (slotStrip c.slot) n (raise (slotStrip c.slot) fl r), none) := by
  refine ⟨if env.vl ≤ env.vstart then Counts.zero
    else dtCount dt (raise (slotStrip c.slot) fl u.me.r) { c with vstart := env.vstart, vl := env.vl } c.b, ?_⟩
  rw [storeRun, ok_bind rfl, accessDone, fine]
  rfl

section

variable {dt : Bool} {g : Fin 8} {vd : VOp} {sa sb : SOp} {s s1 s2 : State} {env : Env} {c : VCtx} {base d : Word} {js : List Nat}
  {t : Target} {good : List (Nat × List Element)} {et : Nat} {out : List (Place × (Nat × FlagSet))}

/-- The body of VSTPK, when no check refuses it and no probe finds a fault. -/
theorem unpackBody_done (start : accessStarts s g sa (some sb) env c strideMode s1 s2 base d) (sources : accessOk [sa, sb] = .ok ⟨⟩)
    (dest : operand vd tVW c.f = .ok ⟨⟩)
    (type_ : (c.et == 7 && !formeNull env.forme && sfmtInt env.forme && predOk c.slot c.f c.b &&
      (if tierOf vd == 1 then decide (env.vl ≤ 16) else decide (c.vl ≤ vlmaxBits c.lanes c.f c.b))) = true)
    (descriptor : (field d 1 7 == 0 && pkLen d != 0 && !sparseRefused env.forme c.slot) = true)
    (ready : useParts s2 env.seq (regsOf vd c.f) (groupBits vd c.lanes c.f 256 env.vstart env.vl) = .ok ⟨⟩)
    (active : js = activeElems s2.me.r c.lanes c.slot env.vstart env.vl) (none_ : js = [] → good = []) (et_ : et = sfmtType (fSfmt env.forme))
    (probed : ∀ j0 rest, js = j0 :: rest →
        openTarget s2 (handleOf base) 1 false j0 (formed env.forme base d ((storedFields env.forme d j0).map (·.2)))
          (packTargetOk env.forme false (slotSparse c.slot)) = .ok t ∧
        probeAll (fun j => (storedFields env.forme d j).map fun q =>
          probeOne s2 t (handleOf base) 1 et false (pkAddr base d (offsetUnit (t.bits et)) q.2)) js = (good, none))
    (out_ : out = storedValues s2.me.r c vd env.forme d (t.fmt et) good) (i : Instr) :
    unpackBody i dt vd sa sb env s =
      storeRun dt c env (packProbed t js good) (out.foldl (fun a x => a ||| x.2.2) 0)
        (issueStore s2 (storeOp i env base d s (packProbed t js good) (out.map fun x => (x.1, x.2.1))) (packProbed t js good)
          (decide (env.vstart < env.vl)) (handleOf base) (out.map fun x => (x.1, x.2.1))) := by
  obtain ⟨-, -, rfl, -, hbase, (hd : accessSrc sb env.b s1 = .ok (d, s2))⟩ := start
  subst active et_ out_
  generalize words : activeElems s2.me.r (vctx s env).lanes (vctx s env).slot env.vstart env.vl = js at *
  rw [unpackBody]
  dsimp only
  rw [ok_bind sources, ok_bind dest, ensure_bind type_, ok_bind hbase]
  dsimp only
  rw [ok_bind hd]
  dsimp only
  rw [words, ensure_bind descriptor, ok_bind ready]
  cases js with
  | nil =>
    obtain rfl := none_ rfl
    rfl
  | cons j0 rest =>
    obtain ⟨opened, found⟩ := probed j0 rest rfl
    simp only [storedFields] at opened found
    simp only [opened, probeFrom, found, settleProbe]
    rfl

end

/-! ## The strip buffer (R175, R176) -/

/-- With no strip open, a store under STRIPMODE traps (R175). -/
theorem bufferStore_closed {s : State} (closed : s.me.r.strip.isOpen = false) (f : Flight) (h : Nat) (es : List Element)
    (ws : List (Place × Nat)) : bufferStore s f h es ws = .error (.trap { code := cStripState }) := by
  rw [bufferStore, closed]
  rfl

/-- The store that an open strip holds, buffered into it. -/
def bufferedStore (f : Flight) (h : Nat) (es : List Element) (ws : List (Place × Nat)) : StripStore :=
  { seq := f.seq, stream := f.stream, pmask := f.pmask, scope := f.scope, spans := f.spans, lines := linesOf h es, writes := ws }

/-- An open strip that holds no store takes one whose lines fit (R176). -/
theorem bufferStore_first {s : State} (quiet : calm s) (isOpen : s.me.r.strip.isOpen = true) {f : Flight} {h : Nat} {es : List Element}
    (lines : (linesOf h es).length ≤ stripLines s.me) (ws : List (Place × Nat)) :
    ∃ u, bufferStore s f h es ws = .ok u ∧ u.mem = s.mem ∧ u.me.flights = [] ∧
      u.me.r = { s.me.r with strip := { s.me.r.strip with stores := [bufferedStore f h es ws] } } := by
  have room := calm_streamRoom quiet f.stream
  obtain ⟨⟨-, -, flights, -⟩, stores⟩ := quiet
  have fits : decide (((s.me.r.strip.stores.flatMap (·.lines)).eraseDups).length +
      ((linesOf h es).filter fun l => !((s.me.r.strip.stores.flatMap (·.lines)).eraseDups).contains l).length ≤ stripLines s.me) = true := by
    simpa [stores] using lines
  have first : (!(s.me.flights.any fun y => !y.parked && decide (y.seq < f.seq) && y.released && anyOverlap y.spans f.spans)) = true := by
    simp [flights]
  rw [bufferStore]
  dsimp only
  rw [ensure_bind isOpen, ok_bind room, ensure_bind fits, holds, if_pos first]
  exact ⟨_, rfl, rfl, flights, by simp [modMe, countIssued, stores, insertStore, bufferedStore]⟩

/-! ## What VSTPK comes to -/

section

variable {s : State} (quiet : calm s) {f : Flight} {p : Probed} (fine : p.fault = none) {live : Bool} {h : Nat} {ws : List (Place × Nat)}

include quiet fine

theorem issueStore_performs (outside : (slotStrip f.env.slot && live) = false) (store : f.action = .store ws) (marks : f.marks = []) :
    ∃ u, issueStore s f p live h ws = .ok u ∧ (∀ core, cellsOf u core = cellsOf (writePlaces s ws) core) ∧ u.me.flights = [] ∧
      u.me.r = s.me.r := by
  obtain ⟨⟨-, -, -, -, -, soft, -⟩, -⟩ := id quiet
  have caches := touchElements_caches soft p.elements
  have trap : dataTrap (touchElements s p.elements) f = none := by simp [dataTrap, marks]
  obtain ⟨u, issued, cells, flights, regs⟩ := issueOp_store (calm_caches quiet caches) store trap
  refine ⟨u, ?_, fun core => (cells core).trans (cellsOf_writePlaces_congr caches.1 ws core), flights, regs.trans (by rw [caches.me])⟩
  rw [issueStore, outside, issueProbed, fine]
  exact issued

theorem issueStore_closed (inside : (slotStrip f.env.slot && live) = true) (closed : s.me.r.strip.isOpen = false) :
    issueStore s f p live h ws = .error (.trap { code := cStripState }) := by
  obtain ⟨⟨-, -, -, -, -, soft, -⟩, -⟩ := quiet
  have caches := touchElements_caches soft p.elements
  rw [issueStore, fine, inside]
  exact bufferStore_closed (by rw [caches.me, closed]) ..

theorem issueStore_buffers (inside : (slotStrip f.env.slot && live) = true) (isOpen : s.me.r.strip.isOpen = true)
    (lines : (linesOf h p.elements).length ≤ stripLines s.me) :
    ∃ u, issueStore s f p live h ws = .ok u ∧ u.mem = s.mem ∧ u.me.flights = [] ∧
      u.me.r = { s.me.r with strip := { s.me.r.strip with stores := [bufferedStore f h p.elements ws] } } := by
  obtain ⟨⟨-, -, -, -, -, soft, -⟩, -⟩ := id quiet
  have caches := touchElements_caches soft p.elements
  obtain ⟨u, buffered, mem, flights, regs⟩ := bufferStore_first (f := f) (ws := ws) (calm_caches quiet caches) (by rw [caches.me, isOpen])
    (by rwa [caches.me])
  refine ⟨u, ?_, mem.trans caches.1.mem, flights, regs.trans (by rw [caches.me])⟩
  rw [issueStore, fine, inside]
  exact buffered

end

end Sys2Proof.Machine
end

section
/-! PROOF. A precise trap of a hart with nothing outstanding leaves nothing outstanding, whatever becomes of its context (R302, R304, R320). -/

namespace Sys2Proof.Machine

/-! ## Writes leave the transfers alone -/

@[simp] theorem modMcb_transfers (s : State) (d : Nat) (f : Mcb → Mcb) : (modMcb s d f).transfers = s.transfers := by
  unfold modMcb modDie
  split <;> rfl

@[simp] theorem setCells_transfers (s : State) (core : Option Nat) (m : Cells) : (setCells s core m).transfers = s.transfers := by
  cases core <;> rfl

@[simp] theorem settleEcc_transfers (s : State) (l : List Nat) : (settleEcc s l).transfers = s.transfers := by
  refine List.foldlRecOn (motive := fun (t : State) => t.transfers = s.transfers) _ _ rfl fun t same w _ => ?_
  split
  · exact (modMcb_transfers ..).trans same
  · exact same

@[simp] theorem writePlaces_transfers (s : State) (ws : List (Place × Nat)) : (writePlaces s ws).transfers = s.transfers := by
  have written : (putPlaces s ws).transfers = s.transfers :=
    List.foldlRecOn (motive := fun (t : State) => t.transfers = s.transfers) ws _ rfl fun t same w _ => (setCells_transfers ..).trans same
  unfold writePlaces
  rw [← putPlaces]
  dsimp only
  split <;> split <;> simp only [settleEcc_transfers, written, settleScratch]

/-! ## Nothing outstanding of the hart in focus -/

/-- A step that leaves the hart in focus with nothing outstanding where it had nothing. -/
def KeepsNone (s t : State) : Prop := s.me.flights = [] → t.me.flights = []

namespace KeepsNone

variable {s t u : State}

theorem refl (s : State) : KeepsNone s s := id

theorem trans (h : KeepsNone s t) (g : KeepsNone t u) : KeepsNone s u := g ∘ h

theorem of_me (h : t.me = s.me) : KeepsNone s t := fun none_ => by rw [h, none_]

theorem foldl {α : Type} {f : State → α → State} (step : ∀ s a, KeepsNone s (f s a)) (l : List α) (s : State) : KeepsNone s (l.foldl f s) := by
  induction l generalizing s with
  | nil => exact refl s
  | cons a l ih => exact (step s a).trans (ih _)

end KeepsNone

@[simp] theorem wakeCluster_me (s : State) (cl : Nat) : (wakeCluster s cl).me = s.me := by
  have change (t : State) (f : Cluster → Cluster) : (modCluster t cl f).me = t.me := by
    unfold modCluster
    split <;> rfl
  unfold wakeCluster
  split
  · split
    · exact change ..
    · exact change ..
    · rfl
  · rfl

theorem startFill_none (s : State) (core : Nat) : KeepsNone s (startFill s core) := by
  unfold startFill
  split
  · exact .refl s
  · split
    · intro none_
      simp only [modCore_me, modHarts_me, wakeCluster_me]
      split
      · exact none_
      · exact none_
    · exact .refl s

theorem resumeShadow_none (s : State) (core : Nat) : KeepsNone s (resumeShadow s core) := by
  unfold resumeShadow
  dsimp only
  split
  · exact (startFill_none s core).trans (.of_me (wakeCluster_me ..))
  · exact startFill_none s core

theorem killStore_me {s t : State} {ctx : Nat} {a : Word} {f : Nat → Nat} (stored : killStore s ctx a f = some t) : t.me = s.me := by
  unfold killStore at stored
  dsimp only at stored
  split at stored
  · split at stored
    · cases stored
    · split at stored
      · rw [← Option.some.inj stored, writePlaces_me]
      · cases stored
  · cases stored

theorem killNode_me (s : State) (n : Node) (started : Bool) : (killNode s n started).me = s.me := by
  rw [killNode, freeNode, modUnit_me]
  cases stored : killStore s n.ctx (nodeColo n.record) (colophonWord n 7 started) with
  | none => rfl
  | some t => exact killStore_me stored

/-- The galleys of a context that ends, on one core. -/
theorem endGalleys_none (s : State) (mine : List Hart) (ctx k : Nat) : KeepsNone s ((fun s k =>
    let s := if mine.any (fun h => h.core == k && h.bank == .shadow) then
        modCore s k fun c => { c with shadow := .free, swapAsked := none }
      else s
    (List.range 32).foldl (fun s g =>
      let d := galley s k g
      if gState d ≠ 0 ∧ gOwner d = ctx then
        if galleyBusy s k g true ∨ galleyBusy s k g false then
          modCore s k fun c => { c with dying := c.dying ||| (1#32 <<< g) }
        else undeclare s k g
      else s) (resumeShadow s k)) s k) := by
  have shadow : KeepsNone s (if mine.any (fun h => h.core == k && h.bank == .shadow) then
      modCore s k fun c => { c with shadow := .free, swapAsked := none } else s) := by
    split
    · exact .of_me rfl
    · exact .refl s
  refine shadow.trans ((resumeShadow_none _ k).trans (.foldl (fun s g => ?_) _ _))
  dsimp only
  split
  · split
    · exact .of_me rfl
    · exact .of_me rfl
  · exact .refl s

/-- A context that ends leaves the hart in focus with nothing outstanding, when no transfer is under way (R320). -/
theorem killContext_none {s : State} (none_ : s.me.flights = []) (idle : s.transfers = []) (ctx : Nat) :
    (killContext s ctx).me.flights = [] := by
  unfold killContext
  dsimp only
  rw [writePlaces_transfers, idle]
  refine KeepsNone.foldl (fun s k => endGalleys_none s _ ctx k) _ _ ?_
  rw [modUnit_me]
  refine KeepsNone.foldl (fun s n => ?_) _ _ ?_
  · split
    · exact .of_me rfl
    · exact .of_me (killNode_me ..)
    · exact .of_me (killNode_me ..)
  · simp only [writePlaces_me, List.filter_nil, List.foldl_nil]
    split
    · rfl
    · exact none_

/-! ## The trap of a refused store -/

theorem unpopHart_flights (h : Hart) : (unpopHart h).flights = h.flights := by
  unfold unpopHart
  split <;> rfl

theorem killLogged_none {s : State} (none_ : s.me.flights = []) (idle : s.transfers = []) (code : Nat) (second : Option Nat) :
    (killLogged s code second).me.flights = [] := by
  unfold killLogged
  dsimp only
  rw [logEntry_me]
  exact killContext_none none_ idle _

/-- A trap of a hart with nothing outstanding leaves nothing outstanding. -/
theorem takeTrap_none {s : State} (quiet : calm s) (t : TrapInfo) (async part arms : Bool) : (takeTrap s t async part arms).me.flights = [] := by
  obtain ⟨⟨-, -, none_, idle, -, soft, -⟩, -⟩ := quiet
  have vector : correctVector s t.code = s := by rw [correctVector, soft]; rfl
  unfold takeTrap
  dsimp only
  rw [vector]
  split
  · exact killLogged_none none_ idle _ _
  · split
    · exact none_
    · split
      · exact killLogged_none none_ idle _ _
      · dsimp only
        split
        · exact (unpopHart_flights s.me).trans none_
        · exact (unpopHart_flights s.me).trans none_

/-- A cause that nothing arms and that a strip does not turn into its loss is taken as it stands (R308, R315). -/
theorem preciseTrap_unarmed (s : State) (t : TrapInfo) (slot : Option Word) (arms : Bool) (memory : t.code ≠ cUncorrectable)
    (lost : t.code ≠ cStripLost) (above : 0x10 < t.code) : preciseTrap s t slot false arms = takeTrap s t false false false := by
  have kept : stripLoss s t slot = (s, t) := by
    unfold stripLoss
    cases slot with
    | none => rfl
    | some g => exact if_neg fun ⟨code, _⟩ => memory code
  have plain : (t.code == cStripLost) = false := by simpa using lost
  have unarmed : (arms && decide (0x06 ≤ t.code) && decide (t.code ≤ 0x10)) = false := by
    rw [decide_eq_false (show ¬t.code ≤ 0x10 by omega), Bool.and_false]
  simp [preciseTrap, kept, plain, unarmed]

end Sys2Proof.Machine
end

section
/-! PROOF. VSTPK from its dispatch to its retirement (R167, R175). -/

namespace Sys2Proof.Machine

section

variable {dt : Bool} {g : Fin 8} {vd : VOp} {sa sb : SOp} {s s1 s2 : State} {env : Env} {c : VCtx} {base d : Word} {p : Probed} {f : Flight}
  {fl : FlagSet} {ws : List (Place × Nat)} (start : accessStarts s g sa (some sb) env c strideMode s1 s2 base d)
  (body : unpackBody (.vstpk dt g vd sa sb) dt vd sa sb env s =
    storeRun dt c env p fl (issueStore s2 f p (decide (env.vstart < env.vl)) (handleOf base) ws))
  (fine : p.fault = none) (slot : f.env.slot = env.slot)

include start body fine slot

/-- Outside a strip, VSTPK writes its fields at their places (R167). -/
theorem vstpk_performs (outside : slotStrip env.slot = false) (store : f.action = .store ws) (marks : f.marks = []) :
    ∃ u n, exec (.vstpk dt g vd sa sb) s = .next u ∧ (∀ core, cellsOf u core = cellsOf (writePlaces s ws) core) ∧ u.me.flights = [] ∧
      u.me.r = finished false fl n s2.me.r := by
  obtain ⟨u, issued, cells, flights, regs⟩ := issueStore_performs (live := decide (env.vstart < env.vl)) (h := handleOf base)
    (accessStarts_calm start) fine (by rw [slot, outside, Bool.false_and]) store marks
  obtain ⟨n, done⟩ := storeRun_done fine dt c env fl u
  obtain ⟨q, r, pops⟩ := accessStarts_pops start
  obtain ⟨-, dispatched, -⟩ := id start
  rw [issued, done, accessStarts_slot start] at body
  obtain ⟨v, ran, same, gone, after⟩ := runAccess_done (i := .vstpk dt g vd sa sb) (mem := 2) (r := s2.me.r) (fl := fl) (d := n) start.1
    dispatched rfl body flights (by rw [modRegs_me, regs])
  rw [outside] at after
  refine ⟨v, n, (exec_vstpk ..).trans ran, fun core => (same core).trans (.trans ?_ (cells core)) |>.trans ?_, gone, after⟩
  · cases core <;> rfl
  · rw [pops]
    exact cellsOf_writePlaces_congr (SameData.modMe s _) ws core

/-- Under STRIPMODE with no strip open, VSTPK traps (R175). -/
theorem vstpk_traps (inside : slotStrip env.slot = true) (live : env.vstart < env.vl) (closed : s.me.r.strip.isOpen = false) :
    exec (.vstpk dt g vd sa sb) s = .next (stopAt s (.trap { code := cStripState }) none) := by
  obtain ⟨q, r, pops⟩ := accessStarts_pops start
  have issued := issueStore_closed (f := f) (live := decide (env.vstart < env.vl)) (h := handleOf base) (ws := ws) (accessStarts_calm start) fine
    (by rw [slot, inside, decide_eq_true live]; rfl) (by rw [pops]; exact closed)
  obtain ⟨quiet, dispatched, -⟩ := id start
  rw [issued] at body
  have ran := runStream_traps (i := .vstpk dt g vd sa sb) (mem := 2) quiet dispatched (body.trans rfl)
  rw [preciseTrap_unarmed _ _ _ _ (by decide) (by decide) (by decide)] at ran
  obtain ⟨⟨-, -, flights, -⟩, -⟩ := id quiet
  rw [exec_vstpk, runAccess_of_runStream ran (takeTrap_none quiet ..), stopAt_trap _ _ _ (by simp [anyParked, flights]),
    preciseTrap_unarmed _ _ _ _ (by decide) (by decide) (by decide)]

/-- In an open strip, VSTPK is buffered (R175). -/
theorem vstpk_buffers (inside : slotStrip env.slot = true) (live : env.vstart < env.vl) (isOpen : s.me.r.strip.isOpen = true)
    (lines : (linesOf (handleOf base) p.elements).length ≤ stripLines s.me) :
    ∃ u n, exec (.vstpk dt g vd sa sb) s = .next u ∧ u.mem = s.mem ∧ u.me.flights = [] ∧
      u.me.r = finished true fl n
        { s2.me.r with strip := { s2.me.r.strip with stores := [bufferedStore f (handleOf base) p.elements ws] } } := by
  obtain ⟨q, r, pops⟩ := accessStarts_pops start
  obtain ⟨u, issued, mem, flights, regs⟩ := issueStore_buffers (f := f) (live := decide (env.vstart < env.vl)) (ws := ws)
    (accessStarts_calm start) fine (by rw [slot, inside, decide_eq_true live]; rfl) (by rw [pops]; exact isOpen) (by rw [pops]; exact lines)
  obtain ⟨n, done⟩ := storeRun_done fine dt c env fl u
  obtain ⟨-, dispatched, -⟩ := id start
  rw [issued, done, accessStarts_slot start] at body
  obtain ⟨v, ran, same, gone, after⟩ := runAccess_done (i := .vstpk dt g vd sa sb) (mem := 2) (fl := fl) (d := n) start.1
    dispatched rfl body flights (by rw [modRegs_me, regs])
  rw [inside] at after
  refine ⟨v, n, (exec_vstpk ..).trans ran, ?_, gone, after⟩
  exact (same none).trans (mem.trans (by rw [pops]; rfl))

end

end Sys2Proof.Machine
end

section
/-! PROOF. VLDPK and VSTPK as their statement has them (R37, R38, R166, R167, R226). -/

namespace Sys2Proof.Machine

/-- The checks that VLDPK makes of its type and its count. -/
theorem packType_ok {c : VCtx} {env : Env} {vd : VOp} (type_ : c.et = 7) (forme : env.forme ≠ 0) (pred : predOk c.slot c.f c.b = true)
    (limit : if tierOf vd = 1 then env.vl ≤ 16 else c.vl ≤ vlmaxBits c.lanes c.f c.b) :
    (c.et == 7 && !formeNull env.forme && predOk c.slot c.f c.b &&
      (if tierOf vd == 1 then decide (env.vl ≤ 16) else decide (c.vl ≤ vlmaxBits c.lanes c.f c.b))) = true := by
  have count : (if tierOf vd == 1 then decide (env.vl ≤ 16) else decide (c.vl ≤ vlmaxBits c.lanes c.f c.b)) = true := by
    by_cases whole : tierOf vd = 1
    · simpa [whole] using limit
    · simpa [whole] using limit
  rw [count, pred, type_, Bool.and_true, Bool.and_true]
  simpa [formeNull] using forme

section

variable {dt : Bool} {g : Fin 8} {vd : VOp} {sa sb : SOp} {s s1 s2 : State} {env : Env} {c : VCtx} {base d : Word} {js : List Nat}
  {t : Target} {good : List (Nat × List Element)} {ratio et : Nat} {tile : Tile}
  (start : accessStarts s g sa (some sb) env c strideMode s1 s2 base d)

include start

/-- What VLDPK leaves of the registers, its words put in their places. -/
theorem vldpk_keeps {u : State} {n : Counts} {fl : FlagSet} {lanes eu : Nat} {words : List (Nat × Packed)}
    (regs : u.me.r = finished (slotStrip env.slot) fl n (putWords vd lanes tile env.forme d base eu words s2.me.r)) :
    u.me.r.v = (putWords vd lanes tile env.forme d base eu words s2.me.r).v ∧
      u.me.r.w = (putWords vd lanes tile env.forme d base eu words s2.me.r).w ∧ u.me.r.x = s.me.r.x ∧ u.me.r.q = s2.me.r.q ∧
      u.me.r.z = s.me.r.z ∧ u.me.r.m = s.me.r.m ∧ u.me.r.pc = nextPc s.me.r.pc ∧ u.me.r.vstart = 0 ∧
      (slotStrip env.slot = false → u.me.r.fflags = s.me.r.fflags ||| fl) := by
  obtain ⟨q, p, pops⟩ := accessStarts_pops start
  obtain ⟨⟨hv, hw, hx, hq, hz, hm⟩, hpc, hvstart, -, hfl⟩ := finished_keeps (slotStrip env.slot) fl n
    (putWords vd lanes tile env.forme d base eu words s2.me.r)
  have vectors := putWords_vectors vd lanes tile env.forme d base eu words s2.me.r
  rw [OnlyVectors] at vectors
  rw [← regs] at hv hw hx hq hz hm hpc hvstart hfl
  refine ⟨hv, hw, hx.trans ?_, hq.trans ?_, hz.trans ?_, hm.trans ?_, hpc.trans ?_, hvstart, fun held => (hfl held).trans ?_⟩
  all_goals rw [vectors]
  all_goals rw [pops]
  all_goals rfl

end

/-- Settles O44: nothing holds the operation of a packed access back, so it performs in its step; an aligned block rounds its elements in
the unit of its largest; fields laid down apart read back; entries put apart stand in the side block. -/
theorem packedAccesses : Obligations.PackedAccesses := by
  refine ⟨?accesses, ?blocks, ?words, ?entries⟩
  case accesses =>
    intro dt g vd sa sb s s1 s2 env c base d js t good ratio et tile start sources dest type_ forme pred reserved len sparse et_ limit
    have checks := packType_ok type_ forme pred limit
    obtain ⟨q, p, pops⟩ := accessStarts_pops start
    refine ⟨?loads, ?stores⟩
    case loads =>
      intro ratio_ tile_ descriptor whole active sides ready none_ probed read words r1 r2
      have allowed : (descriptorOk env.forme d ratio && (!(tierOf vd == 1) || pkRole d) && !sparseRefused env.forme c.slot) = true := by
        by_cases w : tierOf vd = 1
        · simp [descriptor, sparse, whole w]
        · simp [descriptor, sparse, w]
      obtain ⟨u, n, ran, mem, flights, regs⟩ := vldpk_loads (dt := dt) (words := words) start ⟨sources, dest, checks, ratio_, tile_, allowed, active,
        by simpa using sides, ready, none_, et_, probed⟩ rfl
      obtain ⟨hv, hw, hx, hq, hz, hm, hpc, hvstart, hfl⟩ := vldpk_keeps start regs
      exact ⟨u, ran, mem, flights, hv, hw, hx, hq, hz, hm, hpc, hvstart, hfl⟩
    case stores =>
      intro int ready active none_ fields probed out ws
      have body := unpackBody_done (dt := dt) (out := out) start sources dest (by rw [int, Bool.and_true]; exact checks)
        (by simp [reserved, len, sparse]) ready active none_ et_ probed rfl (.vstpk dt g vd sa sb)
      refine ⟨fun outside => ?_, vstpk_traps start body rfl rfl, fun inside live isOpen lines => ?_⟩
      · obtain ⟨u, n, ran, cells, flights, regs⟩ := vstpk_performs start body rfl rfl outside rfl rfl
        obtain ⟨⟨hv, hw, hx, hq, -, -⟩, hpc, hvstart, -, hfl⟩ := finished_keeps false (out.foldl (fun a x => a ||| x.2.2) 0) n s2.me.r
        rw [← regs] at hv hw hx hq hpc hvstart hfl
        refine ⟨u, ran, cells none, fun k => cells (some k), flights, ?_, ?_, ?_, hq, ?_, hvstart, ?_⟩
        · rw [hv, pops]
          rfl
        · rw [hw, pops]
          rfl
        · rw [hx, pops]
          rfl
        · rw [hpc, pops]
          rfl
        · rw [hfl rfl, pops]
          rfl
      · obtain ⟨u, n, ran, mem, -, regs⟩ := vstpk_buffers start body rfl rfl inside live isOpen lines
        obtain ⟨-, hpc, -, hstores, -⟩ := finished_keeps true (out.foldl (fun a x => a ||| x.2.2) 0) n
          { s2.me.r with strip := { s2.me.r.strip with stores := [bufferedStore (storeOp (.vstpk dt g vd sa sb) env base d s
            (packProbed t js good) ws) (handleOf base) (packProbed t js good).elements ws] } }
        rw [← regs] at hpc hstores
        refine ⟨u, _, ran, mem, hstores, rfl, ?_⟩
        rw [hpc, pops]
        rfl
  case blocks =>
    intro mb xs hmb den
    have two_le : 2 ≤ mb := by
      simp only [List.mem_cons, List.not_mem_nil, or_false] at hmb
      omega
    refine ⟨alignBlock_special mb, fun zero => ?_, fun fin nonzero => alignBlock_finite two_le den fin nonzero⟩
    exact alignBlock_zero mb (fun v hv => (zero v hv).1) den fun v hv => (zero v hv).2
  case words =>
    intro f sat role klen ratio fmt j vs accepted fs p fits dense
    refine ⟨fun int => ⟨fun i v hi hv hf => unpackField_packLoaded accepted int dense hi hv hf,
      fun sparse k hk => selIndex_packLoaded int dense sparse hk⟩, fun float _ n i fld row kk b hi field_ hb key hn length => ?_⟩
    have block := key ▸ mem_wordBlocks (fmt := fmt) hb hn length
    refine ⟨?_, fun v hv hf => unpackField_blocks accepted float hi field_ block hv hf⟩
    rw [(packLoaded_float float).2]
    exact List.mem_map.2 ⟨_, block, rfl⟩
  case entries =>
    intro t role klen eu j base p r x lane e bundle _ _ hl narrow _ low high room size own he hx entry inside home
    exact putExponents_get bundle rfl rfl hl narrow low high (entryRegister_lt room size inside) own hx he home r

end Sys2Proof.Machine
end

section
/-! PROOF. What errors of memory and the error log leave of a memory control block, and the counts of corrected errors (R58, R59, R364). -/

namespace Sys2Proof.Machine

/-! ## The memory control block of a die -/

theorem mcbOf_dieAt (s : State) (d : Nat) : mcbOf s d = (dieAt s d).mcb := by
  by_cases h : d < 2
  · rw [mcbOf, getElem?_dies s h]
    rfl
  · have outside : s.dies.toList.length ≤ d := by simp; omega
    rw [mcbOf, Vector.getElem?_eq_none (by omega), dieAt, vget, List.getD_eq_default _ _ outside]
    rfl

theorem mcbOf_eq (s : State) (die : Fin 2) : mcbOf s die = s.dies[die].mcb := by
  rw [mcbOf_dieAt, dieAt_eq]

theorem mcbOf_modMcb (s : State) (d k : Nat) (f : Mcb → Mcb) (h : k < 2) :
    mcbOf (modMcb s k f) d = if d = k then f (mcbOf s k) else mcbOf s d := by
  rw [mcbOf_dieAt, modMcb, dieAt_modDie s d k _ h]
  split <;> simp only [mcbOf_dieAt]

@[simp] theorem mcbOf_modMcb_same (s : State) (die : Fin 2) (f : Mcb → Mcb) : mcbOf (modMcb s die f) die = f (mcbOf s die) := by
  rw [mcbOf_modMcb s die die f die.isLt, if_pos rfl]

@[simp] theorem modMcb_rest (s : State) (d : Nat) (f : Mcb → Mcb) : (modMcb s d f).rest = s.rest := by
  unfold modMcb modDie
  split <;> rfl

@[simp] theorem modMcb_nextUid (s : State) (d : Nat) (f : Mcb → Mcb) : (modMcb s d f).nextUid = s.nextUid := by
  unfold modMcb modDie
  split <;> rfl

@[simp] theorem modMcb_mem (s : State) (d : Nat) (f : Mcb → Mcb) : (modMcb s d f).mem = s.mem := (modMcb_memory s d f).1

theorem mcbOf_of_dies {s t : State} (h : t.dies = s.dies) (d : Nat) : mcbOf t d = mcbOf s d := by
  rw [mcbOf, h, mcbOf]

/-! ## What a write of memory and the error log leave of it -/

/-- A state differs from another in nothing of its memory control blocks but the uncorrectable errors that they count. -/
structure SameControl (s t : State) : Prop where
  mcb : ∀ d, mcbOf t d = { mcbOf s d with ue := (mcbOf t d).ue }

namespace SameControl

variable {s t u : State}

theorem of_dies (h : t.dies = s.dies) : SameControl s t := ⟨fun d => by rw [mcbOf_of_dies h d]⟩

theorem refl (s : State) : SameControl s s := of_dies rfl

theorem trans (h : SameControl s t) (k : SameControl t u) : SameControl s u := ⟨fun d => by rw [k.mcb d, h.mcb d]⟩

theorem foldl {α : Type} {f : State → α → State} (step : ∀ s a, SameControl s (f s a)) (l : List α) (s : State) :
    SameControl s (l.foldl f s) :=
  List.foldlRecOn l f (refl s) fun t h a _ => h.trans (step t a)

end SameControl

theorem countUncorrectable_control (s : State) (d : Nat) (f : Mcb → List (Nat × Nat)) :
    SameControl s (modMcb s d fun m => { m with ue := f m }) := by
  by_cases h : d < 2
  · refine ⟨fun k => ?_⟩
    rw [mcbOf_modMcb s k d _ h]
    split
    · next e => rw [e]
    · rfl
  · rw [modMcb, modDie, Vector.getElem?_eq_none (by omega)]
    exact .refl s

theorem settleEcc_control (s : State) (l : List Nat) : SameControl s (settleEcc s l) := by
  unfold settleEcc
  dsimp only
  refine .trans ?_ (.foldl (fun t w => ?_) _ _)
  · exact .of_dies rfl
  split
  · exact countUncorrectable_control ..
  · exact .refl t

theorem putPlaces_control (s : State) (ws : List (Place × Nat)) : SameControl s (putPlaces s ws) := by
  refine .foldl (fun t w => .of_dies ?_) ws s
  cases w.1.core <;> rfl

theorem writePlaces_control (s : State) (ws : List (Place × Nat)) : SameControl s (writePlaces s ws) := by
  have settled (t : State) : SameControl t (settleScratch t ws) := .of_dies rfl
  have written := putPlaces_control s ws
  unfold writePlaces
  rw [← putPlaces]
  dsimp only
  split <;> split
  · exact written
  · exact written.trans (settleEcc_control ..)
  · exact written.trans (settled _)
  · exact (written.trans (settled _)).trans (settleEcc_control ..)

theorem readCycles_control (s : State) (cl : Nat) : SameControl s (readCycles s cl).2 := by
  unfold readCycles
  split <;> exact .of_dies rfl

theorem logEntry_control (s : State) (src code ctx queue : Nat) (w1 w2 : Word) (cl : Nat) :
    SameControl s (logEntry s src code ctx queue w1 w2 cl) := by
  have counted (t : State) (v : Unit_) : SameControl t { t with unit := v } := .of_dies rfl
  unfold logEntry
  dsimp only
  split
  · refine .trans ?_ (counted _ _)
    split
    · exact (readCycles_control s cl).trans (writePlaces_control ..)
    · exact readCycles_control s cl
  · exact counted s _

theorem logService_control (s : State) : SameControl s (logService s) := by
  unfold logService openWord
  exact .trans (t := { s with drawn := s.drawn + 1 }) (.of_dies rfl) (logEntry_control ..)

/-! ## Counts of corrected errors (R58) -/

theorem countAt_of_find {l : List (Nat × Nat)} {k n : Nat} (h : (l.find? fun e => e.1 == k).map (·.2) = some n) : countAt l k = n := by
  rw [countAt, h]
  rfl

/-- A count that is advanced stands in the list, one higher. -/
theorem find_bump (l : List (Nat × Nat)) (k : Nat) : ((bump l k).find? fun e => e.1 == k).map (·.2) = some (countAt l k + 1) := by
  unfold bump countAt
  cases h : l.find? fun e => e.1 == k <;> simp

/-- A count advanced n times, once at least. -/
theorem find_bumps (l : List (Nat × Nat)) (k n : Nat) :
    (((List.range (n + 1)).foldl (fun l _ => bump l k) l).find? fun e => e.1 == k).map (·.2) = some (countAt l k + (n + 1)) := by
  induction n with
  | zero => exact find_bump l k
  | succ n ih => rw [List.range_succ, List.foldl_append, List.foldl_cons, List.foldl_nil, find_bump, countAt_of_find ih, Nat.add_assoc]

/-- Errors of a channel that are corrected are counted for it. -/
theorem countCorrected_ce (s : State) (die : Fin 2) (ch : Nat) {n : Nat} (some_ : 1 ≤ n) :
    ((mcbOf (countCorrected s die ch n) die).ce.find? fun e => e.1 == ch).map (·.2) = some (countAt (mcbOf s die).ce ch + n) := by
  obtain ⟨k, rfl⟩ : ∃ k, n = k + 1 := ⟨n - 1, by omega⟩
  unfold countCorrected
  rw [getElem?_dies s die.isLt]
  dsimp only
  split
  · rw [(logService_control _).mcb, mcbOf_modMcb_same]
    exact find_bumps ..
  · rw [mcbOf_modMcb_same]
    exact find_bumps ..

end Sys2Proof.Machine
end

section
/-! PROOF. The memory control block of a die: retirement and migration, row disturbance, alerts and back-off windows, and the patrol scrub
(R53 to R59). -/

namespace Sys2Proof.Machine

/-! ## Retirement and migration (R53, R54) -/

section
variable {s : State} {die : Fin 2} {pch : Nat}

/-- A channel that a request may retire: it exists, and it is neither retired nor asked for (R53). -/
def retirable (m : Mcb) (pch : Nat) : Prop :=
  pch < 768 ∧ pch ∉ m.retired ∧ m.migrating ≠ some pch ∧ pch ∉ m.heldPch ∧ pch ∉ m.waiting

section
variable (new : retirable (mcbOf s die) pch)
include new

theorem mcbRetirePch_new : exec (.mcbRetirePch die pch) s = .next (
    if 64 ≤ (mcbOf s die).retired.length then overLimit s die pch
    else if (mcbOf s die).migrating.isSome then modMcb s die fun m => { m with waiting := m.waiting ++ [pch] }
    else modMcb s die fun m => takeRetire m pch) := by
  obtain ⟨inside, live, notMigrating, notHeld, notWaiting⟩ := new
  show execMcbRetirePch die pch s = _
  unfold execMcbRetirePch
  dsimp only
  rw [if_neg]
  simp only [List.contains_iff_mem, not_or]
  exact ⟨by omega, live, notMigrating, notHeld, notWaiting⟩

theorem mcbRetirePch_taken (few : (mcbOf s die).retired.length < 64) (still : (mcbOf s die).migrating = none) :
    exec (.mcbRetirePch die pch) s = .next (modMcb s die fun m => takeRetire m pch) := by
  rw [mcbRetirePch_new new, if_neg (Nat.not_le.2 few), still]
  rfl

theorem mcbRetirePch_waits {q : Nat} (few : (mcbOf s die).retired.length < 64) (migrating : (mcbOf s die).migrating = some q) :
    exec (.mcbRetirePch die pch) s = .next (modMcb s die fun m => { m with waiting := m.waiting ++ [pch] }) := by
  rw [mcbRetirePch_new new, if_neg (Nat.not_le.2 few), migrating]
  rfl

theorem mcbRetirePch_over (full : 64 ≤ (mcbOf s die).retired.length) : exec (.mcbRetirePch die pch) s = .next (overLimit s die pch) := by
  rw [mcbRetirePch_new new, if_pos full]

end

/-- The cuts that have been made suffice, as the statement of the rule counts them (R53). -/
theorem domainHolds_iff (m : Mcb) : domainHolds m = true ↔ (768 - m.cuts) * 256 ≤ (768 - (m.retired.length + 1)) * 260 := decide_eq_true_iff

theorem takeRetire_cases (m : Mcb) (pch : Nat) : takeRetire m pch =
    if m.heldPch = [] ∧ (768 - m.cuts) * 256 ≤ (768 - (m.retired.length + 1)) * 260 then startMigration m pch []
    else { halve m pch with esc := true, heldPch := m.heldPch ++ [pch] } := by
  simp only [takeRetire, Bool.and_eq_true, List.isEmpty_iff, domainHolds_iff]

theorem overLimit_mcb (s : State) (die : Fin 2) (pch : Nat) :
    (mcbOf (overLimit s die pch) die).esc = true ∧ (mcbOf (overLimit s die pch) die).retired = (mcbOf s die).retired := by
  rw [overLimit, (logService_control _).mcb, mcbOf_modMcb_same]
  exact ⟨rfl, rfl⟩

/-- Starting a held migration makes no cut. -/
theorem takeHeld_cuts (m : Mcb) : (takeHeld m).cuts = m.cuts := by
  unfold takeHeld
  split
  · split <;> rfl
  · rfl

/-- The oldest retirement that is held starts once the cuts suffice. -/
theorem takeHeld_starts {m : Mcb} {rest : List Nat} (held : m.heldPch = pch :: rest) (still : m.migrating = none)
    (enough : domainHolds m = true) : takeHeld m = startMigration m pch rest := by
  rw [takeHeld, held, still]
  exact if_pos enough

theorem takeHeld_none {m : Mcb} (held : m.heldPch = []) : takeHeld m = m := by
  rw [takeHeld, held]
  cases m.migrating <;> rfl

theorem topcut_held (held : (mcbOf s die).heldPch ≠ []) :
    exec (.topcut die) s = .next (modMcb s die fun m => takeHeld { m with cuts := Nat.min 53 (m.cuts + 1) }) := by
  show execTopcut die s = _
  rw [execTopcut, if_neg (by simpa using held), eventOut_some]

theorem topcut_none (held : (mcbOf s die).heldPch = []) : exec (.topcut die) s = .next s := by
  show execTopcut die s = _
  rw [execTopcut, if_pos (by simpa using held), eventOut_none]

theorem migrationStart_held {rest : List Nat} (held : (mcbOf s die).heldPch = pch :: rest) (still : (mcbOf s die).migrating = none)
    (enough : domainHolds (mcbOf s die) = true) : exec (.migrationStart die) s = .next (modMcb s die takeHeld) := by
  show execMigrationStart die s = _
  unfold execMigrationStart
  dsimp only
  rw [still, takeHeld_starts held still enough]
  rfl

theorem migrationStart_waiting {rest : List Nat} (waiting : (mcbOf s die).waiting = pch :: rest) (still : (mcbOf s die).migrating = none)
    (held : (mcbOf s die).heldPch = []) (few : (mcbOf s die).retired.length < 64) : exec (.migrationStart die) s =
      .next (modMcb (modMcb s die fun m => { m with waiting := rest }) die fun m => takeRetire m pch) := by
  show execMigrationStart die s = _
  unfold execMigrationStart
  dsimp only
  rw [takeHeld_none held, still, waiting]
  simp only [if_neg (Nat.not_le.2 few)]
  rfl

/-- No channel is in a back-off window when none of the windows is its own. -/
theorem inWindow_false {m : Mcb} (other : ∀ w ∈ m.windows, w.1 ≠ pch) : inWindow m pch = false := by
  refine List.any_eq_false.2 fun w hw => ?_
  simp [other w hw]

theorem migrateUnit_moves {q : Nat} (migrating : (mcbOf s die).migrating = some q) (below : (mcbOf s die).bound < unitCount (mcbOf s die))
    (left : inWindow (mcbOf s die) (channelOf (mcbOf s die) (mcbOf s die).bound) = false)
    (reached : inWindow (mcbOf s die) (channelOf { mcbOf s die with bound := (mcbOf s die).bound + 1 } (mcbOf s die).bound) = false)
    (clean : s.softMem = []) : exec (.migrateUnit die) s = .next (modMcb s die fun m => { m with bound := m.bound + 1 }) := by
  have ready : ((mcbOf s die).migrating.isSome && decide ((mcbOf s die).bound < unitCount (mcbOf s die)) && !false && !false) = true := by
    simp [migrating, below]
  show execMigrateUnit die s = _
  unfold execMigrateUnit
  dsimp only
  rw [left, reached, if_pos ready, correctReads_clean s _ clean, eventOut_some]

theorem migrationEnd_retires (migrating : (mcbOf s die).migrating = some pch) (done : unitCount (mcbOf s die) ≤ (mcbOf s die).bound) :
    exec (.migrationEnd die) s = .next (logService (modMcb s die fun m =>
      { m with retired := m.retired ++ [pch], migrating := none, bound := 0 })) := by
  show execMigrationEnd die s = _
  simp only [execMigrationEnd, migrating, if_neg (Nat.not_lt.2 done), eventOut_some]

/-! ## Row disturbance (R56) -/

theorem activate_drawn {draw : BitVec 16} (outside : inWindow (mcbOf s die) pch = false) (hardware : (mcbOf s die).nrp.getLsbD 16 = false) :
    exec (.activate die pch draw) s = .next (modMcb s die fun m =>
      { m with refreshes := if draw.toNat < Nat.max 16 ((mcbOf s die).nrp.toNat % 2 ^ 16) then m.refreshes + 1 else m.refreshes }) := by
  have untested : nrpTest (mcbOf s die) = false := hardware
  show execActivate die pch draw s = _
  simp only [execActivate, outside, untested, Bool.false_eq_true, if_false, eventOut_some, field_low]

/-! ## Back-off windows (R57) -/

theorem alertWindows_mem (m : Mcb) (pch now : Nat) : ∃ w ∈ alertWindows m pch now, w.1 = pch := by
  unfold alertWindows
  dsimp only
  split <;> exact ⟨_, List.mem_cons_self, rfl⟩

/-- With no operation of a hart outstanding and no transfer under way, no request waits. -/
theorem waitingFor_idle (none_ : ∀ h ∈ allHarts s, h.flights = []) (idle : s.transfers = []) (d pch : Nat) : waitingFor s d pch = [] := by
  have ops : ((allHarts s).flatMap fun h => (h.flights.filter fun f => !f.parked && mayPerform s h f).map (ChannelRequest.op h.hid)) = [] :=
    List.flatMap_eq_nil_iff.2 fun h hh => by rw [none_ h hh]; rfl
  rw [waitingFor, openRequests, ops, idle]
  rfl

theorem issueAtEnd_nil (left : Nat) (stamps : List Nat) : issueAtEnd left stamps [] = [] := by
  unfold issueAtEnd
  dsimp only
  split <;> simp

section
variable {left : Nat} {stamps : List Nat}

/-- A die of which a window of a channel has ended, with no request waiting for it: the windows left before it may be followed by one more. -/
def windowEnded (s : State) (die pch left : Nat) (stamps : List Nat) : State :=
  let others := (mcbOf s die).windows.filter fun w => w.1 != pch
  let t := modMcb s die fun m => { m with windows := others }
  if left ≤ 1 then t else modMcb t die fun m => { m with windows := (pch, left - 1, (s.nextUid :: stamps).take 4) :: others }

theorem backoffWindowEnd_idle (found : ((mcbOf s die).windows.find? fun w => w.1 == pch && decide (0 < w.2.1)) = some (pch, left, stamps))
    (none_ : ∀ h ∈ allHarts s, h.flights = []) (idle : s.transfers = []) :
    exec (.backoffWindowEnd die pch) s = .next (windowEnded s die pch left stamps) := by
  have unwanted (f : Mcb → Mcb) : waitingFor (modMcb s die f) die pch = [] := by
    have harts : allHarts (modMcb s die f) = allHarts s := by rw [allHarts, modMcb_me, modMcb_rest, allHarts]
    exact waitingFor_idle (harts ▸ none_) ((modMcb_transfers ..).trans idle) die pch
  show execBackoffWindowEnd die pch s = _
  unfold execBackoffWindowEnd
  simp only [found, unwanted, issueAtEnd_nil, List.foldl_nil, modMcb_nextUid, eventOut_some, windowEnded]

theorem windowEnded_mcb : mcbOf (windowEnded s die pch left stamps) die =
    let others := (mcbOf s die).windows.filter fun w => w.1 != pch
    { mcbOf s die with windows := if left ≤ 1 then others else (pch, left - 1, (s.nextUid :: stamps).take 4) :: others } := by
  unfold windowEnded
  dsimp only
  split
  · exact mcbOf_modMcb_same ..
  · rw [mcbOf_modMcb_same, mcbOf_modMcb_same]

end

/-! ## The patrol scrub (R59) -/

section
variable {u : Nat} (running : (mcbOf s die).scrub.toNat % 2 ^ 8 ≠ 0) (inside : u < unitCount (mcbOf s die))
  (outside : inWindow (mcbOf s die) (channelOf (mcbOf s die) u) = false) (clean : s.softMem = [])
include running inside outside clean

/-- The patrol scrub of a unit, outside a back-off window of its channel. -/
theorem patrolScrub_unit (errs : Nat) : exec (.patrolScrub die u errs) s = .next (
    if 4 < errs then
      let w := die.val * 0x3000000000 / 64 + 4 * u + (errs - 5) % 4
      if s.badMem.contains w then s else { s with badMem := w :: s.badMem }
    else countCorrected s die (channelOf (mcbOf s die) u) errs) := by
  have due : ¬(field (mcbOf s die).scrub 0 8 = 0 ∨ unitCount (mcbOf s die) ≤ u ∨ inWindow (mcbOf s die) (channelOf (mcbOf s die) u) = true) := by
    rw [field_low, outside]
    exact not_or.2 ⟨running, by simp [inside]⟩
  show execPatrolScrub die u errs s = _
  unfold execPatrolScrub
  dsimp only
  rw [if_neg due, correctReads_clean s _ clean]
  split <;> rfl

theorem patrolScrub_corrects {n : Nat} (few : n ≤ 4) :
    exec (.patrolScrub die u n) s = .next (countCorrected s die (channelOf (mcbOf s die) u) n) := by
  rw [patrolScrub_unit running inside outside clean, if_neg (by omega)]

/-- The patrol scrub that finds one of the four lines of a unit uncorrectable. -/
theorem patrolScrub_uncorrectable (k : Fin 4) : ∃ t, exec (.patrolScrub die u (5 + k.val)) s = .next t ∧
    die.val * 0x3000000000 / 64 + 4 * u + k.val ∈ t.badMem ∧ t.mem = s.mem := by
  have line : (5 + k.val - 5) % 4 = k.val := by omega
  refine ⟨_, patrolScrub_unit running inside outside clean _, ?_⟩
  rw [if_pos (by omega), line]
  dsimp only
  split
  · next known => exact ⟨by simpa using known, rfl⟩
  · exact ⟨List.mem_cons_self, rfl⟩

end

end

/-- Settles O56: each event of a memory control block by its law. -/
theorem memoryBlockEvents : Obligations.MemoryBlockEvents := by
  intro die s m hm
  rw [← mcbOf_eq] at hm
  subst hm
  simp only [← mcbOf_eq]
  refine ⟨fun pch inside live still notHeld notWaiting few => ?_, fun pch q inside live migrating other notHeld notWaiting few => ?_,
    fun pch inside live other notHeld notWaiting full => ?_, fun held => ⟨_, topcut_held held, ?_⟩, topcut_none,
    fun pch rest held still enough => ?_, fun pch rest waiting still held few => ?_, fun pch migrating => ⟨fun below apart clean => ?_, fun done => ?_⟩,
    fun v => ⟨_, rfl, ?_⟩, fun v => ⟨_, rfl, ?_⟩, fun pch draw apart hardware => ?_, fun pch => ⟨_, rfl, ?_⟩,
    fun pch left stamps found none_ idle others hothers => ?_, fun u running inside apart clean => ⟨fun n some_ few => ?_, ?_⟩⟩
  -- Requests to retire a channel (R53).
  · refine ⟨_, mcbRetirePch_taken ⟨inside, live, by simp [still], notHeld, notWaiting⟩ few still, ?_⟩
    rw [mcbOf_modMcb_same, takeRetire_cases]
    split
    · exact ⟨rfl, rfl, rfl⟩
    · exact ⟨rfl, rfl, List.mem_cons_self, still⟩
  · exact ⟨_, mcbRetirePch_waits ⟨inside, live, by simp [migrating, Ne.symm other], notHeld, notWaiting⟩ few migrating, mcbOf_modMcb_same ..⟩
  · exact ⟨_, mcbRetirePch_over ⟨inside, live, other, notHeld, notWaiting⟩ full.ge, overLimit_mcb s die pch⟩
  -- Cuts, and the retirements that they let start (R53).
  · rw [mcbOf_modMcb_same, takeHeld_cuts]
  · have holds := (domainHolds_iff _).2 enough
    refine ⟨_, migrationStart_held held still holds, ?_⟩
    rw [mcbOf_modMcb_same, takeHeld_starts held still holds]
    exact ⟨rfl, rfl⟩
  · refine ⟨_, migrationStart_waiting waiting still held few, ?_⟩
    rw [mcbOf_modMcb_same, mcbOf_modMcb_same, takeRetire_cases]
    split
    · exact ⟨rfl, .inl rfl⟩
    · exact ⟨rfl, .inr (by rw [held]; rfl)⟩
  -- The sweep of a migration (R54).
  · refine ⟨_, migrateUnit_moves migrating below (inWindow_false fun w hw => (apart w hw).1) (inWindow_false fun w hw => (apart w hw).2)
      clean, mcbOf_modMcb_same .., modMcb_mem ..⟩
  · refine ⟨_, migrationEnd_retires migrating done, ?_⟩
    rw [(logService_control _).mcb, mcbOf_modMcb_same]
    exact ⟨rfl, rfl⟩
  -- Row disturbance and activation alerts (R56, R57).
  · rw [mcbOf_modMcb_same]
    exact ⟨congrArg wordOfNat (field_low v 17), rfl⟩
  · rw [mcbOf_modMcb_same]
    exact ⟨congrArg wordOfNat (field_low v 32), rfl⟩
  · exact ⟨_, activate_drawn (inWindow_false apart) hardware, mcbOf_modMcb_same ..⟩
  · rw [mcbOf_modMcb_same]
    exact ⟨rfl, alertWindows_mem .., modMcb_mem ..⟩
  · rw [hothers]
    exact ⟨_, backoffWindowEnd_idle found none_ idle, windowEnded_mcb⟩
  -- The patrol scrub (R59).
  · exact ⟨_, patrolScrub_corrects running inside (inWindow_false apart) clean few, countCorrected_ce s die _ some_⟩
  · exact patrolScrub_uncorrectable running inside (inWindow_false apart) clean

end Sys2Proof.Machine
end

section
/-! PROOF. A context that is killed leaves no hart behind: what a kill does after the harts have gone brings none back (R301, R302, R320). -/

namespace Sys2Proof.Machine

/-! ## What stays of the other harts -/

/-- A step that renames no hart and moves none to another context, and brings none. -/
structure SameContexts (s t : State) : Prop where
  hid : t.me.hid = s.me.hid
  rest : t.rest.map (·.ctx) = s.rest.map (·.ctx)

namespace SameContexts

variable {s t u : State}

theorem of_eq (me : t.me = s.me) (rest : t.rest = s.rest) : SameContexts s t := ⟨by rw [me], by rw [rest]⟩

theorem refl (s : State) : SameContexts s s := of_eq rfl rfl

theorem trans (h : SameContexts s t) (k : SameContexts t u) : SameContexts s u := ⟨k.hid.trans h.hid, k.rest.trans h.rest⟩

theorem foldl {α : Type} {f : State → α → State} (step : ∀ s a, SameContexts s (f s a)) (l : List α) (s : State) :
    SameContexts s (l.foldl f s) :=
  List.foldlRecOn l f (refl s) fun t h a _ => h.trans (step t a)

theorem modHarts (s : State) {f : Hart → Hart} (hid : ∀ h, (f h).hid = h.hid) (ctx : ∀ h, (f h).ctx = h.ctx) :
    SameContexts s (modHarts s f) :=
  ⟨hid s.me, by rw [modHarts_rest, List.map_map]; exact List.map_congr_left fun h _ => ctx h⟩

end SameContexts

@[simp] theorem setCells_rest (s : State) (core : Option Nat) (m : Cells) : (setCells s core m).rest = s.rest := by
  cases core <;> rfl

@[simp] theorem settleEcc_rest (s : State) (l : List Nat) : (settleEcc s l).rest = s.rest := by
  refine List.foldlRecOn (motive := fun (t : State) => t.rest = s.rest) _ _ rfl fun t same w _ => ?_
  split
  · exact (modMcb_rest ..).trans same
  · exact same

@[simp] theorem writePlaces_rest (s : State) (ws : List (Place × Nat)) : (writePlaces s ws).rest = s.rest := by
  have written : (putPlaces s ws).rest = s.rest :=
    List.foldlRecOn (motive := fun (t : State) => t.rest = s.rest) ws _ rfl fun t same w _ => (setCells_rest ..).trans same
  unfold writePlaces
  rw [← putPlaces]
  dsimp only
  split <;> split <;> simp only [settleEcc_rest, written, settleScratch]

@[simp] theorem logEntry_rest (s : State) (src code ctx queue : Nat) (w1 w2 : Word) (cl : Nat) :
    (logEntry s src code ctx queue w1 w2 cl).rest = s.rest := by
  have cycles : (readCycles s cl).2.rest = s.rest := by
    unfold readCycles
    split <;> rfl
  unfold logEntry
  dsimp only
  split
  · split
    · exact (writePlaces_rest ..).trans cycles
    · exact cycles
  · rfl

@[simp] theorem wakeCluster_rest (s : State) (cl : Nat) : (wakeCluster s cl).rest = s.rest := by
  have change (t : State) (f : Cluster → Cluster) : (modCluster t cl f).rest = t.rest := by
    unfold modCluster
    split <;> rfl
  unfold wakeCluster
  split
  · split
    · exact change ..
    · exact change ..
    · rfl
  · rfl

theorem writePlaces_contexts (s : State) (ws : List (Place × Nat)) : SameContexts s (writePlaces s ws) :=
  .of_eq (writePlaces_me ..) (writePlaces_rest ..)

/-! ## Transfers that a kill ends (R79, R320, R373) -/

theorem sendQueued_contexts (s : State) (port : Nat) : SameContexts s (sendQueued s port) := by
  unfold sendQueued
  dsimp only
  split
  · exact .refl s
  · exact .of_eq rfl rfl

theorem sendPayload_contexts (s : State) (node : Nat) (control : Bool) (x : BitVec 1920) :
    SameContexts s (sendPayload s node control x) := by
  unfold sendPayload
  split
  · unfold queuePayload
    dsimp only
    refine .trans ?_ (sendQueued_contexts ..)
    exact .of_eq rfl rfl
  · exact .refl s

theorem sendFlits_contexts (s : State) (node : Nat) (control : Bool) (n : Nat) : SameContexts s (sendFlits s node control n) := by
  induction n generalizing s with
  | zero => exact .refl s
  | succ n ih => exact .trans (.of_eq (t := { s with drawn := s.drawn + 1 }) rfl rfl) ((sendPayload_contexts ..).trans (ih _))

theorem sendToAll_contexts (s : State) (nodes : List Nat) (control : Bool) (n : Nat) : SameContexts s (sendToAll s nodes control n) :=
  .foldl (fun t d => sendFlits_contexts t d control n) nodes s

theorem abortColl_contexts (s : State) (c : Coll) : SameContexts s (abortColl s c) := by
  unfold abortColl
  dsimp only
  split
  · split
    · exact (sendToAll_contexts s (otherNodes s c) true 1).trans (.of_eq rfl rfl)
    · exact .refl s
  · split
    · exact sendToAll_contexts ..
    · exact (sendToAll_contexts ..).trans (.of_eq rfl rfl)

theorem galleyAfter_contexts (s : State) (core id : Nat) : SameContexts s (galleyAfter s core id) := by
  unfold galleyAfter
  dsimp only
  split
  · exact .of_eq rfl rfl
  · split
    · exact .of_eq rfl rfl
    · exact .refl s

theorem dropTransfer_contexts (s : State) (t : Transfer) : SameContexts s (dropTransfer s t) := by
  have after (s : State) (g : Option Nat) : SameContexts s (match g with
      | some g => galleyAfter s t.core g
      | none => s) := by
    cases g
    · exact .refl s
    · exact galleyAfter_contexts ..
  exact .trans (.of_eq (t := { s with transfers := s.transfers.filter fun x => x.uid != t.uid }) rfl rfl) ((after _ _).trans (after _ _))

theorem putRecord_contexts (s : State) (ctx : Nat) (otb : Word) (h : Nat) (r : Record) : SameContexts s (putRecord s ctx otb h r) := by
  have stored (s : State) (a v : Nat) : SameContexts s (writeOpen s a 8 v) := by
    unfold writeOpen
    split
    · exact .refl s
    · exact writePlaces_contexts ..
  unfold putRecord
  dsimp only
  refine (SameContexts.foldl (fun t i => stored t (recordAddr otb h + 8 * i) (r.word i).toNat) (List.range 8) s).trans ?_
  split
  · refine .trans ?_ (.modHarts _ (fun g => ?_) (fun g => ?_))
    · exact .of_eq rfl rfl
    · split <;> rfl
    · split <;> rfl
  · exact .of_eq rfl rfl

theorem killTransfer_contexts (s : State) (t : Transfer) : SameContexts s (killTransfer s t) := by
  unfold killTransfer
  dsimp only
  split
  · split
    · exact .of_eq rfl rfl
    · refine .trans ?_ (dropTransfer_contexts ..)
      split
      · exact putRecord_contexts ..
      · exact .refl s
  · split
    · split
      · exact (abortColl_contexts ..).trans (.of_eq rfl rfl)
      · exact (abortColl_contexts ..).trans (dropTransfer_contexts ..)
    · exact dropTransfer_contexts ..
  · exact dropTransfer_contexts ..

/-! ## Nodes, banks and galleys of a context that ends (R92, R294, R301) -/

theorem killStore_rest {s t : State} {ctx : Nat} {a : Word} {f : Nat → Nat} (stored : killStore s ctx a f = some t) : t.rest = s.rest := by
  unfold killStore at stored
  dsimp only at stored
  split at stored
  · split at stored
    · cases stored
    · split at stored
      · rw [← Option.some.inj stored, writePlaces_rest]
      · cases stored
  · cases stored

theorem killNode_contexts (s : State) (n : Node) (started : Bool) : SameContexts s (killNode s n started) := by
  refine .of_eq (killNode_me ..) ?_
  rw [killNode, freeNode, modUnit_rest]
  cases stored : killStore s n.ctx (nodeColo n.record) (colophonWord n 7 started) with
  | none => rfl
  | some t => exact killStore_rest stored

theorem startFill_contexts (s : State) (core : Nat) : SameContexts s (startFill s core) := by
  unfold startFill
  split
  · exact .refl s
  · split
    · refine .trans (.of_eq (wakeCluster_me s (clusterOf core)) (wakeCluster_rest ..)) (.trans (.modHarts _ (fun g => ?_) (fun g => ?_)) (.of_eq rfl rfl))
      · split <;> rfl
      · split <;> rfl
    · exact .refl s

theorem resumeShadow_contexts (s : State) (core : Nat) : SameContexts s (resumeShadow s core) := by
  unfold resumeShadow
  dsimp only
  split
  · exact (startFill_contexts s core).trans (.trans (.of_eq (wakeCluster_me ..) (wakeCluster_rest ..)) (.of_eq rfl rfl))
  · exact startFill_contexts s core

/-- What a kill does on one core: its shadow bank is free if a hart of the context was in it, an image may fill a bank that is free, and the
galleys of the context become undeclared, or do so when their transfers have ended (R92, R294, R320). -/
def endOnCore (mine : List Hart) (ctx : Nat) (s : State) (k : Nat) : State :=
  let s := if mine.any (fun h => h.core == k && h.bank == .shadow) then
      modCore s k fun c => { c with shadow := .free, swapAsked := none }
    else s
  (List.range 32).foldl (fun s g =>
    let d := galley s k g
    if gState d ≠ 0 ∧ gOwner d = ctx then
      if galleyBusy s k g true ∨ galleyBusy s k g false then
        modCore s k fun c => { c with dying := c.dying ||| (1#32 <<< g) }
      else undeclare s k g
    else s) (resumeShadow s k)

theorem endOnCore_contexts (mine : List Hart) (ctx : Nat) (s : State) (k : Nat) : SameContexts s (endOnCore mine ctx s k) := by
  have shadow : SameContexts s (if mine.any (fun h => h.core == k && h.bank == .shadow) then
      modCore s k fun c => { c with shadow := .free, swapAsked := none } else s) := by
    split
    · exact .of_eq rfl rfl
    · exact .refl s
  refine shadow.trans ((resumeShadow_contexts _ k).trans (.foldl (fun s g => ?_) _ _))
  dsimp only
  split
  · split
    · exact .of_eq rfl rfl
    · exact .of_eq rfl rfl
  · exact .refl s

/-! ## No hart of the context is left -/

/-- The harts of a context are taken away, once the stores that have left them have been written (R320). -/
def withoutHarts (s : State) (ctx : Nat) : State :=
  let t := writePlaces s (((allHarts s).filter fun h => h.ctx == ctx).flatMap (leftStores s))
  { t with me := if t.me.ctx = ctx then Hart.idle else t.me, rest := t.rest.filter fun h => h.ctx != ctx }

/-- What a kill does after it has taken the harts away brings none back. -/
theorem killContext_contexts (s : State) (ctx : Nat) : SameContexts (withoutHarts s ctx) (killContext s ctx) := by
  unfold killContext
  dsimp only
  rw [← withoutHarts]
  refine .trans ?_ (.foldl (endOnCore_contexts ((allHarts s).filter fun h => h.ctx == ctx) ctx) _ _)
  refine .trans ?_ (.of_eq (modUnit_me ..) (modUnit_rest ..))
  refine .trans (.foldl killTransfer_contexts _ _) (.foldl (fun s n => ?_) _ _)
  split
  · exact .of_eq rfl rfl
  · exact killNode_contexts ..
  · exact killNode_contexts ..

/-- The context of the hart in focus is killed: none of its harts is left (R302, R309, R320). -/
theorem killLogged_gone (s : State) (code : Nat) (second : Option Nat) : ∀ h ∈ allHarts (killLogged s code second), h.ctx ≠ s.me.ctx := by
  have same := killContext_contexts s s.me.ctx
  have logged : SameContexts (killContext s s.me.ctx) (killLogged s code second) := .of_eq (logEntry_me ..) (logEntry_rest ..)
  obtain ⟨hid, rest⟩ := same.trans logged
  have idle : (killLogged s code second).me.hid = 0 := by
    rw [hid, withoutHarts]
    dsimp only
    rw [writePlaces_me, if_pos rfl]
    rfl
  intro h hh
  rw [allHarts, if_pos idle] at hh
  have left : h.ctx ∈ (killLogged s code second).rest.map (·.ctx) := List.mem_map_of_mem hh
  rw [rest] at left
  obtain ⟨g, hg, ctx⟩ := List.mem_map.1 left
  rw [← ctx]
  simpa using (List.mem_filter.1 hg).2

end Sys2Proof.Machine
end

section
/-! PROOF. The frame that an exception writes: what each of its registers holds (R305 to R307). -/

namespace Sys2Proof.Machine

/-! ## Consecutive frame registers -/

theorem vget_getElem {α : Type} {n : Nat} (v : Vector α n) (i : Nat) (h : i < n) (d : α) : v[i] = vget v i d := (vget_eq v ⟨i, h⟩ d).symm

/-- Writing a run leaves the registers before it and past it. -/
theorem vget_putFrame_other (f : Vector Word 256) (i j : Nat) (ws : List Word) (other : j < i ∨ i + ws.length ≤ j) :
    vget (putFrame f i ws) j 0 = vget f j 0 := by
  induction ws generalizing f i with
  | nil => rfl
  | cons w ws ih =>
    rw [List.length_cons] at other
    rw [putFrame, ih _ _ (by omega), vget_vset_other f w 0 (by omega)]

/-- Register k of a run that is written. -/
theorem vget_putFrame (f : Vector Word 256) (i k : Nat) (ws : List Word) (inside : k < ws.length) (fits : i + k < 256) :
    vget (putFrame f i ws) (i + k) 0 = ws.getD k 0 := by
  induction ws generalizing f i k with
  | nil => simp at inside
  | cons w ws ih =>
    rw [putFrame]
    cases k with
    | zero =>
      rw [Nat.add_zero i, vget_putFrame_other _ _ _ _ (by omega), vget_vset f i i w 0 (by omega), if_pos rfl]
      rfl
    | succ k =>
      rw [List.length_cons] at inside
      rw [show i + (k + 1) = i + 1 + k by omega, ih _ _ _ (by omega) (by omega)]
      rfl

/-! ## Runs one after another -/

/-- Runs written one after another. -/
def putRuns (f : Vector Word 256) (l : List (Nat × List Word)) : Vector Word 256 := l.foldl (fun f e => putFrame f e.1 e.2) f

theorem vget_putRuns_other (f : Vector Word 256) (l : List (Nat × List Word)) (j : Nat) (later : ∀ e ∈ l, j < e.1) :
    vget (putRuns f l) j 0 = vget f j 0 :=
  List.foldlRecOn (motive := fun g => vget g j 0 = vget f j 0) l _ rfl fun g same e he => by
    rw [vget_putFrame_other g _ _ _ (.inl (later e he)), same]

/-- A register of a run that no later run reaches. -/
theorem vget_putRuns (f : Vector Word 256) (l : List (Nat × List Word)) {n i k : Nat} {ws : List Word} (entry : l[n]? = some (i, ws))
    (later : ∀ e ∈ l.drop (n + 1), i + k < e.1) (inside : k < ws.length) (fits : i + k < 256) :
    vget (putRuns f l) (i + k) 0 = ws.getD k 0 := by
  obtain ⟨hn, at_⟩ := List.getElem?_eq_some_iff.1 entry
  have split : l = l.take n ++ (i, ws) :: l.drop (n + 1) := by rw [← at_, List.getElem_cons_drop, List.take_append_drop]
  have written := vget_putRuns_other (putFrame (putRuns f (l.take n)) i ws) (l.drop (n + 1)) (i + k) later
  rw [split, putRuns, List.foldl_append, List.foldl_cons]
  exact written.trans (vget_putFrame _ i k ws inside fits)

/-! ## The frame -/

/-- TRAP and BREAK are passed by in the frame: an open stick body goes on behind them (R256, R306). -/
def framed (s : State) (t : TrapInfo) : State :=
  if t.code == cSoftware || t.code == cBreak then modRegs s fun r => { r with stick := stickNext r.stick } else s

/-- The address at which the hart resumes (R306). -/
def resumeOf (s : State) (t : TrapInfo) : Word := if t.code == cSoftware || t.code == cBreak then nextPc s.me.r.pc else s.me.r.pc

/-- What tells of the exception (R306). -/
def frameHead (s : State) (t : TrapInfo) (async part : Bool) : List Word :=
  [tcause t async part, s.me.r.pc, resumeOf s t, wordOfNat t.elem] ++ ((List.range 6).map fun d => wordOfNat (t.coord.getD d 0)) ++ [t.info]

theorem writeFrame_eq (s : State) (t : TrapInfo) (async part arms : Bool) : writeFrame s t async part arms =
    vset (putFrame (putRuns (framed s t).me.r.frame (frameImage (framed s t))) 0 (frameHead s t async part)) 0x14
      (wordOfNat (1 + bit arms <<< 1)) := by
  simp only [writeFrame, putRuns, framed, frameHead, resumeOf]

section
variable {s : State} {t : TrapInfo} {async part arms : Bool}

theorem writeFrame_head {k : Nat} (inside : k < 11) (w : Word) (h : (frameHead s t async part)[k]? = some w) :
    vget (writeFrame s t async part arms) k 0 = w := by
  have read := vget_putFrame (putRuns (framed s t).me.r.frame (frameImage (framed s t))) 0 k (frameHead s t async part) inside (by omega)
  rw [Nat.zero_add] at read
  rw [writeFrame_eq, vget_vset_other _ _ _ (by omega), read, List.getD_eq_getElem?_getD, h]
  rfl

theorem writeFrame_tctl : vget (writeFrame s t async part arms) 0x14 0 = wordOfNat (1 + bit arms <<< 1) := by
  rw [writeFrame_eq, vget_vset _ _ _ _ _ (by decide), if_pos rfl]

/-- The first five runs of the image do not depend on the stick. -/
theorem frameImage_framed {n : Nat} (early : n < 5) : (frameImage (framed s t))[n]? = (frameImage s)[n]? := by
  unfold framed
  split
  · interval_cases n <;> simp only [frameImage, List.getElem?_cons_zero, List.getElem?_cons_succ, modRegs_me]
  · rfl

/-- A register of one of the first five runs of the image, outside what tells of the exception. -/
theorem writeFrame_image {n i k : Nat} {ws : List Word} (early : n < 5) (entry : (frameImage s)[n]? = some (i, ws))
    (later : ∀ e ∈ (frameImage (framed s t)).drop (n + 1), i + k < e.1) (inside : k < ws.length) (past : 11 ≤ i)
    (other : i + k ≠ 0x14) (fits : i + k < 256) : vget (writeFrame s t async part arms) (i + k) 0 = ws.getD k 0 := by
  have head : (frameHead s t async part).length = 11 := rfl
  rw [writeFrame_eq, vget_vset_other _ _ _ (Ne.symm other), vget_putFrame_other _ _ _ _ (by omega),
    vget_putRuns _ _ ((frameImage_framed early).trans entry) later inside fits]

/-- Where the run after one of the first four starts, the runs after it start no earlier. -/
theorem frameImage_later {n j : Nat} (below : j < ([0x0C, 0x18, 0x20, 0x28, 0x38].getD n 0)) :
    ∀ e ∈ (frameImage s).drop (n + 1), j < e.1 := by
  have early : n < 5 := by
    by_contra late
    rw [List.getD_eq_default _ _ (by simpa using late)] at below
    omega
  interval_cases n <;> simp [frameImage] at below ⊢ <;> omega

end

/-! ## What the frame holds -/

/-- What an exception with a cause leaves in the frame of a hart whose registers are given (R305 to R307). -/
def FrameHolds (f : Vector Word 256) (t : TrapInfo) (async arms : Bool) (r : Regs) : Prop :=
  f[0] = BitVec.ofNat 64 (t.code + (if async then 256 else 0) + 1024 * t.coord.length) ∧ f[1] = r.pc ∧
  f[2] = (if t.code = 0x1B ∨ t.code = 0x1C then nextPc r.pc else r.pc) ∧ f[3] = BitVec.ofNat 64 t.elem ∧
  (∀ d : Fin 6, f[4 + d.val] = BitVec.ofNat 64 (t.coord.getD d.val 0)) ∧ f[0x0A] = t.info ∧
  f[0x0B] = r.strip.pc ∧ f[0x0C] = r.vl ∧ f[0x0D] = r.vstart ∧ f[0x0E] = r.prog ∧ f[0x0F] = r.rows ∧ f[0x10] = r.pitch ∧
  f[0x11] = r.wpos ∧ f[0x12] = r.dphase ∧ f[0x13] = r.token ∧ f[0x14] = (if arms then 3 else 1) ∧
  (∀ i : Fin 8, f[0x18 + i.val] = r.g[i] ∧ f[0x20 + i.val] = r.fm[i]) ∧ ∀ i : Fin 16, f[0x28 + i.val] = r.c[i]

theorem tcause_eq (t : TrapInfo) (async : Bool) (few : t.coord.length ≤ 6) :
    tcause t async false = BitVec.ofNat 64 (t.code + (if async then 256 else 0) + 1024 * t.coord.length) := by
  have rank : Nat.min 6 t.coord.length = t.coord.length := Nat.min_eq_right few
  rw [tcause, wordOfNat, rank]
  cases async <;> simp [bit, Nat.shiftLeft_eq, Nat.mul_comm]

theorem resumeOf_eq (s : State) (t : TrapInfo) :
    resumeOf s t = if t.code = 0x1B ∨ t.code = 0x1C then nextPc s.me.r.pc else s.me.r.pc := by
  simp [resumeOf, cSoftware, cBreak]

theorem toList_getD {n : Nat} (v : Vector Word n) (i : Fin n) : v.toList.getD i 0 = v[i] := vget_eq v i 0

theorem writeFrame_holds (s : State) (t : TrapInfo) (async arms : Bool) (few : t.coord.length ≤ 6) :
    FrameHolds (writeFrame s t async false arms) t async arms s.me.r := by
  have head (k : Nat) (inside : k < 11) (w : Word) (h : (frameHead s t async false)[k]? = some w) :
      (writeFrame s t async false arms)[k] = w := (vget_getElem ..).trans (writeFrame_head inside w h)
  have state (k : Nat) (inside : k < 8) (w : Word)
      (h : [s.me.r.vl, s.me.r.vstart, s.me.r.prog, s.me.r.rows, s.me.r.pitch, s.me.r.wpos, s.me.r.dphase, s.me.r.token].getD k 0 = w) :
      (writeFrame s t async false arms)[0x0C + k] = w :=
    (vget_getElem ..).trans ((writeFrame_image (n := 1) (by decide) rfl (frameImage_later (by simp; omega)) inside (by decide) (by omega)
      (by omega)).trans h)
  refine ⟨?_, head 1 (by decide) _ rfl, ?_, head 3 (by decide) _ rfl, fun d => head (4 + d) (by omega) _ ?_, head 0x0A (by decide) _ rfl, ?_,
    state 0 (by decide) _ rfl, state 1 (by decide) _ rfl, state 2 (by decide) _ rfl, state 3 (by decide) _ rfl,
    state 4 (by decide) _ rfl, state 5 (by decide) _ rfl, state 6 (by decide) _ rfl, state 7 (by decide) _ rfl, ?_,
    fun i => ⟨?_, ?_⟩, fun i => ?_⟩
  · rw [← tcause_eq t async few]
    exact head 0 (by decide) _ rfl
  · rw [← resumeOf_eq]
    exact head 2 (by decide) _ rfl
  · fin_cases d <;> rfl
  · exact (vget_getElem ..).trans (writeFrame_image (n := 0) (i := 0x0B) (k := 0) (by decide) rfl (frameImage_later (by decide)) (by simp)
      (by decide) (by decide) (by decide))
  · rw [vget_getElem _ _ _ 0, writeFrame_tctl]
    cases arms <;> rfl
  · rw [← toList_getD]
    exact (vget_getElem ..).trans (writeFrame_image (n := 2) (by decide) rfl (frameImage_later (by simp; omega)) (by simp) (by decide)
      (by omega) (by omega))
  · rw [← toList_getD]
    exact (vget_getElem ..).trans (writeFrame_image (n := 3) (by decide) rfl (frameImage_later (by simp; omega)) (by simp) (by decide)
      (by omega) (by omega))
  · rw [← toList_getD]
    exact (vget_getElem ..).trans (writeFrame_image (n := 4) (by decide) rfl (frameImage_later (by simp; omega)) (by simp) (by decide)
      (by omega) (by omega))

end Sys2Proof.Machine
end

section
/-! PROOF. Taking an exception: the frame, the handler that the vector gives, TRAP and BREAK, asynchronous causes, and the kill
(R58, R79, R111, R256, R302 to R310, R320). -/

namespace Sys2Proof.Machine

/-! ## The hart whose trap is taken -/

@[simp] theorem correctVector_me (s : State) (code : Nat) : (correctVector s code).me = s.me := by
  unfold correctVector
  split
  · rfl
  split
  · rfl
  · dsimp only
    split
    · exact correctReads_me ..
    · split
      · exact correctReads_me ..
      · rw [correctTable_me, correctReads_me]

theorem correctVector_clean (s : State) (code : Nat) (clean : s.softMem = []) : correctVector s code = s := by
  rw [correctVector, clean]
  rfl

/-- What was popped goes back to its queues, and nothing else of the hart changes (R111). -/
theorem unpopHart_eq (h : Hart) : unpopHart h = { h with popped := [], r := { h.r with q := (unpopHart h).r.q } } := by
  unfold unpopHart
  split
  · next none_ => rw [← none_]
  · rfl

/-- An exception with a handler, of a cause that drops no map entry: the frame is written, the stick body closes, and control goes to the
handler (R302, R304, R305). -/
theorem takeTrap_handler {s : State} {t : TrapInfo} {async part arms : Bool} {pc : Word}
    (free : bitAt (vget s.me.r.frame 0x14 0) 0 = false) (ready : vectorMoving s t.code = false) (handler : vectorEntry s t.code = .ok pc)
    (present : t.code ≠ 0x0E) : takeTrap s t async part arms = { correctVector s t.code with me := { s.me with
      popped := [], pin := none, wait := none, r := { s.me.r with
        q := (unpop s).me.r.q, frame := writeFrame (unpop (correctVector s t.code)) t async part arms, pc := pc, armed := false,
        stick := { s.me.r.stick with
          active := false, held := if s.me.r.stick.active then s.me.r.stick.capture else s.me.r.stick.held } } } } := by
  have me : (unpop (correctVector s t.code)).me = { s.me with popped := [], r := { s.me.r with q := (unpop s).me.r.q } } := by
    rw [unpop, modMe_me, correctVector_me]
    exact unpopHart_eq s.me
  unfold takeTrap
  dsimp only
  rw [if_neg (ne_true_of_eq_false free), if_neg (ne_true_of_eq_false ready), handler]
  dsimp only
  rw [if_neg present, me]
  rfl

/-- What its frame holds. -/
theorem frame_holds (s : State) (t : TrapInfo) (async arms : Bool) (few : t.coord.length ≤ 6) :
    FrameHolds (writeFrame (unpop (correctVector s t.code)) t async false arms) t async arms s.me.r := by
  have holds := writeFrame_holds (unpop (correctVector s t.code)) t async arms few
  rw [unpop, modMe_me, correctVector_me, unpopHart_eq] at holds
  exact holds

theorem takeTrap_moving (s : State) (t : TrapInfo) (async part arms : Bool) (free : bitAt (vget s.me.r.frame 0x14 0) 0 = false)
    (moving : vectorMoving s t.code = true) : takeTrap s t async part arms = { s with me := { s.me with wait := some .moving } } := by
  unfold takeTrap
  dsimp only
  rw [if_neg (ne_true_of_eq_false free), if_pos moving]
  rfl

/-- A trap while a frame is active, and one with no handler, leave no hart of the context (R302, R309, R320). -/
theorem takeTrap_kills (s : State) (t : TrapInfo) (async part arms : Bool) (lost : bitAt (vget s.me.r.frame 0x14 0) 0 = true ∨
    (vectorMoving s t.code = false ∧ ∃ c, vectorEntry s t.code = .error c)) :
    ∀ h ∈ allHarts (takeTrap s t async part arms), h.ctx ≠ s.me.ctx := by
  cases active : bitAt (vget s.me.r.frame 0x14 0) 0 with
  | true =>
    rw [takeTrap_active s t async part arms active]
    exact killLogged_gone s _ _
  | false =>
    obtain ⟨ready, c, missing⟩ := lost.resolve_left (ne_true_of_eq_false active)
    rw [takeTrap_missing s t async part arms c active ready missing]
    exact killLogged_gone s _ _

/-! ## The vector (R302) -/

/-- A base moved within its object. -/
theorem effAddr?_inside {base : Word} {d : Nat} (inside : base.toNat % 2 ^ 44 + d < 2 ^ 44) :
    effAddr? base d = some (BitVec.ofNat 64 (base.toNat + d)) := by
  have moved : handleOf base * 2 ^ 44 + ((offsetOf base : Int) + d).toNat = base.toNat + d := by
    rw [handleOf_eq, offsetOf_eq]
    omega
  unfold effAddr?
  dsimp only
  rw [if_neg (by rw [offsetOf_eq]; omega), moved]
  rfl

theorem vectorElements_inside {s : State} {code : Nat} (inside : s.me.trapv.toNat % 2 ^ 44 + 8 * code < 2 ^ 44) :
    vectorElements s code = accessElements s 0 (BitVec.ofNat 64 (s.me.trapv.toNat + 8 * code)) 8 := by
  have address := effAddr?_inside (d := 8 * code) inside
  rw [Nat.cast_mul, Nat.cast_ofNat] at address
  rw [vectorElements, address]

/-- The entry that the vector gives for a cause, by the number that its bytes read. -/
theorem vectorEntry_clean {s : State} {code v : Nat} {es : List Element} (translated : vectorElements s code = .ok es)
    (clean : cleanElements s es) (hv : v = readPlaces s (es.map (·.place)) % 2 ^ 64) : vectorEntry s code =
      if v = 0 then .error none else if v % 4 ≠ 0 then .error (some cMisaligned) else .ok (BitVec.ofNat 64 v) := by
  have sound : ¬(es.any fun e => placeBad s e.place) = true := by simpa [cleanElements] using clean
  have word : wordOfNat (readPlaces s (es.map (·.place))) = BitVec.ofNat 64 v := by
    rw [hv, wordOfNat]
    exact BitVec.eq_of_toNat_eq (by simp)
  have value : (BitVec.ofNat 64 v).toNat = v := by rw [BitVec.toNat_ofNat, Nat.mod_eq_of_lt (by omega)]
  have zero : BitVec.ofNat 64 v = 0 ↔ v = 0 := by rw [← BitVec.toNat_inj, value]; rfl
  simp only [vectorEntry, translated, if_neg sound, word, zero, value]

/-! ## Asynchronous causes (R309, R310) -/

/-- The lower of the cause that a scan of held causes has found and the next one. -/
def lowerCause (m : Option Async) (a : Async) : Option Async :=
  match m with
  | none => some a
  | some b => if a.code < b.code then some a else some b

theorem lowestAsync_foldl (l : List Async) : lowestAsync l = l.foldl lowerCause none := rfl

section
variable {a x : Async} {m : Option Async} {l : List Async}

/-- A cause found stays found before one that is no lower. -/
theorem lowerCause_stays (lower : a = x ∨ a.code < x.code) : lowerCause (some a) x = some a := by
  rcases lower with rfl | above
  · exact ite_self _
  · exact if_neg (by omega)

/-- A cause below whatever has been found takes its place. -/
theorem lowerCause_takes (higher : ∀ b, m = some b → a.code < b.code) : lowerCause m a = some a := by
  cases m with
  | none => rfl
  | some b => exact if_pos (higher b rfl)

/-- What has been found stays above a cause that is below the next one too. -/
theorem lowerCause_higher (higher : ∀ b, m = some b → a.code < b.code) (above : a.code < x.code) :
    ∀ b, lowerCause m x = some b → a.code < b.code := by
  intro b found
  cases m with
  | none => exact Option.some.inj found ▸ above
  | some c =>
    rw [lowerCause] at found
    split at found
    · exact Option.some.inj found ▸ above
    · exact Option.some.inj found ▸ higher c rfl

theorem foldl_lowerCause_stays (lowest : ∀ b ∈ l, a = b ∨ a.code < b.code) : l.foldl lowerCause (some a) = some a := by
  induction l with
  | nil => rfl
  | cons x l ih =>
    rw [List.foldl_cons, lowerCause_stays (lowest x List.mem_cons_self)]
    exact ih fun b hb => lowest b (List.mem_cons_of_mem x hb)

/-- A scan finds the cause that is the only one of its code and has none below it. -/
theorem foldl_lowerCause (member : a ∈ l) (lowest : ∀ b ∈ l, a = b ∨ a.code < b.code) (higher : ∀ b, m = some b → a.code < b.code) :
    l.foldl lowerCause m = some a := by
  induction l generalizing m with
  | nil => exact absurd member List.not_mem_nil
  | cons x l ih =>
    have rest : ∀ b ∈ l, a = b ∨ a.code < b.code := fun b hb => lowest b (List.mem_cons_of_mem x hb)
    rw [List.foldl_cons]
    rcases lowest x List.mem_cons_self with rfl | above
    · rw [lowerCause_takes higher, foldl_lowerCause_stays rest]
    · have later : a ∈ l := (List.mem_cons.1 member).resolve_left fun same => by simp [same] at above
      exact ih later rest (lowerCause_higher higher above)

theorem lowestAsync_eq (member : a ∈ l) (lowest : ∀ b ∈ l, a = b ∨ a.code < b.code) : lowestAsync l = some a := by
  rw [lowestAsync_foldl]
  exact foldl_lowerCause member lowest fun _ none_ => nomatch none_

end

section
variable {s : State}

theorem asyncTrap_none (none_ : s.me.asyncs = [] ∨ bitAt (vget s.me.r.frame 0x14 0) 0 = true) : exec .asyncTrap s = .next s := by
  have unready : asyncReady s.me = false := by
    rcases none_ with empty | active
    · simp [asyncReady, empty]
    · rw [asyncReady, active]
      simp
  show execAsyncTrap s = _
  unfold execAsyncTrap
  rw [unready]
  split <;> rfl

theorem asyncTrap_lowest {a : Async} (member : a ∈ s.me.asyncs) (lowest : ∀ b ∈ s.me.asyncs, a = b ∨ a.code < b.code)
    (live : s.me.live = true) (active : s.me.bank = .active) (free : bitAt (vget s.me.r.frame 0x14 0) 0 = false)
    (idle : s.me.flights = []) (ready : vectorMoving s a.code = false) :
    exec .asyncTrap s = .next (takeTrap { s with me := { s.me with asyncs := s.me.asyncs.erase a } }
      { code := a.code, elem := a.elem, info := a.info } true false false) := by
  have held : asyncReady s.me = true := by
    have some_ : s.me.asyncs.isEmpty = false := List.isEmpty_eq_false_iff.2 (List.ne_nil_of_mem member)
    rw [asyncReady, live, active, free, idle, some_]
    rfl
  have settled : firstUnsettled s.me = none := by rw [firstUnsettled, idle]; rfl
  show execAsyncTrap s = _
  unfold execAsyncTrap
  rw [lowestAsync_eq member lowest]
  dsimp only
  rw [held, if_neg (by decide), if_neg (ne_true_of_eq_false ready), settled]
  rfl

end

/-! ## The statement -/

/-- ACTIVE of the frame, as the statements write it. -/
theorem active_eq (f : Vector Word 256) : (f[0x14]).getLsbD 0 = bitAt (vget f 0x14 0) 0 := by
  rw [vget_getElem f 0x14 _ 0]
  rfl

/-- Settles O26: the frame register by register, the handler by the read of the vector, and a kill by what it leaves of the harts. -/
theorem traps : Obligations.Traps := by
  simp only [Obligations.Traps, active_eq]
  refine ⟨fun s t async arms pc free _ present few ready handler => ?_, fun s code es v inside translated clean hv => ?_,
    fun s => ⟨fun settled n => ?_, fun parked n => ?_, fun t async part arms => ⟨takeTrap_moving s t async part arms, takeTrap_kills s t async part arms⟩⟩,
    fun s => ⟨fun a member lowest live active free idle ready => asyncTrap_lowest member lowest live active free idle ready, asyncTrap_none⟩⟩
  · exact ⟨_, _, correctVector_clean s t.code, takeTrap_handler free ready handler present, rfl, frame_holds s t async arms few⟩
  · have entry := vectorEntry_clean ((vectorElements_inside inside).trans translated) clean hv
    refine ⟨fun some_ aligned => ?_, fun missing => ?_⟩
    · rw [entry, if_neg some_, if_neg (not_not.2 aligned)]
    · rw [entry]
      split
      · exact ⟨_, rfl⟩
      · next some_ => exact ⟨_, if_pos (missing.resolve_left some_)⟩
  · have trapped (t : TrapInfo) (memory : t.code ≠ cUncorrectable) (lost : t.code ≠ cStripLost) :
        stopAt s (.trap t) none = takeTrap s t false false false :=
      (stopAt_trap s t none settled).trans (preciseTrap_other s t none memory lost)
    have number : wordOfNat n.toNat = n.setWidth 64 := BitVec.ofNat_toNat ..
    rw [← number]
    exact ⟨congrArg Host.Outcome.next (trapped _ (show cSoftware ≠ _ by decide) (show cSoftware ≠ _ by decide)),
      congrArg Host.Outcome.next (trapped _ (by decide) (by decide))⟩
  · exact ⟨congrArg Host.Outcome.next (stopAt_trap_parked s _ none parked), congrArg Host.Outcome.next (stopAt_trap_parked s _ none parked)⟩

end Sys2Proof.Machine
end

section
/-! PROOF. Misaligned scalar accesses and addresses out of range (R73, R131, R136). -/

namespace Sys2Proof.Machine

/-! ## The slot of a trap -/

/-- The slot of an instruction has a say in its trap only where the cause is uncorrectable data (R315). -/
theorem stopAt_trap_slot (s : State) (t : TrapInfo) (g : Word) (memory : t.code ≠ cUncorrectable) :
    stopAt s (.trap t) (some g) = stopAt s (.trap t) none := by
  have same : stripLoss s t (some g) = stripLoss s t none := if_neg fun h => memory h.1
  simp only [stopAt, preciseTrap, same]

/-- A scalar instruction under a slot that fails otherwise than by uncorrectable data. -/
theorem finishSlot_trap (s : State) (g : Word) (t : TrapInfo) (memory : t.code ≠ cUncorrectable) :
    finishSlot s g (.error (.trap t)) = .next (stopAt s (.trap t) none) :=
  congrArg Host.Outcome.next (stopAt_trap_slot s t g memory)

/-! ## Addresses -/

section

variable {base : Word} {d : Int}

/-- An address whose offset stays in its range is formed (R131). -/
theorem effAddr_inside (low : 0 ≤ (offsetOf base : Int) + d) (high : (offsetOf base : Int) + d < 2 ^ 44) (kind : Nat) :
    effAddr base d kind = .ok (BitVec.ofNat 64 (base.toNat / 2 ^ 44 * 2 ^ 44 + ((offsetOf base : Int) + d).toNat)) := by
  have inside : ¬ ((offsetOf base : Int) + d < 0 ∨ ((2 ^ 44 : Nat) : Int) ≤ (offsetOf base : Int) + d) := by omega
  rw [effAddr, effAddr?, if_neg inside, handleOf_eq]
  rfl

/-- An address whose offset leaves its range is ADDRFORM (R131). -/
theorem effAddr_outside (out : (offsetOf base : Int) + d < 0 ∨ 2 ^ 44 ≤ (offsetOf base : Int) + d) (kind : Nat) :
    effAddr base d kind = .error (.trap { code := cAddrForm, info := addrInfo (handleOf base) kind 0 0 }) := by
  have outside : (offsetOf base : Int) + d < 0 ∨ ((2 ^ 44 : Nat) : Int) ≤ (offsetOf base : Int) + d := by omega
  rw [effAddr, effAddr?, if_pos outside]

end

/-- The offset of an address that is formed of a handle and an offset. -/
theorem offsetOf_formed (base : Word) {n : Nat} (inside : n < 2 ^ 44) :
    offsetOf (BitVec.ofNat 64 (base.toNat / 2 ^ 44 * 2 ^ 44 + n)) = n := by
  have := base.isLt
  rw [offsetOf_eq, BitVec.toNat_ofNat]
  omega

/-! ## Scalar loads and stores -/

/-- Each scalar load is a load of its size (R136). -/
theorem exec_loadOps {e : (SOp → SOp → Fin 8 → BitVec 12 → Instr) × Nat × Bool} (he : e ∈ loadOps) (sd sa : SOp) (g : Fin 8)
    (imm : BitVec 12) (s : State) : exec (e.1 sd sa g imm) s = scalarLoad (e.1 sd sa g imm) sd sa g imm e.2.1 e.2.2 s := by
  simp only [loadOps, List.mem_cons, List.not_mem_nil, or_false] at he
  obtain rfl | rfl | rfl | rfl | rfl | rfl | rfl := he <;> rfl

/-- Each scalar store is a store of its size (R136). -/
theorem exec_storeOps {e : (SOp → SOp → BitVec 12 → Fin 8 → Instr) × Nat} (he : e ∈ storeOps) (sb sa : SOp) (imm : BitVec 12)
    (g : Fin 8) (s : State) : exec (e.1 sb sa imm g) s = scalarStore (e.1 sb sa imm g) sb sa imm g e.2 s := by
  simp only [storeOps, List.mem_cons, List.not_mem_nil, or_false] at he
  obtain rfl | rfl | rfl | rfl := he <;> rfl

section

variable {s s1 s2 : State} {sd sa sb : SOp} {g : Fin 8} {imm : BitVec 12} {base v : Word} {n : Nat}

/-- A scalar load whose address is not formed, or is misaligned, stops there (R131, R136). -/
theorem scalarLoad_stops (i : Instr) (signed : Bool) {st : Stop} (sources : srcOk sa = true) (dest : dstOk sd = true)
    (read : readSrc sa s = .ok (base, s1)) (stops : (effAddr base imm.toInt >>= fun ea => aligned s1 ea n 0) = .error st) :
    scalarLoad i sd sa g imm n signed s = finishSlot s s.me.r.g[g] (.error st) := by
  have fields : legal [sa] [sd] = .ok ⟨⟩ := (legal_ok ..).2 (by simp [sources, dest])
  unfold scalarLoad
  dsimp only
  rw [ok_bind fields, ok_bind read]
  cases formed : effAddr base imm.toInt with
  | error st' =>
    rw [formed] at stops
    cases stops
    rfl
  | ok ea =>
    rw [formed] at stops
    have stops : aligned s1 ea n 0 = .error st := stops
    rw [ok_bind rfl, stops]
    rfl

/-- A scalar store whose address is not formed, or is misaligned, stops there (R131, R136). -/
theorem scalarStore_stops (i : Instr) {st : Stop} (value : srcOk sb = true) (address : srcOk sa = true)
    (read : readSrc sa s = .ok (base, s1)) (read' : readSrc sb s1 = .ok (v, s2))
    (stops : (effAddr base imm.toInt 1 >>= fun ea => aligned s2 ea n 1) = .error st) :
    scalarStore i sb sa imm g n s = finishSlot s s.me.r.g[g] (.error st) := by
  have fields : legal [sb, sa] [] = .ok ⟨⟩ := (legal_ok ..).2 (by simp [value, address])
  unfold scalarStore
  dsimp only
  rw [ok_bind fields, ok_bind read, ok_bind read']
  cases formed : effAddr base imm.toInt 1 with
  | error st' =>
    rw [formed] at stops
    cases stops
    rfl
  | ok ea =>
    rw [formed] at stops
    have stops : aligned s2 ea n 1 = .error st := stops
    rw [ok_bind rfl, stops]
    rfl

/-- An address that is formed and whose offset is no multiple of n is the misaligned fault of its element and offset (R73). -/
theorem formed_misaligned (s : State) (kind : Nat) {off : Int} (off_ : off = (base.toNat % 2 ^ 44 : Nat) + imm.toInt) (low : 0 ≤ off)
    (high : off < 2 ^ 44) (odd : off % (n : Int) ≠ 0) :
    ∃ info, (effAddr base imm.toInt kind >>= fun ea => aligned s ea n kind) = .error (.trap
      { code := 0x0B, elem := elementNo s (whoMe s) (BitVec.ofNat 64 (base.toNat / 2 ^ 44 * 2 ^ 44 + off.toNat)),
        coord := [off.toNat], info := info }) := by
  have offset := offsetOf_formed base (n := off.toNat) (by omega)
  have odd' : ¬ offsetOf (BitVec.ofNat 64 (base.toNat / 2 ^ 44 * 2 ^ 44 + off.toNat)) % n = 0 := by
    rw [offset]
    intro even
    apply odd
    rw [← Int.toNat_of_nonneg low]
    exact_mod_cast even
  have formed := effAddr_inside (base := base) (d := imm.toInt) (by rw [offsetOf_eq]; omega) (by rw [offsetOf_eq]; omega) kind
  rw [offsetOf_eq, ← off_] at formed
  rw [ok_bind formed, aligned, if_neg odd', misalignedAt, misaligned, offset]
  exact ⟨_, rfl⟩

/-- An address whose offset leaves its range is ADDRFORM, before its alignment is looked at (R131). -/
theorem unformed_addrForm (s : State) (kind : Nat) {off : Int} (off_ : off = (base.toNat % 2 ^ 44 : Nat) + imm.toInt)
    (out : off < 0 ∨ 2 ^ 44 ≤ off) :
    ∃ info, (effAddr base imm.toInt kind >>= fun ea => aligned s ea n kind) = .error (.trap { code := 6, info := info }) := by
  rw [effAddr_outside (by rw [offsetOf_eq]; omega)]
  exact ⟨_, rfl⟩

end

/-- Settles O33: the address is formed, and its alignment checked, before anything else of the access. -/
theorem misalignedAccesses : Obligations.MisalignedAccesses := by
  intro sd sa g imm s s1 base off source read off_
  refine ⟨fun e he dest => ⟨fun low high odd => ?_, fun out => ?_⟩, fun e he v s2 value read' => ⟨fun low high odd => ?_, fun out => ?_⟩⟩
  · obtain ⟨info, stops⟩ := formed_misaligned s1 0 off_ low high odd
    refine ⟨info, ?_⟩
    rw [exec_loadOps he, scalarLoad_stops _ _ source dest read stops, finishSlot_trap _ _ _ (show (0x0B : Nat) ≠ 0x0F by decide)]
  · obtain ⟨info, stops⟩ := unformed_addrForm s1 0 off_ out
    refine ⟨info, ?_⟩
    rw [exec_loadOps he, scalarLoad_stops _ _ source dest read stops, finishSlot_trap _ _ _ (show (6 : Nat) ≠ 0x0F by decide)]
  · obtain ⟨info, stops⟩ := formed_misaligned s2 1 off_ low high odd
    refine ⟨info, ?_⟩
    rw [exec_storeOps he, scalarStore_stops _ value source read read' stops, finishSlot_trap _ _ _ (show (0x0B : Nat) ≠ 0x0F by decide)]
  · obtain ⟨info, stops⟩ := unformed_addrForm s2 1 off_ out
    refine ⟨info, ?_⟩
    rw [exec_storeOps he, scalarStore_stops _ value source read read' stops, finishSlot_trap _ _ _ (show (6 : Nat) ≠ 0x0F by decide)]

end Sys2Proof.Machine
end

section
/-! PROOF. What a write of memory leaves alone, and what the table entry of an object holds after it has been written (R66, R76, R79). -/

namespace Sys2Proof.Machine

/-! ## Writes of memory -/

/-- A state differs from another in its memories, and in what is known of their errors, alone. -/
def OnlyMemory (s t : State) : Prop :=
  t = { s with mem := t.mem, cores := t.cores, badMem := t.badMem, softMem := t.softMem, dies := t.dies }

namespace OnlyMemory

variable {s t u : State}

theorem refl (s : State) : OnlyMemory s s := rfl

theorem trans (h : OnlyMemory s t) (g : OnlyMemory t u) : OnlyMemory s u := by
  unfold OnlyMemory at *
  rw [g, h]

theorem foldl {α : Type} {f : State → α → State} (step : ∀ s a, OnlyMemory s (f s a)) (l : List α) (s : State) :
    OnlyMemory s (l.foldl f s) :=
  List.foldlRecOn l f (refl s) fun t h a _ => h.trans (step t a)

theorem me (h : OnlyMemory s t) : t.me = s.me := by rw [h]
theorem rest (h : OnlyMemory s t) : t.rest = s.rest := by rw [h]
theorem transfers (h : OnlyMemory s t) : t.transfers = s.transfers := by rw [h]
theorem colls (h : OnlyMemory s t) : t.colls = s.colls := by rw [h]
theorem unit (h : OnlyMemory s t) : t.unit = s.unit := by rw [h]

/-- What is guarded depends on registers that a write of memory does not reach (R317, R323, R346). -/
theorem guarded (h : OnlyMemory s t) (a : Nat) : guarded t a = guarded s a := by
  rw [h]
  rfl

end OnlyMemory

theorem setCells_only (s : State) (core : Option Nat) (m : Cells) : OnlyMemory s (setCells s core m) := by
  cases core <;> rfl

theorem modMcb_only (s : State) (d : Nat) (f : Mcb → Mcb) : OnlyMemory s (modMcb s d f) := by
  unfold modMcb modDie
  split <;> rfl

theorem settleEcc_only (s : State) (l : List Nat) : OnlyMemory s (settleEcc s l) := by
  unfold settleEcc
  dsimp only
  refine .trans (t := { s with badMem := _, softMem := _ }) rfl (.foldl (fun t w => ?_) _ _)
  split
  · exact modMcb_only ..
  · exact .refl t

/-- Writing places changes memories, and what is known of their errors, alone. -/
theorem writePlaces_only (s : State) (ws : List (Place × Nat)) : OnlyMemory s (writePlaces s ws) := by
  have written : OnlyMemory s (putPlaces s ws) := .foldl (fun _ _ => setCells_only ..) ws s
  have scratch (t : State) : OnlyMemory t (settleScratch t ws) := rfl
  unfold writePlaces
  rw [← putPlaces]
  dsimp only
  split <;> split
  · exact written
  · exact written.trans (settleEcc_only ..)
  · exact written.trans (scratch _)
  · exact (written.trans (scratch _)).trans (settleEcc_only ..)

theorem writeOpen_only (s : State) (a n v : Nat) : OnlyMemory s (writeOpen s a n v) := by
  unfold writeOpen
  split
  · exact .refl s
  · exact writePlaces_only ..

/-- What an open write leaves in main memory depends on main memory and on what is guarded. -/
theorem writeOpen_mem_congr {s t : State} (mem : t.mem = s.mem) (free : ∀ a, guarded t a = guarded s a) (a n v : Nat) :
    (writeOpen t a n v).mem = (writeOpen s a n v).mem := by
  have written : (writePhys t a n v).mem = (writePhys s a n v).mem := by
    have cells : cellsOf t none = cellsOf s none := mem
    have step (u : State) : (writePhys u a n v).mem = writeBits (cellsOf u none) { core := none, addr := a, bit := 0, bits := 8 * n } v :=
      (cellsOf_writePlace u _ v none).trans (if_pos rfl)
    rw [step, step, cells]
  simp only [writeOpen, free]
  split
  · exact mem
  · exact written

/-! ## The entry of an object table -/

/-- The words of a record are written, one after another, but for those that are guarded. -/
def writeEntry (s : State) (a : Nat) (r : Record) : State :=
  (List.range 8).foldl (fun s i => writeOpen s (a + 8 * i) 8 (r.word i).toNat) s

theorem writeEntry_only (s : State) (a : Nat) (r : Record) : OnlyMemory s (writeEntry s a r) :=
  .foldl (fun _ _ => writeOpen_only ..) _ s

theorem writeEntry_mem_congr {s t : State} (mem : t.mem = s.mem) (free : ∀ a, guarded t a = guarded s a) (a : Nat) (r : Record) :
    (writeEntry t a r).mem = (writeEntry s a r).mem := by
  unfold writeEntry
  generalize List.range 8 = l
  induction l generalizing s t with
  | nil => exact mem
  | cons i l ih =>
    refine ih (writeOpen_mem_congr mem free ..) fun b => ?_
    rw [(writeOpen_only t ..).guarded, (writeOpen_only s ..).guarded, free]

/-- A hart whose pin holds the record of a handle has the new one in it (R76, R79). -/
def pinRecord (ctx h : Nat) (r : Record) (g : Hart) : Hart :=
  if g.ctx == ctx && g.pin.any fun p => p.handle == h then { g with pin := g.pin.map fun p => { p with words := r } } else g

theorem pinRecord_eq (ctx h : Nat) (r : Record) (g : Hart) : pinRecord ctx h r g = { g with pin := (pinRecord ctx h r g).pin } := by
  unfold pinRecord
  split <;> rfl

/-- The copies of the record in the ORC of each core are the new one (R74, R79). -/
def cacheRecord (ctx h : Nat) (r : Record) (s : State) : State :=
  { s with cores := s.cores.map fun c => (c.1, { c.2 with orc := c.2.orc.map fun e =>
      if e.ctx = ctx ∧ e.handle = h then { e with words := r } else e }) }

/-- What the write of a record changes: the table, the copies of the record in the ORC of each core, and pins. -/
theorem putRecord_eq (s : State) (ctx : Nat) (otb : Word) (h : Nat) (r : Record) : ∃ f, (∀ g : Hart, ∃ p, f g = { g with pin := p }) ∧
    putRecord s ctx otb h r = modHarts (cacheRecord ctx h r (writeEntry s (recordAddr otb h) r)) f := by
  unfold putRecord
  dsimp only
  split
  · exact ⟨pinRecord ctx h r, fun g => ⟨_, pinRecord_eq ..⟩, rfl⟩
  · refine ⟨id, fun g => ⟨g.pin, rfl⟩, ?_⟩
    rw [modHarts, List.map_id]
    rfl

section

variable (s : State) (ctx : Nat) (otb : Word) (h : Nat) (r : Record)

theorem putRecord_mem : (putRecord s ctx otb h r).mem = (writeEntry s (recordAddr otb h) r).mem := by
  obtain ⟨f, -, e⟩ := putRecord_eq s ctx otb h r
  rw [e]
  rfl

@[simp] theorem putRecord_transfers : (putRecord s ctx otb h r).transfers = s.transfers := by
  obtain ⟨f, -, e⟩ := putRecord_eq s ctx otb h r
  rw [e]
  exact (writeEntry_only ..).transfers

/-- The write of a record changes of the hart in focus its pin alone. -/
theorem putRecord_me : ∃ p, (putRecord s ctx otb h r).me = { s.me with pin := p } := by
  obtain ⟨f, pins, e⟩ := putRecord_eq s ctx otb h r
  obtain ⟨p, hp⟩ := pins s.me
  refine ⟨p, ?_⟩
  rw [e, modHarts_me, ← hp]
  exact congrArg f (writeEntry_only ..).me

theorem putRecord_mem_congr {t : State} (mem : t.mem = s.mem) (free : ∀ a, guarded t a = guarded s a) :
    (putRecord t ctx otb h r).mem = (putRecord s ctx otb h r).mem := by
  rw [putRecord_mem, putRecord_mem, writeEntry_mem_congr mem free]

end

theorem recordAt_congr {s t : State} (mem : t.mem = s.mem) (a : Nat) : recordAt t a = recordAt s a := by
  simp only [recordAt, readPhys, mem]

end Sys2Proof.Machine
end

section
/-! PROOF. ICINV, ORCINV and OBJMOVE of a hart with nothing outstanding (R79, R81, R260, R261, R262). -/

namespace Sys2Proof.Machine

/-! ## Reading fields -/

/-- A state differs from another in the queues of the hart in focus, and in what it has popped, alone. -/
def OnlyQueues (s t : State) : Prop := ∃ q p, t = modMe s fun h => { h with popped := p, r := { h.r with q := q } }

theorem OnlyQueues.trans {s t u : State} (h : OnlyQueues s t) (g : OnlyQueues t u) : OnlyQueues s u := by
  obtain ⟨q, p, rfl⟩ := h
  obtain ⟨q', p', rfl⟩ := g
  exact ⟨q', p', rfl⟩

theorem readSrc_queues {o : SOp} {s t : State} {v : Word} (read : readSrc o s = .ok (v, t)) : OnlyQueues s t := readSrc_frame read

/-- A hart with nothing outstanding still has nothing outstanding when it has read its fields. -/
theorem calm_queues {s t : State} (quiet : calm s) (read : OnlyQueues s t) : calm t := by
  obtain ⟨q, p, rfl⟩ := read
  exact quiet

/-- A move is checked in the same way when the hart has read its fields. -/
theorem moveChecks_queues {s t : State} (read : OnlyQueues s t) (a b : Word) : moveChecks t a b = moveChecks s a b := by
  obtain ⟨q, p, rfl⟩ := read
  rfl

/-! ## A hart with nothing outstanding -/

section

variable {s : State} (quiet : calm s)

include quiet

theorem calm_hid : s.me.hid ≠ 0 := by
  obtain ⟨⟨hid, -⟩, -⟩ := quiet
  exact hid

theorem calm_flights : s.me.flights = [] := by
  obtain ⟨⟨-, -, flights, -⟩, -⟩ := quiet
  exact flights

theorem calm_transfers : s.transfers = [] := by
  obtain ⟨⟨-, -, -, transfers, -⟩, -⟩ := quiet
  exact transfers

theorem calm_stores : s.me.r.strip.stores = [] := by
  obtain ⟨-, stores⟩ := quiet
  exact stores

/-- Nothing of a hart keeps back an instruction whose effect nothing can take back (R6, R111). -/
theorem calm_firm : firm s = .ok s := by
  have flights := calm_flights quiet
  have free : anyStuck s isMmau = false := by simp [anyStuck, flights]
  have checked : allChecked s = true := by simp [allChecked, flights]
  have settled : passOn s = s := by simp [passOn, anyParked, flights]
  rw [firm, ok_bind ((ensure_ok ..).2 (by rw [free]; rfl)), ok_bind ((holds_ok ..).2 checked), settled]
  rfl

/-- No register is pending. -/
theorem calm_pendingX (n : Fin 24) : pendingX s n = false := by
  simp [pendingX, calm_flights quiet, calm_transfers quiet]

theorem calm_useX (n : Fin 24) : useX s n = .ok ⟨⟩ := (useX_ok ..).2 (calm_pendingX quiet n)

theorem calm_transferRoom : transferRoom s = .ok ⟨⟩ := by
  simp [transferRoom, pendingTransfers, calm_transfers quiet]

/-- With no transfer pending the next transfer id is the one after the last (R87). -/
theorem calm_nextTid : nextTid s = idAfter s.me.lastTid := by
  simp [nextTid, pendingTransfers, calm_transfers quiet, freeId]

end

/-! ## Registers that a transfer will write -/

/-- A register is pending while a transfer of the hart is to write it (R87). -/
theorem pendingX_transfer {s : State} {t : Transfer} {n : Fin 24} (present : t ∈ s.transfers) (own : t.owner = some s.me.hid)
    (target : t.se = n) (named : n ≠ 0) : pendingX s n = true := by
  have nonzero : n.val ≠ 0 := Fin.val_ne_zero_iff.2 named
  have found : (s.transfers.any fun t => t.owner == some s.me.hid && t.se == n) = true :=
    List.any_eq_true.2 ⟨t, present, by simp [own, target]⟩
  simp [pendingX, nonzero, found]

theorem doneReg_register {n : Fin 24} (named : n ≠ 0) : doneReg (.s n) = .ok n := if_neg (Fin.val_ne_zero_iff.2 named)

theorem pendingReg_register {n : Fin 24} {sd : SOp} (named : n ≠ 0) (other : sd ≠ .s n) : pendingReg (.s n) sd = .ok n :=
  if_neg fun h => h.elim (Fin.val_ne_zero_iff.2 named) other

/-- The write of a register other than s0. -/
theorem setX_register (r : Regs) {n : Fin 24} (named : n ≠ 0) (v : Word) : setX r n.val v = { r with x := r.x.set n v } := by
  rw [setX, if_neg (Fin.val_ne_zero_iff.2 named), vset_eq]

/-! ## Invalidations (R260, R261) -/

/-- What an invalidation that begins adds. -/
theorem beginInval_transfers (kind : TransferKind) (env : Env) (p : Fin 24) (a n : Word) {s : State} (none_ : s.transfers = []) :
    ∃ x : Transfer, (beginInval kind env p a n s).transfers = [x] ∧ x.kind = kind ∧ x.latch[0] = a ∧ x.latch[1] = n ∧
      x.ctx = s.me.ctx ∧ x.owner = some s.me.hid ∧ x.se = p := by
  have added : (beginInval kind env p a n s).transfers = s.transfers ++ [_] := rfl
  rw [none_] at added
  refine ⟨_, added, rfl, ?_, ?_, rfl, rfl, rfl⟩
  · exact (vget_getElem _ 0 (by decide) 0).trans ((vget_vset_other _ _ _ (by decide)).trans ((vget_vset _ 0 0 a 0 (by decide)).trans (if_pos rfl)))
  · exact (vget_getElem _ 1 (by decide) 0).trans ((vget_vset _ 1 1 n 0 (by decide)).trans (if_pos rfl))

/-- An invalidation that begins as its instruction retires. -/
theorem beginInval_retires (kind : TransferKind) (env : Env) {p : Fin 24} (a n : Word) {s t : State} (quiet : calm s)
    (read : OnlyQueues s t) (named : p ≠ 0) : ∃ x : Transfer, (retire (beginInval kind env p a n t)).transfers = [x] ∧ x.kind = kind ∧
      x.latch[0] = a ∧ x.latch[1] = n ∧ x.ctx = s.me.ctx ∧ pendingX (retire (beginInval kind env p a n t)) p = true ∧
      (retire (beginInval kind env p a n t)).mem = s.mem ∧ (retire (beginInval kind env p a n t)).me.r = (retire t).me.r := by
  obtain ⟨x, added, kind_, first, second, ctx, own, target⟩ :=
    beginInval_transfers kind env p a n (calm_transfers (calm_queues quiet read))
  have held : (retire (beginInval kind env p a n t)).transfers = [x] := (retire_transfers _).trans added
  have pending : pendingX (retire (beginInval kind env p a n t)) p = true :=
    pendingX_transfer (held ▸ List.mem_singleton_self x) (by rw [own, retire_me_hid]; rfl) target named
  obtain ⟨q, p', rfl⟩ := read
  have regs (t : State) : (beginInval kind env p a n t).me.r = t.me.r := rfl
  exact ⟨x, held, kind_, first, second, ctx, pending, retire_mem _, by simp only [retire_eq, regs]⟩

section

variable {s s1 s2 : State} {sa sb : SOp} {n : Fin 24} {g : Fin 8} {a b : Word} (quiet : calm s) (named : n ≠ 0)
  (srcA : srcOk sa = true) (srcB : srcOk sb = true) (readA : readSrc sa s = .ok (a, s1)) (readB : readSrc sb s1 = .ok (b, s2))

include quiet named srcA readA

section

include srcB readB

/-- A range past the end of the offsets is ADDRFORM (R260). -/
theorem execIcinv_outside (outside : 2 ^ 44 < offsetOf a + b.toNat) :
    execIcinv (.s n) sa sb g s = .next (stopAt s (.trap { code := cAddrForm, info := addrInfo (handleOf a) 0 0 0 }) (some s.me.r.g[g])) := by
  have fields : legal [sa, sb] [] = .ok ⟨⟩ := (legal_ok ..).2 (by simp [srcA, srcB])
  unfold execIcinv
  dsimp only
  rw [ok_bind fields, ok_bind (doneReg_register named), ok_bind (calm_useX quiet n), ok_bind readA, ok_bind readB]
  simp only [if_pos outside]
  rfl

/-- An ICINV with nothing of the hart outstanding begins (R260). -/
theorem execIcinv_begins (inside : offsetOf a + b.toNat ≤ 2 ^ 44) :
    execIcinv (.s n) sa sb g s = .next (retire (beginInval .icinv (scalarEnv s g) n a b s2)) := by
  have fields : legal [sa, sb] [] = .ok ⟨⟩ := (legal_ok ..).2 (by simp [srcA, srcB])
  have settled : calm s2 := calm_queues quiet ((readSrc_queues readA).trans (readSrc_queues readB))
  unfold execIcinv
  dsimp only
  rw [ok_bind fields, ok_bind (doneReg_register named), ok_bind (calm_useX quiet n), ok_bind readA, ok_bind readB]
  simp only [if_neg (Nat.not_lt.2 inside)]
  rw [ok_bind (calm_firm settled)]
  rfl

end

/-- An ORCINV of a galley has nothing to invalidate (R261). -/
theorem execOrcinv_galley (galley : galleyOf (handleOf a) ≠ none) :
    execOrcinv (.s n) sa g s = .next (retire (modRegs s1 fun r => { r with x := r.x.set n 0 })) := by
  have fields : legal [sa] [] = .ok ⟨⟩ := (legal_ok ..).2 (by simp [srcA])
  have write : (fun r : Regs => setX r n.val 0) = fun r => { r with x := r.x.set n 0 } := funext fun r => setX_register r named 0
  unfold execOrcinv
  dsimp only
  rw [ok_bind fields, ok_bind (doneReg_register named), ok_bind (calm_useX quiet n), ok_bind readA]
  simp only [if_pos (Option.isSome_iff_ne_none.2 galley), write]
  rfl

/-- An ORCINV of another object with nothing of the hart outstanding begins (R261). -/
theorem execOrcinv_begins (object : galleyOf (handleOf a) = none) :
    execOrcinv (.s n) sa g s = .next (retire (beginInval .orcinv (scalarEnv s g) n a 0 s1)) := by
  have fields : legal [sa] [] = .ok ⟨⟩ := (legal_ok ..).2 (by simp [srcA])
  unfold execOrcinv
  dsimp only
  rw [ok_bind fields, ok_bind (doneReg_register named), ok_bind (calm_useX quiet n), ok_bind readA]
  simp only [object, Option.isSome_none, Bool.false_eq_true, if_false]
  rw [ok_bind (calm_firm (calm_queues quiet (readSrc_queues readA)))]
  rfl

end

/-! ## Status words (R89) -/

/-- The status word of an operation, as a sum of its fields. -/
theorem statusWord_eq (code tid nfail index : Nat) : statusWord code tid nfail index =
    BitVec.ofNat 64 (code + 2 ^ 8 * tid + 2 ^ 24 * min 15 nfail + 2 ^ 28 * (index % 2 ^ 36)) := by
  simp only [statusWord, wordOfNat, Nat.shiftLeft_eq, Nat.mul_comm]

/-! ## OBJMOVE (R262) -/

/-- The latch of a move: the object and the new base. -/
def moveLatch (a b : Word) : Vector Word 16 := vset (vset (Vector.replicate 16 0) 0 a) 1 b

theorem vget_moveLatch_object (a b : Word) : vget (moveLatch a b) 0 0 = a :=
  (vget_vset_other _ _ _ (by decide)).trans ((vget_vset _ 0 0 a 0 (by decide)).trans (if_pos rfl))

theorem vget_moveLatch_base (a b : Word) : vget (moveLatch a b) 1 0 = b := (vget_vset _ 1 1 b 0 (by decide)).trans (if_pos rfl)

/-- The transfer of a move. -/
def moveTransfer (s : State) (n : Fin 24) (a b : Word) (spans : List Span) : Transfer :=
  newTransfer s .move (scalarEnv s 0) n (moveLatch a b) spans none none

theorem moveTransfer_queues {s t : State} (read : OnlyQueues s t) (n : Fin 24) (a b : Word) (spans : List Span) :
    newTransfer t .move (scalarEnv s 0) n (moveLatch a b) spans none none = moveTransfer s n a b spans := by
  obtain ⟨q, p, rfl⟩ := read
  rfl

/-- A move begins to drain as soon as nothing of its hart comes before it (R79, R83). -/
def startMove (x : Transfer) (s : State) : State :=
  if transferBlocked (addTransfer s x true) x then addTransfer s x true else beginDrain (addTransfer s x true) x

section

variable {s s1 s2 s3 : State} {sd sa sb : SOp} {n : Fin 24} {a b : Word} {tid : BitVec 16} (quiet : calm s) (named : n ≠ 0)
  (srcA : srcOk sa = true) (srcB : srcOk sb = true) (dest : dstOk sd = true) (readA : readSrc sa s = .ok (a, s1))
  (readB : readSrc sb s1 = .ok (b, s2)) (other : sd ≠ .s n) (next : tid = idAfter s.me.lastTid)
  (write : writeDst sd (tid.setWidth 64) s2 = .ok s3)

include named srcA srcB dest other

/-- OBJMOVE without the table right is the privilege fault (R262). -/
theorem execObjmove_privilege (barred : s.me.rtable = false) :
    execObjmove sd sa sb (BitVec.ofNat 5 n.val) s = .next (stopAt s (.trap { code := cPrivilege }) (some s.me.r.g[0])) := by
  have fields : legal [sa, sb] [sd] = .ok ⟨⟩ := (legal_ok ..).2 (by simp [srcA, srcB, dest])
  have value : (BitVec.ofNat 5 n.val).toNat = n.val := by rw [BitVec.toNat_ofNat]; omega
  have place : (⟨(BitVec.ofNat 5 n.val).toNat % 24, Nat.mod_lt _ (by decide)⟩ : Fin 24) = n := Fin.ext (by simp only [value]; omega)
  have positive : n.val ≠ 0 := Fin.val_ne_zero_iff.2 named
  unfold execObjmove
  dsimp only
  rw [ok_bind fields, ensure_bind (by simp only [value]; simp; omega), place, ok_bind (pendingReg_register named other), barred]
  rfl

include quiet readA readB next write

/-- OBJMOVE with nothing of the hart outstanding: what its checks lead to (R81, R262). -/
theorem execObjmove_launches (right : s.me.rtable = true) : execObjmove sd sa sb (BitVec.ofNat 5 n.val) s =
    match moveChecks s a b with
    | .error c => .next (retire (endAtOnce s3 tid n c))
    | .ok r => .next (retire (startMove (moveTransfer s n a b [{ handle := handleOf a, lo := 0, hi := imageSize r }]) s3)) := by
  have fields : legal [sa, sb] [sd] = .ok ⟨⟩ := (legal_ok ..).2 (by simp [srcA, srcB, dest])
  have value : (BitVec.ofNat 5 n.val).toNat = n.val := by rw [BitVec.toNat_ofNat]; omega
  have place : (⟨(BitVec.ofNat 5 n.val).toNat % 24, Nat.mod_lt _ (by decide)⟩ : Fin 24) = n := Fin.ext (by simp only [value]; omega)
  have positive : n.val ≠ 0 := Fin.val_ne_zero_iff.2 named
  have read : OnlyQueues s s2 := (readSrc_queues readA).trans (readSrc_queues readB)
  have settled : calm s2 := calm_queues quiet read
  have moves : decide (movesOf s2 s.me.ctx < 8) = true := by simp [movesOf, calm_transfers settled]
  have same : nextTid s2 = tid := by
    rw [calm_nextTid settled, next]
    obtain ⟨q, p, rfl⟩ := read
    rfl
  have write' : writeDst sd (wordOfNat tid.toNat) s2 = .ok s3 := by
    rw [← write, wordOfNat, BitVec.ofNat_toNat]
  unfold execObjmove
  dsimp only
  rw [ok_bind fields, ensure_bind (by simp only [value]; simp; omega), place, ok_bind (pendingReg_register named other),
    ensure_bind right, ok_bind readA, ok_bind readB, ok_bind (calm_transferRoom settled), ok_bind (calm_streamRoom settled _),
    ok_bind (calm_useX settled n), ok_bind (calm_firm settled), ok_bind ((holds_ok ..).2 moves), same, moveChecks_queues read]
  cases moveChecks s a b with
  | error c =>
    dsimp only
    rw [ok_bind write']
    rfl
  | ok r =>
    dsimp only
    rw [ok_bind (calm_tableRoom settled), ok_bind write']
    rw [← moveTransfer_queues read]
    rfl

end

/-- The record of an object whose move begins: it is moving, and names its new base (R79). -/
def movingRecord (q : Record) (base : Word) : Record :=
  vset (vset q 0 (putField (q.word 0) 39 2 2)) 1 (putField (q.word 1) 0 39 (field base 0 39))

section

variable {s : State} {x : Transfer} (quiet : calm s)

include quiet

theorem calm_addTransfer : (addTransfer s x true).transfers = [x] := by
  have added : (addTransfer s x true).transfers = s.transfers ++ [x] := rfl
  rw [added, calm_transfers quiet]
  rfl

/-- A transfer of a hart with nothing else outstanding waits for nothing (R83). -/
theorem calm_transferFree (own : x.owner = some s.me.hid) : transferBlocked (addTransfer s x true) x = false := by
  have named : (addTransfer s x true).me.hid = s.me.hid := rfl
  have flights : (addTransfer s x true).me.flights = [] := show s.me.flights = [] from calm_flights quiet
  have stores : (addTransfer s x true).me.r.strip.stores = [] := show s.me.r.strip.stores = [] from calm_stores quiet
  have found : hartOf (addTransfer s x true) s.me.hid = some (addTransfer s x true).me := by
    rw [hartOf, allHarts, if_neg (by rw [named]; exact calm_hid quiet), List.find?_cons_of_pos (by simp [named])]
  have lent : lentBehind (addTransfer s x true).me x.seq x.pmask stillUnperformed = false := by
    simp [lentBehind, stillUnperformed, stillBuffered, flights, stores]
  simp [transferBlocked, own, found, flights, stores, lent, ownTransfers, calm_addTransfer quiet, transferBlocksTransfer]

theorem calm_noMove (idle : x.draining = false) (still : x.copying = false) (h : Nat) :
    moveOf (addTransfer s x true) x.ctx h = none := by
  simp [moveOf, calm_addTransfer quiet, idle, still]

variable {r : Record} (own : x.owner = some s.me.hid) (idle : x.draining = false) (still : x.copying = false)
  (record : r = movingRecord (recordAt s (recordAddr x.otb (moveHandle x))) (vget x.latch 1 0))

include own idle still record

/-- A move of a hart with nothing outstanding begins to drain at once (R79). -/
theorem startMove_drains : startMove x s =
    setTransfer (putRecord (addTransfer s x true) x.ctx x.otb (moveHandle x) r) { x with draining := true, moved := some r } := by
  rw [startMove, calm_transferFree quiet own, if_neg Bool.false_ne_true, beginDrain, calm_noMove quiet idle still,
    if_neg (by simp), record]
  rfl

theorem startMove_transfers : (startMove x s).transfers = [{ x with draining := true, moved := some r }] := by
  rw [startMove_drains quiet own idle still record, setTransfer, putRecord_transfers, calm_addTransfer quiet]
  simp

/-- A move that begins leaves the registers of its hart alone, and takes its transfer id. -/
theorem startMove_me : (startMove x s).me.r = s.me.r ∧ (startMove x s).me.hid = s.me.hid := by
  rw [startMove_drains quiet own idle still record]
  obtain ⟨p, me⟩ := putRecord_me (addTransfer s x true) x.ctx x.otb (moveHandle x) r
  have kept (t : State) (y : Transfer) : (setTransfer t y).me = t.me := rfl
  rw [kept, me]
  exact ⟨rfl, rfl⟩

theorem startMove_mem : (startMove x s).mem = (putRecord s x.ctx x.otb (moveHandle x) r).mem := by
  rw [startMove_drains quiet own idle still record]
  exact putRecord_mem_congr s x.ctx x.otb (moveHandle x) r rfl fun _ => rfl

end

/-! ## What OBJMOVE refuses (R81, R262) -/

/-- A new base that does not fit its field is refused first. -/
theorem moveChecks_badBase (s : State) (a b : Word) (wide : 2 ^ 39 ≤ b.toNat) : moveChecks s a b = .error 0x19 := by
  have := b.isLt
  have rest : field b 39 25 ≠ 0 := by
    rw [field_eq]
    omega
  rw [moveChecks]
  exact if_pos rest

/-- A galley does not move. -/
theorem moveChecks_galley (s : State) (a b : Word) (fits : b.toNat < 2 ^ 39) (galley : galleyOf (handleOf a) ≠ none) :
    moveChecks s a b = .error 0x24 := by
  have rest : ¬ field b 39 25 ≠ 0 := by
    rw [field_eq]
    omega
  rw [moveChecks, if_neg rest, if_pos (Option.isSome_iff_ne_none.2 galley)]

/-! ## The obligation -/

/-- A state differs from another in the scalar registers and the queues of the hart in focus, and in what it has popped, alone. -/
def OnlyScalars (s t : State) : Prop := ∃ x q p, t = modMe s fun h => { h with popped := p, r := { h.r with x := x, q := q } }

/-- What reading fields and then writing one changes. -/
theorem readWrite_scalars {s s2 s3 : State} {sd : SOp} {v : Word} (read : OnlyQueues s s2) (write : writeDst sd v s2 = .ok s3) :
    OnlyScalars s s3 := by
  obtain ⟨q, p, rfl⟩ := read
  obtain ⟨x, q', rfl⟩ := writeDst_frame write
  exact ⟨x, q', p, rfl⟩

section

variable {s t : State} (only : OnlyScalars s t)

include only

theorem OnlyScalars.mem : t.mem = s.mem := by
  obtain ⟨x, q, p, rfl⟩ := only
  rfl

theorem OnlyScalars.hid : t.me.hid = s.me.hid := by
  obtain ⟨x, q, p, rfl⟩ := only
  rfl

theorem OnlyScalars.guarded (a : Nat) : guarded t a = guarded s a := by
  obtain ⟨x, q, p, rfl⟩ := only
  rfl

theorem OnlyScalars.calm (quiet : calm s) : calm t := by
  obtain ⟨x, q, p, rfl⟩ := only
  exact quiet

end

section

variable {s t : State} {n : Fin 24} {tid : BitVec 16} (quiet : calm s) (named : n ≠ 0) (only : OnlyScalars s t)

include quiet named only

/-- A move that is refused ends at once, with the status of its refusal (R81, R89). -/
theorem endAtOnce_retires (c : Nat) : (retire (endAtOnce t tid n c)).transfers = [] ∧ (retire (endAtOnce t tid n c)).mem = s.mem ∧
    (retire (endAtOnce t tid n c)).me.lastTid = tid ∧ (retire (endAtOnce t tid n c)).me.r = { (retire t).me.r with
      x := t.me.r.x.set n (BitVec.ofNat 64 (c + 256 * tid.toNat)) } := by
  have ended : (endAtOnce t tid n c).me.r = { t.me.r with x := t.me.r.x.set n (BitVec.ofNat 64 (c + 256 * tid.toNat)) } :=
    (setX_register t.me.r named _).trans (by rw [statusWord_eq]; rfl)
  have none_ : (endAtOnce t tid n c).transfers = [] := show t.transfers = [] from calm_transfers (only.calm quiet)
  refine ⟨(retire_transfers _).trans none_, (retire_mem _).trans only.mem, retire_me_lastTid _, ?_⟩
  simp only [retire_eq, ended]

/-- A move that begins as its instruction retires (R79, R262). -/
theorem startMove_retires {a b : Word} {spans : List Span} (next : tid = idAfter s.me.lastTid) {u : State}
    (launched : u = retire (startMove (moveTransfer s n a b spans) t)) : ∃ y : Transfer, u.transfers = [y] ∧
    y.kind = .move ∧ y.draining = true ∧ y.copying = false ∧ y.tid = tid ∧ pendingX u n = true ∧ u.me.r = (retire t).me.r ∧
    u.mem = (putRecord s s.me.ctx s.me.otb (handleOf a) (movingRecord (recordAt s (recordAddr s.me.otb (handleOf a))) b)).mem := by
  have settled : calm t := only.calm quiet
  have object : moveHandle (moveTransfer s n a b spans) = handleOf a := congrArg handleOf (vget_moveLatch_object a b)
  have own : (moveTransfer s n a b spans).owner = some t.me.hid := congrArg some only.hid.symm
  have record : movingRecord (recordAt s (recordAddr s.me.otb (handleOf a))) b =
      movingRecord (recordAt t (recordAddr (moveTransfer s n a b spans).otb (moveHandle (moveTransfer s n a b spans))))
        (vget (moveTransfer s n a b spans).latch 1 0) := by
    rw [object, recordAt_congr only.mem]
    exact congrArg _ (vget_moveLatch_base a b).symm
  obtain ⟨regs, hid⟩ := startMove_me settled own rfl rfl record
  have held := startMove_transfers settled own rfl rfl record
  rw [← retire_transfers, ← launched] at held
  refine ⟨_, held, rfl, rfl, rfl, (calm_nextTid quiet).trans next.symm, ?_, ?_, ?_⟩
  · refine pendingX_transfer (held ▸ List.mem_singleton_self _) ?_ rfl named
    rw [launched, retire_me_hid, hid]
    exact own
  · rw [launched, retire_eq, retire_eq, regs]
  · rw [launched, retire_mem, startMove_mem settled own rfl rfl record, object]
    exact putRecord_mem_congr s _ _ _ _ only.mem only.guarded

end

/-- Settles O53: an invalidation, and a move that no check refuses, begin in the step of their instruction, since nothing of the hart is
outstanding. -/
theorem invalidationAndMove : Obligations.InvalidationAndMove := by
  intro sd sa sb n g s s1 s2 a b quiet named srcA srcB dest readA readB
  have read1 : OnlyQueues s s1 := readSrc_queues readA
  have read2 : OnlyQueues s s2 := read1.trans (readSrc_queues readB)
  refine ⟨fun outside => ⟨_, execIcinv_outside quiet named srcA srcB readA readB ?_⟩, fun inside => ?_,
    fun galley => execOrcinv_galley quiet named srcA readA galley, fun object => ?_, fun tid s3 other next write => ⟨fun barred => ?_, fun right =>
      ⟨fun c refused => ?_, fun r passed => ?_, moveChecks_badBase s a b, moveChecks_galley s a b⟩⟩⟩
  · rwa [offsetOf_eq]
  · obtain ⟨x, begun⟩ := beginInval_retires .icinv (scalarEnv s g) a b quiet read2 named
    exact ⟨_, x, execIcinv_begins quiet named srcA srcB readA readB (by rwa [offsetOf_eq]), begun⟩
  · obtain ⟨x, held, kind, object_, -, rest⟩ := beginInval_retires .orcinv (scalarEnv s g) a 0 quiet read1 named
    exact ⟨_, x, execOrcinv_begins quiet named srcA readA object, held, kind, object_, rest⟩
  · exact execObjmove_privilege named srcA srcB dest other barred
  · have launched := execObjmove_launches quiet named srcA srcB dest readA readB other next write right
    rw [refused] at launched
    exact ⟨_, launched, endAtOnce_retires quiet named (readWrite_scalars read2 write) c⟩
  · have launched := execObjmove_launches quiet named srcA srcB dest readA readB other next write right
    rw [passed] at launched
    obtain ⟨y, held, kind, draining, copying, id, pending, regs, mem⟩ :=
      startMove_retires quiet named (readWrite_scalars read2 write) next rfl
    refine ⟨_, y, launched, held, kind, draining, copying, id, pending, regs, ?_⟩
    rw [mem, movingRecord, field_eq]
    simp

end Sys2Proof.Machine
end

section
/-! PROOF. The stores that a PROOF releases perform in their order (R157, R175). -/

namespace Sys2Proof.Machine

/-! ## Back-off windows (R57) -/

theorem noWindows_iff (s : State) : noWindows s = true ↔ ∀ d : Fin 2, (mcbOf s d).windows = [] := by
  simp only [noWindows, List.all_eq_true, List.isEmpty_iff, mcbOf_eq, Vector.mem_toList_iff]
  constructor
  · exact fun all d => all _ (Vector.getElem_mem d.isLt)
  · intro all d member
    obtain ⟨i, inside, rfl⟩ := Vector.mem_iff_getElem.1 member
    exact all ⟨i, inside⟩

/-- A write of memory begins no back-off window. -/
theorem writePlaces_noWindows {s : State} (free : noWindows s = true) (ws : List (Place × Nat)) : noWindows (writePlaces s ws) = true := by
  rw [noWindows_iff] at free ⊢
  intro d
  rw [(writePlaces_control s ws).mcb]
  exact free d

/-! ## One store that a PROOF has released -/

/-- A store that the PROOF of a sequence number has released, and what it writes. -/
structure Freed (seq : Nat) (f : Flight) (ws : List (Place × Nat)) : Prop where
  released : f.released = true
  issued : f.parked = false
  proof : f.env.seq = seq
  writes : f.writes = true
  unread : f.marks = []
  store : f.action = .store ws

/-- A hart that has nothing outstanding but stores that the PROOF of a sequence number has released. -/
structure Releasing (hid seq : Nat) (s : State) : Prop where
  named : s.me.hid = hid
  known : hid ≠ 0
  alone : s.transfers = []
  closed : s.me.r.strip.stores = []
  unlent : s.me.lent = []
  windows : noWindows s = true
  ordered : s.me.flights.Pairwise fun x y => x.seq < y.seq

section

variable {hid seq : Nat} {s : State} {f : Flight} {fs : List Flight} {ws : List (Place × Nat)} (releasing : Releasing hid seq s)
  (queue : s.me.flights = f :: fs) (freed : Freed seq f ws)

include releasing freed in
/-- A released store that performs: its effect, and its count. -/
theorem Releasing.performs : performFlight s hid f = modHart (writePlaces s ws) hid fun g => keepPerformed f []
    (countPerf { g with flights := g.flights.filter fun x => x.parked || x.seq != f.seq || x.released != f.released } f.stream) := by
  have me : hartOf s hid = some s.me := by
    rw [hartOf, allHarts, if_neg (releasing.named ▸ releasing.known), List.find?_cons_of_pos (by simp [releasing.named])]
  have plain : isMmau f = false := by rw [isMmau, freed.store]
  have data : dataTrap s f = none := by rw [dataTrap, freed.unread]; rfl
  have late : mmauTrap s s.me f = none := by rw [mmauTrap, freed.store]
  have corrected : correctFor s f = s := by rw [correctFor, freed.store]
  have write : performAction s s.me f = writePlaces s ws := by
    simp only [performAction, freed.store, freed.released, Bool.true_or, if_true]
  have lent : lentBy s.me f = [] := by simp [lentBy, freed.writes]
  simp only [performFlight, me, data, late, corrected, write, lent, plain, Option.or_none, Bool.false_eq_true, if_false]

include releasing freed in
theorem Releasing.performs_cells (core : Option Nat) : cellsOf (performFlight s hid f) core = cellsOf (writePlaces s ws) core := by
  rw [releasing.performs freed, cellsOf_modHart]

include releasing queue

/-- The first of the stores waits for no other. -/
theorem Releasing.unordered : orderBlocked s s.me f false = false := by
  have first : s.me.flights.any (fun y => flightBlocks y f && !passesBy s.me y f) = false := by
    have ordered := releasing.ordered
    rw [queue, List.pairwise_cons] at ordered
    rw [queue, List.any_eq_false]
    intro y member
    have later : ¬ y.seq < f.seq := by
      obtain rfl | below := List.mem_cons.1 member
      · omega
      · exact Nat.lt_asymm (ordered.1 y below)
    simp [flightBlocks, later]
  simp [orderBlocked, first, ownTransfers, releasing.alone, stripBlocks, releasing.closed, lentBehind, releasing.unlent]

include freed

theorem Releasing.canPerform : canPerform s s.me f = true := by
  have plain : isMmau f = false := by rw [isMmau, freed.store]
  have data : dataTrap s f = none := by rw [dataTrap, freed.unread]; rfl
  simp [Machine.canPerform, mayPerform, releasing.unordered queue, plain, data, backoffHolds, backoffAt, releasing.windows]

/-- What the store leaves of the hart: it is no longer outstanding, and its stream counts it. -/
theorem Releasing.performs_me : ∃ late, (performFlight s hid f).me =
    { s.me with flights := fs, perf := (countPerf s.me f.stream).perf, late := late } := by
  have ordered := releasing.ordered
  rw [queue, List.pairwise_cons] at ordered
  have left : (f :: fs).filter (fun x => x.parked || x.seq != f.seq || x.released != f.released) = fs := by
    rw [List.filter_cons_of_neg (by simp [freed.issued]), List.filter_eq_self]
    intro y member
    have later := ordered.1 y member
    simp only [Bool.or_eq_true, bne_iff_ne]
    exact .inl (.inr (Nat.ne_of_gt later))
  refine ⟨(performFlight s hid f).me.late, ?_⟩
  rw [releasing.performs freed]
  simp only [modHart, writePlaces_me, releasing.named, if_true, keepPerformed, countPerf, pruneLate, queue, left, releasing.unlent,
    List.append_nil, List.filter_nil, List.isEmpty_nil]

/-- The next of the stores is then first. -/
theorem Releasing.next : Releasing hid seq (performFlight s hid f) := by
  have ordered := releasing.ordered
  rw [queue, List.pairwise_cons] at ordered
  obtain ⟨late, me⟩ := releasing.performs_me queue freed
  refine ⟨?_, releasing.known, ?_, ?_, ?_, ?_, ?_⟩
  · rw [me]
    exact releasing.named
  · rw [releasing.performs freed, modHart_transfers, writePlaces_transfers]
    exact releasing.alone
  · rw [me]
    exact releasing.closed
  · rw [me]
    exact releasing.unlent
  · rw [releasing.performs freed]
    exact writePlaces_noWindows releasing.windows ws
  · rw [me]
    exact ordered.2

theorem Releasing.performs_next (n : Nat) : performReleased hid seq (n + 1) s = performReleased hid seq n (performFlight s hid f) := by
  have found : s.me.flights.find? (fun f => f.released && f.env.seq == seq) = some f := by
    rw [queue]
    exact List.find?_cons_of_pos (by simp [freed.released, freed.proof])
  rw [performReleased, found]
  exact if_pos (releasing.canPerform queue freed)

end

/-! ## All of them -/

theorem countPerf_perf (h : Hart) (stream : Nat) (k : Fin 16) :
    (countPerf h stream).perf[k] = h.perf[k] + BitVec.ofNat 16 (if stream = k.val then 1 else 0) := by
  by_cases here : stream = k.val
  · rw [countPerf, here, getElem_vset, vget_eq, if_pos rfl]
    rfl
  · have other : (countPerf h stream).perf[k] = h.perf[k] := by
      rw [← vget_eq _ k 0, ← vget_eq _ k 0]
      exact vget_vset_other _ _ _ here
    rw [other, if_neg here]
    exact (BitVec.add_zero _).symm

/-- Writes one after another leave the same cells where they found the same. -/
theorem cellsOf_foldl_writePlaces_congr {s t : State} (same : ∀ core, cellsOf t core = cellsOf s core) (l : List (List (Place × Nat)))
    (core : Option Nat) : cellsOf (l.foldl writePlaces t) core = cellsOf (l.foldl writePlaces s) core := by
  induction l generalizing s t with
  | nil => exact same core
  | cons ws l ih =>
    refine ih fun core => ?_
    rw [cellsOf_writePlaces, cellsOf_writePlaces, cellsOf_putPlaces_congr same]

/-- Stores that a PROOF has released perform one after another (R157, R175). -/
theorem performReleased_all {hid seq : Nat} (l : List (Flight × List (Place × Nat))) (freed : ∀ e ∈ l, Freed seq e.1 e.2) {n : Nat}
    (enough : l.length ≤ n) {s : State} (releasing : Releasing hid seq s) (queue : s.me.flights = l.map (·.1)) :
    (∀ core, cellsOf (performReleased hid seq n s) core = cellsOf ((l.map (·.2)).foldl writePlaces s) core) ∧
    (performReleased hid seq n s).me.r = s.me.r ∧ (performReleased hid seq n s).me.flights = [] ∧
    ∀ k : Fin 16, (performReleased hid seq n s).me.perf[k] = s.me.perf[k] +
      BitVec.ofNat 16 ((l.map (·.1)).filter fun f => f.stream == k.val).length := by
  induction l generalizing s n with
  | nil =>
    have done : performReleased hid seq n s = s := by
      cases n with
      | zero => rfl
      | succ n => rw [performReleased, queue]; rfl
    rw [done]
    exact ⟨fun _ => rfl, rfl, queue, fun k => by simp⟩
  | cons e l ih =>
    obtain ⟨f, ws⟩ := e
    obtain ⟨n, rfl⟩ : ∃ m, n = m + 1 := ⟨n - 1, by simp at enough; omega⟩
    have store : Freed seq f ws := freed (f, ws) List.mem_cons_self
    obtain ⟨late, me⟩ := releasing.performs_me queue store
    obtain ⟨cells, regs, none_, counts⟩ := ih (fun e member => freed e (List.mem_cons_of_mem _ member)) (n := n)
      (by simp at enough; omega) (releasing.next queue store) (by rw [me])
    rw [releasing.performs_next queue store]
    refine ⟨fun core => ?_, ?_, none_, fun k => ?_⟩
    · rw [cells]
      exact cellsOf_foldl_writePlaces_congr (releasing.performs_cells store) _ core
    · rw [regs, me]
    · rw [counts, me]
      simp only [List.map_cons, List.filter_cons, beq_iff_eq]
      rw [countPerf_perf, BitVec.add_assoc, ← BitVec.ofNat_add]
      split
      · rw [List.length_cons, Nat.add_comm]
      · rw [Nat.zero_add]

/-! ## PROOF (R157) -/

/-- The operation of a PROOF, from which the stores that it releases are made. -/
def proofBase (sa : SOp) (g : Fin 8) (s : State) : Flight :=
  opOf (.proof sa g) { scalarEnv s g with
    a := wordOfNat (s.me.r.strip.stores.flatMap (·.lines)).eraseDups.length, b := s.me.r.strip.b } s [] true (.store [])

/-- A buffered store that a PROOF releases. -/
def freedStore (base : Flight) (born : Nat) (x : StripStore) : Flight :=
  { base with seq := x.seq, stream := x.stream, pmask := x.pmask, scope := x.scope, spans := x.spans, action := .store x.writes,
              released := true, born := born }

/-- The watermark write of a PROOF, if its strip has a watermark word. -/
def markWrites (base : Flight) (born : Nat) (w : Word) (es : List Element) (ws : List (Place × Nat)) : List (Flight × List (Place × Nat)) :=
  if w = 0 then []
  else [({ base with spans := boundSpan (handleOf w) es, released := true, born := born, action := .store ws }, ws)]

/-- A hart whose strip a PROOF closes: the stores are released, and the flags and the counts of the strip are added. -/
def releaseStrip (st : StripState) (stream : Nat) (freed mark : List Flight) (h : Hart) : Hart :=
  let h := if st.w = 0 then h else countIssued h stream
  { h with flights := h.flights ++ freed ++ mark,
           r := { h.r with fflags := h.r.fflags ||| st.flags, strip := StripState.reset,
                           retired := h.r.retired + wordOfNat st.counts.retired,
                           counts := addCounts h.r.counts { st.counts with retired := 0 } } }

/-- A hart that has closed its strip, before what it has released performs. -/
def releasedState (s1 : State) (es : List Element) (st : StripState) (stream : Nat) (freed mark : List Flight) : State :=
  settleCounts (retire (modMe { nextSeq (touchElements s1 es) with nextUid := s1.nextUid + 1 } (releaseStrip st stream freed mark)))

section

variable {sa : SOp} {g : Fin 8} {s s1 : State} {a : Word}

theorem execProof_closed (source : srcOk sa = true) (closed : s.me.r.strip.isOpen = false) :
    execProof sa g s = .next (stopAt s (.trap { code := cStripState }) none) := by
  have fields : legal [sa] [] = .ok ⟨⟩ := (legal_ok ..).2 (by simp [source])
  unfold execProof
  dsimp only
  rw [ok_bind fields, closed]
  exact finishSlot_trap s _ _ (by decide)

/-- A PROOF with nothing of its hart outstanding but buffered stores releases these and its watermark write, which perform. -/
theorem execProof_releases {es : List Element} (source : srcOk sa = true) (isOpen : s.me.r.strip.isOpen = true) (read : readSrc sa s = .ok (a, s1))
    (quiet : calmButStrip s) (intact : stripBad s s.me.r.strip = false)
    (watermark : (if s.me.r.strip.w = 0 then pure [] else watermarkElements s1 1 s.me.r.strip.w) = .ok es) :
    execProof sa g s = .next (performReleased s.me.hid s.me.nextSeq (s.me.r.strip.stores.length + 1) (releasedState s1 es
      s.me.r.strip (slotStream s.me.r.g[g]) (s.me.r.strip.stores.map (freedStore (proofBase sa g s) s1.nextUid))
      ((markWrites (proofBase sa g s) s1.nextUid s.me.r.strip.w es (spread (es.map (·.place)) a.toNat)).map (·.1)))) := by
  obtain ⟨-, -, flights, -, turn, -, -, -, room⟩ := quiet
  have fields : legal [sa] [] = .ok ⟨⟩ := (legal_ok ..).2 (by simp [source])
  obtain ⟨q, p, queues⟩ := readSrc_queues read
  have intact' : stripBad s1 s.me.r.strip = false := by rw [queues]; exact intact
  have flights' : s1.me.flights = [] := by rw [queues]; exact flights
  have ready : proofWaits s1 = false := by simp [proofWaits, flights']
  have passed : passOn s1 = s1 := by simp [passOn, anyParked, flights']
  have free : streamRoom s1 (slotStream s.me.r.g[g]) = .ok ⟨⟩ := if_pos (by rw [queues]; exact room _)
  unfold execProof
  dsimp only
  rw [ok_bind fields, ensure_bind isOpen, ok_bind read]
  by_cases unmarked : s.me.r.strip.w = 0
  · rw [if_pos unmarked] at watermark ⊢
    rw [ok_bind watermark]
    dsimp only
    rw [intact', if_neg Bool.false_ne_true, ok_bind ((holds_ok ..).2 (by rw [ready]; rfl)), passed, turn, if_neg (not_not.2 unmarked)]
    refine congrArg (fun f => Host.Outcome.next (performReleased _ _ _ (settleCounts (retire (modMe _ f))))) (funext fun h => ?_)
    simp only [markWrites, if_pos unmarked, releaseStrip]
    rfl
  · rw [if_neg unmarked] at watermark ⊢
    rw [ok_bind watermark]
    dsimp only
    rw [intact', if_neg Bool.false_ne_true, ok_bind ((holds_ok ..).2 (by rw [ready]; rfl)), passed, turn, if_pos unmarked]
    rw [ok_bind (show streamRoom s1 (slotStream (scalarEnv s g).slot) = _ from free)]
    refine congrArg (fun f => Host.Outcome.next (performReleased _ _ _ (settleCounts (retire (modMe _ f))))) (funext fun h => ?_)
    simp only [markWrites, if_neg unmarked, releaseStrip]
    rfl

/-- What a hart is like when it has closed its strip. -/
structure StripClosed (s t : State) (fs : List Flight) : Prop where
  cells : ∀ core, cellsOf t core = cellsOf s core
  strip : t.me.r.strip = StripState.reset
  fflags : t.me.r.fflags = s.me.r.fflags ||| s.me.r.strip.flags
  pc : t.me.r.pc = nextPc s.me.r.pc
  flights : t.me.flights = fs
  perf : t.me.perf = s.me.perf
  hid : t.me.hid = s.me.hid
  lent : t.me.lent = s.me.lent
  transfers : t.transfers = s.transfers
  dies : t.dies = s.dies

/-- Counts that reach the core leave the cells of every space alone. -/
theorem settleCounts_cells {s : State} (settled : s.me.flights.any unretired = false) (core : Option Nat) :
    cellsOf (settleCounts s) core = cellsOf s core := by
  cases core with
  | none => exact settleCounts_mem s
  | some n =>
    rw [cellsOf, cellsOf, getCore_settleCounts s settled]
    split <;> rfl

theorem StripClosed.settle {s t : State} {fs : List Flight} (closed : StripClosed s t fs) (issued : ∀ f ∈ fs, unretired f = false) :
    StripClosed s (settleCounts t) fs := by
  have settled : t.me.flights.any unretired = false := by
    rw [closed.flights, List.any_eq_false]
    exact fun f member => by rw [issued f member]; exact Bool.false_ne_true
  have cells := settleCounts_cells settled
  have frame := settleCounts_frame t settled
  constructor
  case cells => exact fun core => (cells core).trans (closed.cells core)
  case strip => rw [frame]; exact closed.strip
  case fflags => rw [frame]; exact closed.fflags
  case pc => rw [frame]; exact closed.pc
  case flights => rw [frame]; exact closed.flights
  case perf => rw [frame]; exact closed.perf
  case hid => rw [frame]; exact closed.hid
  case lent => rw [frame]; exact closed.lent
  case transfers => rw [frame]; exact closed.transfers
  case dies => rw [frame]; exact closed.dies

theorem releaseStrip_eq (st : StripState) (stream : Nat) (freed mark : List Flight) (h : Hart) : ∃ issued,
    releaseStrip st stream freed mark h = { h with issued := issued, flights := h.flights ++ freed ++ mark, r := { h.r with
      fflags := h.r.fflags ||| st.flags, strip := StripState.reset, retired := h.r.retired + wordOfNat st.counts.retired,
      counts := addCounts h.r.counts { st.counts with retired := 0 } } } := by
  by_cases unmarked : st.w = 0
  · exact ⟨h.issued, by rw [releaseStrip, if_pos unmarked]⟩
  · exact ⟨(countIssued h stream).issued, by rw [releaseStrip, if_neg unmarked]; rfl⟩

theorem releasedState_closed (es : List Element) (stream : Nat) (freed mark : List Flight) (read : OnlyQueues s s1) (clean : s.softMem = [])
    (flights : s.me.flights = []) (issued : ∀ f ∈ freed ++ mark, unretired f = false) :
    StripClosed s (releasedState s1 es s.me.r.strip stream freed mark) (freed ++ mark) := by
  obtain ⟨q, p, rfl⟩ := read
  obtain ⟨same, caches⟩ := touchElements_caches (s := modMe s fun h => { h with popped := p, r := { h.r with q := q } }) clean es
  refine StripClosed.settle ?_ issued
  obtain ⟨issued, released⟩ := releaseStrip_eq s.me.r.strip stream freed mark
    (nextSeq (modMe s fun h => { h with popped := p, r := { h.r with q := q } })).me
  generalize touchElements _ es = u at same caches
  have start : (nextSeq u).me = (nextSeq (modMe s fun h => { h with popped := p, r := { h.r with q := q } })).me := by rw [caches]; rfl
  have me (n : Nat) : (modMe { nextSeq u with nextUid := n } (releaseStrip s.me.r.strip stream freed mark)).me = _ :=
    (congrArg (releaseStrip s.me.r.strip stream freed mark) start).trans released
  constructor
  case cells =>
    intro core
    refine Eq.trans ?_ (same.cellsOf core)
    cases core with
    | none => exact retire_mem _
    | some n =>
      rw [cellsOf, cellsOf, getCore, getCore, retire_cores]
      rfl
  case strip => rw [retire_r_strip, me]
  case fflags => rw [retire_r_fflags, me]; rfl
  case pc => rw [retire_r_pc, me]; rfl
  case flights =>
    rw [retire_me_flights, me, List.append_assoc]
    exact congrArg (· ++ _) flights
  case perf => rw [retire_me_perf, me]; rfl
  case hid => rw [retire_me_hid, me]; rfl
  case lent => rw [retire_me_lent, me]; rfl
  case transfers => rw [retire_transfers, modMe_transfers, caches]; rfl
  case dies => rw [retire_dies, modMe_dies, caches]; rfl

/-- The stores that a PROOF releases, and what they write. -/
def releasedStores (sa : SOp) (g : Fin 8) (s : State) (born : Nat) (es : List Element) (mark : List (Place × Nat)) :
    List (Flight × List (Place × Nat)) :=
  s.me.r.strip.stores.map (fun x => (freedStore (proofBase sa g s) born x, x.writes)) ++
    markWrites (proofBase sa g s) born s.me.r.strip.w es mark

theorem releasedStores_freed (sa : SOp) (g : Fin 8) (s : State) (born : Nat) (es : List Element) (mark : List (Place × Nat)) :
    ∀ e ∈ releasedStores sa g s born es mark, Freed s.me.nextSeq e.1 e.2 := by
  intro e member
  obtain member | member := List.mem_append.1 member
  · obtain ⟨x, -, rfl⟩ := List.mem_map.1 member
    exact ⟨rfl, rfl, rfl, rfl, rfl, rfl⟩
  · rw [markWrites] at member
    split at member
    · exact absurd member List.not_mem_nil
    · rw [List.mem_singleton.1 member]
      exact ⟨rfl, rfl, rfl, rfl, rfl, rfl⟩

theorem releasedStores_flights (sa : SOp) (g : Fin 8) (s : State) (born : Nat) (es : List Element) (mark : List (Place × Nat)) :
    (releasedStores sa g s born es mark).map (·.1) = s.me.r.strip.stores.map (freedStore (proofBase sa g s) born) ++
      (markWrites (proofBase sa g s) born s.me.r.strip.w es mark).map (·.1) := by
  rw [releasedStores, List.map_append, List.map_map]
  rfl

/-- A strip without a watermark word has no watermark write. -/
theorem releasedStores_writes (sa : SOp) (g : Fin 8) (s t : State) (born : Nat) (es : List Element) {mark : List (Place × Nat)}
    (unmarked : s.me.r.strip.w = 0 → mark = []) (core : Option Nat) :
    cellsOf (((releasedStores sa g s born es mark).map (·.2)).foldl writePlaces t) core =
      cellsOf ((s.me.r.strip.stores.map (·.writes) ++ [mark]).foldl writePlaces t) core := by
  rw [releasedStores, markWrites, List.map_append, List.map_map, List.foldl_append, List.foldl_append]
  split
  · next none_ =>
    rw [unmarked none_]
    exact (cellsOf_writePlaces _ [] core).symm
  · rfl

/-- The stores come in their order, and the watermark write last. -/
theorem releasedStores_ordered (sa : SOp) (g : Fin 8) (s : State) (born : Nat) (es : List Element) (mark : List (Place × Nat))
    (ordered : s.me.r.strip.stores.Pairwise fun x y => x.seq < y.seq) (earlier : ∀ x ∈ s.me.r.strip.stores, x.seq < s.me.nextSeq) :
    ((releasedStores sa g s born es mark).map (·.1)).Pairwise fun x y => x.seq < y.seq := by
  rw [releasedStores_flights, List.pairwise_append, List.pairwise_map]
  refine ⟨ordered, ?_, ?_⟩
  · rw [markWrites]
    split
    · exact .nil
    · exact List.pairwise_singleton _ _
  · intro f store y last
    obtain ⟨x, member, rfl⟩ := List.mem_map.1 store
    rw [markWrites] at last
    split at last
    · exact absurd last List.not_mem_nil
    · rw [List.map_singleton, List.mem_singleton] at last
      rw [last]
      exact earlier x member

/-- How many of them are of a stream. -/
theorem releasedStores_count (sa : SOp) (g : Fin 8) (s : State) (born : Nat) (es : List Element) (mark : List (Place × Nat)) (k : Nat) :
    (((releasedStores sa g s born es mark).map (·.1)).filter fun f => f.stream == k).length =
      (s.me.r.strip.stores.filter fun x => x.stream == k).length +
        if s.me.r.strip.w ≠ 0 ∧ slotStream s.me.r.g[g] = k then 1 else 0 := by
  rw [releasedStores_flights, List.filter_append, List.length_append, List.filter_map, List.length_map]
  congr 1
  rw [markWrites]
  split
  · next none_ => simp [none_]
  · next some_ =>
    have stream : (proofBase sa g s).stream = slotStream s.me.r.g[g] := rfl
    generalize slotStream s.me.r.g[g] = n at stream
    by_cases here : n = k
    · simpa [stream, here] using some_
    · simp [stream, here]

theorem releasedStores_length (sa : SOp) (g : Fin 8) (s : State) (born : Nat) (es : List Element) (mark : List (Place × Nat)) :
    (releasedStores sa g s born es mark).length ≤ s.me.r.strip.stores.length + 1 := by
  rw [releasedStores, markWrites, List.length_append, List.length_map]
  split <;> simp

section

variable {es : List Element} (source : srcOk sa = true) (isOpen : s.me.r.strip.isOpen = true) (read : readSrc sa s = .ok (a, s1))
  (quiet : calmButStrip s) (unlent : s.me.lent = []) (ordered : s.me.r.strip.stores.Pairwise fun x y => x.seq < y.seq)
  (earlier : ∀ x ∈ s.me.r.strip.stores, x.seq < s.me.nextSeq) (intact : stripBad s s.me.r.strip = false)
  (watermark : (if s.me.r.strip.w = 0 then pure [] else watermarkElements s1 1 s.me.r.strip.w) = .ok es)

include source isOpen read quiet unlent ordered earlier intact watermark

/-- What a PROOF leaves when nothing of its hart is outstanding but buffered stores (R157, R175). -/
theorem execProof_performs {mark : List (Place × Nat)} (written : mark = spread (es.map (·.place)) a.toNat) : ∃ t, execProof sa g s = .next t ∧
    (∀ core, cellsOf t core = cellsOf ((s.me.r.strip.stores.map (·.writes) ++ [mark]).foldl writePlaces s) core) ∧
    t.me.r.strip = StripState.reset ∧ t.me.r.fflags = s.me.r.fflags ||| s.me.r.strip.flags ∧ t.me.r.pc = nextPc s.me.r.pc ∧
    t.me.flights = [] ∧ ∀ k : Fin 16, t.me.perf[k] = s.me.perf[k] +
      BitVec.ofNat 16 ((s.me.r.strip.stores.filter fun x => x.stream == k.val).length +
        if s.me.r.strip.w ≠ 0 ∧ slotStream s.me.r.g[g] = k.val then 1 else 0) := by
  have released := execProof_releases (g := g) source isOpen read quiet intact watermark
  obtain ⟨known, -, flights, alone, -, clean, windows, -, -⟩ := quiet
  have freed := releasedStores_freed sa g s s1.nextUid es mark
  rw [← written] at released
  have closed := releasedState_closed es (slotStream s.me.r.g[g]) (s.me.r.strip.stores.map (freedStore (proofBase sa g s) s1.nextUid))
    ((markWrites (proofBase sa g s) s1.nextUid s.me.r.strip.w es mark).map (·.1)) (readSrc_queues read) clean flights (by
      rw [← releasedStores_flights]
      intro f member
      obtain ⟨e, here, rfl⟩ := List.mem_map.1 member
      rw [unretired, (freed e here).issued, isMmau, (freed e here).store]
      rfl)
  generalize releasedState s1 es s.me.r.strip _ _ _ = u at released closed
  rw [← releasedStores_flights] at closed
  have releasing : Releasing s.me.hid s.me.nextSeq u := by
    constructor
    case named => exact closed.hid
    case known => exact known
    case alone => exact closed.transfers.trans alone
    case closed => rw [closed.strip]; rfl
    case unlent => exact closed.lent.trans unlent
    case windows =>
      rw [noWindows, closed.dies, List.all_eq_true]
      exact fun d member => by rw [windows d member]; rfl
    case ordered =>
      rw [closed.flights]
      exact releasedStores_ordered sa g s s1.nextUid es mark ordered earlier
  obtain ⟨cells, regs, none_, counts⟩ :=
    performReleased_all (releasedStores sa g s s1.nextUid es mark) freed (releasedStores_length ..) releasing closed.flights
  refine ⟨_, released, fun core => ?_, ?_, ?_, ?_, none_, fun k => ?_⟩
  · rw [cells, cellsOf_foldl_writePlaces_congr closed.cells]
    refine releasedStores_writes sa g s s s1.nextUid es (fun unmarked => ?_) core
    rw [if_pos unmarked] at watermark
    cases watermark
    rw [written]
    rfl
  · rw [regs]; exact closed.strip
  · rw [regs]; exact closed.fflags
  · rw [regs]; exact closed.pc
  · rw [counts, closed.perf, releasedStores_count]

end

end

end Sys2Proof.Machine
end

section
/-! PROOF. STRIP (R73, R156). -/

namespace Sys2Proof.Machine

/-- An offset is the low 44 bits of its address, so that the address is as well aligned to a word. -/
theorem offsetOf_mod_word (a : Word) : offsetOf a % 8 = a.toNat % 8 := by
  rw [offsetOf_eq]
  omega

section

variable {s : State} {w : Word} {kind : Nat} {es : List Element}

theorem watermarkElements_aligned (whole : w.toNat % 8 = 0) (elements : accessElements s kind w 8 = .ok es) (one : contiguous es = true) :
    watermarkElements s kind w = .ok es := by
  have even : aligned s w 8 kind = .ok ⟨⟩ := if_pos ((offsetOf_mod_word w).trans whole)
  rw [watermarkElements, ok_bind even, ok_bind elements, one]
  rfl

theorem watermarkElements_misaligned (odd : w.toNat % 8 ≠ 0) :
    watermarkElements s kind w = .error (.trap (misalignedAt s w kind)) := by
  have uneven : aligned s w 8 kind = .error (.trap (misalignedAt s w kind)) := if_neg ((offsetOf_mod_word w).symm ▸ odd)
  rw [watermarkElements, uneven]
  rfl

end

section

variable {sa sb : SOp} {s s1 s2 : State} {a b : Word} (srcA : srcOk sa = true) (srcB : srcOk sb = true)

include srcA srcB

/-- A strip within a strip is STRIPSTATE (R156). -/
theorem execStrip_nested (isOpen : s.me.r.strip.isOpen = true) :
    execStrip sa sb s = .next (stopAt s (.trap { code := cStripState }) none) := by
  have fields : legal [sa, sb] [] = .ok ⟨⟩ := (legal_ok ..).2 (by simp [srcA, srcB])
  rw [execStrip, ok_bind fields, isOpen]
  rfl

variable (closed : s.me.r.strip.isOpen = false) (readA : readSrc sa s = .ok (a, s1)) (readB : readSrc sb s1 = .ok (b, s2))

/-- A strip that is opened: its words, the pc of its STRIP, and nothing in it yet. -/
def openStrip (w b pc : Word) : StripState := { StripState.reset with isOpen := true, w := w, b := b, pc := pc }

include closed readA readB

theorem execStrip_unmarked (none_ : a = 0) :
    execStrip sa sb s = .next (retire (modRegs s2 fun r => { r with strip := openStrip a b r.pc })) := by
  have fields : legal [sa, sb] [] = .ok ⟨⟩ := (legal_ok ..).2 (by simp [srcA, srcB])
  unfold execStrip
  dsimp only
  rw [ok_bind fields, ensure_bind (by rw [closed]; rfl), ok_bind readA, ok_bind readB]
  dsimp only
  rw [if_pos none_]
  rfl

theorem execStrip_misaligned (some_ : a ≠ 0) (odd : a.toNat % 8 ≠ 0) :
    execStrip sa sb s = .next (stopAt s (.trap (misalignedAt s2 a 0)) none) := by
  have fields : legal [sa, sb] [] = .ok ⟨⟩ := (legal_ok ..).2 (by simp [srcA, srcB])
  unfold execStrip
  dsimp only
  rw [ok_bind fields, ensure_bind (by rw [closed]; rfl), ok_bind readA, ok_bind readB]
  dsimp only
  rw [if_neg some_, watermarkElements_misaligned odd]
  rfl

theorem execStrip_marked {es es' : List Element} (some_ : a ≠ 0) (load : watermarkElements s2 0 a = .ok es)
    (store : watermarkElements s2 1 a = .ok es') :
    execStrip sa sb s = .next (retire (modRegs (touchElements s2 es) fun r => { r with strip := openStrip a b r.pc })) := by
  have fields : legal [sa, sb] [] = .ok ⟨⟩ := (legal_ok ..).2 (by simp [srcA, srcB])
  unfold execStrip
  dsimp only
  rw [ok_bind fields, ensure_bind (by rw [closed]; rfl), ok_bind readA, ok_bind readB]
  dsimp only
  rw [if_neg some_, load, ok_bind rfl, store]
  rfl

end

end Sys2Proof.Machine
end

section
/-! PROOF. END: QDEADLOCK, and the end of a hart (R112, R158, R300, R306). -/

namespace Sys2Proof.Machine

/-! ## The oldest instruction that waits (R112) -/

/-- Which of two instructions that wait is the older. -/
def keepOldest (m : Option Flight) (f : Flight) : Option Flight :=
  if !f.parked && !isMmau f then m
  else match m with
    | none => some f
    | some g => if f.seq < g.seq then some f else some g

theorem firstUnsettled_eq (h : Hart) : firstUnsettled h = h.flights.foldl keepOldest none := rfl

section

variable {f : Flight}

/-- The oldest instruction stays the oldest. -/
theorem foldl_keepOldest_oldest {l : List Flight} (later : ∀ x ∈ l, x = f ∨ f.seq < x.seq) : l.foldl keepOldest (some f) = some f := by
  induction l with
  | nil => rfl
  | cons x l ih =>
    have step : keepOldest (some f) x = some f := by
      unfold keepOldest
      split
      · rfl
      · obtain rfl | after := later x List.mem_cons_self
        · exact if_neg (Nat.lt_irrefl _)
        · exact if_neg (Nat.lt_asymm after)
    rw [List.foldl_cons, step]
    exact ih fun y member => later y (List.mem_cons_of_mem _ member)

/-- The oldest of the instructions that wait is found. -/
theorem foldl_keepOldest {l : List Flight} (waits : ∀ x ∈ l, x.parked = true) (later : ∀ x ∈ l, x = f ∨ f.seq < x.seq) (member : f ∈ l)
    {m : Option Flight} (before : ∀ g, m = some g → g = f ∨ f.seq < g.seq) : l.foldl keepOldest m = some f := by
  induction l generalizing m with
  | nil => exact absurd member List.not_mem_nil
  | cons x l ih =>
    have parked : (!x.parked && !isMmau x) = false := by rw [waits x List.mem_cons_self]; rfl
    have rest := fun y here => later y (List.mem_cons_of_mem x here)
    rw [List.foldl_cons]
    by_cases here : x = f
    · have step : keepOldest m x = some f := by
        cases m with
        | none => rw [keepOldest, parked, here]; rfl
        | some g =>
          rw [keepOldest, parked, here]
          obtain rfl | after := before g rfl
          · exact if_neg (Nat.lt_irrefl _)
          · exact if_pos after
      rw [step]
      exact foldl_keepOldest_oldest rest
    · refine ih (fun y here => waits y (List.mem_cons_of_mem x here)) rest (List.mem_of_ne_of_mem (Ne.symm here) member) fun g kept => ?_
      have from_ : g = x ∨ m = some g := by
        cases m with
        | none =>
          rw [keepOldest, parked] at kept
          exact .inl (Option.some.inj kept).symm
        | some y =>
          rw [keepOldest, parked] at kept
          split at kept
          · next no => exact absurd no Bool.false_ne_true
          · split at kept
            · exact .inl (Option.some.inj kept).symm
            · exact .inr kept
      obtain rfl | old := from_
      · exact later g List.mem_cons_self
      · exact before g old

theorem firstParked_oldest {h : Hart} (member : f ∈ h.flights) (parked : f.parked = true)
    (oldest : ∀ x ∈ h.flights, x.parked = true → x = f ∨ f.seq < x.seq) : firstParked h = some f := by
  rw [firstParked, firstUnsettled_eq]
  refine foldl_keepOldest (fun x waits => (List.mem_filter.1 waits).2) (fun x waits => ?_) (List.mem_filter.2 ⟨member, parked⟩) (by simp)
  obtain ⟨here, waits⟩ := List.mem_filter.1 waits
  exact oldest x here waits

end

/-! ## The queues waited on (R306) -/

theorem testBit_queueBits (qs : List (Fin 8)) (m j : Nat) : (qs.foldl (fun m q => m ||| 2 ^ q.val) m).testBit j = true ↔
    m.testBit j = true ∨ ∃ q ∈ qs, q.val = j := by
  induction qs generalizing m with
  | nil => simp
  | cons q qs ih =>
    rw [List.foldl_cons, ih, Nat.testBit_or, Bool.or_eq_true, Nat.testBit_two_pow]
    simp only [decide_eq_true_eq, List.mem_cons, exists_eq_or_imp, or_assoc]

/-- The information word of QDEADLOCK has the bit of each queue that is waited on (R306). -/
theorem getLsbD_queueBits (qs : List (Fin 8)) (k : Fin 8) : (wordOfNat (queueBits qs)).getLsbD k.val = true ↔ k ∈ qs := by
  have inside : k.val < 64 := by omega
  rw [wordOfNat, BitVec.getLsbD_ofNat, queueBits]
  simp [inside, testBit_queueBits, ← Fin.ext_iff]

theorem waitQueue_eq (w : Option WaitReason) (k : Fin 8) :
    waitQueue w = some k ↔ w = some (.queueEmpty k) ∨ w = some (.queueFull k) := by
  unfold waitQueue
  split <;> simp_all

theorem mem_queuesWaited (s : State) (k : Fin 8) : k ∈ queuesWaited s ↔
    ∃ x ∈ s.me.flights, x.parked = true ∧ (x.why = some (.queueEmpty k) ∨ x.why = some (.queueFull k)) := by
  simp only [queuesWaited, List.mem_filterMap, List.mem_filter, waitQueue_eq, and_assoc]

/-- The oldest instruction that waits, with the queues that any waits on (R112, R306). -/
theorem queueWaiter_oldest {s : State} {f : Flight} (member : f ∈ s.me.flights) (parked : f.parked = true)
    (oldest : ∀ x ∈ s.me.flights, x.parked = true → x = f ∨ f.seq < x.seq)
    (waits : ∃ k : Fin 8, ∃ x ∈ s.me.flights, x.parked = true ∧ (x.why = some (.queueEmpty k) ∨ x.why = some (.queueFull k))) :
    ∃ q qs, queueWaiter s = some (f, q :: qs) ∧ ∀ k, k ∈ q :: qs ↔
      ∃ x ∈ s.me.flights, x.parked = true ∧ (x.why = some (.queueEmpty k) ∨ x.why = some (.queueFull k)) := by
  have first := firstParked_oldest member parked oldest
  cases queues : queuesWaited s with
  | nil =>
    obtain ⟨k, waits⟩ := waits
    have here := (mem_queuesWaited s k).2 waits
    rw [queues] at here
    exact absurd here List.not_mem_nil
  | cons q qs =>
    refine ⟨q, qs, by rw [queueWaiter, first, queues], fun k => ?_⟩
    rw [← queues]
    exact mem_queuesWaited s k

/-! ## END (R158) -/

section

variable {s : State}

theorem execEndHart_strip (isOpen : s.me.r.strip.isOpen = true) :
    execEndHart s = .next (stopAt s (.trap { code := cStripState }) none) := by
  rw [execEndHart, isOpen]
  rfl

variable (closed : s.me.r.strip.isOpen = false) (outside : s.me.r.stick.active = false)

include closed outside

theorem execEndHart_deadlock {f : Flight} {q : Fin 8} {qs : List (Fin 8)} (waiter : queueWaiter s = some (f, q :: qs)) :
    execEndHart s = .next (deadlock s f (queueBits (q :: qs))) := by
  simp only [execEndHart, noBody, closed, outside, waiter]
  rfl

theorem execEndHart_ends (waiter : queueWaiter s = none) (performed : drained s = true)
    (still : (findNode s s.me.ctx s.me.node).any (coloMoving s) = false) : execEndHart s = .next (endHart s) := by
  simp only [execEndHart, noBody, closed, outside, waiter]
  rw [Bool.not_false, ok_bind ((ensure_ok ..).2 rfl)]
  show finish s _ = _
  rw [ok_bind ((holds_ok ..).2 performed), still, Bool.not_false, ok_bind ((holds_ok ..).2 rfl)]
  rfl

end

/-- With no operation and no transfer of the hart, END has nothing to wait for (R158). -/
theorem drained_alone {s : State} (flights : s.me.flights = []) (transfers : ∀ t ∈ s.transfers, t.owner ≠ some s.me.hid) :
    queueWaiter s = none ∧ drained s = true := by
  have none_ : firstParked s.me = none := by rw [firstParked, firstUnsettled_eq, flights]; rfl
  have own : s.transfers.any (fun t => t.owner == some s.me.hid && (t.kind == .copy || t.kind == .coll || t.kind == .move)) = false :=
    List.any_eq_false.2 fun t member => by simp [transfers t member]
  exact ⟨by rw [queueWaiter, none_], by rw [drained, flights, own]; rfl⟩

/-- The word of a colophon once a hart of its kernel has ended (R300). -/
def endedColophon (flags : BitVec 7) (old : Nat) : Nat :=
  putBits (putBits old 8 7 (bitsOf old 8 7 ||| flags.toNat)) 32 12 (bitsOf old 32 12 + 1)

/-- A hart that ends adds its flags to its colophon and counts itself there, and leaves the rest of the word alone. -/
theorem endedColophon_fields {flags : BitVec 7} {old new : Nat} (ended : new = endedColophon flags old) : new % 2 ^ 8 = old % 2 ^ 8 ∧
    new / 2 ^ 8 % 2 ^ 7 = (old / 2 ^ 8 % 2 ^ 7) ||| flags.toNat ∧ new / 2 ^ 15 % 2 ^ 17 = old / 2 ^ 15 % 2 ^ 17 ∧
    new / 2 ^ 32 % 2 ^ 12 = (old / 2 ^ 32 % 2 ^ 12 + 1) % 2 ^ 12 ∧ new / 2 ^ 44 = old / 2 ^ 44 := by
  have small : (old / 2 ^ 8 % 2 ^ 7) ||| flags.toNat < 2 ^ 7 := Nat.or_lt_two_pow (Nat.mod_lt _ (by decide)) flags.isLt
  rw [endedColophon, bitsOf, bitsOf, Nat.shiftRight_eq_div_pow, Nat.shiftRight_eq_div_pow] at ended
  generalize (old / 2 ^ 8 % 2 ^ 7) ||| flags.toNat = v at small ended ⊢
  rw [putBits_eq, putBits_eq] at ended
  omega

/-- The entry of a node is the one that it was replaced with. -/
theorem findNode_setNode {s : State} {c i : Nat} {n m : Node} (found : findNode s c i = some n) (ctx : m.ctx = n.ctx) (id : m.id = n.id) :
    findNode (setNode s m) c i = some m := by
  have same : ((fun x : Node => x.ctx == c && x.id == i) ∘ fun x => if x.ctx = m.ctx ∧ x.id = m.id then m else x) =
      fun x => x.ctx == c && x.id == i := by
    funext x
    simp only [Function.comp]
    split
    · next named => rw [named.1, named.2]
    · rfl
  rw [findNode] at found
  rw [findNode, setNode, modUnit, List.find?_map, same, found, Option.map_some, if_pos ⟨ctx.symm, id.symm⟩]

theorem findNode_congr {s t : State} (unit : t.unit = s.unit) (c i : Nat) : findNode t c i = findNode s c i := by
  rw [findNode, unit, findNode]

/-- A node whose unit a hart of its kernel has left: one more hart has ended, in its groups too (R255, R300). -/
def endedNode (launch : Nat) (n : Node) : Node :=
  { n with ended := n.ended + 1, groups := n.groups.map fun g => (g.1, endIn launch g.2) }

/-- A hart that ends, as the unit and its colophon have it. -/
def reportEnd (s : State) (n : Node) : State :=
  setNode ((unitStore s s.me.ctx (nodeColo n.record) (endedColophon s.me.r.fflags)).getD s) (endedNode s.me.launch n)

theorem unitStore_only {s t : State} {ctx : Nat} {a : Word} {f : Nat → Nat} (stored : unitStore s ctx a f = some t) : OnlyMemory s t := by
  unfold unitStore at stored
  split at stored
  · rw [← Option.some.inj stored]
    exact writePlaces_only ..
  · exact absurd stored (by simp)

theorem unitStore_mem (s : State) (ctx : Nat) (a : Word) (f : Nat → Nat) : OnlyMemory s ((unitStore s ctx a f).getD s) := by
  cases stored : unitStore s ctx a f with
  | none => exact .refl s
  | some t => exact unitStore_only stored

theorem unitStore_stores {s : State} {ctx : Nat} {a : Word} {es : List Element} (elements : scalarElements s (whoUnit s ctx) 1 a 8 = .ok es)
    (f : Nat → Nat) : unitStore s ctx a f =
      some (writePlaces s (spread (es.map (·.place)) (f (readPlaces s (es.map (·.place)))))) := by
  rw [unitStore, elements]

section

variable {s : State}

/-- A hart with no node stops. -/
theorem endHart_none (none_ : findNode s s.me.ctx s.me.node = none) : endHart s =
    { s with me := { s.me with live := false, wait := none, popped := [], r := countRetired false { s.me.r with q := Vector.replicate 8 [] } } } := by
  simp only [endHart, none_]

/-- A hart of a node stops, and reports that it has. -/
theorem endHart_some {n : Node} (found : findNode s s.me.ctx s.me.node = some n) : endHart s =
    { reportEnd s n with me := { s.me with live := false, wait := none, popped := [],
                                           r := countRetired false { s.me.r with q := Vector.replicate 8 [] } } } := by
  have me : (reportEnd s n).me = s.me := by
    rw [reportEnd, setNode, modUnit_me]
    exact (unitStore_mem ..).me
  rw [← me]
  simp only [endHart, found]
  rfl

end

section

variable {s : State}

/-- A hart that has stopped: its queues are empty, and it counts its END. -/
theorem endHart_me : (endHart s).me.live = false ∧
    (endHart s).me.r = { s.me.r with q := Vector.replicate 8 [], retired := s.me.r.retired + 1 } ∧ (endHart s).rest = s.rest := by
  cases found : findNode s s.me.ctx s.me.node with
  | none =>
    rw [endHart_none found]
    exact ⟨rfl, rfl, rfl⟩
  | some n =>
    rw [endHart_some found]
    refine ⟨rfl, rfl, ?_⟩
    have rest : (reportEnd s n).rest = s.rest := by
      rw [reportEnd, setNode, modUnit_rest]
      exact (unitStore_mem ..).rest
    exact rest

section

variable {n : Node} (found : findNode s s.me.ctx s.me.node = some n)

include found

theorem endHart_node : (findNode (endHart s) s.me.ctx s.me.node).map (·.ended) = some (n.ended + 1) := by
  have stored := unitStore_mem s s.me.ctx (nodeColo n.record) (endedColophon s.me.r.fflags)
  have here := findNode_setNode (m := endedNode s.me.launch n) ((findNode_congr stored.unit _ _).trans found) rfl rfl
  have same : findNode (endHart s) s.me.ctx s.me.node = findNode (reportEnd s n) s.me.ctx s.me.node := by
    rw [endHart_some found]
    rfl
  rw [same, reportEnd, here]
  rfl

theorem endHart_colophon {es : List Element} (elements : scalarElements s (whoUnit s s.me.ctx) 1 (nodeColo n.record) 8 = .ok es) :
    (endHart s).mem = (writePlaces s (spread (es.map (·.place)) (endedColophon s.me.r.fflags (readPlaces s (es.map (·.place)))))).mem := by
  rw [endHart_some found]
  show (reportEnd s n).mem = _
  rw [reportEnd, setNode, modUnit_mem, unitStore_stores elements]
  rfl

end

end

/-! ## The obligation -/

/-- STRIP opens a strip, or is refused (R73, R156). -/
theorem strip_opens {sa sb : SOp} {s s1 s2 : State} {a b : Word} (srcA : srcOk sa = true) (srcB : srcOk sb = true)
    (closed : s.me.r.strip.isOpen = false) (readA : readSrc sa s = .ok (a, s1)) (readB : readSrc sb s1 = .ok (b, s2)) :
    (a = 0 → ∃ st : StripState, exec (.strip sa sb) s = .next (retire (modRegs s2 fun r => { r with strip := st })) ∧
      st.isOpen = true ∧ st.w = 0 ∧ st.b = b ∧ st.stores = [] ∧ st.flags = 0) ∧
    (a ≠ 0 → a.toNat % 8 ≠ 0 → ∃ info, exec (.strip sa sb) s =
      .next (stopAt s (.trap { code := 0x0B, elem := elementNo s2 (whoMe s2) a, coord := [a.toNat % 2 ^ 44], info := info }) none)) ∧
    ∀ es es', a ≠ 0 → a.toNat % 8 = 0 → accessElements s2 0 a 8 = .ok es → accessElements s2 1 a 8 = .ok es' →
      contiguous es = true → contiguous es' = true → ∃ (st : StripState),
        exec (.strip sa sb) s = .next (retire (modRegs (touchElements s2 es) fun r => { r with strip := st })) ∧
        st.isOpen = true ∧ st.w = a ∧ st.b = b ∧ st.stores = [] ∧ st.flags = 0 := by
  refine ⟨fun none_ => ?_, fun some_ odd => ?_, fun es es' some_ whole load store one one' => ?_⟩
  · exact ⟨_, execStrip_unmarked srcA srcB closed readA readB none_, rfl, none_, rfl, rfl, rfl⟩
  · have stops := execStrip_misaligned srcA srcB closed readA readB some_ odd
    rw [misalignedAt, misaligned, offsetOf_eq] at stops
    exact ⟨_, stops⟩
  · exact ⟨_, execStrip_marked srcA srcB closed readA readB some_ (watermarkElements_aligned whole load one)
      (watermarkElements_aligned whole store one'), rfl, rfl, rfl, rfl, rfl⟩

/-- Settles O25: what a PROOF releases performs by induction on the stores, in their order. -/
theorem stripsAndEnd : Obligations.StripsAndEnd := by
  refine ⟨fun sa sb s s1 s2 a b srcA srcB => ⟨fun isOpen => execStrip_nested srcA srcB isOpen, fun closed readA readB =>
    strip_opens srcA srcB closed readA readB⟩, fun sa g s s1 a source => ⟨fun closed => execProof_closed source closed,
    fun isOpen read quiet unlent => ?_⟩, fun s => ⟨fun isOpen => execEndHart_strip isOpen,
    fun closed outside => ⟨fun f member parked oldest => ?_, fun flights transfers still => ?_⟩⟩⟩
  · intro st ordered earlier intact mark marked
    obtain ⟨es, watermark, written⟩ : ∃ es, (if st.w = 0 then pure [] else watermarkElements s1 1 st.w) = .ok es ∧
        mark = spread (es.map (·.place)) a.toNat := by
      obtain ⟨none_, empty⟩ | ⟨es, some_, whole, elements, one, written⟩ := marked
      · exact ⟨[], if_pos none_, empty⟩
      · exact ⟨es, (if_neg some_).trans (watermarkElements_aligned whole elements one), written⟩
    obtain ⟨t, next, cells, strip, fflags, pc, none_, counts⟩ :=
      execProof_performs (g := g) source isOpen read quiet unlent ordered earlier intact watermark written
    refine ⟨t, next, cells none, fun c => cells (some c), strip, fflags, pc, none_, fun k => ?_⟩
    rw [counts, slotStream, field_eq]
  · intro on waits
    obtain ⟨q, qs, waiter, all⟩ := queueWaiter_oldest member parked oldest waits
    exact ⟨wordOfNat (queueBits (q :: qs)), fun k => (getLsbD_queueBits ..).trans (all k), execEndHart_deadlock closed outside waiter⟩
  · obtain ⟨waiter, performed⟩ := drained_alone flights transfers
    have settled : (findNode s s.me.ctx s.me.node).any (coloMoving s) = false := by
      cases found : findNode s s.me.ctx s.me.node with
      | none => rfl
      | some n => exact still n found
    obtain ⟨live, regs, rest⟩ := endHart_me (s := s)
    refine ⟨_, execEndHart_ends closed outside waiter performed settled, live, regs, rest, fun n found =>
      ⟨endHart_node found, fun es elements => ⟨_, _, rfl, endHart_colophon found elements, endedColophon_fields rfl⟩⟩⟩

end Sys2Proof.Machine
end

section
/-! PROOF. Transfers by their names, and what the end of one leaves alone (R83, R89, R95). -/

namespace Sys2Proof.Machine

/-! ## The galleys of a core -/

/-- A state differs from another in what the cores keep of their galleys alone. -/
structure OnlyGalleys (s t : State) : Prop where
  frame : t = { s with cores := t.cores }
  core : ∀ n, getCore t n = { getCore s n with galleys := (getCore t n).galleys, sync := (getCore t n).sync,
                                               pendingFull := (getCore t n).pendingFull, dying := (getCore t n).dying }

namespace OnlyGalleys

variable {s t u : State}

theorem refl (s : State) : OnlyGalleys s s := ⟨rfl, fun _ => rfl⟩

theorem trans (h : OnlyGalleys s t) (g : OnlyGalleys t u) : OnlyGalleys s u := by
  refine ⟨?_, fun n => ?_⟩
  · rw [g.frame, h.frame]
  · rw [g.core, h.core]

theorem me (h : OnlyGalleys s t) : t.me = s.me := by rw [h.frame]
theorem rest (h : OnlyGalleys s t) : t.rest = s.rest := by rw [h.frame]
theorem mem (h : OnlyGalleys s t) : t.mem = s.mem := by rw [h.frame]
theorem transfers (h : OnlyGalleys s t) : t.transfers = s.transfers := by rw [h.frame]
theorem colls (h : OnlyGalleys s t) : t.colls = s.colls := by rw [h.frame]

theorem icache (h : OnlyGalleys s t) (n : Nat) : (getCore t n).icache = (getCore s n).icache := by rw [h.core]
theorem orc (h : OnlyGalleys s t) (n : Nat) : (getCore t n).orc = (getCore s n).orc := by rw [h.core]
theorem maps (h : OnlyGalleys s t) (n : Nat) : (getCore t n).maps = (getCore s n).maps := by rw [h.core]

theorem modCore (s : State) (core : Nat) {f : Core → Core}
    (only : ∀ c, f c = { c with galleys := (f c).galleys, sync := (f c).sync, pendingFull := (f c).pendingFull, dying := (f c).dying }) :
    OnlyGalleys s (modCore s core f) := by
  refine ⟨rfl, fun n => ?_⟩
  by_cases here : n = core
  · rw [here, getCore_modCore_same]
    exact only _
  · rw [getCore_modCore_other _ _ _ _ here]

end OnlyGalleys

theorem setGState_galleys (s : State) (core id n : Nat) : OnlyGalleys s (setGState s core id n) := by
  unfold setGState setGalley
  exact .modCore s core fun _ => rfl

theorem galleyAfter_galleys (s : State) (core id : Nat) : OnlyGalleys s (galleyAfter s core id) := by
  unfold galleyAfter
  dsimp only
  split
  · exact .modCore s core fun _ => rfl
  · split
    · exact (setGState_galleys ..).trans (.modCore _ core fun _ => rfl)
    · exact .refl s

theorem countBytes_galleys (s : State) (core id n : Nat) : OnlyGalleys s (countBytes s core id n) := by
  have counted (w : Word) : OnlyGalleys s (modCore s core fun c => { c with sync := vset c.sync id w }) := .modCore s core fun _ => rfl
  unfold countBytes
  dsimp only
  split
  · split
    · exact (counted _).trans (.modCore _ core fun _ => rfl)
    · exact (counted _).trans (setGState_galleys ..)
  · exact counted _

/-! ## Transfers by their names -/

section

variable {s : State} {x : Nat} {t : Transfer}

theorem findTransfer_uid (found : findTransfer s x = some t) : t.uid = x := by
  simpa using List.find?_some found

theorem findTransfer_congr {s t : State} (transfers : t.transfers = s.transfers) (x : Nat) : findTransfer t x = findTransfer s x := by
  rw [findTransfer, transfers, findTransfer]

/-- The transfer of a name is the one that it was replaced with. -/
theorem findTransfer_setTransfer (found : findTransfer s x = some t) {u : Transfer} (name : u.uid = t.uid) :
    findTransfer (setTransfer s u) x = some u := by
  have same : ((fun y : Transfer => y.uid == x) ∘ fun y => if y.uid = u.uid then u else y) = fun y => y.uid == x := by
    funext y
    simp only [Function.comp]
    split
    · next here => rw [here]
    · rfl
  rw [findTransfer] at found
  rw [findTransfer, setTransfer, List.find?_map, same, found, Option.map_some, if_pos name.symm]

/-! ## The end of a transfer -/

/-- A transfer that is gone: its galleys may change (R95). -/
theorem dropTransfer_galleys (s : State) (t : Transfer) :
    OnlyGalleys { s with transfers := s.transfers.filter fun x => x.uid != t.uid } (dropTransfer s t) := by
  have after (s : State) (g : Option Nat) : OnlyGalleys s (match g with
      | some g => galleyAfter s t.core g
      | none => s) := by
    cases g
    · exact .refl s
    · exact galleyAfter_galleys ..
  exact (after _ _).trans (after _ _)

theorem findTransfer_dropTransfer (s : State) (name : t.uid = x) : findTransfer (dropTransfer s t) x = none := by
  rw [findTransfer, (dropTransfer_galleys s t).transfers, List.find?_eq_none]
  intro y member
  have other := (List.mem_filter.1 member).2
  rw [name] at other
  simpa using other

/-- A hart when a transfer of it has ended: its register, its flags, and its count of the stream (R89, R106). -/
def endedHart (t : Transfer) (word : Word) (counted : Bool) (h : Hart) : Hart :=
  let h := landRegs h t.seq fun r => { setX r t.se.val word with fflags := r.fflags ||| t.flags }
  if counted then countPerf h t.stream else h

/-- What the hart, or the node, of a transfer that ends is told (R89, R106, R317). -/
def endNotice (s : State) (t : Transfer) (word : Word) (counted : Bool) : State :=
  match t.owner with
  | some hid => modHart s hid (endedHart t word counted)
  | none =>
    match t.node with
    | some id =>
      match findNode s t.ctx id with
      | some n => setNode s { n with st := .ending 1, status := word, flags := t.flags }
      | none => s
    | none => s

theorem endTransfer_eq (s : State) (t : Transfer) (word : Word) (counted : Bool) :
    endTransfer s t word counted = dropTransfer (endNotice s t word counted) t := rfl

/-- Only harts and nodes are told. -/
theorem endNotice_frame (s : State) (t : Transfer) (word : Word) (counted : Bool) : endNotice s t word counted =
    { s with me := (endNotice s t word counted).me, rest := (endNotice s t word counted).rest, unit := (endNotice s t word counted).unit } := by
  unfold endNotice
  split
  · rfl
  · split
    · split <;> rfl
    · rfl

section

variable (s) (t) (word : Word) (counted : Bool)

@[simp] theorem endTransfer_mem : (endTransfer s t word counted).mem = s.mem := by
  rw [endTransfer_eq, (dropTransfer_galleys ..).mem, endNotice_frame]

theorem endTransfer_gone (name : t.uid = x) : findTransfer (endTransfer s t word counted) x = none :=
  findTransfer_dropTransfer _ name

theorem endTransfer_icache (n : Nat) : (getCore (endTransfer s t word counted) n).icache = (getCore s n).icache := by
  rw [endTransfer_eq, (dropTransfer_galleys ..).icache, endNotice_frame]
  rfl

theorem endTransfer_orc (n : Nat) : (getCore (endTransfer s t word counted) n).orc = (getCore s n).orc := by
  rw [endTransfer_eq, (dropTransfer_galleys ..).orc, endNotice_frame]
  rfl

theorem endTransfer_maps (n : Nat) : (getCore (endTransfer s t word counted) n).maps = (getCore s n).maps := by
  rw [endTransfer_eq, (dropTransfer_galleys ..).maps, endNotice_frame]
  rfl

end

end

/-! ## Harts by their names -/

section

variable {s : State} {hid : Nat} {h : Hart}

theorem hartOf_congr {s t : State} (me : t.me = s.me) (rest : t.rest = s.rest) (hid : Nat) : hartOf t hid = hartOf s hid := by
  rw [hartOf, allHarts, me, rest, hartOf, allHarts]

/-- The hart of a name is as it has been changed. -/
theorem hartOf_modHart (s : State) (hid : Nat) {f : Hart → Hart} (name : ∀ h, (f h).hid = h.hid) :
    hartOf (modHart s hid f) hid = (hartOf s hid).map f := by
  have harts : allHarts (modHart s hid f) = (allHarts s).map fun h => if h.hid = hid then f h else h := by
    unfold allHarts modHart
    dsimp only
    have same : (if s.me.hid = hid then f s.me else s.me).hid = s.me.hid := by
      split
      · exact name _
      · rfl
    rw [same]
    split <;> rfl
  have kept : ((fun h : Hart => h.hid == hid) ∘ fun h => if h.hid = hid then f h else h) = fun h => h.hid == hid := by
    funext h
    simp only [Function.comp]
    split
    · rw [name]
    · rfl
  rw [hartOf, harts, List.find?_map, kept, ← hartOf]
  cases found : hartOf s hid with
  | none => rfl
  | some h =>
    have here : (h.hid == hid) = true := List.find?_some (p := fun h : Hart => h.hid == hid) found
    rw [Option.map_some, Option.map_some, if_pos (by simpa using here)]

theorem endedHart_eq (t : Transfer) (word : Word) (counted : Bool) (h : Hart) : ∃ flights, endedHart t word counted h =
    { h with flights := flights, r := { setX h.r t.se.val word with fflags := h.r.fflags ||| t.flags },
             perf := if counted then (countPerf h t.stream).perf else h.perf } := by
  refine ⟨(landRegs h t.seq fun r => { setX r t.se.val word with fflags := r.fflags ||| t.flags }).flights, ?_⟩
  cases counted <;> rfl

theorem hartOf_endTransfer {t : Transfer} (owner : t.owner = some hid) (found : hartOf s hid = some h) (word : Word) (counted : Bool) :
    hartOf (endTransfer s t word counted) hid = some (endedHart t word counted h) := by
  have told : endNotice s t word counted = modHart s hid (endedHart t word counted) := by rw [endNotice, owner]
  have dropped := dropTransfer_galleys (endNotice s t word counted) t
  have name (h : Hart) : (endedHart t word counted h).hid = h.hid := by
    obtain ⟨flights, e⟩ := endedHart_eq t word counted h
    rw [e]
  rw [endTransfer_eq, hartOf_congr dropped.me dropped.rest, told]
  exact (hartOf_modHart s hid name).trans (by rw [found]; rfl)

/-- The register that a transfer names holds the word with which it ended (R89). -/
theorem endedHart_register {t : Transfer} (named : t.se ≠ 0) (word : Word) (counted : Bool) (h : Hart) :
    (endedHart t word counted h).r.x[t.se] = word := by
  obtain ⟨flights, e⟩ := endedHart_eq t word counted h
  rw [e, setX_register _ named]
  simp

end

end Sys2Proof.Machine
end

section
/-! PROOF. The blocks of a copy between two objects, and its end (R88 to R91, R97). -/

namespace Sys2Proof.Machine

/-- A pass over a list each of whose steps succeeds. -/
theorem mapM_of_pure {m : Type → Type} [Monad m] [LawfulMonad m] {α β : Type} {f : α → m β} {g : α → β} {l : List α}
    (good : ∀ a ∈ l, f a = pure (g a)) : l.mapM f = pure (l.map g) := by
  induction l with
  | nil => simp
  | cons a l ih =>
    rw [List.mapM_cons, good a List.mem_cons_self, ih fun b member => good b (List.mem_cons_of_mem a member)]
    simp

/-! ## Reading a block -/

section

variable {s : State} {t : Transfer} {src dst : Side} (clean : s.softMem = [])

include clean

theorem touchBlock_caches (l : List (Nat × Moved)) : OnlyCaches s (touchBlock s t src dst l) := by
  have side (s : State) (clean : s.softMem = []) (x : Side) (subs : List Nat) : OnlyCaches s (match x with
      | .object h _ => if subs.isEmpty then s else touchHandle s (whoTransfer t) h subs
      | _ => s) := by
    split
    · split
      · exact .refl s
      · exact touchHandle_caches clean ..
    · exact .refl s
  have first := side s clean src (l.filterMap fun g => match g.2.1.1 with
    | .place _ => some g.2.1.2
    | _ => none)
  refine first.trans (side _ ?_ dst _)
  rw [first.2]
  exact clean

theorem readBlock_caches (lens : List Nat) (good : List (Nat × Moved)) : OnlyCaches s (readBlock s t src dst lens good).1 := by
  unfold readBlock
  dsimp only
  split
  · exact .refl s
  · rw [correctReads_clean s _ clean]
    exact touchBlock_caches clean good

end

/-- A block that is read ahead of a higher one leaves the caches, and is kept with its transfer (R88). -/
theorem prepareBlock_caches {src dst : Side} {b : Nat} {s : State} {t : Transfer} (clean : s.softMem = []) (j : Nat) :
    OnlyCaches s (prepareBlock src dst b (s, t) j).1 ∧
      (prepareBlock src dst b (s, t) j).2 = { t with prepared := (prepareBlock src dst b (s, t) j).2.prepared } := by
  unfold prepareBlock
  dsimp only
  split
  · exact ⟨.refl s, rfl⟩
  · exact ⟨readBlock_caches clean .., rfl⟩

theorem prepareBlocks_caches {src dst : Side} {b : Nat} {s : State} {t : Transfer} (clean : s.softMem = []) (l : List Nat) :
    OnlyCaches s (l.foldl (prepareBlock src dst b) (s, t)).1 ∧
      (l.foldl (prepareBlock src dst b) (s, t)).2 = { t with prepared := (l.foldl (prepareBlock src dst b) (s, t)).2.prepared } := by
  induction l generalizing s t with
  | nil => exact ⟨.refl s, rfl⟩
  | cons j l ih =>
    obtain ⟨caches, kept⟩ := prepareBlock_caches (src := src) (dst := dst) (b := b) (t := t) clean j
    rw [List.foldl_cons]
    generalize prepareBlock src dst b (s, t) j = q at caches kept
    obtain ⟨u, y⟩ := q
    dsimp only at caches kept
    obtain ⟨rest, last⟩ := ih (s := u) (t := y) (by rw [caches.2]; exact clean)
    refine ⟨caches.trans rest, last.trans ?_⟩
    rw [kept]

/-! ## A block whose elements are good -/

section

variable {s : State} {t : Transfer} {src dst : Side} {b k : Nat} {p q : Nat → Place × Nat}

/-- The elements of a block that lie in two objects. -/
def movedElements (p q : Nat → Place × Nat) (ks : List Nat) : List (Nat × Moved) :=
  ks.map fun e => (e, (.place (p e).1, (p e).2), q e)

/-- What is written of them. -/
def movedValues (s : State) (p q : Nat → Place × Nat) (ks : List Nat) : List (Nat × Place × Nat) :=
  ks.map fun e => (e, (q e).1, readPlace s (p e).1)

theorem checkBlock_moved (fresh : t.ahead = []) (sources : ∀ e ∈ blockElements t b k, sourceOf s t src b e = .ok (.place (p e).1, (p e).2))
    (places : ∀ e ∈ blockElements t b k, dst.place s (whoTransfer t) t.core 5 (cw t.latch 1) (destDisp t e) = .ok (q e)) :
    checkBlock s t src dst b k = .ok (movedElements p q (blockElements t b k)) := by
  refine mapM_of_pure (m := Except (Nat × Nat)) fun e member => ?_
  have good : elementOf s t src dst b e = .ok ((.place (p e).1, (p e).2), q e) := by
    simp only [elementOf, fresh, List.find?_nil]
    rw [sources e member, places e member]
    rfl
  rw [good]
  rfl

theorem movedElements_values (s : State) (core : Nat) (dense : List ((Nat × Nat) × Option (List Nat))) (ks : List Nat) :
    (movedElements p q ks).mapM (fun g => (sourceValue s core dense g.2.1.1).map fun v => (g.1, g.2.2.1, v)) = some (movedValues s p q ks) := by
  induction ks with
  | nil => rfl
  | cons e ks ih =>
    rw [movedElements] at ih
    rw [movedElements, List.map_cons, List.mapM_cons, ih]
    rfl

theorem readBlock_moved (lens ks : List Nat) : (readBlock s t src dst lens (movedElements p q ks)).2 = some (movedValues s p q ks) := by
  unfold readBlock
  dsimp only
  rw [movedElements_values]

/-! ## Writing a block of an object -/

/-- A block that is written to an object has performed, and counts for the galley that it comes from, if any (R88, R97). -/
theorem finishBlock_object {h : Nat} {r : Record} (vs : List (Nat × Place × Nat)) :
    OnlyGalleys (setTransfer (writePlaces s (vs.map (·.2))) { t with done := t.done ++ [k], prepared := dropShadowed t k vs })
      (finishBlock s t src (.object h r) b k (some vs)) := by
  unfold finishBlock
  dsimp only [writeBlock]
  split
  · exact countBytes_galleys ..
  · exact .refl _

section

variable {ks : List Nat} (clean : s.softMem = []) (sides : copySides s t = (src, dst)) (unread : preparedBlock t k = none)
  (plain : cComp t.latch = 0) (width : b = transferWidth s t) (good : checkBlock s t src dst b k = .ok (movedElements p q ks))

include clean sides unread plain width good

/-- A block whose elements are good, and which no code is for, is read and then written (R88). -/
theorem performBlock_reads : ∃ u y, OnlyCaches s u ∧ y = { t with prepared := y.prepared } ∧
    performBlock s t k = finishBlock u y src dst b k (some (movedValues s p q ks)) := by
  have uncoded : usesCode t = false := by simp [usesCode, plain]
  have lens : takeLens s t (k * blockElems b) = .ok [] := by rw [takeLens, uncoded]; rfl
  have corrected : correctLens s t = s := by rw [correctLens, uncoded]; rfl
  obtain ⟨before, kept⟩ := prepareBlocks_caches (src := src) (dst := dst) (b := b) (t := t) clean
    ((List.range k).filter fun j => !blockTaken t j && (preparedBlock t j).isNone)
  unfold performBlock
  simp only [sides, unread, ← width, good, lens, uncoded, Bool.false_eq_true, if_false, corrected]
  generalize List.foldl (prepareBlock src dst b) (s, t) _ = v at before kept ⊢
  obtain ⟨s1, t1⟩ := v
  dsimp only at before kept ⊢
  have values : (readBlock s1 t1 src dst [] (movedElements p q ks)).2 = some (movedValues s p q ks) := by
    rw [readBlock_moved, movedValues, movedValues]
    simp only [before.1.readPlace]
  have clean1 : s1.softMem = [] := by rw [before.2]; exact clean
  refine ⟨_, t1, before.trans (readBlock_caches (t := t1) (src := src) (dst := dst) clean1 [] (movedElements p q ks)), kept, ?_⟩
  rw [values]

end

/-- The next block of a copy between two objects, whose elements are good (R88). -/
theorem performBlock_moved {h h' x : Nat} {r r' : Record} (found : findTransfer s x = some t) (clean : s.softMem = [])
    (sides : copySides s t = (.object h r, .object h' r')) (fresh : t.ahead = []) (unread : preparedBlock t k = none) (plain : cComp t.latch = 0)
    (width : b = transferWidth s t)
    (sources : ∀ e ∈ blockElements t b k, sourceOf s t (.object h r) b e = .ok (.place (p e).1, (p e).2))
    (places : ∀ e ∈ blockElements t b k, (Side.object h' r').place s (whoTransfer t) t.core 5 (cw t.latch 1) (destDisp t e) = .ok (q e)) :
    (performBlock s t k).mem = (writePlaces s ((blockElements t b k).map fun e => ((q e).1, readPlace s (p e).1))).mem ∧
      (findTransfer (performBlock s t k) x).map (·.done) = some (t.done ++ [k]) ∧
      (performBlock s t k).me = s.me ∧ (performBlock s t k).rest = s.rest := by
  obtain ⟨u, y, caches, kept, performed⟩ := performBlock_reads clean sides unread plain width (checkBlock_moved fresh sources places)
  have written := finishBlock_object (s := u) (t := y) (src := .object h r) (b := b) (k := k) (h := h') (r := r')
    (movedValues s p q (blockElements t b k))
  rw [← performed] at written
  have values : (movedValues s p q (blockElements t b k)).map (·.2) =
      (blockElements t b k).map fun e => ((q e).1, readPlace s (p e).1) := by
    rw [movedValues, List.map_map]
    rfl
  rw [values] at written
  have only := writePlaces_only u ((blockElements t b k).map fun e => ((q e).1, readPlace s (p e).1))
  have here : findTransfer (writePlaces u ((blockElements t b k).map fun e => ((q e).1, readPlace s (p e).1))) x = some t := by
    rw [findTransfer_congr only.transfers, findTransfer_congr (t := u) (s := s) (by rw [caches.2]), found]
  refine ⟨written.mem.trans (cellsOf_writePlaces_congr caches.1 _ none), ?_, ?_, ?_⟩
  · rw [findTransfer_congr written.transfers, findTransfer_setTransfer here (by rw [kept])]
    rw [kept]
    rfl
  · rw [written.me]
    exact only.me.trans caches.me
  · rw [written.rest]
    exact only.rest.trans (by rw [caches.2])

end

/-! ## The obligation's clauses -/

section

variable {s : State} {t : Transfer} {x : Nat} (found : findTransfer s x = some t)

include found

theorem copyBlock_performs {k : Nat} (due : blockDue s t k = true) : exec (.copyBlock x k) s = .next (performBlock s t k) := by
  show execCopyBlock x k s = _
  rw [execCopyBlock, found]
  dsimp only
  rw [if_pos due]
  rfl

end

/-- A copy all of whose blocks have performed ends OK (R89). -/
theorem copyOutcome_ok {s : State} {t : Transfer} (running : t.ended = none) (good : t.failed = [])
    (all : t.done.length = blockCount t.latch (transferWidth s t)) : copyOutcome s t = some (0, 0) := by
  have whole : t.done.length + t.failed.length = blockCount t.latch (transferWidth s t) := by rw [good]; exact all
  simp only [copyOutcome, running]
  rw [if_neg (by simp [whole]), if_pos whole, good]
  rfl

/-! ## The end of a copy (R89, R91) -/

@[simp] theorem landAll_mem (s : State) (t : Transfer) : (landAll s t).mem = s.mem := by
  unfold landAll
  split
  · split <;> rfl
  · rfl

/-- A hart whose registers a copy has filled (R91). -/
def allLanded (t : Transfer) (h : Hart) : Hart := { h with landed := t.vregs.foldl (fun v q => vset v q 0xFF) h.landed }

/-- The landed bits of a hart are all that the end of a copy to registers sets (R91). -/
theorem hartOf_landAll {s : State} {t : Transfer} {hid : Nat} {h : Hart} (owner : t.owner = some hid) (found : hartOf s hid = some h) :
    ∃ landed, hartOf (landAll s t) hid = some { h with landed := landed } := by
  rw [landAll, owner]
  split
  · exact ⟨_, (hartOf_modHart (f := allLanded t) s hid fun _ => rfl).trans (by rw [found]; rfl)⟩
  · exact ⟨h.landed, found⟩

theorem copyEnd_ends {s : State} {t : Transfer} {x c i : Nat} (found : findTransfer s x = some t) (copy : t.kind = .copy)
    (outcome : copyOutcome s t = some (c, i)) :
    exec (.copyEnd x) s = .next (endTransfer (landAll s t) t (statusWord c t.tid.toNat t.failed.length i) true) := by
  show execCopyEnd x s = _
  rw [execCopyEnd, found]
  dsimp only
  rw [copy, if_neg (by decide), outcome]

/-- What a hart is told of a copy of it that has ended (R89, R106). -/
theorem endedHart_counted {t : Transfer} (named : t.se ≠ 0) (word : Word) (h : Hart) :
    (endedHart t word true h).r.pc = h.r.pc ∧ (endedHart t word true h).r.q = h.r.q ∧
      ∀ k : Fin 16, (endedHart t word true h).perf[k] = if k.val = t.stream then h.perf[k] + 1 else h.perf[k] := by
  obtain ⟨flights, e⟩ := endedHart_eq t word true h
  rw [e, setX_register _ named]
  refine ⟨rfl, rfl, fun k => ?_⟩
  refine (countPerf_perf h t.stream k).trans ?_
  by_cases here : k.val = t.stream
  · rw [if_pos here, if_pos here.symm]
    rfl
  · rw [if_neg here, if_neg (Ne.symm here)]
    exact BitVec.add_zero _

end Sys2Proof.Machine
end

section
/-! PROOF. Bytes and words of main memory, and a record that is read back (R2, R66). -/

namespace Sys2Proof.Machine

/-! ## Bytes and words -/

/-- A number in memory depends on its bytes. -/
theorem readNat_congr {m m' : Cells} {a n : Nat} (same : ∀ i, i < n → readByte m' (a + i) = readByte m (a + i)) :
    readNat m' a n = readNat m a n := by
  rw [readNat, readNat, readBytes, readBytes]
  exact congrArg ofBytes (List.map_congr_left fun i member => same i (List.mem_range.1 member))

/-- Numbers that agree were read from bytes that agree. -/
theorem readByte_of_readNat {m m' : Cells} {a a' n : Nat} (same : readNat m' a' n = readNat m a n) {i : Nat} (inside : i < n) :
    readByte m' (a' + i) = readByte m (a + i) := by
  refine BitVec.eq_of_toNat_eq (Nat.eq_of_testBit_eq fun j => ?_)
  by_cases low : j < 8
  · have bit (m : Cells) (a : Nat) : (readNat m a n).testBit (8 * i + j) = (readByte m (a + i)).toNat.testBit j := by
      rw [testBit_readNat m a n _ (by omega), memBit, show (8 * i + j) / 8 = i by omega, show (8 * i + j) % 8 = j by omega]
    rw [← bit, ← bit, same]
  · rw [Nat.testBit_lt_two_pow, Nat.testBit_lt_two_pow]
    all_goals exact Nat.lt_of_lt_of_le (readByte ..).isLt (Nat.pow_le_pow_right (by decide) (by omega))

/-- A number of n bytes has no bit past them. -/
theorem testBit_readNat_past (m : Cells) {a n i : Nat} (past : 8 * n ≤ i) : (readNat m a n).testBit i = false := by
  rw [readNat, testBit_ofBytes, List.getD_eq_default _ _ (by simp only [readBytes, List.length_map, List.length_range]; omega)]
  exact Nat.zero_testBit _

/-- The place of a number of n bytes. -/
theorem readPlace_bytes (s : State) (a n : Nat) : readPlace s { core := none, addr := a, bit := 0, bits := 8 * n } = readPhys s a n := by
  refine Nat.eq_of_testBit_eq fun i => ?_
  rw [readPlace, testBit_readBits, readPhys]
  by_cases inside : i < 8 * n
  · rw [testBit_readNat _ _ _ _ inside, bitSpot]
    simp [inside, cellsOf]
  · rw [testBit_readNat_past s.mem (Nat.not_lt.1 inside), decide_eq_false inside, Bool.false_and]

section

variable {s : State} (w : memoriesWf s) (a n v : Nat)

include w

/-- A number that is written is read back. -/
theorem readPhys_writePhys : readPhys (writePhys s a n v) a n = v % 2 ^ (8 * n) := by
  rw [← readPlace_bytes]
  exact readPlace_writePlaces_same s _ v w trivial

theorem readByte_writePhys_other {c : Nat} (outside : c < a ∨ a + n ≤ c) : readByte (writePhys s a n v).mem c = readByte s.mem c := by
  refine readByte_writePlaces_other s _ c w fun x member _ => ?_
  rw [List.mem_singleton.1 member]
  simp only [placeBytes, ceilDiv, List.mem_map, List.mem_range]
  omega

end

/-! ## A record that is read back -/

theorem memoriesWf_writeOpen {s : State} (w : memoriesWf s) (a n v : Nat) : memoriesWf (writeOpen s a n v) := by
  unfold writeOpen
  split
  · exact w
  · exact writePhys_wf w ..

theorem writeOpen_unguarded {s : State} {a n : Nat} (free : ∀ i, i < n → guarded s (a + i) = false) (v : Nat) :
    writeOpen s a n v = writePhys s a n v := by
  refine if_neg fun h => ?_
  obtain ⟨i, member, guard⟩ := List.any_eq_true.1 h
  rw [free i (List.mem_range.1 member)] at guard
  exact Bool.false_ne_true guard

/-- The first words of an entry. -/
def writeWords (s : State) (a : Nat) (r : Record) (n : Nat) : State :=
  (List.range n).foldl (fun s i => writeOpen s (a + 8 * i) 8 (r.word i).toNat) s

theorem writeWords_succ (s : State) (a : Nat) (r : Record) (n : Nat) :
    writeWords s a r (n + 1) = writeOpen (writeWords s a r n) (a + 8 * n) 8 (r.word n).toNat := by
  rw [writeWords, List.range_succ, List.foldl_append]
  rfl

theorem writeWords_only (s : State) (a : Nat) (r : Record) (n : Nat) : OnlyMemory s (writeWords s a r n) :=
  .foldl (fun _ _ => writeOpen_only ..) _ s

section

variable {s : State} (w : memoriesWf s) (a : Nat) (r : Record) (free : ∀ i, i < 64 → guarded s (a + i) = false)

include w

theorem writeWords_wf (n : Nat) : memoriesWf (writeWords s a r n) :=
  List.foldlRecOn (motive := memoriesWf) _ _ w fun _ wf _ _ => memoriesWf_writeOpen wf ..

include free

/-- The words of an entry are read back, and nothing else has changed. -/
theorem writeWords_reads {n : Nat} (few : n ≤ 8) :
    (∀ d, d < n → readPhys (writeWords s a r n) (a + 8 * d) 8 = (r.word d).toNat) ∧
    ∀ c, c < a ∨ a + 64 ≤ c → readByte (writeWords s a r n).mem c = readByte s.mem c := by
  induction n with
  | zero => exact ⟨fun d none_ => absurd none_ (Nat.not_lt_zero d), fun c _ => rfl⟩
  | succ n ih =>
    obtain ⟨words, bytes⟩ := ih (by omega)
    have wf := writeWords_wf w a r n
    have unguarded (i : Nat) (inside : i < 8) : guarded (writeWords s a r n) (a + 8 * n + i) = false := by
      rw [(writeWords_only s a r n).guarded, Nat.add_assoc]
      exact free _ (by omega)
    rw [writeWords_succ, writeOpen_unguarded unguarded]
    refine ⟨fun d below => ?_, fun c outside => ?_⟩
    · by_cases last : d = n
      · rw [last, readPhys_writePhys wf]
        exact Nat.mod_eq_of_lt (r.word n).isLt
      · rw [← words d (by omega)]
        exact readNat_congr fun i inside => readByte_writePhys_other wf _ _ _ (by omega)
    · rw [readByte_writePhys_other wf _ _ _ (by omega)]
      exact bytes c outside

/-- A record that is written is read back (R66, R79). -/
theorem recordAt_writeEntry : recordAt (writeEntry s a r) a = r := by
  obtain ⟨words, -⟩ := writeWords_reads w a r free (Nat.le_refl 8)
  refine Vector.ext fun d inside => ?_
  rw [recordAt, Vector.getElem_ofFn]
  have word : readPhys (writeEntry s a r) (a + 8 * d) 8 = (r.word d).toNat := words d inside
  rw [word, wordOfNat, BitVec.ofNat_toNat, BitVec.setWidth_eq, Record.word, vget_getElem r d inside 0]

theorem readByte_writeEntry {c : Nat} (outside : c < a ∨ a + 64 ≤ c) : readByte (writeEntry s a r).mem c = readByte s.mem c := by
  obtain ⟨-, bytes⟩ := writeWords_reads w a r free (Nat.le_refl 8)
  exact bytes c outside

end

end Sys2Proof.Machine
end

section
/-! PROOF. A move drains, copies and ends, or is struck by an error (R79). -/

namespace Sys2Proof.Machine

section

variable {s : State} {x : Nat} {t : Transfer} (found : findTransfer s x = some t) (move : t.kind = .move)

include found move

/-! ## Draining -/

theorem moveDrainEnd_starts (idle : t.copying = false) (fresh : t.draining = false) (free : transferBlocked s t = false) :
    exec (.moveDrainEnd x) s = .next (beginDrain s t) := by
  show execMoveDrainEnd x s = _
  simp only [execMoveDrainEnd, found, move, idle, fresh, free]
  rfl

/-- A move that is alone on its handle begins to drain (R79). -/
theorem moveDrainEnd_drains (idle : t.copying = false) (fresh : t.draining = false) (free : transferBlocked s t = false)
    (alone : moveOf s t.ctx (moveHandle t) = none) : ∃ u, exec (.moveDrainEnd x) s = .next u ∧
      (findTransfer u x).map (·.draining) = some true ∧ u.mem = (putRecord s t.ctx t.otb (moveHandle t)
        (movingRecord (recordAt s (recordAddr t.otb (moveHandle t))) (vget t.latch 1 0))).mem := by
  refine ⟨_, moveDrainEnd_starts found move idle fresh free, ?_⟩
  rw [beginDrain, alone, if_neg (by simp)]
  have here (r : Record) : findTransfer (putRecord s t.ctx t.otb (moveHandle t) r) x = some t :=
    (findTransfer_congr (putRecord_transfers ..) x).trans found
  exact ⟨congrArg (Option.map _) (findTransfer_setTransfer (here _) (by rfl)), rfl⟩

theorem moveDrainEnd_copies (idle : t.copying = false) (draining : t.draining = true) (accesses : ∀ h ∈ allHarts s, oldAccess t h = false)
    (staged : ∀ y ∈ s.transfers, stagedOver t y = false) : exec (.moveDrainEnd x) s = .next (setTransfer s { t with copying := true }) := by
  have free : drainHeld s t = false := by
    rw [drainHeld, Bool.or_eq_false_iff]
    exact ⟨List.any_eq_false.2 fun h member => by rw [accesses h member]; exact Bool.false_ne_true,
      List.any_eq_false.2 fun y member => by rw [staged y member]; exact Bool.false_ne_true⟩
  show execMoveDrainEnd x s = _
  simp only [execMoveDrainEnd, found, move, idle, draining, free]
  rfl

theorem moveDrainEnd_held (idle : t.copying = false) (draining : t.draining = true)
    (held : (∃ h ∈ allHarts s, oldAccess t h = true) ∨ ∃ y ∈ s.transfers, stagedOver t y = true) : exec (.moveDrainEnd x) s = .next s := by
  have old : drainHeld s t = true := by
    rw [drainHeld, Bool.or_eq_true, List.any_eq_true, List.any_eq_true]
    exact held
  show execMoveDrainEnd x s = _
  simp only [execMoveDrainEnd, found, move, idle, draining, old]
  rfl

/-! ## The copy of the image -/

/-- The memory of a move that ends: its image, and then its record. -/
def movedMemory (s : State) (t : Transfer) (r : Record) (n : Nat) : State :=
  putRecord (writePhys s (newBase t) n (readPhys s r.base n)) t.ctx t.otb (moveHandle t) (movedRecord t r)

theorem moveCopyEnd_ends {r : Record} (copying : t.copying = true) (record : r = moveRecord s t) (clean : s.softMem = [])
    (intact : badByte s r = none) (free : moveFree s t = true) (whole : holeByte s t = none) : ∃ u, exec (.moveCopyEnd x) s = .next u ∧
      findTransfer u x = none ∧ u.mem = (movedMemory s t r (imageSize r)).mem := by
  refine ⟨endTransfer (modHarts (movedMemory s t r (imageSize r)) (retarget t (shiftPlace r.base (imageSize r) (newBase t)))) t
    (statusWord 0 t.tid.toNat 0 0) true, ?_, endTransfer_gone _ _ _ _ (findTransfer_uid found), endTransfer_mem ..⟩
  show execMoveCopyEnd x s = _
  simp only [execMoveCopyEnd, found, move, copying, ← record, intact, free, whole, clean]
  rfl

theorem moveAbort_ends {r : Record} {i : Nat} (copying : t.copying = true) (record : r = moveRecord s t) (bad : badByte s r = some i) :
    ∃ u, exec (.moveAbort x 0x17 (elementAt r i)) s = .next u ∧ findTransfer u x = none ∧ u.mem = (cancelMove s t).mem := by
  refine ⟨endTransfer (cancelMove s t) t (statusWord 0x17 t.tid.toNat 0 (elementAt r i)) true, ?_,
    endTransfer_gone _ _ _ _ (findTransfer_uid found), endTransfer_mem ..⟩
  show execMoveAbort x 0x17 (elementAt r i) s = _
  simp only [execMoveAbort, found, move, copying, ← record, bad]
  simp

end

/-! ## The record of an object after its move -/

section

variable (t : Transfer) (q : Record)

theorem movedRecord_word0 : (movedRecord t q).word 0 = putField (putField (q.word 0) 0 39 (field (vget t.latch 1 0) 0 39)) 39 2 0 := by
  rw [Record.word, movedRecord, vget_vset_other _ _ _ (by decide), vget_vset _ _ _ _ _ (by decide), if_pos rfl]

theorem movedRecord_word1 : (movedRecord t q).word 1 = putField (putField (q.word 1) 0 39 0) 39 16 (field (q.word 1) 39 16 + 1) := by
  rw [Record.word, movedRecord, vget_vset _ _ _ _ _ (by decide), if_pos rfl]

theorem movedRecord_word {d : Nat} (past : 2 ≤ d) : (movedRecord t q).word d = q.word d := by
  rw [Record.word, movedRecord, vget_vset_other _ _ _ (by omega), vget_vset_other _ _ _ (by omega), Record.word]

/-- A record after its move: its new base, settled, and one generation on (R66, R79). -/
theorem movedRecord_fields : (movedRecord t q).base = newBase t ∧ (movedRecord t q).state = 0 ∧
    field ((movedRecord t q).word 1) 39 16 = (field (q.word 1) 39 16 + 1) % 2 ^ 16 := by
  refine ⟨?_, ?_, ?_⟩
  · have small : field (vget t.latch 1 0) 0 39 < 2 ^ 39 := by
      rw [field_eq]
      exact Nat.mod_lt _ (by decide)
    rw [Record.base, movedRecord_word0, field_putField_other _ _ _ _ _ _ (by decide) (by decide), field_putField_same _ _ _ _ (by decide),
      Nat.mod_eq_of_lt small, newBase]
  · rw [Record.state, movedRecord_word0, field_putField_same _ _ _ _ (by decide), Nat.zero_mod]
  · rw [movedRecord_word1, field_putField_same _ _ _ _ (by decide)]

/-- A record whose move has ended without effect (R79). -/
theorem stillRecord_fields : (stillRecord q).base = q.base ∧ (stillRecord q).state = 0 := by
  have word : (stillRecord q).word 0 = putField (q.word 0) 39 2 0 := by
    rw [Record.word, stillRecord, vget_vset_other _ _ _ (by decide), vget_vset _ _ _ _ _ (by decide), if_pos rfl]
  refine ⟨?_, ?_⟩
  · rw [Record.base, word, field_putField_other _ _ _ _ _ _ (by decide) (by decide), Record.base]
  · rw [Record.state, word, field_putField_same _ _ _ _ (by decide), Nat.zero_mod]

end

section

variable {s : State} {t : Transfer} {r : Record} {a : Nat} (w : memoriesWf s) (address : a = recordAddr t.otb (moveHandle t))
  (open_ : ∀ i, i < 64 → guarded s (a + i) = false)

include w address open_

/-- The image that a move has copied, beside its record (R79). -/
theorem movedMemory_image {n : Nat} (apart : newBase t + n ≤ a ∨ a + 64 ≤ newBase t) {i : Nat} (inside : i < n) :
    readByte (movedMemory s t r n).mem (newBase t + i) = readByte s.mem (r.base + i) := by
  have copied := writePhys_wf w (newBase t) n (readPhys s r.base n)
  have free (i : Nat) (below : i < 64) : guarded (writePhys s (newBase t) n (readPhys s r.base n)) (a + i) = false := by
    rw [writePhys, (writePlaces_only ..).guarded]
    exact open_ i below
  rw [movedMemory, putRecord_mem, ← address, readByte_writeEntry copied a _ free (by omega)]
  refine readByte_of_readNat ?_ inside
  have same := readPhys_writePhys w (newBase t) n (readPhys s r.base n)
  have small : readPhys s r.base n < 2 ^ (8 * n) := Nat.lt_pow_two_of_testBit _ fun _ past => testBit_readNat_past s.mem past
  rw [Nat.mod_eq_of_lt small] at same
  exact same

theorem movedMemory_record (n : Nat) : recordAt (movedMemory s t r n) a = movedRecord t r := by
  have copied := writePhys_wf w (newBase t) n (readPhys s r.base n)
  have free (i : Nat) (below : i < 64) : guarded (writePhys s (newBase t) n (readPhys s r.base n)) (a + i) = false := by
    rw [writePhys, (writePlaces_only ..).guarded]
    exact open_ i below
  rw [movedMemory, recordAt_congr (putRecord_mem ..), ← address]
  exact recordAt_writeEntry copied a _ free

theorem cancelMove_record (record : r = moveRecord s t) : recordAt (cancelMove s t) a = stillRecord r := by
  have named : recordAddr t.otb (namedHandle t) = a := address.symm
  rw [cancelMove, recordAt_congr (putRecord_mem ..), named, ← record]
  exact recordAt_writeEntry w a _ open_

end

end Sys2Proof.Machine
end

section
/-! PROOF. Invalidations that end, and the fills of the ORC and the map cache (R74, R77, R260, R261). -/

namespace Sys2Proof.Machine

/-- A change of every core that leaves one after reset alone. -/
theorem getCore_mapCores (s : State) {f : Core → Core} (unlisted : f Core.reset = Core.reset) (n : Nat) :
    getCore { s with cores := s.cores.map fun c => (c.1, f c.2) } n = f (getCore s n) := by
  have found : (s.cores.map fun c => (c.1, f c.2)).find? (fun c => c.1 == n) =
      (s.cores.find? fun c => c.1 == n).map fun c => (c.1, f c.2) := by
    rw [List.find?_map]
    rfl
  rw [getCore, getCore]
  dsimp only
  rw [found]
  cases s.cores.find? fun c => c.1 == n with
  | none => exact unlisted.symm
  | some c => rfl

/-! ## Invalidations -/

/-- An instruction cache without the words of a range of a context (R260). -/
def withoutRange (ctx : Nat) (a n : Word) (c : Core) : Core :=
  { c with icache := c.icache.filter fun e => !(e.ctx == ctx && inRange a n e.pc) }

/-- A core without what it holds of a handle of a context, or of every handle (R75, R261). -/
def withoutHandle (ctx h : Nat) (c : Core) : Core :=
  { c with orc := c.orc.filter fun e => !(e.ctx == ctx && (h == 0 || e.handle == h)),
           maps := c.maps.filter fun e => !(e.ctx == ctx && (h == 0 || e.handle == h)) }

/-- What an ICINV leaves: no cache holds a word of its range, and what has been fetched of it and has not issued is fetched again (R260). -/
def dropRange (s : State) (t : Transfer) : State :=
  let s1 := { s with cores := s.cores.map fun c => (c.1, withoutRange t.ctx (vget t.latch 0 0) (vget t.latch 1 0) c.2) }
  modHarts s1 fun h => if h.ctx = t.ctx ∧ h.hid ≠ 0 then refetch s1 (vget t.latch 0 0) (vget t.latch 1 0) h else h

theorem getCore_dropRange (s : State) (t : Transfer) (n : Nat) :
    getCore (dropRange s t) n = withoutRange t.ctx (vget t.latch 0 0) (vget t.latch 1 0) (getCore s n) := getCore_mapCores s rfl n

/-- What an ORCINV leaves: no core holds anything of its handle (R75). -/
def dropHandle (s : State) (ctx h : Nat) : State := { s with cores := s.cores.map fun c => (c.1, withoutHandle ctx h c.2) }

theorem getCore_dropHandle (s : State) (ctx h n : Nat) : getCore (dropHandle s ctx h) n = withoutHandle ctx h (getCore s n) :=
  getCore_mapCores s rfl n

section

variable {s : State} {x : Nat} {t : Transfer} (found : findTransfer s x = some t) (free : transferBlocked s t = false)

include found free

/-- An ICINV that ends has dropped every word of its range (R260). -/
theorem icinvDone_drops (kind : t.kind = .icinv) : ∃ u, exec (.icinvDone x) s = .next u ∧ findTransfer u x = none ∧ u.mem = s.mem ∧
    ∀ c, ∀ e ∈ (getCore u c).icache, e.ctx = t.ctx → inRange (vget t.latch 0 0) (vget t.latch 1 0) e.pc = false := by
  have performed : exec (.icinvDone x) s = .next (endTransfer (dropRange s t) t 0 false) := by
    show execIcinvDone x s = _
    simp only [execIcinvDone, found, kind, free]
    rfl
  refine ⟨_, performed, endTransfer_gone _ _ _ _ (findTransfer_uid found), endTransfer_mem .., fun c e held ctx => ?_⟩
  rw [endTransfer_icache, getCore_dropRange] at held
  have kept := (List.mem_filter.1 held).2
  simpa [ctx] using kept

/-- An ORCINV that ends has dropped its handle everywhere (R75, R261). -/
theorem orcinvDone_drops {h : Nat} (handle : h = handleOf (vget t.latch 0 0)) (kind : t.kind = .orcinv)
    (unused : ∀ y ∈ allHarts s, usesHandle t.ctx h y = false) (unheld : ∀ y ∈ s.transfers, holdsHandle t.ctx h y = false) :
    ∃ u, exec (.orcinvDone x) s = .next u ∧ findTransfer u x = none ∧ u.mem = s.mem ∧
      (∀ c, ∀ e ∈ (getCore u c).orc, e.ctx = t.ctx → h ≠ 0 ∧ e.handle ≠ h) ∧
      ∀ c, ∀ e ∈ (getCore u c).maps, e.ctx = t.ctx → h ≠ 0 ∧ e.handle ≠ h := by
  have harts : (allHarts s).any (usesHandle t.ctx h) = false :=
    List.any_eq_false.2 fun y member => by rw [unused y member]; exact Bool.false_ne_true
  have transfers : s.transfers.any (holdsHandle t.ctx h) = false :=
    List.any_eq_false.2 fun y member => by rw [unheld y member]; exact Bool.false_ne_true
  have performed : exec (.orcinvDone x) s = .next (endTransfer (dropHandle s t.ctx h) t 0 false) := by
    show execOrcinvDone x s = _
    simp only [execOrcinvDone, found, kind, free, ← handle, harts, transfers]
    rfl
  refine ⟨_, performed, endTransfer_gone _ _ _ _ (findTransfer_uid found), endTransfer_mem .., fun c e held ctx => ?_, fun c e held ctx => ?_⟩
  · rw [endTransfer_orc, getCore_dropHandle] at held
    have kept := (List.mem_filter.1 held).2
    simpa [ctx] using kept
  · rw [endTransfer_maps, getCore_dropHandle] at held
    have kept := (List.mem_filter.1 held).2
    simpa [ctx] using kept

end

/-! ## Fills (R74, R77) -/

/-- What is put into a cache is its most recent entry. -/
theorem cachePut_head {α : Type} (same : α → Bool) (e : α) (n : Nat) (l : List α) : (cachePut same e (n + 1) l).head? = some e := rfl

section

variable {s : State} {core ctx handle : Nat} {w : Who} {r : Record} (who : whoOnCore s core ctx = some w)
  (record : lookupRecord s w handle 0 = .ok r)

include who record

theorem orcFill_fills : ∃ u e, exec (.orcFill core ctx handle) s = .next u ∧ (getCore u core).orc.head? = some e ∧ e.ctx = ctx ∧
    e.handle = handle ∧ e.words = r ∧ u.mem = s.mem ∧ u.me = s.me := by
  have performed : exec (.orcFill core ctx handle) s = .next (touchOrc s core ctx handle r) := by
    show execOrcFill core ctx handle s = _
    simp only [execOrcFill, who, record]
    rfl
  refine ⟨_, { ctx := ctx, handle := handle, words := r }, performed, ?_, rfl, rfl, rfl, rfl, rfl⟩
  rw [touchOrc, getCore_modCore_same]
  exact cachePut_head ..

theorem mapEntryFill_fills {st : Nat} {v : Word} (partial_ : r.state = 1) (inside : st < mapEntries r) (entry : v = mapEntry s w handle r st)
    (frame : field v 32 16 = 0) (valid : bitAt v 31 = true) : ∃ u e, exec (.mapEntryFill core ctx handle st) s = .next u ∧
      (getCore u core).maps.head? = some e ∧ e.ctx = ctx ∧ e.handle = handle ∧ e.sub = st ∧ e.entry = v ∧ u.mem = s.mem ∧ u.me = s.me := by
  have performed : exec (.mapEntryFill core ctx handle st) s =
      .next (touchMap (touchOrc s core ctx handle r) core ctx handle st v) := by
    show execMapEntryFill core ctx handle st s = _
    simp only [execMapEntryFill, who, record, ← entry]
    rw [if_pos ⟨partial_, inside, frame, valid⟩]
    rfl
  refine ⟨_, { ctx := ctx, handle := handle, sub := st, entry := v }, performed, ?_, rfl, rfl, rfl, rfl, rfl, rfl⟩
  rw [touchMap, getCore_modCore_same]
  exact cachePut_head ..

end

end Sys2Proof.Machine
end

section
/-! PROOF. Collectives: staging, aborts, and the decision (R105, R248, R373). -/

namespace Sys2Proof.Machine

/-! ## What an engine sends (R371) -/

/-- A state differs from another in its ports, and in the payloads drawn for them, alone. -/
def OnlyPorts (s t : State) : Prop := t = { s with ports := t.ports, drawn := t.drawn }

namespace OnlyPorts

variable {s t u : State}

theorem refl (s : State) : OnlyPorts s s := rfl

theorem trans (h : OnlyPorts s t) (g : OnlyPorts t u) : OnlyPorts s u := by
  unfold OnlyPorts at *
  rw [g, h]

theorem foldl {α : Type} {f : State → α → State} (step : ∀ s a, OnlyPorts s (f s a)) (l : List α) (s : State) : OnlyPorts s (l.foldl f s) :=
  List.foldlRecOn l f (refl s) fun t h a _ => h.trans (step t a)

theorem mem (h : OnlyPorts s t) : t.mem = s.mem := by rw [h]
theorem colls (h : OnlyPorts s t) : t.colls = s.colls := by rw [h]
theorem transfers (h : OnlyPorts s t) : t.transfers = s.transfers := by rw [h]

end OnlyPorts

theorem sendQueued_only (s : State) (port : Nat) : OnlyPorts s (sendQueued s port) := by
  unfold sendQueued
  dsimp only
  split <;> rfl

theorem sendPayload_only (s : State) (node : Nat) (control : Bool) (x : BitVec 1920) : OnlyPorts s (sendPayload s node control x) := by
  unfold sendPayload
  split
  · unfold queuePayload
    refine .trans ?_ (sendQueued_only ..)
    rfl
  · exact .refl s

theorem sendFlits_only (s : State) (node : Nat) (control : Bool) (n : Nat) : OnlyPorts s (sendFlits s node control n) := by
  induction n generalizing s with
  | zero => exact .refl s
  | succ n ih => exact .trans (t := { s with drawn := s.drawn + 1 }) rfl ((sendPayload_only ..).trans (ih _))

theorem sendToAll_only (s : State) (nodes : List Nat) (control : Bool) (n : Nat) : OnlyPorts s (sendToAll s nodes control n) :=
  .foldl (fun _ _ => sendFlits_only ..) nodes s

/-! ## Collectives by their names -/

/-- A state differs from another in its collectives, its ports, and the payloads drawn for them, alone. -/
def OnlyColls (s t : State) : Prop := t = { s with colls := t.colls, ports := t.ports, drawn := t.drawn }

namespace OnlyColls

variable {s t u : State}

theorem refl (s : State) : OnlyColls s s := rfl

theorem trans (h : OnlyColls s t) (g : OnlyColls t u) : OnlyColls s u := by
  unfold OnlyColls at *
  rw [g, h]

theorem of_ports (h : OnlyPorts s t) : OnlyColls s t := by
  rw [h]
  rfl

theorem mem (h : OnlyColls s t) : t.mem = s.mem := by rw [h]
theorem me (h : OnlyColls s t) : t.me = s.me := by rw [h]
theorem rest (h : OnlyColls s t) : t.rest = s.rest := by rw [h]
theorem transfers (h : OnlyColls s t) : t.transfers = s.transfers := by rw [h]

end OnlyColls

/-- The collective of a communicator and an index. -/
def findColl (s : State) (comm idx : Nat) : Option Coll := s.colls.find? fun c => c.comm == comm && c.index == idx

theorem findColl_congr {s t : State} (colls : t.colls = s.colls) (comm idx : Nat) : findColl t comm idx = findColl s comm idx := by
  rw [findColl, colls, findColl]

theorem findColl_name {s : State} {comm idx : Nat} {c : Coll} (found : findColl s comm idx = some c) : c.comm = comm ∧ c.index = idx := by
  simpa using List.find?_some (p := fun c : Coll => c.comm == comm && c.index == idx) found

theorem setColl_only (s : State) (c : Coll) : OnlyColls s (setColl s c) := rfl

section

variable {s : State} {comm idx : Nat} {c d : Coll} (found : findColl s comm idx = some c) (first : d.comm = comm) (second : d.index = idx)

include found first second

/-- The collective of a name is the one that it was replaced with. -/
theorem findColl_setColl : findColl (setColl s d) comm idx = some d := by
  have same : ((fun x : Coll => x.comm == comm && x.index == idx) ∘ fun x => if x.comm = d.comm ∧ x.index = d.index then d else x) =
      fun x => x.comm == comm && x.index == idx := by
    funext x
    simp only [Function.comp]
    split
    · next named => rw [named.1, named.2]
    · rfl
  obtain ⟨here, there⟩ := findColl_name found
  rw [findColl] at found
  rw [findColl, setColl, List.find?_map, same, found, Option.map_some, if_pos ⟨here.trans first.symm, there.trans second.symm⟩]

theorem mem_setColl : d ∈ (setColl s d).colls := List.mem_of_find?_eq_some (findColl_setColl found first second)

end

/-! ## The coordinator decides (R373) -/

section

variable {s : State} {comm idx : Nat} {c d : Coll} (found : findColl s comm idx = some c) (first : d.comm = comm) (second : d.index = idx)

theorem decideAs_only (s : State) (d : Coll) (verdict : Bool) : OnlyColls s (decideAs s d verdict) :=
  (OnlyColls.of_ports (sendToAll_only ..)).trans (setColl_only ..)

theorem abortColl_home (home : d.home = true) (open_ : d.decided = none) : abortColl s d = decideAs s d false := by
  rw [abortColl, home, open_]
  rfl

theorem abortColl_only (s : State) {d : Coll} (home : d.home = true) : OnlyColls s (abortColl s d) := by
  rw [abortColl, if_pos home]
  split
  · exact decideAs_only ..
  · exact .refl s

theorem readyColl_only (s : State) (d : Coll) (rank : Nat) (share : List Nat) : OnlyColls s (readyColl s d rank share) := by
  unfold readyColl
  dsimp only
  split
  · exact decideAs_only ..
  · exact setColl_only ..

include found first second

theorem findColl_decideAs (verdict : Bool) : findColl (decideAs s d verdict) comm idx = some { d with decided := some verdict } :=
  findColl_setColl ((findColl_congr (sendToAll_only ..).colls ..).trans found) first second

theorem mem_decideAs (verdict : Bool) : { d with decided := some verdict } ∈ (decideAs s d verdict).colls :=
  List.mem_of_find?_eq_some (findColl_decideAs found first second verdict)

/-- A READY and the share of a rank are kept (R105, R373). -/
theorem mem_readyColl (rank : Nat) (share : List Nat) : ∃ e ∈ (readyColl s d rank share).colls, e.comm = comm ∧ e.index = idx ∧
    (rank, share) ∈ e.shares ∧ rank ∈ e.ready := by
  have shares : (rank, share) ∈ d.shares ++ [(rank, share)] := List.mem_append_right _ (List.mem_singleton_self _)
  have ready : rank ∈ rank :: d.ready := List.mem_cons_self
  unfold readyColl
  dsimp only
  split
  · exact ⟨_, mem_decideAs (d := { d with shares := d.shares ++ [(rank, share)], ready := rank :: d.ready }) found first second true,
      first, second, shares, ready⟩
  · exact ⟨_, mem_setColl (d := { d with shares := d.shares ++ [(rank, share)], ready := rank :: d.ready }) found first second,
      first, second, shares, ready⟩

end

/-! ## A rank of another package (R248, R373) -/

section

variable {s : State} {comm idx rank n m : Nat} {c : Coll} (entry : commEntry s comm = some (n, m)) (inside : rank < n)
  (away : rankHere s comm rank = false) (found : findColl s comm idx = some c) (home : c.home = true) (open_ : c.decided = none)

section

variable {terms : List Nat}

include found

theorem joinColl_agrees (agree : termsAgree c.terms terms = true) :
    joinColl s comm idx n terms = setColl s { c with terms := joinTerms c.terms terms } := by
  rw [findColl] at found
  simp only [joinColl, found, agree, if_true]

include home open_

theorem joinColl_disagrees (disagree : termsAgree c.terms terms = false) : joinColl s comm idx n terms = decideAs s c false := by
  rw [findColl] at found
  simp only [joinColl, found, disagree, Bool.false_eq_true, if_false, abortColl_home home open_]

end

include entry inside away found home open_

/-- The ABORT of a rank decides so (R373). -/
theorem collAbort_decides : ∃ u, exec (.collAbort comm idx rank) s = .next u ∧
    ∃ d ∈ u.colls, d.comm = comm ∧ d.index = idx ∧ d.decided = some false := by
  obtain ⟨first, second⟩ := findColl_name found
  have joined : joinColl s comm idx n [] = setColl s { c with terms := joinTerms c.terms [] } := joinColl_agrees found (by
    cases c.terms <;> rfl)
  have here := findColl_setColl (d := { c with terms := joinTerms c.terms [] }) found first second
  refine ⟨decideAs (setColl s { c with terms := joinTerms c.terms [] }) { c with terms := joinTerms c.terms [] } false, ?_,
    _, mem_decideAs (d := { c with terms := joinTerms c.terms [] }) here first second false, first, second, rfl⟩
  rw [findColl] at here
  show execCollAbort comm idx rank s = _
  simp only [execCollAbort, entry, away, Nat.not_le.2 inside, joined, here, decide_false, Bool.false_or, Bool.false_eq_true, if_false, Option.map_some]
  rw [abortColl_home (d := { c with terms := joinTerms c.terms [] }) home open_]
  rfl

omit home in
/-- What a READY of a rank does once the rank has joined. -/
theorem collReady_joins {terms share : List Nat} (absent : participant s comm idx rank = none) {d : Coll}
    (joined : findColl (joinColl s comm idx n terms) comm idx = some d) (fresh : rank ∉ d.ready) :
    exec (.collReady comm idx rank (terms, share)) s = .next (if d.decided.isSome || d.barred then joinColl s comm idx n terms
      else readyColl (joinColl s comm idx n terms) d rank share) := by
  have before : (s.colls.find? fun c => c.comm == comm && c.index == idx) = some c := found
  rw [findColl] at joined
  have free : ¬ (n ≤ rank ∨ d.ready.contains rank = true ∨ ((some c).bind fun c => c.decided).isSome = true) := by
    simp [Nat.not_le.2 inside, fresh, open_]
  show execCollReady comm idx rank (terms, share) s = _
  unfold execCollReady
  simp only [absent, away, entry, joined, before]
  rw [if_neg free]
  rfl

/-- A READY of a rank keeps its share, and terms that disagree abort the collective (R248, R373). -/
theorem collReady_arrives {terms share : List Nat} (absent : participant s comm idx rank = none) (fresh : rank ∉ c.ready) :
    ∃ u, exec (.collReady comm idx rank (terms, share)) s = .next u ∧ ∃ d ∈ u.colls, d.comm = comm ∧ d.index = idx ∧
      (termsAgree c.terms terms = false → d.decided = some false) ∧
      (termsAgree c.terms terms = true → c.barred = false → (rank, share) ∈ d.shares ∧ rank ∈ d.ready) := by
  obtain ⟨first, second⟩ := findColl_name found
  cases agree : termsAgree c.terms terms with
  | false =>
    have joined := joinColl_disagrees (n := n) found home open_ agree
    have here := findColl_decideAs found first second false
    rw [← joined] at here
    refine ⟨_, collReady_joins entry inside away found open_ absent here fresh, { c with decided := some false }, ?_, first, second,
      fun _ => rfl, fun no => absurd no Bool.false_ne_true⟩
    exact List.mem_of_find?_eq_some here
  | true =>
    have joined := joinColl_agrees (n := n) found agree
    have here := findColl_setColl (d := { c with terms := joinTerms c.terms terms }) found first second
    rw [← joined] at here
    have arrived := collReady_joins (share := share) entry inside away found open_ absent here fresh
    cases barred : c.barred with
    | true =>
      rw [if_pos (by simp [barred])] at arrived
      exact ⟨_, arrived, _, List.mem_of_find?_eq_some here, first, second, fun no => absurd no.symm Bool.false_ne_true,
        fun _ no => absurd no.symm Bool.false_ne_true⟩
    | false =>
      rw [if_neg (by simp [barred, open_])] at arrived
      obtain ⟨d, member, comm_, index_, shares, ready⟩ :=
        mem_readyColl (d := { c with terms := joinTerms c.terms terms }) here first second rank share
      exact ⟨_, arrived, d, member, comm_, index_, fun no => absurd no.symm Bool.false_ne_true, fun _ _ => ⟨shares, ready⟩⟩

end

/-! ## A participant of this package stages (R105, R373) -/

theorem collOf_eq (s : State) (t : Transfer) : collOf s t = findColl s (cw t.latch 11).toNat t.index := rfl

theorem abortColl_keeps {s : State} {comm idx : Nat} {c : Coll} (found : findColl s comm idx = some c) (home : c.home = true) :
    ∃ d, findColl (abortColl s c) comm idx = some d := by
  obtain ⟨first, second⟩ := findColl_name found
  cases open_ : c.decided with
  | none =>
    rw [abortColl_home home open_]
    exact ⟨_, findColl_decideAs found first second false⟩
  | some verdict =>
    have kept : abortColl s c = s := by
      rw [abortColl, home, open_]
      rfl
    rw [kept]
    exact ⟨c, found⟩

/-- A transfer that is there is found, once it has been replaced. -/
theorem findTransfer_replaced {s : State} {t u : Transfer} (present : t ∈ s.transfers) (name : u.uid = t.uid) :
    findTransfer (setTransfer s u) t.uid = some u := by
  obtain ⟨y, found⟩ : ∃ y, findTransfer s t.uid = some y := by
    rw [← Option.isSome_iff_exists, findTransfer, List.find?_isSome]
    exact ⟨t, present, by simp⟩
  exact findTransfer_setTransfer found (name.trans (findTransfer_uid found).symm)

theorem participant_rank {s : State} {comm idx rank : Nat} {t : Transfer} (found : participant s comm idx rank = some t) :
    t ∈ s.transfers ∧ crank t.latch = rank := by
  have named := List.find?_some (p := fun t : Transfer => t.kind == .coll && ccomm t.latch == comm && t.index == idx && crank t.latch == rank) found
  simp only [Bool.and_eq_true, beq_iff_eq] at named
  exact ⟨List.mem_of_find?_eq_some found, named.2⟩

/-- A coordinator's own rank, before its share and its READY reach it. -/
def stagedState (s : State) (t : Transfer) (c : Coll) (ps : List (Place × Option Place)) : State :=
  let s1 := setTransfer s { t with staged := true, dests := ps }
  if rankCut s c then abortColl s1 c else s1

section

variable {s : State} {t : Transfer} {c : Coll} {ps : List (Place × Option Place)} (member : collOf s t = some c) (home : c.home = true)

include home

theorem stagedState_only : OnlyColls (setTransfer s { t with staged := true, dests := ps }) (stagedState s t c ps) := by
  rw [stagedState]
  split
  · exact abortColl_only _ home
  · exact .refl _

include member

theorem stagedState_coll : ∃ d, collOf (stagedState s t c ps) { t with staged := true, dests := ps } = some d ∧
    d.comm = c.comm ∧ d.index = c.index := by
  rw [collOf_eq] at member
  obtain ⟨comm, index⟩ := findColl_name member
  have here : findColl (setTransfer s { t with staged := true, dests := ps }) (cw t.latch 11).toNat t.index = some c := member
  obtain ⟨d, found⟩ : ∃ d, findColl (stagedState s t c ps) (cw t.latch 11).toNat t.index = some d := by
    rw [stagedState]
    split
    · exact abortColl_keeps here home
    · exact ⟨c, here⟩
  obtain ⟨comm', index'⟩ := findColl_name found
  exact ⟨d, found, comm'.trans comm.symm, index'.trans index.symm⟩

/-- A participant of the coordinator's package gives its share and its READY (R105, R373). -/
theorem stageColl_stages {l : List Nat} (present : t ∈ s.transfers) (share : stageShare s t = .ok (l, ps)) (clean : s.softMem = []) :
    (findTransfer (stageColl s t c) t.uid).map (fun y => (y.staged, y.dests)) = some (true, ps) ∧ (stageColl s t c).mem = s.mem ∧
      ∃ d ∈ (stageColl s t c).colls, d.comm = c.comm ∧ d.index = c.index ∧ (crank t.latch, l) ∈ d.shares ∧ crank t.latch ∈ d.ready := by
  obtain ⟨d, found, comm, index⟩ := stagedState_coll (ps := ps) member home
  obtain ⟨nodes, flits, staged⟩ : ∃ nodes flits, stageColl s t c =
      sendToAll (readyColl (stagedState s t c ps) d (crank t.latch) l) nodes false flits := by
    refine ⟨otherNodes (readyColl (stagedState s t c ps) d (crank t.latch) l) c,
      shareFlits (collWidth s (whoTransfer t) t.core t.latch) l, ?_⟩
    unfold stageColl
    simp only [share, clean, home, List.isEmpty_nil, if_true]
    rw [← stagedState, found, Option.getD_some]
  have sent := sendToAll_only (readyColl (stagedState s t c ps) d (crank t.latch) l) nodes false flits
  have only := (stagedState_only (s := s) (t := t) (ps := ps) home).trans (readyColl_only (stagedState s t c ps) d (crank t.latch) l)
  rw [← staged] at sent
  refine ⟨?_, ?_, ?_⟩
  · rw [findTransfer_congr (sent.transfers.trans only.transfers), findTransfer_replaced (u := { t with staged := true, dests := ps }) present rfl]
    rfl
  · exact sent.mem.trans only.mem
  · rw [sent.colls]
    obtain ⟨comm', index'⟩ := findColl_name found
    obtain ⟨e, here, first, second, shares, ready⟩ := mem_readyColl found comm' index' (crank t.latch) l
    exact ⟨e, here, first.trans (comm'.symm.trans comm), second.trans (index'.symm.trans index), shares, ready⟩

omit home in
theorem collReady_stages {comm idx rank : Nat} {staged : List Nat × List Nat} (here : participant s comm idx rank = some t)
    (due : stageDue s t = true) : exec (.collReady comm idx rank staged) s = .next (stageColl s t c) := by
  show execCollReady comm idx rank staged s = _
  simp only [execCollReady, here, due, member]
  rfl

end

/-! ## The decision reaches a participant (R105, R248, R373) -/

theorem leaveColl_only (s : State) (c : Coll) (rank : Nat) : OnlyColls s (leaveColl s c rank) := by
  unfold leaveColl
  dsimp only
  split
  · rfl
  · exact setColl_only ..

theorem countBlocks_galleys (s : State) (core id b n : Nat) : OnlyGalleys s (countBlocks s core id b n) :=
  List.foldlRecOn (motive := OnlyGalleys s) _ _ (.refl s) fun _ only _ _ => only.trans (countBytes_galleys ..)

section

variable {s : State} {x : Nat} {t : Transfer} {c : Coll} (found : findTransfer s x = some t) (coll : t.kind = .coll)
  (member : collOf s t = some c) (home : c.home = true)

include found coll member home

theorem collDecision_aborts (decided : c.decided = some false) : exec (.collDecision x 0) s = .next (abortAt s t c false) := by
  show execCollDecision x 0 s = _
  simp only [execCollDecision, found, coll, member, decided, home]
  rfl

theorem collDecision_commits (decided : c.decided = some true) (free : commitWaits s t = false) :
    exec (.collDecision x 0) s = .next (commitAt s t c) := by
  show execCollDecision x 0 s = _
  simp only [execCollDecision, found, coll, member, decided, home, free]
  rfl

end

/-- A participant that ends, and its collective with it. -/
theorem leaves_collective {s : State} {x : Nat} {t : Transfer} (name : t.uid = x) (word : Word) (c : Coll) (rank : Nat) :
    findTransfer (leaveColl (endTransfer s t word true) c rank) x = none ∧ (leaveColl (endTransfer s t word true) c rank).mem = s.mem ∧
      ∀ hid h, t.owner = some hid → hartOf s hid = some h →
        hartOf (leaveColl (endTransfer s t word true) c rank) hid = some (endedHart t word true h) := by
  have only := leaveColl_only (endTransfer s t word true) c rank
  refine ⟨?_, only.mem.trans (endTransfer_mem ..), fun hid h owner found => ?_⟩
  · rw [findTransfer_congr only.transfers, endTransfer_gone _ _ _ _ name]
  · rw [hartOf_congr only.me only.rest, hartOf_endTransfer owner found]

section

variable {s : State} {x : Nat} {t : Transfer} {c : Coll} {hid : Nat} {h : Hart} (name : t.uid = x) (owner : t.owner = some hid)
  (named : t.se ≠ 0) (hart : hartOf s hid = some h)

include name owner named hart

/-- A participant that is told to abort writes nothing (R248). -/
theorem abortAt_ends (running : t.ended = none) : findTransfer (abortAt s t c false) x = none ∧ (abortAt s t c false).mem = s.mem ∧
    (hartOf (abortAt s t c false) hid).map (·.r.x[t.se]) = some (BitVec.ofNat 64 (5 + 2 ^ 8 * t.tid.toNat)) := by
  obtain ⟨landed, hart'⟩ := hartOf_landAll owner hart
  obtain ⟨gone, mem, harts⟩ := leaves_collective (s := landAll s t) name (statusWord 5 t.tid.toNat 0 0) c (crank t.latch)
  have ends : abortAt s t c false = leaveColl (endTransfer (landAll s t) t (statusWord 5 t.tid.toNat 0 0) true) c (crank t.latch) := by
    rw [abortAt, running]
    rfl
  rw [← ends] at gone mem harts
  refine ⟨gone, mem.trans (landAll_mem ..), ?_⟩
  rw [harts hid _ owner hart', Option.map_some, endedHart_register named, statusWord_eq]
  rfl

end

/-! ## What a participant commits (R105, R106, R248) -/

/-- A hart whose v registers the results of a collective, or the elements of a copy, have reached (R85, R108). -/
def filledHart (t : Transfer) (b : Nat) (l : List (Nat × Nat)) (h : Hart) : Hart :=
  landRegs h t.seq fun r => l.foldl (fun r p => setElem r (.v ⟨cFirst t.latch % 64, Nat.mod_lt _ (by decide)⟩) t.lanes b p.1 p.2) r

/-- What a participant writes, before it ends. -/
def commitData (s : State) (t : Transfer) (c : Coll) : State :=
  let k := commitWrites (agreedFmt c) t c
  if cRegs t.latch then
    landAll (writeRegs s t (collWidth s (whoTransfer t) t.core t.latch) (k.writes.zipIdx.map fun x => ((destDisp t x.2).toNat, x.1.2))) t
  else writePlaces s k.writes

/-- What a participant counts when it has written: the NaNs among its results, and the bytes of its blocks (R44, R97). -/
def commitCounts (s : State) (t : Transfer) (c : Coll) (u : State) : State :=
  let k := commitWrites (agreedFmt c) t c
  let v := if k.nans = 0 then u else modCore u t.core fun q => { q with nanenc := q.nanenc + wordOfNat k.nans }
  match t.gdst with
  | some g => countBlocks v t.core g (collWidth s (whoTransfer t) t.core t.latch) (destCount t.latch)
  | none => v

/-- A participant with the flags of its results (R106). -/
def flaggedTransfer (t : Transfer) (c : Coll) : Transfer := { t with flags := (commitWrites (agreedFmt c) t c).flags }

theorem commitAt_eq (s : State) (t : Transfer) (c : Coll) : commitAt s t c = leaveColl (endTransfer (commitCounts s t c (commitData s t c))
    (flaggedTransfer t c) (statusWord 0 t.tid.toNat 0 0) true) c (crank t.latch) := rfl

/-- Counting changes cores alone. -/
theorem commitCounts_frame (s : State) (t : Transfer) (c : Coll) (u : State) :
    commitCounts s t c u = { u with cores := (commitCounts s t c u).cores } := by
  unfold commitCounts
  dsimp only
  split
  · rw [(countBlocks_galleys ..).frame]
    split <;> rfl
  · split <;> rfl

section

variable {s : State} {t : Transfer} {c : Coll} {hid : Nat} (owner : t.owner = some hid)

include owner

theorem commitData_mem : (commitData s t c).mem = (if cRegs t.latch then s else writePlaces s (commitWrites (agreedFmt c) t c).writes).mem := by
  unfold commitData
  dsimp only
  split
  · rw [landAll_mem, writeRegs, owner]
    rfl
  · rfl

omit owner in
/-- A commit in memory leaves the harts alone. -/
theorem hartOf_commitData_memory {h : Hart} (memory : cRegs t.latch = false) (found : hartOf s hid = some h) :
    hartOf (commitData s t c) hid = some h := by
  have written : commitData s t c = writePlaces s (commitWrites (agreedFmt c) t c).writes := by rw [commitData, memory]; rfl
  rw [written, hartOf_congr (writePlaces_me ..) (writePlaces_rest ..), found]

/-- A commit in registers lands them. -/
theorem hartOf_commitData_registers {h : Hart} (registers : cRegs t.latch = true) (found : hartOf s hid = some h) :
    ∃ landed, hartOf (commitData s t c) hid = some { filledHart t (collWidth s (whoTransfer t) t.core t.latch)
      ((commitWrites (agreedFmt c) t c).writes.zipIdx.map fun x => ((destDisp t x.2).toNat, x.1.2)) h with landed := landed } := by
  have written (b : Nat) (l : List (Nat × Nat)) : writeRegs s t b l = modHart s hid (filledHart t b l) := by rw [writeRegs, owner]; rfl
  rw [commitData, registers, written]
  refine hartOf_landAll owner ((hartOf_modHart (f := filledHart t _ _) s hid fun _ => rfl).trans ?_)
  rw [found]
  rfl

theorem hartOf_commitData {h : Hart} (found : hartOf s hid = some h) : ∃ g, hartOf (commitData s t c) hid = some g := by
  cases registers : cRegs t.latch with
  | false => exact ⟨h, hartOf_commitData_memory registers found⟩
  | true =>
    obtain ⟨landed, hart⟩ := hartOf_commitData_registers (c := c) owner registers found
    exact ⟨_, hart⟩

end

/-- The end of a transfer leaves the v registers alone. -/
theorem endedHart_v {t : Transfer} (named : t.se ≠ 0) (word : Word) (counted : Bool) (h : Hart) :
    (endedHart t word counted h).r.v = h.r.v := by
  obtain ⟨flights, e⟩ := endedHart_eq t word counted h
  rw [e, setX_register _ named]

section

variable {s : State} {x : Nat} {t : Transfer} {c : Coll} {hid : Nat} {h : Hart} (name : t.uid = x) (owner : t.owner = some hid)
  (named : t.se ≠ 0) (hart : hartOf s hid = some h)

include name owner named hart

/-- A participant that is told to commit writes what it has checked, and ends OK (R105, R248). -/
theorem commitAt_ends : findTransfer (commitAt s t c) x = none ∧
    (commitAt s t c).mem = (if cRegs t.latch then s else writePlaces s (commitWrites (agreedFmt c) t c).writes).mem ∧
    (∀ first : Fin 64, cRegs t.latch = true → first.val = cFirst t.latch % 64 → (hartOf (commitAt s t c) hid).map (·.r.v) =
      some ((commitWrites (agreedFmt c) t c).writes.zipIdx.foldl (fun r p => setElem r (.v first) t.lanes
        (collWidth s (whoTransfer t) t.core t.latch) (destDisp t p.2).toNat p.1.2) h.r).v) ∧
    (hartOf (commitAt s t c) hid).map (·.r.x[t.se]) = some (BitVec.ofNat 64 (2 ^ 8 * t.tid.toNat)) := by
  have frame := commitCounts_frame s t c (commitData s t c)
  obtain ⟨gone, mem, harts⟩ := leaves_collective (s := commitCounts s t c (commitData s t c))
    (t := flaggedTransfer t c) name (statusWord 0 t.tid.toNat 0 0) c (crank t.latch)
  have kept : hartOf (commitCounts s t c (commitData s t c)) hid = hartOf (commitData s t c) hid :=
    hartOf_congr (by rw [frame]) (by rw [frame]) hid
  rw [← commitAt_eq] at gone mem harts
  refine ⟨gone, ?_, fun first registers here => ?_, ?_⟩
  · rw [mem, frame]
    exact commitData_mem owner
  · obtain ⟨landed, data⟩ := hartOf_commitData_registers (c := c) owner registers hart
    rw [harts hid _ owner (kept.trans data), Option.map_some, endedHart_v (t := flaggedTransfer t c) named]
    have place : (⟨cFirst t.latch % 64, Nat.mod_lt _ (by decide)⟩ : Fin 64) = first := Fin.ext here.symm
    simp only [filledHart, landRegs, place, List.foldl_map]
  · obtain ⟨g, data⟩ := hartOf_commitData (c := c) owner hart
    have register := endedHart_register (t := flaggedTransfer t c) named (statusWord 0 t.tid.toNat 0 0) true g
    have word : statusWord 0 t.tid.toNat 0 0 = BitVec.ofNat 64 (2 ^ 8 * t.tid.toNat) := by
      rw [statusWord_eq]
      simp
    rw [harts hid g owner (kept.trans data), Option.map_some]
    exact congrArg some (register.trans word)

end

end Sys2Proof.Machine
end

section
/-! PROOF. The agents of the package: copies, moves, invalidations, fills, collectives, and a SETVLW that reads its word again. -/

namespace Sys2Proof.Machine

/-- A hart that waits in SETVLW reads the word again as the instruction does (R299). -/
theorem watermarkReread_rereads {s u : State} {hid : Nat} {w : BitVec 32} {sd sa sb : SOp} {g : Fin 8}
    (waits : (hartOf s hid).map (·.wait) = some (some .watermark)) (free : boundaryDue (focus s hid) (focus s hid).me = false)
    (word : nextWord (focus s hid) = .ok (w, u)) (decoded : decode w = .ok (.setvlw sd sa sb g)) :
    exec (.watermarkReread hid) s = exec (.setvlw sd sa sb g) u := by
  show execWatermarkReread hid s = _
  simp only [execWatermarkReread, waits, free, word, decoded]
  rfl

section

variable {s : State} {x : Nat} {t : Transfer} (found : findTransfer s x = some t)

include found

/-- The next block of a copy between two objects (R88). -/
theorem copyBlock_moves {k b h h' : Nat} {r r' : Record} {ks : List Nat} {p q : Nat → Place × Nat} (due : blockDue s t k = true)
    (fresh : t.ahead = []) (unread : preparedBlock t k = none) (clean : s.softMem = [])
    (sides : copySides s t = (.object h r, .object h' r')) (plain : cComp t.latch = 0) (width : b = transferWidth s t)
    (elements : ks = (List.range (Nat.min (blockElems b) (cCount t.latch - k * blockElems b))).map (k * blockElems b + ·))
    (good : ∀ e ∈ ks, sourceOf s t (.object h r) b e = .ok (.place (p e).1, (p e).2) ∧
      Side.place s (whoTransfer t) t.core 5 t.latch[1] (destDisp t e) (.object h' r') = .ok (q e)) :
    ∃ u, exec (.copyBlock x k) s = .next u ∧ u.mem = (writePlaces s (ks.map fun e => ((q e).1, readPlace s (p e).1))).mem ∧
      (findTransfer u x).map (·.done) = some (t.done ++ [k]) ∧ u.me = s.me ∧ u.rest = s.rest := by
  subst elements
  have latch : t.latch[1] = cw t.latch 1 := vget_getElem ..
  rw [latch] at good
  exact ⟨_, copyBlock_performs found due, performBlock_moved found clean sides fresh unread plain width (fun e here => (good e here).1)
    fun e here => (good e here).2⟩

/-- The end of a copy (R89). -/
theorem copyEnd_reports {c i : Nat} (copy : t.kind = .copy) (outcome : copyOutcome s t = some (c, i)) : ∃ u, exec (.copyEnd x) s = .next u ∧
    findTransfer u x = none ∧ u.mem = s.mem ∧ ∀ hid h, t.owner = some hid → t.se ≠ 0 → hartOf s hid = some h →
      (hartOf u hid).map (fun g => (g.r.x[t.se], g.r.pc, g.r.q)) = some (BitVec.ofNat 64
        (c + 2 ^ 8 * t.tid.toNat + 2 ^ 24 * Nat.min 15 t.failed.length + 2 ^ 28 * (i % 2 ^ 36)), h.r.pc, h.r.q) ∧
      ∀ k : Fin 16, (hartOf u hid).map (·.perf[k]) = some (if k.val = t.stream then h.perf[k] + 1 else h.perf[k]) := by
  refine ⟨_, copyEnd_ends found copy outcome, endTransfer_gone _ _ _ _ (findTransfer_uid found), (endTransfer_mem ..).trans (landAll_mem ..),
    fun hid h owner named hart => ?_⟩
  obtain ⟨landed, hart'⟩ := hartOf_landAll owner hart
  obtain ⟨pc, q, perf⟩ := endedHart_counted named (statusWord c t.tid.toNat t.failed.length i) { h with landed := landed }
  rw [hartOf_endTransfer owner hart']
  refine ⟨?_, fun k => congrArg some (perf k)⟩
  rw [Option.map_some, endedHart_register named, pc, q, statusWord_eq]

/-- A move that copies, and one that is struck by an error (R79). -/
theorem moveCopy_ends {r : Record} {n a : Nat} (move : t.kind = .move) (copying : t.copying = true) (w : memoriesWf s) (record : r = moveRecord s t)
    (size : n = imageSize r) (address : a = recordAddr t.otb (moveHandle t)) (clean : s.softMem = [])
    (open_ : ∀ i, i < 64 → guarded s (a + i) = false) :
    (badByte s r = none → moveFree s t = true → holeByte s t = none → newBase t + n ≤ a ∨ a + 64 ≤ newBase t →
      ∃ u, exec (.moveCopyEnd x) s = .next u ∧ findTransfer u x = none ∧
      (∀ i, i < n → readByte u.mem (newBase t + i) = readByte s.mem (r.base + i)) ∧ (recordAt u a).base = newBase t ∧
      (recordAt u a).state = 0 ∧ field ((recordAt u a).word 1) 39 16 = (field (r.word 1) 39 16 + 1) % 2 ^ 16 ∧
      ∀ d, 2 ≤ d → d < 8 → (recordAt u a).word d = r.word d) ∧
    (∀ i, badByte s r = some i → ∃ u, exec (.moveAbort x 0x17 (elementAt r i)) s = .next u ∧ findTransfer u x = none ∧
      (recordAt u a).base = r.base ∧ (recordAt u a).state = 0) := by
  refine ⟨fun intact free whole apart => ?_, fun i bad => ?_⟩
  · obtain ⟨u, performed, gone, mem⟩ := moveCopyEnd_ends found move copying record clean intact free whole
    have here : recordAt u a = movedRecord t r := (recordAt_congr mem a).trans (movedMemory_record w address open_ _)
    obtain ⟨base, state, generation⟩ := movedRecord_fields t r
    rw [← here] at base state generation
    refine ⟨u, performed, gone, fun i inside => ?_, base, state, generation, fun d past _ => ?_⟩
    · rw [mem, ← size]
      exact movedMemory_image w address open_ apart inside
    · rw [here, movedRecord_word t r past]
  · obtain ⟨u, performed, gone, mem⟩ := moveAbort_ends found move copying record bad
    have here : recordAt u a = stillRecord r := (recordAt_congr mem a).trans (cancelMove_record w address open_ record)
    obtain ⟨base, state⟩ := stillRecord_fields r
    rw [← here] at base state
    exact ⟨u, performed, gone, base, state⟩

end

/-- Settles O54: each clause by what its step does to the transfer, the collective or the cache that it is about. -/
theorem engineEvents : Obligations.EngineEvents := by
  refine ⟨fun x s t found => ⟨?_, ?_, ?_, ?_, ?_, ?_, ?_⟩, fun s => ⟨?_, ?_, ?_, ?_, ?_⟩⟩
  · intro k b h h' r r' ks p q _ due fresh unread clean _ sides _ plain width elements good
    exact copyBlock_moves found due fresh unread clean sides plain width elements good
  · exact fun c i copy outcome => copyEnd_reports found copy outcome
  · exact copyOutcome_ok
  · intro move idle fresh free alone
    obtain ⟨u, performed, draining, mem⟩ := moveDrainEnd_drains found move idle fresh free alone
    refine ⟨u, performed, draining, ?_⟩
    have latch : t.latch[1] = vget t.latch 1 0 := vget_getElem ..
    have base : field (vget t.latch 1 0) 0 39 = t.latch[1].toNat % 2 ^ 39 := by
      rw [field_eq, latch]
      simp
    rw [mem, movingRecord, base]
  · exact fun move idle draining => ⟨moveDrainEnd_copies found move idle draining, moveDrainEnd_held found move idle draining⟩
  · exact fun r n a move copying w record size address clean open_ => moveCopy_ends found move copying w record size address clean open_
  · intro ctx h context handle free
    have first : t.latch[0] = vget t.latch 0 0 := vget_getElem ..
    have second : t.latch[1] = vget t.latch 1 0 := vget_getElem ..
    rw [first] at handle ⊢
    rw [second, context]
    exact ⟨icinvDone_drops found free, orcinvDone_drops found free handle⟩
  · intro core ctx handle w r who record
    refine ⟨orcFill_fills who record, fun st v partial_ inside entry frame valid => mapEntryFill_fills who record partial_ inside entry ?_ ?_⟩
    · rw [field_eq]
      exact frame
    · exact valid
  · intro comm idx rank staged t c l ps here due member home share clean
    obtain ⟨present, named⟩ := participant_rank here
    obtain ⟨transfer, mem, colls⟩ := stageColl_stages member home present share clean
    rw [named] at colls
    exact ⟨_, collReady_stages member here due, transfer, mem, colls⟩
  · intro comm idx rank n m c entry inside away found _ home open_
    exact ⟨collAbort_decides entry inside away found home open_, fun terms share absent fresh =>
      collReady_arrives entry inside away found home open_ absent fresh⟩
  · intro x t c found coll member home hid h owner named hart
    have name := findTransfer_uid found
    exact ⟨fun decided running => ⟨_, collDecision_aborts found coll member home decided, abortAt_ends name owner named hart running⟩,
      fun decided free => ⟨_, collDecision_commits found coll member home decided free, commitAt_ends name owner named hart⟩⟩
  · exact fun hid w u sd sa sb g waits free word decoded => watermarkReread_rereads waits free word decoded

end Sys2Proof.Machine
end

section
/-! PROOF. The galleys of a core: what a change of one descriptor leaves of it and of the others, and the checks that the instructions on
galleys share (R92, R95, R243). -/

namespace Sys2Proof.Machine

/-! ## Descriptors -/

section

variable (s : State) (core id : Nat)

/-- A change of a core that keeps its descriptors keeps every galley. -/
theorem galley_modCore {f : Core → Core} (kept : ∀ c, (f c).galleys = c.galleys) (k j : Nat) :
    galley (modCore s core f) k j = galley s k j := by
  by_cases here : k = core
  · rw [galley, here, getCore_modCore_same, kept]
    rfl
  · rw [galley, getCore_modCore_other _ _ _ _ here]
    rfl

variable {id}

/-- The galleys of a core of which one is changed. -/
theorem galley_setGalley (inside : id < 32) (d : Word) (j : Nat) :
    galley (setGalley s core id d) core j = if j = id then d else galley s core j := by
  rw [galley, setGalley, getCore_modCore_same, vget_vset _ _ _ _ _ inside]
  rfl

theorem galley_setGState (inside : id < 32) (n : Nat) :
    galley (setGState s core id n) core id = putField (galley s core id) 29 3 n := by
  rw [setGState, galley_setGalley s core inside, if_pos rfl]

theorem sync_setGState (n : Nat) : (getCore (setGState s core id n) core).sync = (getCore s core).sync := by
  rw [setGState, setGalley, getCore_modCore_same]

end

theorem gState_putState (d : Word) {n : Nat} (state : n < 8) : gState (putField d 29 3 n) = n := by
  rw [gState, field_putField_same d 29 3 n (by decide)]
  exact Nat.mod_eq_of_lt state

theorem gSize_putState (d : Word) (n : Nat) : gSize (putField d 29 3 n) = gSize d := by
  rw [gSize, field_putField_other _ _ _ _ _ _ (by decide) (by decide), gSize]

/-- A write of a destination leaves the cores alone. -/
theorem writeDst_getCore {sd : SOp} {v : Word} {s t : State} (write : writeDst sd v s = .ok t) (n : Nat) : getCore t n = getCore s n := by
  obtain ⟨x, q, rfl⟩ := writeDst_frame write
  rfl

theorem writeDst_mem {sd : SOp} {v : Word} {s t : State} (write : writeDst sd v s = .ok t) : t.mem = s.mem := by
  obtain ⟨x, q, rfl⟩ := writeDst_frame write
  rfl

theorem galley_congr {s t : State} {core : Nat} (same : getCore t core = getCore s core) (id : Nat) :
    galley t core id = galley s core id := by
  rw [galley, same, galley]

/-! ## Checks -/

section

variable {s t : State}

/-- Nothing keeps back an instruction whose effect nothing can take back, where nothing earlier is unsettled (R6, R111). -/
theorem firm_settled (unparked : anyParked s = false) (unstuck : anyStuck s isMmau = false) : firm s = .ok s := by
  have checked : allChecked s = true := List.all_eq_true.2 fun f member => by
    have settled := List.any_eq_false.1 unparked f member
    simp [settled]
  have passed : passOn s = s := if_neg (by rw [unparked]; exact Bool.false_ne_true)
  rw [firm, ensure_bind (by rw [unstuck]; rfl), ok_bind ((holds_ok ..).2 checked), passed]
  rfl

/-- Which operations wait for the open strip does not depend on the queues (R279, R280). -/
theorem OnlyQueues.stuck (read : OnlyQueues s t) : stuck t t.me = stuck s s.me := by
  obtain ⟨q, p, rfl⟩ := read
  have rounds (ts : List Transfer) (n : Nat) (l : List Nat) :
      stuckRounds ts (modMe s fun h => { h with popped := p, r := { h.r with q := q } }).me n l = stuckRounds ts s.me n l := by
    induction n generalizing l with
    | zero => rfl
    | succ n ih => exact ih _
  exact congrArg (fun l => if s.me.r.strip.stores.isEmpty then [] else l) (rounds ..)

/-- What is not kept back stays so when the hart has read its fields. -/
theorem OnlyQueues.firm (read : OnlyQueues s t) (unparked : anyParked s = false) (unstuck : anyStuck s isMmau = false) :
    firm t = .ok t := by
  have same := read.stuck
  have flights : t.me.flights = s.me.flights := by
    obtain ⟨q, p, rfl⟩ := read
    rfl
  refine firm_settled ?_ ?_
  · rw [anyParked, flights, same]
    exact unparked
  · rw [anyStuck, flights, same]
    exact unstuck

theorem OnlyQueues.getCore (read : OnlyQueues s t) (n : Nat) : getCore t n = getCore s n := by
  obtain ⟨q, p, rfl⟩ := read
  rfl

theorem OnlyQueues.mem (read : OnlyQueues s t) : t.mem = s.mem := by
  obtain ⟨q, p, rfl⟩ := read
  rfl

theorem OnlyQueues.galleyBusy (read : OnlyQueues s t) (core id : Nat) (into : Bool) :
    galleyBusy t core id into = galleyBusy s core id into := by
  obtain ⟨q, p, rfl⟩ := read
  rfl

theorem OnlyQueues.pendingTransfers (read : OnlyQueues s t) (hid : Nat) : pendingTransfers t hid = pendingTransfers s hid := by
  obtain ⟨q, p, rfl⟩ := read
  rfl

theorem OnlyQueues.ownGalley (read : OnlyQueues s t) (a : Word) : ownGalley t a = ownGalley s a := by
  obtain ⟨q, p, rfl⟩ := read
  rfl

theorem OnlyQueues.galleyId (read : OnlyQueues s t) (a : Word) : galleyId t a = galleyId s a := by
  obtain ⟨q, p, rfl⟩ := read
  rfl

theorem OnlyQueues.badGalley (read : OnlyQueues s t) (core id : Nat) (d : Word) : badGalley t core id d = badGalley s core id d := by
  obtain ⟨q, p, rfl⟩ := read
  rfl

/-- No hart has probed an access to a galley, as the galley's instructions need it (R250). -/
theorem OnlyQueues.unprobed {id : Nat} (read : OnlyQueues s t) (free : ∀ h ∈ s.me :: s.rest, accessTo id h = false) :
    ∀ h ∈ t.me :: t.rest, accessTo id h = false := by
  obtain ⟨q, p, rfl⟩ := read
  intro h member
  obtain rfl | other := List.mem_cons.1 member
  · exact free s.me List.mem_cons_self
  · exact free h (List.mem_cons_of_mem _ other)

end

/-- The information word of a refused galley id (R306). -/
theorem addrInfo_galley {id : Nat} (inside : id < 32) : addrInfo (0xFFF00 + id) 0 0 0 = wordOfNat (0xFFF00 + id) := by
  have small : (1048320 + id) % 1048576 = 1048320 + id := Nat.mod_eq_of_lt (by omega)
  simp [addrInfo, small]

section

variable {s : State} {a : Word} {id : Fin 32} (named : a.toNat = id.val) (mask : s.me.gmask.getLsbD id = true)

include named mask

theorem galleyId_masked : galleyId s a = .ok id.val := by
  rw [galleyId, named, if_pos ⟨id.isLt, mask⟩]

/-- A declared galley of the context may be named (R92). -/
theorem ownGalley_owned (declared : gState (galley s s.me.core id) ≠ 0) (owner : gOwner (galley s s.me.core id) = s.me.ctx) :
    ownGalley s a = .ok id.val := by
  have usable : galleyUsable s s.me.ctx s.me.core s.me.gmask id = true := by simp [galleyUsable, mask, declared, owner]
  rw [ownGalley, ok_bind (galleyId_masked named mask), if_pos usable]
  rfl

/-- Any other galley is an invalid handle (R92). -/
theorem ownGalley_foreign (foreign : gState (galley s s.me.core id) = 0 ∨ gOwner (galley s s.me.core id) ≠ s.me.ctx) :
    ownGalley s a = trapOf cHandle (wordOfNat (0xFFF00 + id.val)) := by
  have unusable : galleyUsable s s.me.ctx s.me.core s.me.gmask id = false := by
    obtain undeclared | other := foreign
    · simp [galleyUsable, undeclared]
    · simp [galleyUsable, other]
  rw [ownGalley, ok_bind (galleyId_masked named mask), unusable, if_neg Bool.false_ne_true, addrInfo_galley id.isLt]

end

/-- No access to a galley that no hart has probed holds its instructions back (R250). -/
theorem galleySettled_free {s : State} {id : Nat} (free : ∀ h ∈ s.me :: s.rest, accessTo id h = false) :
    galleySettled s id = .ok ⟨⟩ := by
  have mine := free s.me List.mem_cons_self
  rw [accessTo, Bool.or_eq_false_iff] at mine
  obtain ⟨flights, stores⟩ := mine
  have unstuck : anyStuck s (fun f => f.spans.any fun y => y.handle == 0xFFF00 + id) = false := by
    refine List.any_eq_false.2 fun f member held => List.any_eq_false.1 flights f member ?_
    simp only [Bool.and_eq_true] at held ⊢
    exact ⟨held.1.1, held.2⟩
  have strip : stripTo id s = false := by
    rw [stripTo, Bool.or_eq_false_iff]
    exact ⟨stores, unstuck⟩
  have harts : ((allHarts s).any fun h => h.core == s.me.core && accessTo id h) = false := by
    refine List.any_eq_false.2 fun h member => ?_
    have listed : h ∈ s.me :: s.rest := by
      unfold allHarts at member
      split at member
      · exact List.mem_cons_of_mem _ member
      · exact member
    simp [free h listed]
  rw [galleySettled, ensure_bind (by rw [strip]; rfl)]
  exact (holds_ok ..).2 (by rw [harts]; rfl)

end Sys2Proof.Machine
end

section
/-! PROOF. GDECL, GSTATE, GFREE, SYNCINIT and SYNCWAIT (R92, R95, R98, R249 to R253). -/

namespace Sys2Proof.Machine

/-! ## GDECL (R92, R249) -/

/-- The reasons for which a declaration is refused (R92). -/
theorem badGalley_refused {s : State} {core id : Nat} {d : Word} (refused : gState (galley s core id) ≠ 0 ∨
    d.toNat / 2 ^ 11 % 2 ^ 11 = 0 ∨ 1280 < d.toNat % 2 ^ 11 + d.toNat / 2 ^ 11 % 2 ^ 11 ∨ 4 ≤ d.toNat / 2 ^ 22 % 8 ∨
    d.toNat / 2 ^ 59 ≠ 0 ∨ d.toNat / 2 ^ 29 % 8 ≠ 0 ∨ badGalley s core id d = true) : badGalley s core id d = true := by
  obtain declared | empty | past | kind | upper | state | bad := refused
  · simp [badGalley, declared]
  · have size : gSize d = 0 := by rw [gSize, field_eq, empty]
    simp [badGalley, size]
  · have far : 327680 < gBase d + gSize d := by
      rw [gBase, gSize, field_eq, field_eq]
      omega
    simp [badGalley, far]
  · have wide : 4 ≤ gKind d := by
      rw [gKind, field_eq]
      exact kind
    simp [badGalley, wide]
  · have := d.isLt
    have rest : field d 59 5 ≠ 0 := by
      rw [field_eq]
      omega
    simp [badGalley, rest]
  · have named : gState d ≠ 0 := by
      rw [gState, field_eq]
      exact state
    simp [badGalley, named]
  · exact bad

/-- The descriptor of a galley that a context has declared: empty, and its own (R92). -/
def declaredGalley (d : Word) (ctx : Nat) : Word := putField (putField d 29 3 1) 43 16 ctx

theorem declaredGalley_fields (d : Word) (ctx : Nat) : gState (declaredGalley d ctx) = 1 ∧ gOwner (declaredGalley d ctx) = ctx % 2 ^ 16 ∧
    gBase (declaredGalley d ctx) = gBase d ∧ gSize (declaredGalley d ctx) = gSize d ∧ gKind (declaredGalley d ctx) = gKind d := by
  have kept (lo n : Nat) (below : lo + n ≤ 29) : field (declaredGalley d ctx) lo n = field d lo n := by
    rw [declaredGalley, field_putField_other _ _ _ _ _ _ (by decide) (by omega), field_putField_other _ _ _ _ _ _ (by decide) (by omega)]
  refine ⟨?_, field_putField_same _ _ _ _ (by decide), ?_, ?_, kept 22 3 (by decide)⟩
  · rw [gState, declaredGalley, field_putField_other _ _ _ _ _ _ (by decide) (by decide)]
    exact gState_putState d (by decide)
  · rw [gBase, kept 0 11 (by decide), gBase]
  · rw [gSize, kept 11 11 (by decide), gSize]

/-- A galley of the core in focus is declared (R92, R97). -/
def declareGalley (s : State) (core id ctx : Nat) (d : Word) : State :=
  modCore (setGalley s core id (declaredGalley d ctx)) core fun c =>
    { c with sync := vset c.sync id 0, pendingFull := c.pendingFull &&& ~~~(1#32 <<< id) }

section

variable (s : State) (core : Nat) (id : Fin 32) (ctx : Nat) (d : Word)

theorem galley_declareGalley (j : Nat) :
    galley (declareGalley s core id ctx d) core j = if j = id then declaredGalley d ctx else galley s core j :=
  (galley_modCore (setGalley s core id (declaredGalley d ctx)) core (by intro c; rfl) core j).trans (galley_setGalley s core id.isLt _ j)

theorem sync_declareGalley : (getCore (declareGalley s core id ctx d) core).sync[id] = 0 := by
  rw [declareGalley, getCore_modCore_same]
  exact getElem_vset _ id 0

end

section

variable {sa sb : SOp} {s s1 s2 : State} {a b : Word} {id : Fin 32} (srcA : srcOk sa = true) (srcB : srcOk sb = true)
  (readA : readSrc sa s = .ok (a, s1)) (readB : readSrc sb s1 = .ok (b, s2)) (named : a.toNat = id.val)
  (mask : s.me.gmask.getLsbD id = true) (unparked : anyParked s = false) (unstuck : anyStuck s isMmau = false)

include srcA srcB readA readB

/-- Both fields of an instruction of two sources are read. -/
theorem bothRead : legal [sa, sb] [] = .ok ⟨⟩ ∧ OnlyQueues s s2 :=
  ⟨(legal_ok ..).2 (by simp [srcA, srcB]), (readSrc_queues readA).trans (readSrc_queues readB)⟩

include named mask

theorem execGdecl_refused (bad : badGalley s s.me.core id b = true) : execGdecl sa sb s =
    .next (stopAt s (.trap { code := cDeclare, info := galleyInfo id (gState (galley s2 s.me.core id)) 0 }) none) := by
  obtain ⟨fields, read⟩ := bothRead srcA srcB readA readB
  unfold execGdecl
  rw [ok_bind fields, ok_bind readA]
  dsimp only
  rw [ok_bind readB]
  dsimp only
  rw [read.galleyId, ok_bind (galleyId_masked named mask)]
  rw [read.badGalley, if_pos bad]
  rfl

include unparked unstuck

theorem execGdecl_declares (good : badGalley s s.me.core id b = false) :
    execGdecl sa sb s = .next (retire (declareGalley s2 s.me.core id s.me.ctx b)) := by
  obtain ⟨fields, read⟩ := bothRead srcA srcB readA readB
  unfold execGdecl
  rw [ok_bind fields, ok_bind readA]
  dsimp only
  rw [ok_bind readB]
  dsimp only
  rw [read.galleyId, ok_bind (galleyId_masked named mask)]
  rw [read.badGalley, if_neg (by rw [good]; exact Bool.false_ne_true), ok_bind (read.firm unparked unstuck)]
  rfl

end

/-! ## States (R95, R250) -/

/-- A galley whose state becomes one that GSTATE names; 0 asks for none (R95). -/
def enterState (s : State) (core id n : Nat) : State :=
  if n = 0 then s else if n = 1 then emptyGalley s core id else setGState s core id n

/-- What a galley is after a change of its state: its descriptor but for the state, and its word but for the count, which clears as the
galley empties (R95, R97). -/
structure StateEntered (s t : State) (core id n : Nat) : Prop where
  mem : t.mem = s.mem
  state : gState (galley t core id) = if n = 0 then gState (galley s core id) else n
  size : gSize (galley t core id) = gSize (galley s core id)
  sync : vget (getCore t core).sync id 0 =
    if n = 1 then putField (vget (getCore s core).sync id 0) 24 24 0 else vget (getCore s core).sync id 0

theorem enterState_entered (s : State) (core : Nat) {id n : Nat} (inside : id < 32) (state : n < 8) :
    StateEntered s (enterState s core id n) core id n := by
  have changed := galley_setGState s core inside n
  have word := sync_setGState s core (id := id) n
  have still := (setGState_galleys s core id n).mem
  unfold enterState
  split
  next none_ =>
    exact ⟨rfl, by rw [if_pos none_], rfl, by rw [if_neg (by omega)]⟩
  next some_ =>
    split
    next empties =>
      subst empties
      have kept (j : Nat) : galley (emptyGalley s core id) core j = galley (setGState s core id 1) core j :=
        galley_modCore (setGState s core id 1) core (by intro c; rfl) core j
      refine ⟨still, ?_, ?_, ?_⟩
      · rw [kept, changed, gState_putState _ state, if_neg some_]
      · rw [kept, changed, gSize_putState]
      · rw [emptyGalley, getCore_modCore_same, vget_vset _ _ _ _ _ inside, if_pos rfl, if_pos rfl, word]
    next other =>
      refine ⟨still, ?_, ?_, ?_⟩
      · rw [changed, gState_putState _ state, if_neg some_]
      · rw [changed, gSize_putState]
      · rw [word, if_neg other]

section

variable {sd sa sb : SOp} {s s1 s2 : State} {a b : Word} {id : Fin 32} (srcA : srcOk sa = true) (srcB : srcOk sb = true)
  (dest : dstOk sd = true) (readA : readSrc sa s = .ok (a, s1)) (readB : readSrc sb s1 = .ok (b, s2))

include srcA srcB dest

theorem gstate_fields : legal [sa, sb] [sd] = .ok ⟨⟩ := (legal_ok ..).2 (by simp [srcA, srcB, dest])

include readA readB

/-- A state past the last is the illegal-mode trap (R250). -/
theorem execGstate_outside (outside : 4 < b.toNat) : execGstate sd sa sb s = .next (stopAt s (.trap { code := cMode }) none) := by
  unfold execGstate
  rw [ok_bind (gstate_fields srcA srcB dest), ok_bind readA]
  dsimp only
  rw [ok_bind readB]
  dsimp only
  rw [decide_eq_false (Nat.not_le.2 outside)]
  rfl

theorem execGstate_foreign (inside : b.toNat ≤ 4) {info : Word} (foreign : ownGalley s a = trapOf cHandle info) :
    execGstate sd sa sb s = .next (stopAt s (.trap { code := cHandle, info := info }) none) := by
  have read : OnlyQueues s s2 := (readSrc_queues readA).trans (readSrc_queues readB)
  unfold execGstate
  rw [ok_bind (gstate_fields srcA srcB dest), ok_bind readA]
  dsimp only
  rw [ok_bind readB]
  dsimp only
  rw [ensure_bind (decide_eq_true inside), read.ownGalley, foreign]
  rfl

variable (unparked : anyParked s = false) (unstuck : anyStuck s isMmau = false) (own : ownGalley s a = .ok id.val)
  (free : ∀ h ∈ s.me :: s.rest, accessTo id h = false) (inside : b.toNat ≤ 4) {into out : Bool}
  (intoIs : into = galleyBusy s s.me.core id true) (outIs : out = galleyBusy s s.me.core id false)

include unparked unstuck own free inside intoIs outIs

theorem execGstate_refused (refused : stateGranted (gState (galley s s.me.core id)) b.toNat into out = false) : execGstate sd sa sb s =
    .next (stopAt s (.trap { code := cGalley, info := galleyInfo id (gState (galley s s.me.core id)) 0 }) none) := by
  have read : OnlyQueues s s2 := (readSrc_queues readA).trans (readSrc_queues readB)
  unfold execGstate
  rw [ok_bind (gstate_fields srcA srcB dest), ok_bind readA]
  dsimp only
  rw [ok_bind readB]
  dsimp only
  rw [ensure_bind (decide_eq_true inside), read.ownGalley, ok_bind own, ok_bind (read.firm unparked unstuck),
    ok_bind (galleySettled_free (read.unprobed free)), read.galleyBusy, read.galleyBusy, ← intoIs, ← outIs,
    galley_congr (read.getCore _), refused]
  rfl

theorem execGstate_granted (granted : stateGranted (gState (galley s s.me.core id)) b.toNat into out = true) {s3 s4 : State}
    (entered : s3 = enterState s2 s.me.core id b.toNat) (write : writeDst sd (galley s3 s.me.core id) s3 = .ok s4) :
    execGstate sd sa sb s = .next (retire s4) := by
  have read : OnlyQueues s s2 := (readSrc_queues readA).trans (readSrc_queues readB)
  unfold execGstate
  rw [ok_bind (gstate_fields srcA srcB dest), ok_bind readA]
  dsimp only
  rw [ok_bind readB]
  dsimp only
  rw [ensure_bind (decide_eq_true inside), read.ownGalley, ok_bind own, ok_bind (read.firm unparked unstuck),
    ok_bind (galleySettled_free (read.unprobed free)), read.galleyBusy, read.galleyBusy, ← intoIs, ← outIs,
    galley_congr (read.getCore _), granted]
  rw [entered] at write
  exact congrArg (finish s) (ok_bind write _)

end

/-! ## GSTATE as its statement has it -/

/-- The requests that R95 grants. -/
theorem stateGranted_word {st : Nat} {b : Word} {into out : Bool}
    (asked : b = 0 ∨ (b = 1 ∧ (st = 1 ∨ (st = 2 ∧ into = false) ∨ ((st = 3 ∨ st = 4) ∧ out = false))) ∨
      (b = 2 ∧ (st = 1 ∨ st = 2)) ∨ (b = 3 ∧ (st = 3 ∨ (st = 2 ∧ into = false))) ∨ (b = 4 ∧ (st = 3 ∨ st = 4))) :
    b.toNat ≤ 4 ∧ stateGranted st b.toNat into out = true := by
  obtain rfl | ⟨rfl, empty⟩ | ⟨rfl, filling⟩ | ⟨rfl, full⟩ | ⟨rfl, draining⟩ := asked
  · exact ⟨by decide, rfl⟩
  · refine ⟨by decide, show (st == 1 || (st == 2 && !into) || ((st == 3 || st == 4) && !out)) = true from ?_⟩
    simpa [or_assoc] using empty
  · refine ⟨by decide, show (st == 1 || st == 2) = true from ?_⟩
    simpa using filling
  · refine ⟨by decide, show (st == 3 || (st == 2 && !into)) = true from ?_⟩
    simpa using full
  · refine ⟨by decide, show (st == 3 || st == 4) = true from ?_⟩
    simpa using draining

/-- The requests that R95 does not grant. -/
theorem stateRefused_word {st : Nat} {b : Word} {into out : Bool}
    (asked : (b = 1 ∧ ((st = 2 ∧ into = true) ∨ ((st = 3 ∨ st = 4) ∧ out = true))) ∨ (b = 2 ∧ (st = 3 ∨ st = 4)) ∨
      (b = 3 ∧ (st = 1 ∨ st = 4 ∨ (st = 2 ∧ into = true))) ∨ (b = 4 ∧ (st = 1 ∨ st = 2))) :
    b.toNat ≤ 4 ∧ stateGranted st b.toNat into out = false := by
  obtain ⟨rfl, ⟨rfl, rfl⟩ | ⟨rfl | rfl, rfl⟩⟩ | ⟨rfl, rfl | rfl⟩ | ⟨rfl, rfl | rfl | ⟨rfl, rfl⟩⟩ | ⟨rfl, rfl | rfl⟩ := asked
  all_goals exact ⟨by decide, rfl⟩

theorem enterState_word (s : State) (core id : Nat) (b : Word) : enterState s core id b.toNat =
    if b = 0 then s else if b = 1 then emptyGalley s core id else setGState s core id b.toNat := by
  have zero : b = 0 ↔ b.toNat = 0 := BitVec.toNat_eq
  have one : b = 1 ↔ b.toNat = 1 := BitVec.toNat_eq
  simp only [enterState, zero, one]

/-- The count of a synchronisation word is cleared, or the word stands: its target and its generation stand (R95, R97). -/
theorem syncWord_cleared {w v : Word} {empties : Prop} [Decidable empties] (cleared : v = if empties then putField w 24 24 0 else w) :
    v.toNat % 2 ^ 24 = w.toNat % 2 ^ 24 ∧ v.toNat / 2 ^ 48 = w.toNat / 2 ^ 48 ∧ (empties → v.toNat / 2 ^ 24 % 2 ^ 24 = 0) := by
  by_cases yes : empties
  · rw [if_pos yes] at cleared
    have target : field v 0 24 = field w 0 24 := by
      rw [cleared, field_putField_other _ _ _ _ _ _ (by decide) (by decide)]
    have generation : field v 48 16 = field w 48 16 := by
      rw [cleared, field_putField_other _ _ _ _ _ _ (by decide) (by decide)]
    have count : field v 24 24 = 0 := by
      rw [cleared, field_putField_same _ _ _ _ (by decide), Nat.zero_mod]
    rw [field_eq] at target generation count
    rw [field_eq] at target generation
    have := v.isLt
    have := w.isLt
    exact ⟨by omega, by omega, fun _ => count⟩
  · rw [if_neg yes] at cleared
    subst cleared
    exact ⟨rfl, rfl, fun no => absurd no yes⟩

section

variable {sd : SOp} {s s2 s3 s4 : State} {b : Word} {core : Nat} {id : Fin 32}

/-- What GSTATE leaves of a galley whose state it has changed, and of its word. -/
theorem enterState_result (read : OnlyQueues s s2) (inside : b.toNat ≤ 4) (entered : s3 = enterState s2 core id b.toNat)
    (write : writeDst sd (galley s3 core id) s3 = .ok s4) :
    gState (galley s4 core id) = (if b = 0 then gState (galley s core id) else b.toNat) ∧
    gSize (galley s4 core id) = gSize (galley s core id) ∧ s4.mem = s.mem ∧
    (getCore s4 core).sync[id].toNat % 2 ^ 24 = (getCore s core).sync[id].toNat % 2 ^ 24 ∧
    (getCore s4 core).sync[id].toNat / 2 ^ 48 = (getCore s core).sync[id].toNat / 2 ^ 48 ∧
    (b = 1 → (getCore s4 core).sync[id].toNat / 2 ^ 24 % 2 ^ 24 = 0) := by
  obtain ⟨mem, state, size, sync⟩ := enterState_entered s2 core id.isLt (n := b.toNat) (by omega)
  rw [← entered] at mem state size sync
  have before := galley_congr (read.getCore core) id
  have after := galley_congr (writeDst_getCore write core) id
  have zero : b.toNat = 0 ↔ b = 0 := (BitVec.toNat_eq (x := b) (y := 0)).symm
  have one : b.toNat = 1 ↔ b = 1 := (BitVec.toNat_eq (x := b) (y := 1)).symm
  rw [before] at state size
  rw [read.getCore, vget_eq, vget_eq, ← writeDst_getCore write core] at sync
  simp only [zero] at state
  obtain ⟨target, generation, count⟩ := syncWord_cleared sync
  exact ⟨by rw [after, state], by rw [after, size], (writeDst_mem write).trans (mem.trans read.mem), target, generation,
    fun empties => count (one.2 empties)⟩

end

/-! ## GFREE (R251) -/

theorem galley_undeclare (s : State) (core : Nat) (id : Fin 32) : galley (undeclare s core id) core id = 0 := by
  rw [galley, undeclare, getCore_modCore_same, vget_vset _ _ _ _ _ id.isLt, if_pos rfl]

theorem scratch_undeclare (s : State) (core id : Nat) : (getCore (undeclare s core id) core).scratch = (getCore s core).scratch := by
  rw [undeclare, getCore_modCore_same]

section

variable {sa : SOp} {s s1 : State} {a : Word} {id : Fin 32} (srcA : srcOk sa = true) (readA : readSrc sa s = .ok (a, s1))

include srcA readA

theorem execGfree_foreign {info : Word} (foreign : ownGalley s a = trapOf cHandle info) :
    execGfree sa s = .next (stopAt s (.trap { code := cHandle, info := info }) none) := by
  have fields : legal [sa] [] = .ok ⟨⟩ := (legal_ok ..).2 (by simp [srcA])
  unfold execGfree
  rw [ok_bind fields, ok_bind readA]
  dsimp only
  rw [(readSrc_queues readA).ownGalley, foreign]
  rfl

variable (unparked : anyParked s = false) (unstuck : anyStuck s isMmau = false) (own : ownGalley s a = .ok id.val)
  (free : ∀ h ∈ s.me :: s.rest, accessTo id h = false) {into out : Bool}
  (intoIs : into = galleyBusy s s.me.core id true) (outIs : out = galleyBusy s s.me.core id false)

include unparked unstuck own free intoIs outIs

theorem execGfree_busy (busy : into = true ∨ out = true) : execGfree sa s =
    .next (stopAt s (.trap { code := cGalley, info := galleyInfo id (gState (galley s1 s.me.core id)) 0 }) none) := by
  have fields : legal [sa] [] = .ok ⟨⟩ := (legal_ok ..).2 (by simp [srcA])
  have read := readSrc_queues readA
  unfold execGfree
  rw [ok_bind fields, ok_bind readA]
  dsimp only
  rw [read.ownGalley, ok_bind own, ok_bind (read.firm unparked unstuck), ok_bind (galleySettled_free (read.unprobed free)),
    read.galleyBusy, read.galleyBusy, ← intoIs, ← outIs, if_pos busy]
  rfl

theorem execGfree_idle (idleInto : into = false) (idleOut : out = false) :
    execGfree sa s = .next (retire (undeclare s1 s.me.core id)) := by
  have fields : legal [sa] [] = .ok ⟨⟩ := (legal_ok ..).2 (by simp [srcA])
  have read := readSrc_queues readA
  unfold execGfree
  rw [ok_bind fields, ok_bind readA]
  dsimp only
  rw [read.ownGalley, ok_bind own, ok_bind (read.firm unparked unstuck), ok_bind (galleySettled_free (read.unprobed free)),
    read.galleyBusy, read.galleyBusy, ← intoIs, ← outIs, if_neg (by simp [idleInto, idleOut])]
  rfl

end

/-! ## Synchronisation words (R98, R252, R253) -/

section

variable {sd sa sb : SOp} {g : Fin 8} {s s1 s2 : State} {a b : Word} {id : Fin 32} (srcA : srcOk sa = true) (srcB : srcOk sb = true)
  (readA : readSrc sa s = .ok (a, s1)) (readB : readSrc sb s1 = .ok (b, s2))

include srcA srcB readA readB

theorem execSyncinit_foreign {info : Word} (foreign : ownGalley s a = trapOf cHandle info) :
    execSyncinit sa sb s = .next (stopAt s (.trap { code := cHandle, info := info }) none) := by
  obtain ⟨fields, read⟩ := bothRead srcA srcB readA readB
  unfold execSyncinit
  rw [ok_bind fields, ok_bind readA]
  dsimp only
  rw [ok_bind readB]
  dsimp only
  rw [read.ownGalley, foreign]
  rfl

theorem execSyncinit_writes (unparked : anyParked s = false) (unstuck : anyStuck s isMmau = false) (own : ownGalley s a = .ok id.val) :
    execSyncinit sa sb s = .next (retire (modCore s2 s.me.core fun c => { c with sync := c.sync.set id b })) := by
  obtain ⟨fields, read⟩ := bothRead srcA srcB readA readB
  have word (c : Core) : vset c.sync id b = c.sync.set id b := vset_eq ..
  unfold execSyncinit
  rw [ok_bind fields, ok_bind readA]
  dsimp only
  rw [ok_bind readB]
  dsimp only
  rw [read.ownGalley, ok_bind own, ok_bind (read.firm unparked unstuck)]
  simp only [word]
  rfl

variable (dest : dstOk sd = true) (inside : b.toNat < 2 ^ 16)

include dest inside

/-- A destination that an operation is still to write stops SYNCWAIT first (R87, R282). -/
theorem execSyncwait_dest {e : Stop} (busy : dstReady sd s2 = .error e) :
    execSyncwait sd sa sb g s = .next (stopAt s e (some s.me.r.g[g])) := by
  unfold execSyncwait
  rw [ok_bind (gstate_fields srcA srcB dest), ok_bind readA]
  dsimp only
  rw [ok_bind readB]
  dsimp only
  rw [ensure_bind (decide_eq_true inside), busy]
  rfl

variable (named : a.toNat = id.val) (declared : gState (galley s s.me.core id) ≠ 0) (own : ownGalley s a = .ok id.val)
  (ready : dstReady sd s2 = .ok ⟨⟩) {w : Word} (word : w = (getCore s s.me.core).sync[id])

include named declared own ready word

/-- SYNCWAIT of a galley of the context compares generations (R98, R253). -/
theorem execSyncwait_compares : execSyncwait sd sa sb g s = finishSlot s s.me.r.g[g] (do
    holds (decide ((w.toNat / 2 ^ 48 + 2 ^ 16 - b.toNat) % 2 ^ 16 < 2 ^ 15)) (.sync id)
    let s3 ← writeDst sd w s2
    return retire s3) := by
  obtain ⟨-, read⟩ := bothRead srcA srcB readA readB
  have reads : vget (getCore s2 s.me.core).sync id 0 = w := by rw [read.getCore, vget_eq, word]
  have generation : field w 48 16 = w.toNat / 2 ^ 48 := by
    rw [field_eq]
    omega
  have known : ¬ ((s.me.wait == some (WaitReason.sync a.toNat)) = true ∧ a.toNat < 32 ∧ gState (galley s2 s.me.core a.toNat) = 0) := by
    rw [named, galley_congr (read.getCore _)]
    exact fun ⟨_, _, undeclared⟩ => declared undeclared
  unfold execSyncwait
  rw [ok_bind (gstate_fields srcA srcB dest), ok_bind readA]
  dsimp only
  rw [ok_bind readB]
  dsimp only
  rw [ensure_bind (decide_eq_true inside), ok_bind ready, if_neg known, read.ownGalley, ok_bind own, reads, generation]
  rfl

theorem execSyncwait_reached (reached : (w.toNat / 2 ^ 48 + 2 ^ 16 - b.toNat) % 2 ^ 16 < 2 ^ 15) {s3 : State}
    (write : writeDst sd w s2 = .ok s3) : execSyncwait sd sa sb g s = .next (retire s3) := by
  rw [execSyncwait_compares srcA srcB readA readB dest inside named declared own ready word,
    ok_bind ((holds_ok ..).2 (decide_eq_true reached)), ok_bind write]
  rfl

theorem execSyncwait_waits (early : 2 ^ 15 ≤ (w.toNat / 2 ^ 48 + 2 ^ 16 - b.toNat) % 2 ^ 16) :
    execSyncwait sd sa sb g s = .next (stopAt s (.wait (.sync id)) (some s.me.r.g[g])) := by
  rw [execSyncwait_compares srcA srcB readA readB dest inside named declared own ready word, decide_eq_false (Nat.not_lt.2 early)]
  rfl

end

/-- A destination that can be written has no operation that is still to write it. -/
theorem dstReady_of_write {sd : SOp} {v : Word} {s t : State} (write : writeDst sd v s = .ok t) : dstReady sd s = .ok ⟨⟩ := by
  obtain ⟨n, rfl, free, -⟩ | ⟨k, rfl, free, -, -⟩ := writeDst_cases write
  · exact (useX_ok s n).2 free
  · exact (useQ_ok s k).2 free

/-- What retirement leaves of a hart does not depend on anything else. -/
theorem retire_me_congr {s t : State} (same : s.me = t.me) : (retire s).me = (retire t).me := by
  simp only [retire, same]

/-! ## The obligation -/

/-- Settles O51: each instruction by the checks it makes and by what it leaves of its galley. -/
theorem galleyResults : Obligations.GalleyResults := by
  intro sd sa sb g s s1 s2 a b d id srcA srcB dest readA readB named descriptor mask unparked unstuck
  subst descriptor
  have read : OnlyQueues s s2 := (readSrc_queues readA).trans (readSrc_queues readB)
  refine ⟨fun refused => ⟨_, execGdecl_refused srcA srcB readA readB named mask (badGalley_refused refused)⟩, fun good => ?_,
    fun foreign => ?_, fun declared owner => ?_⟩
  · obtain ⟨state, owner, base, size, kind⟩ := declaredGalley_fields b s.me.ctx
    have galleys (j : Nat) : galley (retire (declareGalley s2 s.me.core id s.me.ctx b)) s.me.core j =
        if j = id then declaredGalley b s.me.ctx else galley s s.me.core j := by
      rw [galley_congr (getCore_retire ..), galley_declareGalley, galley_congr (read.getCore _)]
    have here := (galleys id).trans (if_pos rfl)
    refine ⟨_, execGdecl_declares srcA srcB readA readB named mask unparked unstuck good, retire_me_congr rfl,
      (retire_mem _).trans read.mem, ?_, ?_, ?_, ?_, ?_, ?_,
      fun j other => (galleys j).trans (if_neg fun same => other (Fin.ext same))⟩
    · rw [here, state]
    · rw [here, owner]
    · rw [here, base]
    · rw [here, size]
    · rw [here, kind]
    · rw [getCore_retire]
      exact sync_declareGalley ..
  · have refused := ownGalley_foreign named mask foreign
    exact ⟨fun inside => execGstate_foreign srcA srcB dest readA readB inside refused, execGfree_foreign srcA readA refused,
      execSyncinit_foreign srcA srcB readA readB refused⟩
  · have own := ownGalley_owned named mask declared owner
    refine ⟨fun s3 written => ?_, fun w word inside => ⟨fun reached s3 write => ?_, fun early ready => ?_, fun e busy => ?_⟩,
      execGstate_outside srcA srcB dest readA readB, fun free into out intoIs outIs =>
        ⟨fun asked s3 s4 entered write => ?_, fun asked => ?_, fun idleInto idleOut => ?_, fun busy => ?_⟩⟩
    · rw [written]
      exact execSyncinit_writes srcA srcB readA readB unparked unstuck own
    · exact execSyncwait_reached srcA srcB readA readB dest inside named declared own (dstReady_of_write write) word reached write
    · exact execSyncwait_waits srcA srcB readA readB dest inside named declared own ready word early
    · exact execSyncwait_dest srcA srcB readA readB dest inside busy
    · obtain ⟨inside, granted⟩ := stateGranted_word asked
      rw [← enterState_word] at entered
      exact ⟨execGstate_granted srcA srcB dest readA readB unparked unstuck own free inside intoIs outIs granted entered write,
        enterState_result read inside entered write⟩
    · obtain ⟨inside, refused⟩ := stateRefused_word asked
      exact ⟨_, execGstate_refused srcA srcB dest readA readB unparked unstuck own free inside intoIs outIs refused⟩
    · refine ⟨_, execGfree_idle srcA readA unparked unstuck own free intoIs outIs idleInto idleOut, ?_,
        retire_me_congr rfl, (retire_mem _).trans (readSrc_queues readA).mem, ?_⟩
      · rw [galley_congr (getCore_retire ..), galley_undeclare]
      · rw [getCore_retire, scratch_undeclare, (readSrc_queues readA).getCore]
    · exact ⟨_, execGfree_busy srcA readA unparked unstuck own free intoIs outIs busy⟩

end Sys2Proof.Machine
end

section
/-! PROOF. Copy registers, and what CLAUNCH and COLL share: their checks, their galleys, and what they leave (R83 to R87, R95, R245). -/

namespace Sys2Proof.Machine

/-! ## Copy registers (R84, R245) -/

section

variable {so : SOp} {s s1 : State} {a : Word} (n : Fin 16)

/-- The number of a copy register. -/
theorem toNat_copyReg : (BitVec.ofNat 4 n.val).toNat = n.val := by
  rw [BitVec.toNat_ofNat]
  omega

theorem execCset_writes (source : srcOk so = true) (read : readSrc so s = .ok (a, s1)) : execCset so (BitVec.ofNat 4 n.val) s =
    .next (retire (modRegs s1 fun r => { r with c := r.c.set n a })) := by
  have fields : legal [so] [] = .ok ⟨⟩ := (legal_ok ..).2 (by simp [source])
  have shadow (r : Regs) : vset r.c n.val a = r.c.set n a := vset_eq ..
  unfold execCset
  rw [ok_bind fields, ok_bind read]
  dsimp only
  simp only [toNat_copyReg, shadow]
  rfl

theorem execCget_gives (dest : dstOk so = true) (write : writeDst so s.me.r.c[n] s = .ok s1) :
    execCget so (BitVec.ofNat 4 n.val) s = .next (retire s1) := by
  have fields : legal [] [so] = .ok ⟨⟩ := (legal_ok ..).2 (by simp [dest])
  rw [← vget_eq _ n 0] at write
  unfold execCget
  rw [ok_bind fields, toNat_copyReg, ok_bind write]
  rfl

end

/-! ## What a launch checks (R83, R86, R87) -/

/-- Two branches that go on in the same way, of which the one that is taken succeeds. -/
theorem ok_bind_branch {α β : Type} {c : Prop} [Decidable c] {m m' : Except Stop α} {a : α} (h : (if c then m else m') = .ok a)
    (k : α → Except Stop β) : (if c then m >>= k else m' >>= k) = k a := by
  rw [← ok_bind h k]
  split <;> rfl

section

variable {s : State} (quiet : calm s)

include quiet

theorem calm_tableRoom_few {n : Nat} (few : n ≤ 64) : tableRoom s n = .ok ⟨⟩ := by
  refine (holds_ok ..).2 (decide_eq_true ?_)
  simpa [tableUsed, calm_flights quiet, calm_transfers quiet] using few

/-- Nothing of a hart with nothing outstanding waits for the registers that a copy will write (R91). -/
theorem calm_targetsFree (seq : Nat) (regs : List RegName) : targetsFree s seq regs = useRegs s seq regs := by
  have free : (s.me.flights.any fun f => f.parked && (footprint (lanesOf s.me) f.instr f.env).any regs.contains) = false := by
    simp [calm_flights quiet]
  rw [targetsFree, free]
  rfl

theorem calm_useRegs_nil (seq : Nat) : useRegs s seq [] = .ok ⟨⟩ := by
  simp [useRegs, useParts, wholeBits, calm_flights quiet]

end

/-- A transfer takes at most two entries of the interlock table (R83, R173). -/
theorem twoSpans_few (src dst : Option Span) : ((twoSpans src dst).filter fun x => decide (x.lo < x.hi)).length ≤ 64 := by
  refine (List.length_filter_le ..).trans ?_
  unfold twoSpans
  repeat' split
  all_goals simp

/-- A transfer id as it is written to a register (R87). -/
theorem writeDst_tid {sd : SOp} {tid : BitVec 16} {s t : State} (write : writeDst sd (tid.setWidth 64) s = .ok t) :
    writeDst sd (wordOfNat tid.toNat) s = .ok t := by
  rw [← write, wordOfNat, BitVec.ofNat_toNat]

/-! ## Galleys of a launch (R87, R93, R95) -/

theorem fillGalley_galleys (s : State) (gd : Option Nat) : OnlyGalleys s (fillGalley s gd) := by
  cases gd with
  | none => exact .refl s
  | some id => exact setGState_galleys ..

theorem OnlyGalleys.calm {s t : State} (only : OnlyGalleys s t) (quiet : calm s) : calm t := by
  rw [only.frame]
  exact quiet

/-- A galley into which a launch copies is filling (R95). -/
theorem gState_fillGalley (s : State) {id : Nat} (inside : id < 32) : gState (galley (fillGalley s (some id)) s.me.core id) = 2 := by
  rw [fillGalley, galley_setGState s _ inside]
  exact gState_putState _ (by decide)

section

variable {s : State} {a : Word} {into : Bool}

theorem galleyOf_lt {h id : Nat} (galley : galleyOf h = some id) : id < 32 := by
  unfold galleyOf at galley
  split at galley
  · obtain rfl := Option.some.inj galley
    omega
  · exact absurd galley (by simp)

theorem launchGalley_lt {id : Nat} (launched : launchGalley s a into = .ok (some id)) : id < 32 := by
  unfold launchGalley at launched
  split at launched
  · exact absurd launched (by simp)
  next j named =>
    have same : j = id := by
      dsimp only at launched
      split_ifs at launched <;> simp_all [trapOf]
    exact same ▸ galleyOf_lt named

variable {id : Nat} (named : galleyOf (handleOf a) = some id)

include named

theorem launchGalley_unusable (barred : galleyUsable s s.me.ctx s.me.core s.me.gmask id = false) :
    launchGalley s a into = trapOf cHandle (addrInfo (handleOf a) (if into then 5 else 4) 0 0) := by
  simp [launchGalley, named, barred]

/-- A galley that is empty or filling is no source (R95). -/
theorem launchGalley_unfilled (usable : galleyUsable s s.me.ctx s.me.core s.me.gmask id = true)
    (unfilled : gState (galley s s.me.core id) = 1 ∨ gState (galley s s.me.core id) = 2) :
    launchGalley s a false = trapOf cGalley (galleyInfo id (gState (galley s s.me.core id)) 4) := by
  obtain empty | filling := unfilled
  · simp [launchGalley, named, usable, empty]
  · simp [launchGalley, named, usable, filling]

end

/-! ## What a launch leaves -/

/-- A hart whose launch retires: its transfer is under way and pending, its destination is filling, and memory is as it was. -/
structure Launched (s s1 t : State) (n : Fin 24) (gd : Option Nat) (y : Transfer) : Prop where
  transfers : t.transfers = [y]
  mem : t.mem = s.mem
  tid : t.me.lastTid = y.tid
  pending : pendingX t n = true
  filling : ∀ id, gd = some id → gState (galley t s.me.core id) = 2
  regs : t.me.r = { s1.me.r with
    pc := nextPc s.me.r.pc, retired := s.me.r.retired + 1, armed := false, stick := (retire s).me.r.stick }

section

variable {s s1 : State} {sd : SOp} {v : Word} {gd : Option Nat} (write : writeDst sd v (fillGalley s gd) = .ok s1)

include write

/-- A write of the transfer id changes scalar registers and queues alone. -/
theorem fillWrite_scalars : OnlyScalars (fillGalley s gd) s1 :=
  readWrite_scalars ⟨(fillGalley s gd).me.r.q, (fillGalley s gd).me.popped, rfl⟩ write

/-- The registers of a hart whose launch retires, but for those that hold its results. -/
theorem retire_launchRegs : (retire s1).me.r = { s1.me.r with
    pc := nextPc s.me.r.pc, retired := s.me.r.retired + 1, armed := false, stick := (retire s).me.r.stick } := by
  have me := (fillGalley_galleys s gd).me
  obtain ⟨x, q, p, frame⟩ := fillWrite_scalars write
  have pc : s1.me.r.pc = s.me.r.pc := by rw [frame]; exact congrArg (·.r.pc) me
  have retired : s1.me.r.retired = s.me.r.retired := by rw [frame]; exact congrArg (·.r.retired) me
  have stick : s1.me.r.stick = s.me.r.stick := by rw [frame]; exact congrArg (·.r.stick) me
  rw [retire_r_stick, ← pc, ← retired, ← stick]
  rfl

/-- A launch of a bad descriptor ends at once: its id is taken, and its register holds the status (R86, R246). -/
theorem badLaunch_ends (quiet : calm s) {n : Fin 24} {tid : BitVec 16} (named : n ≠ 0) :
    (retire (endAtOnce s1 tid n 0x19)).transfers = [] ∧
    (retire (endAtOnce s1 tid n 0x19)).mem = s.mem ∧ (retire (endAtOnce s1 tid n 0x19)).me.lastTid = tid ∧
    (retire (endAtOnce s1 tid n 0x19)).me.r = { s1.me.r with
      x := s1.me.r.x.set n (BitVec.ofNat 64 (0x19 + 256 * tid.toNat)), pc := nextPc s.me.r.pc, retired := s.me.r.retired + 1,
      armed := false, stick := (retire s).me.r.stick } := by
  have only := fillGalley_galleys s gd
  obtain ⟨transfers, mem, last, regs⟩ := endAtOnce_retires (only.calm quiet) named (fillWrite_scalars write) (tid := tid) 0x19
  refine ⟨transfers, mem.trans only.mem, last, ?_⟩
  rw [regs, retire_launchRegs write]

/-- A launch begins: its instruction retires in a state whose only transfer is the launched one, with the hart as it counts that one, and
with the cores and the memory that the write of its id has left. -/
theorem launch_begins {u : State} {n : Fin 24} {y : Transfer} {written : List RegName} (named : n ≠ 0) (transfers : u.transfers = [y])
    (own : y.owner = some s.me.hid) (target : y.se = n) (mem : u.mem = s1.mem) (cores : u.cores = s1.cores)
    (me : u.me = (addTransfer (clearLanded s1 written) y true).me)
    (inside : ∀ id, gd = some id → id < 32) : Launched s s1 (retire u) n gd y := by
  have only := fillGalley_galleys s gd
  have scalars := fillWrite_scalars write
  have held : (retire u).transfers = [y] := (retire_transfers u).trans transfers
  have hid : (retire u).me.hid = s.me.hid := by
    rw [retire_me_hid, me]
    exact scalars.hid.trans (congrArg (·.hid) only.me)
  refine ⟨held, (retire_mem u).trans (mem.trans (scalars.mem.trans only.mem)), ?_, ?_, fun id filled => ?_, ?_⟩
  · rw [retire_me_lastTid, me]
    rfl
  · exact pendingX_transfer (held ▸ List.mem_singleton_self y) (own.trans (congrArg some hid.symm)) target named
  · subst filled
    have same : getCore (retire u) s.me.core = getCore (fillGalley s (some id)) s.me.core := by
      rw [getCore_retire, getCore_of_cores cores, writeDst_getCore write]
    rw [galley_congr same]
    exact gState_fillGalley s (inside id rfl)
  · have regs : u.me.r = s1.me.r := by rw [me]; rfl
    have same : (retire u).me.r = (retire s1).me.r := by simp only [retire, regs]
    rw [same, retire_launchRegs write]

/-- With nothing of the hart outstanding the new transfer is the only one. -/
theorem addTransfer_only (quiet : calm s) (regs : List RegName) (y : Transfer) :
    (addTransfer (clearLanded s1 regs) y true).transfers = [y] :=
  congrArg (· ++ [y]) (calm_transfers ((fillWrite_scalars write).calm ((fillGalley_galleys s gd).calm quiet)))

theorem addTransfer_begins {n : Fin 24} {y : Transfer} {regs : List RegName} (named : n ≠ 0) (quiet : calm s)
    (own : y.owner = some s.me.hid) (target : y.se = n) (inside : ∀ id, gd = some id → id < 32) :
    Launched s s1 (retire (addTransfer (clearLanded s1 regs) y true)) n gd y :=
  launch_begins write named (addTransfer_only write quiet regs y) own target rfl rfl rfl inside

end

end Sys2Proof.Machine
end

section
/-! PROOF. CLAUNCH, COLL and CCANCEL of a hart with nothing outstanding (R86, R105, R246 to R248). -/

namespace Sys2Proof.Machine

/-! ## CLAUNCH (R246) -/

/-- The copy that a CLAUNCH launches. -/
def launchedCopy (s : State) (n : Fin 24) (g : Fin 8) (gs gd : Option Nat) : Transfer :=
  newTransfer s .copy (scalarEnv s g) n s.me.r.c (copySpans s (whoMe s) s.me.core s.me.r.c) gs gd

/-- The registers that a copy writes of its hart. -/
def launchedRegs (s : State) (x : Transfer) : List RegName :=
  if cRegs s.me.r.c then copyRegs s.me.r.c (lanesOf s.me) (transferWidth s x) else []

/-- A transfer that writes registers of its hart (R91). -/
def Transfer.writing (x : Transfer) (regs : List RegName) : Transfer := { x with vregs := regs.map (·.2) }

section

variable {sd : SOp} {n : Fin 24} {g : Fin 8} {s s1 : State} {gs gd : Option Nat} {tid : BitVec 16} (quiet : calm s) (dest : dstOk sd = true)
  (named : n ≠ 0) (other : sd ≠ .s n)

include quiet dest named other

/-- A source galley that the launch may not use is the precise fault (R93, R95). -/
theorem execClaunch_source {t : TrapInfo} (reads : cMode_ s.me.r.c ≠ 1)
    (fault : launchGalley s (cw s.me.r.c 0) false = .error (.trap t)) :
    execClaunch sd (.s n) g s = .next (stopAt s (.trap t) (some s.me.r.g[g])) := by
  have fields : legal [] [sd] = .ok ⟨⟩ := (legal_ok ..).2 (by simp [dest])
  unfold execClaunch
  dsimp only
  rw [ok_bind fields, ok_bind (pendingReg_register named other), ok_bind (calm_transferRoom quiet), ok_bind (calm_streamRoom quiet _),
    ok_bind (calm_useX quiet n), if_neg reads, fault]
  rfl

variable (source : (if cMode_ s.me.r.c = 1 then .ok none else launchGalley s (cw s.me.r.c 0) false) = .ok gs)
  (target : (if cRegs s.me.r.c then .ok none else launchGalley s (cw s.me.r.c 1) true) = .ok gd)
  (next : tid = idAfter s.me.lastTid) (write : writeDst sd (tid.setWidth 64) (fillGalley s gd) = .ok s1)

include source target next write

/-- CLAUNCH with nothing of the hart outstanding, once its galleys have passed: it checks its descriptor and the registers that it is to
write. -/
theorem execClaunch_checks : execClaunch sd (.s n) g s = finishSlot s s.me.r.g[g] (
    if badCopy s (whoMe s) s.me.gmask s.me.core (lanesOf s.me) s.me.r.c s.me.r.g[g] true then .ok (retire (endAtOnce s1 tid n 0x19))
    else do
      useRegs s s.me.nextSeq (launchedRegs s (launchedCopy s n g gs gd))
      return retire (addTransfer (clearLanded s1 (launchedRegs s (launchedCopy s n g gs gd)))
        ((launchedCopy s n g gs gd).writing (launchedRegs s (launchedCopy s n g gs gd))) true)) := by
  have fields : legal [] [sd] = .ok ⟨⟩ := (legal_ok ..).2 (by simp [dest])
  have room : tableRoom s ((copySpans s (whoMe s) s.me.core s.me.r.c).filter fun x => decide (x.lo < x.hi)).length = .ok ⟨⟩ :=
    calm_tableRoom_few quiet (twoSpans_few ..)
  unfold execClaunch
  dsimp only
  rw [ok_bind fields, ok_bind (pendingReg_register named other), ok_bind (calm_transferRoom quiet), ok_bind (calm_streamRoom quiet _),
    ok_bind (calm_useX quiet n), ok_bind_branch source, ok_bind_branch target, ok_bind (calm_firm quiet), calm_nextTid quiet, ← next,
    ok_bind (writeDst_tid write), ok_bind room, calm_targetsFree quiet]
  rfl

/-- CLAUNCH of a bad descriptor (R86). -/
theorem execClaunch_bad (bad : badCopy s (whoMe s) s.me.gmask s.me.core (lanesOf s.me) s.me.r.c s.me.r.g[g] true = true) :
    execClaunch sd (.s n) g s = .next (retire (endAtOnce s1 tid n 0x19)) :=
  (execClaunch_checks quiet dest named other source target next write).trans (congrArg (finishSlot s _) (if_pos bad))

/-- CLAUNCH of any other begins its copy (R246). -/
theorem execClaunch_begins (good : badCopy s (whoMe s) s.me.gmask s.me.core (lanesOf s.me) s.me.r.c s.me.r.g[g] true = false)
    (free : cRegs s.me.r.c = true →
      useRegs s s.me.nextSeq (copyRegs s.me.r.c (lanesOf s.me) (transferWidth s (launchedCopy s n g gs gd))) = .ok ⟨⟩) :
    ∃ t, execClaunch sd (.s n) g s = .next t ∧
      Launched s s1 t n gd ((launchedCopy s n g gs gd).writing (launchedRegs s (launchedCopy s n g gs gd))) := by
  have usable : useRegs s s.me.nextSeq (launchedRegs s (launchedCopy s n g gs gd)) = .ok ⟨⟩ := by
    unfold launchedRegs
    split
    next regs => exact free regs
    next => exact calm_useRegs_nil quiet _
  have inside (id : Nat) (filled : gd = some id) : id < 32 := by
    subst filled
    split at target
    · exact absurd target (by simp)
    · exact launchGalley_lt target
  refine ⟨_, ?_, addTransfer_begins write named quiet rfl rfl inside (regs := launchedRegs s (launchedCopy s n g gs gd))⟩
  rw [execClaunch_checks quiet dest named other source target next write, good, if_neg Bool.false_ne_true, ok_bind usable]
  rfl

end

/-! ## A COLL joins its collective (R105, R248) -/

section

variable (s : State) (c : Coll)

theorem abortColl_changes : OnlyColls s (abortColl s c) := by
  cases home : c.home with
  | true => exact abortColl_only s home
  | false =>
    have sent := OnlyColls.of_ports (sendToAll_only s (rankNode s c.comm 0).toList true 1)
    rw [abortColl, if_neg (by rw [home]; exact Bool.false_ne_true)]
    dsimp only
    split
    · exact sent
    · exact sent.trans (setColl_only ..)

variable {s} {c} {comm idx : Nat}

/-- A collective that aborts stands until its participants have been told. -/
theorem abortColl_found (found : findColl s comm idx = some c) : ∃ d, findColl (abortColl s c) comm idx = some d := by
  obtain ⟨first, second⟩ := findColl_name found
  cases home : c.home with
  | true => exact abortColl_keeps found home
  | false =>
    have sent := (findColl_congr (sendToAll_only s (rankNode s c.comm 0).toList true 1).colls comm idx).trans found
    rw [abortColl, if_neg (by rw [home]; exact Bool.false_ne_true)]
    dsimp only
    split
    · exact ⟨c, sent⟩
    · exact ⟨_, findColl_setColl (d := { c with barred := true }) sent first second⟩

/-- A participant that joins changes collectives alone, and its collective is among them. -/
theorem joinColl_joins (s : State) (comm idx n : Nat) (terms : List Nat) : OnlyColls s (joinColl s comm idx n terms) ∧
    ∃ c ∈ (joinColl s comm idx n terms).colls, c.comm = comm ∧ c.index = idx := by
  cases found : findColl s comm idx with
  | none =>
    rw [findColl] at found
    simp only [joinColl, found]
    exact ⟨rfl, _, List.mem_append_right _ (List.mem_singleton_self _), rfl, rfl⟩
  | some c =>
    obtain ⟨first, second⟩ := findColl_name found
    cases agree : termsAgree c.terms terms with
    | true =>
      rw [joinColl_agrees found agree]
      exact ⟨setColl_only .., _, mem_setColl (d := { c with terms := joinTerms c.terms terms }) found first second, first, second⟩
    | false =>
      have aborts : joinColl s comm idx n terms = abortColl s c := by
        rw [findColl] at found
        simp only [joinColl, found, agree, Bool.false_eq_true, if_false]
      obtain ⟨d, kept⟩ := abortColl_found found
      obtain ⟨first', second'⟩ := findColl_name kept
      rw [aborts]
      exact ⟨abortColl_changes s c, d, List.mem_of_find?_eq_some kept, first', second'⟩

end

/-- The only transfer of the machine has the rank of no other participant. -/
theorem sameRank_alone {u : State} {x : Transfer} (one : u.transfers = [x]) : sameRank u x = none := by
  simp [sameRank, one, otherIssuer]

/-- A COLL takes a number on its communicator, and its participant has issued one more (R248). -/
def numberColl (u : State) (x : Transfer) (k : Nat) : State :=
  bumpColl { u with transfers := u.transfers.map fun y => if y.uid = x.uid then { x with index := k } else y }
    (ccomm x.latch) (crank x.latch)

theorem numberColl_alone {u : State} {x : Transfer} (one : u.transfers = [x]) (k : Nat) :
    (numberColl u x k).transfers = [{ x with index := k }] := by
  simp [numberColl, bumpColl, modUnit, one]

/-- A COLL that is alone takes its place in a collective of its communicator (R248). -/
theorem enterColl_enters {u : State} {x : Transfer} (w : Who) (one : u.transfers = [x]) : ∃ k,
    (enterColl u w x).transfers = [{ x with index := k }] ∧ (enterColl u w x).mem = u.mem ∧ (enterColl u w x).cores = u.cores ∧
    (enterColl u w x).me = u.me ∧ ∃ c ∈ (enterColl u w x).colls, c.comm = ccomm x.latch ∧ c.index = k := by
  obtain ⟨k, entered⟩ : ∃ k, enterColl u w x =
      joinColl (numberColl u x k) (ccomm x.latch) k (cranks x.latch) (collTerms u w x.core x.latch) := by
    refine ⟨collCount u (ccomm x.latch) (crank x.latch), ?_⟩
    rw [enterColl, sameRank_alone one]
    rfl
  obtain ⟨only, member⟩ := joinColl_joins (numberColl u x k) (ccomm x.latch) k (cranks x.latch) (collTerms u w x.core x.latch)
  rw [← entered] at only member
  refine ⟨k, only.transfers.trans (numberColl_alone one k), only.mem, ?_, only.me, member⟩
  rw [only]
  rfl

/-! ## COLL (R248) -/

/-- The transfer of a COLL. -/
def launchedColl (s : State) (n : Fin 24) (g : Fin 8) (gs gd : Option Nat) : Transfer :=
  newTransfer s .coll (scalarEnv s g) n s.me.r.c (collSpans s (whoMe s) s.me.core s.me.r.c) gs gd

section

variable {sd : SOp} {n : Fin 24} {g : Fin 8} {s s1 : State} {gs gd : Option Nat} {tid : BitVec 16} {regs : List RegName} (quiet : calm s)
  (dest : dstOk sd = true) (named : n ≠ 0) (other : sd ≠ .s n)
  (source : (if readsSource s.me.r.c then launchGalley s (cw s.me.r.c 0) false else .ok none) = .ok gs)
  (target : (if writesDest s.me.r.c && !cRegs s.me.r.c then launchGalley s (cw s.me.r.c 1) true else .ok none) = .ok gd)
  (next : tid = idAfter s.me.lastTid) (write : writeDst sd (tid.setWidth 64) (fillGalley s gd) = .ok s1)
  (written : regs = collRegs s.me.r.c (lanesOf s.me) (collWidth s (whoMe s) s.me.core s.me.r.c))

include quiet dest named other source target next write

include written in
/-- COLL with nothing of the hart outstanding, once its galleys have passed: it checks its descriptor and the registers that it is to
write. -/
theorem execColl_checks : execColl sd (.s n) g s = finishSlot s s.me.r.g[g] (
    if badColl s (whoMe s) s.me.core (lanesOf s.me) s.me.r.c then .ok (retire (endAtOnce s1 tid n 0x19))
    else do
      useRegs s s.me.nextSeq regs
      return retire (enterColl (addTransfer (clearLanded s1 regs) ((launchedColl s n g gs gd).writing regs) true) (whoMe s)
        ((launchedColl s n g gs gd).writing regs))) := by
  have fields : legal [] [sd] = .ok ⟨⟩ := (legal_ok ..).2 (by simp [dest])
  have few : decide (collsOnDie s (dieOf s.me.core) < 4) = true := by simp [collsOnDie, calm_transfers quiet]
  have room : tableRoom s ((collSpans s (whoMe s) s.me.core s.me.r.c).filter fun x => decide (x.lo < x.hi)).length = .ok ⟨⟩ :=
    calm_tableRoom_few quiet (twoSpans_few ..)
  subst written
  unfold execColl
  dsimp only
  rw [ok_bind fields, ok_bind (pendingReg_register named other), ok_bind (calm_transferRoom quiet), ok_bind (calm_streamRoom quiet _),
    ok_bind (calm_useX quiet n), ok_bind_branch source, ok_bind_branch target, ok_bind (calm_firm quiet), calm_nextTid quiet, ← next,
    ok_bind (writeDst_tid write), ok_bind ((holds_ok ..).2 few), ok_bind room, calm_targetsFree quiet]
  rfl

/-- COLL of a bad descriptor (R86, R248). -/
theorem execColl_bad (bad : badColl s (whoMe s) s.me.core (lanesOf s.me) s.me.r.c = true) :
    execColl sd (.s n) g s = .next (retire (endAtOnce s1 tid n 0x19)) :=
  (execColl_checks quiet dest named other source target next write rfl).trans (congrArg (finishSlot s _) (if_pos bad))

include written in
/-- COLL of any other begins, and takes part in a collective of its communicator (R248). -/
theorem execColl_begins (good : badColl s (whoMe s) s.me.core (lanesOf s.me) s.me.r.c = false)
    (usable : useRegs s s.me.nextSeq regs = .ok ⟨⟩) : ∃ t k, execColl sd (.s n) g s = .next t ∧
      Launched s s1 t n gd { (launchedColl s n g gs gd).writing regs with index := k } ∧
      ∃ c ∈ t.colls, c.comm = ccomm s.me.r.c ∧ c.index = k := by
  have inside (id : Nat) (filled : gd = some id) : id < 32 := by
    subst filled
    split at target
    · exact launchGalley_lt target
    · exact absurd target (by simp)
  obtain ⟨k, transfers, mem, cores, me, member⟩ :=
    enterColl_enters (whoMe s) (addTransfer_only write quiet regs ((launchedColl s n g gs gd).writing regs))
  refine ⟨_, k, ?_, launch_begins write named transfers rfl rfl mem cores me inside, ?_⟩
  · rw [execColl_checks quiet dest named other source target next write written, good, if_neg Bool.false_ne_true, ok_bind usable]
    rfl
  · rw [retire_colls]
    exact member

end

/-! ## CCANCEL (R247) -/

section

variable {sd sa : SOp} {s s1 s2 : State} {a : Word} (source : srcOk sa = true) (dest : dstOk sd = true) (read : readSrc sa s = .ok (a, s1))

include source dest read

/-- An id past 16 bits is the illegal-mode trap (R247). -/
theorem execCcancel_outside (outside : 2 ^ 16 ≤ a.toNat) : execCcancel sd sa s = .next (stopAt s (.trap { code := cMode }) none) := by
  have fields : legal [sa] [sd] = .ok ⟨⟩ := (legal_ok ..).2 (by simp [source, dest])
  unfold execCcancel
  rw [ok_bind fields, ok_bind read]
  dsimp only
  rw [decide_eq_false (Nat.not_lt.2 outside)]
  rfl

variable (unparked : anyParked s = false) (unstuck : anyStuck s isMmau = false) (inside : a.toNat < 2 ^ 16)

include unparked unstuck inside

/-- An id that is not pending. -/
theorem execCcancel_absent (absent : (pendingTransfers s s.me.hid).find? (fun t => t.tid.toNat == a.toNat) = none)
    (write : writeDst sd 0 s1 = .ok s2) : execCcancel sd sa s = .next (retire s2) := by
  have fields : legal [sa] [sd] = .ok ⟨⟩ := (legal_ok ..).2 (by simp [source, dest])
  have only := readSrc_queues read
  unfold execCcancel
  rw [ok_bind fields, ok_bind read]
  dsimp only
  rw [ensure_bind (decide_eq_true inside), ok_bind (only.firm unparked unstuck), only.pendingTransfers, absent]
  dsimp only
  rw [ok_bind write]
  rfl

/-- A pending transfer is cancelled as its kind says. -/
theorem execCcancel_found {t : Transfer} (found : (pendingTransfers s s.me.hid).find? (fun t => t.tid.toNat == a.toNat) = some t)
    (write : writeDst sd (wordOfNat (cancelTransfer s1 t).1) s1 = .ok s2) :
    execCcancel sd sa s = .next (retire (cancelTransfer s2 t).2) := by
  have fields : legal [sa] [sd] = .ok ⟨⟩ := (legal_ok ..).2 (by simp [source, dest])
  have only := readSrc_queues read
  unfold execCcancel
  rw [ok_bind fields, ok_bind read]
  dsimp only
  rw [ensure_bind (decide_eq_true inside), ok_bind (only.firm unparked unstuck), only.pendingTransfers, found]
  dsimp only
  rw [ok_bind write]
  rfl

end

theorem cancelTransfer_copy (s : State) {t : Transfer} (copy : t.kind = .copy) :
    cancelTransfer s t = (1, setTransfer s { t with cancelled := true }) := by
  rw [cancelTransfer, copy]

/-- A move that copies has passed the point at which it can be cancelled (R79, R247). -/
theorem cancelTransfer_copying (s : State) {t : Transfer} (move : t.kind = .move) (copying : t.copying = true) :
    cancelTransfer s t = (0, s) := by
  rw [cancelTransfer, move]
  exact if_pos copying

/-! ## The obligation -/

/-- MODE of a latched descriptor. -/
theorem cMode_eq (l : Vector Word 16) : cMode_ l = l[7].toNat % 4 := by
  rw [cMode_, field_eq, cw, ← vget_getElem l 7 (by decide) 0, Nat.pow_zero, Nat.div_one]
  rfl

/-- Settles O50: a launch of a hart with nothing outstanding ends at once or begins in its own step. -/
theorem copyLaunches : Obligations.CopyLaunches := by
  refine ⟨fun so n s s1 => ⟨fun a source read => execCset_writes n source read, fun dest write => execCget_gives n dest write,
    retire_transfers _⟩, fun sd n g s s1 l tid gs gd x quiet dest named other latch next write => ?_,
    fun sd n g s id quiet dest named other reads galley => ?_, fun sd sa s s1 a source dest read unparked unstuck => ⟨execCcancel_outside source dest read, fun inside o present => ?_⟩⟩
  · subst latch
    have first : s.me.r.c[0] = cw s.me.r.c 0 := vget_getElem ..
    have second : s.me.r.c[1] = cw s.me.r.c 1 := vget_getElem ..
    have ended := badLaunch_ends write quiet (tid := tid) named
    rw [first, second]
    refine ⟨fun source target launched => ?_, fun source target launched => ?_⟩
    · have sameId : x.tid = tid := by rw [launched, next]; exact calm_nextTid quiet
      refine ⟨fun bad => ⟨_, execClaunch_bad quiet dest named other source target next write bad, ended⟩, fun good free => ?_⟩
      rw [launched] at free
      obtain ⟨t, run, transfers, mem, last, pending, filling, regs⟩ :=
        execClaunch_begins quiet dest named other source target next write good free
      have vregs : (launchedRegs s x).map (·.2) =
          if cRegs s.me.r.c then (copyRegs s.me.r.c (lanesOf s.me) (transferWidth s x)).map (·.2) else [] := by
        unfold launchedRegs
        split <;> rfl
      refine ⟨t, run, ?_, by rw [launched]; rfl, sameId, mem, last.trans (by rw [← sameId, launched]; rfl), pending, filling, regs⟩
      rw [transfers, ← vregs, launched]
      rfl
    · have sameId : x.tid = tid := by rw [launched, next]; exact calm_nextTid quiet
      refine ⟨fun bad => ⟨_, execColl_bad quiet dest named other source target next write bad, ended⟩, fun good rs written usable => ?_⟩
      obtain ⟨t, k, run, ⟨transfers, mem, last, pending, filling, regs⟩, member⟩ :=
        execColl_begins quiet dest named other source target next write written good usable
      refine ⟨t, k, run, ?_, by rw [launched]; rfl, sameId, mem, last.trans (by rw [← sameId, launched]; rfl), pending, filling,
        member, regs⟩
      rw [transfers, launched]
      rfl
  · have first : s.me.r.c[0] = cw s.me.r.c 0 := vget_getElem ..
    rw [first] at galley
    rw [← cMode_eq] at reads
    exact ⟨fun barred => ⟨_, execClaunch_source quiet dest named other reads (launchGalley_unusable galley barred)⟩,
      fun usable unfilled => ⟨_, execClaunch_source quiet dest named other reads (launchGalley_unfilled galley usable unfilled)⟩⟩
  · refine ⟨fun s2 absent write => ?_, fun t s2 found copy write => ?_, fun t s2 found move copying write => ?_⟩
    · exact execCcancel_absent source dest read unparked unstuck inside (present.symm.trans absent) write
    · have cancelled := execCcancel_found source dest read unparked unstuck inside (present.symm.trans found) (s2 := s2)
        (by rw [cancelTransfer_copy _ copy]; exact write)
      rwa [cancelTransfer_copy _ copy] at cancelled
    · have cancelled := execCcancel_found source dest read unparked unstuck inside (present.symm.trans found) (s2 := s2)
        (by rw [cancelTransfer_copying _ move copying]; exact write)
      rwa [cancelTransfer_copying _ move copying] at cancelled

end Sys2Proof.Machine
end

section
/-! PROOF. A word that decodes is the word of the instruction it decodes to (R123, R126, R128). -/

namespace Sys2Proof

/-! ## The fields of a word make it up (R123) -/

/-- Two fields side by side are one field. -/
theorem fld_append (w : BitVec 32) {hi lo n m : Nat} (next : hi = lo + n) : fld w hi m ++ fld w lo n = fld w lo (m + n) := by
  subst next
  exact BitVec.extractLsb'_append_extractLsb'_eq_extractLsb' rfl

theorem zero_iff (w : BitVec 32) (lo n : Nat) : zero w lo n = true ↔ fld w lo n = 0#n := beq_iff_eq

section

variable (w : BitVec 32)

theorem rWord_fields : rWord (fld w 25 7) (fld w 20 5) (fld w 15 5) (fld w 10 5) (fld w 5 5) (fld w 0 5) = w := by
  simp (disch := decide) only [rWord, fld_append]
  exact cutAll w

theorem iWord_fields : iWord (fld w 25 7) (fld w 20 5) (fld w 15 5) (fld w 12 3) (fld w 0 12) = w := by
  simp (disch := decide) only [iWord, fld_append]
  exact cutAll w

theorem shWord_fields (op : fld w 25 7 = 0x03#7) (kind : fld w 12 3 = 6#3) (gap : fld w 6 4 = 0#4) :
    shWord (fld w 20 5) (fld w 15 5) (fld w 10 2) (fld w 0 6) = w := by
  rw [shWord, ← op, ← kind, ← gap]
  simp (disch := decide) only [fld_append]
  exact cutAll w

theorem simm_high : (simm w).extractLsb' 7 5 = fld w 20 5 := by
  rw [simm, cutHi _ _ _ _ (by decide)]
  exact cutAll _

theorem simm_low : (simm w).extractLsb' 0 7 = fld w 0 7 := by
  rw [simm, cutLo _ _ _ _ (by decide)]
  exact cutAll _

theorem sWord_fields : sWord (fld w 25 7) (simm w) (fld w 15 5) (fld w 10 5) (fld w 7 3) = w := by
  rw [sWord, simm_high, simm_low]
  simp (disch := decide) only [fld_append]
  exact cutAll w

theorem uWord_fields : uWord (fld w 25 7) (fld w 20 5) (fld w 0 20) = w := by
  simp (disch := decide) only [uWord, fld_append]
  exact cutAll w

theorem amoWord_fields (op : fld w 25 7 = 0x14#7) (low : fld w 0 3 = 0#3) :
    amoWord (fld w 20 5) (fld w 15 5) (fld w 10 5) (fld w 7 3) (fld w 3 4) = w := by
  rw [amoWord, ← op, ← low]
  simp (disch := decide) only [fld_append]
  exact cutAll w

theorem vWord_fields : vWord (fld w 25 7) (fld w 24 1) (fld w 21 3) (fld w 14 7) (fld w 7 7) (fld w 0 7) = w := by
  simp (disch := decide) only [vWord, fld_append]
  exact cutAll w

theorem vmWord_fields :
    vmWord (fld w 25 7) (fld w 24 1) (fld w 21 3) (fld w 14 7) (fld w 9 5) (fld w 4 5) (fld w 0 4) = w := by
  simp (disch := decide) only [vmWord, fld_append]
  exact cutAll w

theorem vmxWord_fields :
    vmxWord (fld w 25 7) (fld w 24 1) (fld w 21 3) (fld w 14 7) (fld w 9 5) (fld w 2 7) (fld w 0 2) = w := by
  simp (disch := decide) only [vmxWord, fld_append]
  exact cutAll w

theorem nopWord_fields (high : fld w 27 5 = 30#5) : nopWord (fld w 0 27) = w := by
  rw [nopWord, ← high]
  exact (fld_append w (lo := 0) (n := 27) rfl).trans (cutAll w)

end

/-! ## The operand codes (R126) -/

theorem SOp.bits_ofBits (b : BitVec 5) : (SOp.ofBits b).bits = b := by
  revert b
  decide

theorem VOp.bits_of_ofBits {b : BitVec 7} {o : VOp} (h : VOp.ofBits b = some o) : b = o.bits := by
  have all : ∀ b : BitVec 7, ∀ o ∈ VOp.ofBits b, b = o.bits := by decide
  exact all b o h

@[simp] theorem bits_sop (w : BitVec 32) (lo : Nat) : (sop w lo).bits = fld w lo 5 := SOp.bits_ofBits _

@[simp] theorem slotBits_slot (w : BitVec 32) (lo : Nat) : slotBits (slot w lo) = fld w lo 3 := rfl

@[simp] theorem dBits_dbit (w : BitVec 32) : dBits (dbit w) = fld w 24 1 := by
  have all : ∀ b : BitVec 1, dBits (b == 1#1) = b := by decide
  exact all _

/-- A slot number in fx[2:0], under two bits that must be zero (R126). -/
theorem fx3_slot {w : BitVec 32} (high : fld w 8 2 = 0#2) : fx3 (slot w 5) = fld w 5 5 := by
  rw [fx3, ← high]
  exact fld_append w (lo := 5) (n := 3) rfl

/-- A copy-register number in fx[3:0], under a bit that must be zero (R126). -/
theorem fx4_fld {w : BitVec 32} (high : fld w 9 1 = 0#1) : fx4 (fld w 5 4) = fld w 5 5 := by
  rw [fx4, ← high]
  exact fld_append w (lo := 5) (n := 4) rfl

/-! ## What the decoder accepts is encoded by the word it read -/

/-- The instruction that a reading of a word gives, if any, is well formed and is encoded by that word. -/
def Faithful (w : BitVec 32) (r : Except DecodeError Instr) : Prop :=
  ∀ i, r = .ok i → wellFormed i = true ∧ encodeWord i = some w

section

variable {w : BitVec 32}

theorem faithful_error {e : DecodeError} : Faithful w (.error e) := fun _ h => nomatch h

theorem faithful_ok {i : Instr} {x : BitVec 32} (wf : wellFormed i = true) (enc : encodeWord i = some x) (same : x = w) :
    Faithful w (.ok i) := by
  intro j h
  cases h
  exact ⟨wf, enc.trans (congrArg some same)⟩

theorem faithful_need {ok : Bool} {r : Except DecodeError Instr} (h : ok = true → Faithful w r) : Faithful w (need ok r) := by
  cases ok
  · exact faithful_error
  · exact h rfl

/-! ### The formats of the scalar, copy and system instructions -/

/-- A word of the R format (R123): its fields are those that the encoder puts in. -/
theorem faithful_r {ok : Bool} {i : Instr} {op : BitVec 7} {sd sa sb fx fn : BitVec 5} (wf : wellFormed i = true)
    (enc : encodeWord i = some (rWord op sd sa sb fx fn)) (hop : (fld w 25 7).toNat = op.toNat) (hfn : (fld w 0 5).toNat = fn.toNat)
    (fields : ok = true → fld w 20 5 = sd ∧ fld w 15 5 = sa ∧ fld w 10 5 = sb ∧ fld w 5 5 = fx) : Faithful w (need ok (.ok i)) :=
  faithful_need fun z => by
    obtain ⟨rfl, rfl, rfl, rfl⟩ := fields z
    obtain rfl := BitVec.eq_of_toNat_eq hop
    obtain rfl := BitVec.eq_of_toNat_eq hfn
    exact faithful_ok wf enc (rWord_fields w)

/-- A word of the I format (R123). -/
theorem faithful_i {ok : Bool} {i : Instr} {op : BitVec 7} {sd sa : BitVec 5} {f3 : BitVec 3} {imm : BitVec 12}
    (wf : wellFormed i = true) (enc : encodeWord i = some (iWord op sd sa f3 imm)) (hop : (fld w 25 7).toNat = op.toNat)
    (hf3 : ok = true → (fld w 12 3).toNat = f3.toNat)
    (fields : ok = true → fld w 20 5 = sd ∧ fld w 15 5 = sa ∧ fld w 0 12 = imm) : Faithful w (need ok (.ok i)) :=
  faithful_need fun z => by
    obtain ⟨rfl, rfl, rfl⟩ := fields z
    obtain rfl := BitVec.eq_of_toNat_eq hop
    obtain rfl := BitVec.eq_of_toNat_eq (hf3 z)
    exact faithful_ok wf enc (iWord_fields w)

/-- A word of the I format with no field that must be zero. -/
theorem faithful_i_all {i : Instr} {op : BitVec 7} {sd sa : BitVec 5} {f3 : BitVec 3} {imm : BitVec 12}
    (wf : wellFormed i = true) (enc : encodeWord i = some (iWord op sd sa f3 imm)) (hop : (fld w 25 7).toNat = op.toNat)
    (hf3 : (fld w 12 3).toNat = f3.toNat) (fields : fld w 20 5 = sd ∧ fld w 15 5 = sa ∧ fld w 0 12 = imm) : Faithful w (.ok i) :=
  faithful_i (ok := true) wf enc hop (fun _ => hf3) fun _ => fields

/-- A word of the AMO format (R123). -/
theorem faithful_amo {i : Instr} {fn : BitVec 4} (wf : wellFormed i = true)
    (enc : encodeWord i = some (amoWord (sop w 20).bits (sop w 15).bits (sop w 10).bits (slotBits (slot w 7)) fn)) (op : (fld w 25 7).toNat = 0x14)
    (hfn : (fld w 3 4).toNat = fn.toNat) : Faithful w (need (zero w 0 3) (.ok i)) :=
  faithful_need fun z => by
    obtain rfl := BitVec.eq_of_toNat_eq hfn
    rw [bits_sop, bits_sop, bits_sop, slotBits_slot] at enc
    exact faithful_ok wf enc (amoWord_fields w (BitVec.eq_of_toNat_eq op) ((zero_iff w 0 3).1 z))

/-- A shift by an immediate (R127, R133). -/
theorem faithful_shift {i : Instr} {kind : BitVec 2} (wf : wellFormed i = true)
    (enc : encodeWord i = some (shWord (sop w 20).bits (sop w 15).bits kind (fld w 0 6))) (op : (fld w 25 7).toNat = 0x03)
    (f3 : (fld w 12 3).toNat = 6) (hkind : (fld w 10 2).toNat = kind.toNat) : Faithful w (need (zero w 6 4) (.ok i)) :=
  faithful_need fun z => by
    obtain rfl := BitVec.eq_of_toNat_eq hkind
    rw [bits_sop, bits_sop] at enc
    exact faithful_ok wf enc (shWord_fields w (BitVec.eq_of_toNat_eq op) (BitVec.eq_of_toNat_eq f3) ((zero_iff w 6 4).1 z))

/-- A word of the S format (R123). -/
theorem faithful_s {i : Instr} {op : BitVec 7} (wf : wellFormed i = true)
    (enc : encodeWord i = some (sWord op (simm w) (sop w 15).bits (sop w 10).bits (slotBits (slot w 7))))
    (hop : (fld w 25 7).toNat = op.toNat) : Faithful w (.ok i) := by
  obtain rfl := BitVec.eq_of_toNat_eq hop
  rw [bits_sop, bits_sop, slotBits_slot] at enc
  exact faithful_ok wf enc (sWord_fields w)

/-- A word of the U or the J format (R123). -/
theorem faithful_u {i : Instr} {op : BitVec 7} (wf : wellFormed i = true)
    (enc : encodeWord i = some (uWord op (sop w 20).bits (fld w 0 20))) (hop : (fld w 25 7).toNat = op.toNat) : Faithful w (.ok i) := by
  obtain rfl := BitVec.eq_of_toNat_eq hop
  rw [bits_sop] at enc
  exact faithful_ok wf enc (uWord_fields w)

/-! ### The formats of the vector instructions -/

/-- A word of the V format (R123). -/
theorem faithful_v3 {k : VOp → VOp → VOp → Instr} {op : BitVec 7} {d : BitVec 1}
    (wf : ∀ vd va vb, wellFormed (k vd va vb) = true)
    (enc : ∀ vd va vb, encodeWord (k vd va vb) = some (vWord op d (slotBits (slot w 21)) vd.bits va.bits vb.bits))
    (hop : (fld w 25 7).toNat = op.toNat) (hd : fld w 24 1 = d) : Faithful w (v3 w k) := by
  unfold v3
  split
  case h_1 vd va vb hvd hva hvb =>
    refine faithful_ok (wf ..) (enc ..) ?_
    rw [← VOp.bits_of_ofBits hvd, ← VOp.bits_of_ofBits hva, ← VOp.bits_of_ofBits hvb, ← hd, ← BitVec.eq_of_toNat_eq hop]
    exact vWord_fields w
  case h_2 => exact faithful_error

/-- A word of the VU format: a V word whose last field is fn7 (R123). -/
theorem faithful_v2 {k : VOp → VOp → Instr} {op : BitVec 7} {d : BitVec 1} {fn : BitVec 7}
    (wf : ∀ vd va, wellFormed (k vd va) = true)
    (enc : ∀ vd va, encodeWord (k vd va) = some (vWord op d (slotBits (slot w 21)) vd.bits va.bits fn))
    (hop : (fld w 25 7).toNat = op.toNat) (hd : fld w 24 1 = d) (hfn : (fld w 0 7).toNat = fn.toNat) : Faithful w (v2 w k) := by
  unfold v2
  split
  case h_1 vd va hvd hva =>
    refine faithful_ok (wf ..) (enc ..) ?_
    rw [← VOp.bits_of_ofBits hvd, ← VOp.bits_of_ofBits hva, ← hd, ← BitVec.eq_of_toNat_eq hop, ← BitVec.eq_of_toNat_eq hfn]
    exact vWord_fields w
  case h_2 => exact faithful_error

/-- A word of the VU format with one operand: va must be zero (R123, R126). -/
theorem faithful_v1 {k : VOp → Instr} {op : BitVec 7} {d : BitVec 1} {fn : BitVec 7} (wf : ∀ vd, wellFormed (k vd) = true)
    (enc : ∀ vd, encodeWord (k vd) = some (vWord op d (slotBits (slot w 21)) vd.bits 0 fn)) (hop : (fld w 25 7).toNat = op.toNat)
    (hd : fld w 24 1 = d) (hva : fld w 7 7 = 0) (hfn : (fld w 0 7).toNat = fn.toNat) : Faithful w (v1 w k) := by
  unfold v1
  split
  case h_1 vd hvd =>
    refine faithful_ok (wf ..) (enc ..) ?_
    rw [← VOp.bits_of_ofBits hvd, ← hva, ← hd, ← BitVec.eq_of_toNat_eq hop, ← BitVec.eq_of_toNat_eq hfn]
    exact vWord_fields w
  case h_2 => exact faithful_error

/-- A word of the VM format (R123). -/
theorem faithful_vm {k : VOp → Instr} {d : BitVec 1} {sb : BitVec 5} {fn : BitVec 4} (wf : ∀ vd, wellFormed (k vd) = true)
    (enc : ∀ vd, encodeWord (k vd) = some (vmWord 0x60 d (slotBits (slot w 21)) vd.bits (sop w 9).bits sb fn))
    (op : (fld w 25 7).toNat = 0x60) (hd : fld w 24 1 = d) (hsb : fld w 4 5 = sb) (hfn : (fld w 0 4).toNat = fn.toNat) :
    Faithful w (v1 w k) := by
  unfold v1
  split
  case h_1 vd hvd =>
    refine faithful_ok (wf ..) (enc ..) ?_
    rw [← VOp.bits_of_ofBits hvd, bits_sop, ← hd, ← hsb, ← BitVec.eq_of_toNat_eq hfn]
    rw [show 0x60 = fld w 25 7 from (BitVec.eq_of_toNat_eq op).symm]
    exact vmWord_fields w
  case h_2 => exact faithful_error

/-- A word of the VMX format (R123). -/
theorem faithful_vmx {k : VOp → VOp → Instr} {op : BitVec 7} {fn : BitVec 2} (wf : ∀ vd vi, wellFormed (k vd vi) = true)
    (enc : ∀ vd vi, encodeWord (k vd vi) =
      some (vmxWord op (dBits (dbit w)) (slotBits (slot w 21)) vd.bits (sop w 9).bits vi.bits fn))
    (hop : (fld w 25 7).toNat = op.toNat) (hfn : (fld w 0 2).toNat = fn.toNat) : Faithful w (vx w k) := by
  unfold vx
  split
  case h_1 vd vi hvd hvi =>
    refine faithful_ok (wf ..) (enc ..) ?_
    rw [← VOp.bits_of_ofBits hvd, ← VOp.bits_of_ofBits hvi, bits_sop, dBits_dbit, ← BitVec.eq_of_toNat_eq hop,
      ← BitVec.eq_of_toNat_eq hfn]
    exact vmxWord_fields w
  case h_2 => exact faithful_error

/-! ### Opcode by opcode (R127) -/

theorem decodeOp01_faithful (op : (fld w 25 7).toNat = 0x01) : Faithful w (decodeOp01 w) := by
  unfold decodeOp01
  split
  case h_18 => exact faithful_error
  all_goals next fn => exact faithful_r rfl rfl op fn (by simp [zero_iff])

theorem decodeOp02_faithful (op : (fld w 25 7).toNat = 0x02) : Faithful w (decodeOp02 w) := by
  unfold decodeOp02
  split
  case h_8 => exact faithful_error
  all_goals next fn => exact faithful_r rfl rfl op fn (by simp [zero_iff])

theorem decodeOp03_faithful (op : (fld w 25 7).toNat = 0x03) : Faithful w (decodeOp03 w) := by
  unfold decodeOp03
  split
  case h_7 f3 =>
    split
    case h_4 => exact faithful_error
    all_goals next kind => exact faithful_shift rfl rfl op f3 kind
  case h_8 => exact faithful_error
  all_goals next f3 => exact faithful_i_all rfl rfl op f3 (by simp)

theorem decodeOp06_faithful (op : (fld w 25 7).toNat = 0x06) : Faithful w (decodeOp06 w) := by
  unfold decodeOp06
  split
  case h_4 => exact faithful_error
  all_goals next fn => exact faithful_r rfl rfl op fn (by simp [zero_iff])

theorem decodeOp14_faithful (op : (fld w 25 7).toNat = 0x14) : Faithful w (decodeOp14 w) := by
  unfold decodeOp14
  split
  case h_11 => exact faithful_error
  all_goals next fn => exact faithful_amo rfl rfl op fn

theorem decodeOp18_faithful (op : (fld w 25 7).toNat = 0x18) : Faithful w (decodeOp18 w) := by
  unfold decodeOp18
  split
  case h_7 => exact faithful_error
  all_goals next f3 => exact faithful_i_all rfl rfl op f3 (by simp)

theorem decodeOp1B_faithful (op : (fld w 25 7).toNat = 0x1B) : Faithful w (decodeOp1B w) := by
  unfold decodeOp1B
  split
  case h_1 fn =>
    refine faithful_need fun z => ?_
    split
    · next level => exact faithful_r (ok := true) (by simpa [wellFormed] using level) rfl op fn (by simpa [zero_iff] using z)
    · exact faithful_error
  case h_2 fn => exact faithful_r rfl rfl op fn (by simp [zero_iff, and_assoc])
  case h_3 fn =>
    refine faithful_need fun z => ?_
    split
    · next level => exact faithful_r (ok := true) (by simpa [wellFormed] using level) rfl op fn (by simpa [zero_iff] using z)
    · exact faithful_error
  case h_4 => exact faithful_error

theorem decodeOp1C_faithful (op : (fld w 25 7).toNat = 0x1C) : Faithful w (decodeOp1C w) := by
  unfold decodeOp1C
  split
  case h_3 => exact faithful_error
  all_goals next fn => exact faithful_r rfl rfl op fn (by simp +contextual [zero_iff, fx3_slot])

theorem decodeOp1E_faithful (op : (fld w 25 7).toNat = 0x1E) : Faithful w (decodeOp1E w) := by
  unfold decodeOp1E
  split
  case h_5 => exact faithful_error
  all_goals next fn => exact faithful_r rfl rfl op fn (by simp +contextual [zero_iff, fx3_slot])

theorem decodeOp1F_faithful (op : (fld w 25 7).toNat = 0x1F) : Faithful w (decodeOp1F w) := by
  unfold decodeOp1F
  split
  case h_3 => exact faithful_error
  all_goals next f3 => exact faithful_i rfl rfl op (fun _ => f3) (by simp [zero_iff])

theorem decodeOp20_faithful (op : (fld w 25 7).toNat = 0x20) : Faithful w (decodeOp20 w) := by
  unfold decodeOp20
  split
  case h_4 => exact faithful_error
  all_goals next fn => exact faithful_r rfl rfl op fn (by simp +contextual [zero_iff, fx3_slot])

theorem decodeOp59_faithful (op : (fld w 25 7).toNat = 0x59) : Faithful w (decodeOp59 w) := by
  unfold decodeOp59
  split
  case h_14 fn =>
    exact faithful_need fun z => faithful_v2 (fun _ _ => rfl) (fun _ _ => rfl) op ((zero_iff w 24 1).1 z) fn
  case h_15 => exact faithful_error
  all_goals next fn => exact faithful_v2 (fun _ _ => rfl) (fun _ _ => rfl) op (dBits_dbit w).symm fn

theorem decodeOp5A_faithful (op : (fld w 25 7).toNat = 0x5A) : Faithful w (decodeOp5A w) := by
  unfold decodeOp5A
  split
  case h_4 => exact faithful_error
  all_goals next fn => exact faithful_v2 (fun _ _ => rfl) (fun _ _ => rfl) op (dBits_dbit w).symm fn

theorem decodeOp5F_faithful (op : (fld w 25 7).toNat = 0x5F) : Faithful w (decodeOp5F w) := by
  unfold decodeOp5F
  split
  case h_1 fn | h_2 fn => exact faithful_v2 (fun _ _ => rfl) (fun _ _ => rfl) op (dBits_dbit w).symm fn
  case h_3 fn | h_4 fn =>
    exact faithful_need fun z => faithful_v1 (fun _ => rfl) (fun _ => rfl) op (dBits_dbit w).symm ((zero_iff w 7 7).1 z) fn
  case h_5 => exact faithful_error

theorem decodeOp60_faithful (op : (fld w 25 7).toNat = 0x60) : Faithful w (decodeOp60 w) := by
  unfold decodeOp60
  split
  case h_2 fn | h_5 fn | h_8 fn | h_10 fn =>
    exact faithful_vm (fun _ => rfl) (fun _ => rfl) op (dBits_dbit w).symm (bits_sop w 4).symm fn
  case h_4 fn =>
    refine faithful_need fun z => ?_
    rw [Bool.and_eq_true, zero_iff, zero_iff] at z
    exact faithful_vm (fun _ => rfl) (fun _ => rfl) op z.1 z.2 fn
  case h_11 => exact faithful_error
  all_goals next fn =>
    exact faithful_need fun z => faithful_vm (fun _ => rfl) (fun _ => rfl) op (dBits_dbit w).symm ((zero_iff w 4 5).1 z) fn

theorem decodeOp61_faithful (op : (fld w 25 7).toNat = 0x61) : Faithful w (decodeOp61 w) := by
  unfold decodeOp61
  split
  case h_1 fn => exact faithful_vmx (fun _ _ => rfl) (fun _ _ => rfl) op fn
  case h_2 => exact faithful_error

theorem decodeOp62_faithful (op : (fld w 25 7).toNat = 0x62) : Faithful w (decodeOp62 w) := by
  unfold decodeOp62
  split
  case h_1 fn => exact faithful_vmx (fun _ _ => rfl) (fun _ _ => rfl) op fn
  case h_2 => exact faithful_error

theorem decodeOp63_faithful (op : (fld w 25 7).toNat = 0x63) : Faithful w (decodeOp63 w) := by
  unfold decodeOp63
  split
  case h_4 => exact faithful_error
  all_goals next fn => exact faithful_vmx (fun _ _ => rfl) (fun _ _ => rfl) op fn

theorem decodeOp6E_faithful (op : (fld w 25 7).toNat = 0x6E) : Faithful w (decodeOp6E w) := by
  unfold decodeOp6E
  split
  case h_3 fn =>
    refine faithful_need fun z => ?_
    rw [Bool.and_eq_true, zero_iff, zero_iff] at z
    exact faithful_v1 (fun _ => rfl) (fun _ => rfl) op z.1 z.2 fn
  case h_5 => exact faithful_error
  all_goals next fn => exact faithful_v2 (fun _ _ => rfl) (fun _ _ => rfl) op (dBits_dbit w).symm fn

theorem decodeOp6F_faithful (op : (fld w 25 7).toNat = 0x6F) : Faithful w (decodeOp6F w) := by
  unfold decodeOp6F
  split
  case h_5 => exact faithful_error
  all_goals next fn =>
    exact faithful_need fun z => faithful_v2 (fun _ _ => rfl) (fun _ _ => rfl) op ((zero_iff w 24 1).1 z) fn

theorem decodeOp70_faithful (op : (fld w 25 7).toNat = 0x70) : Faithful w (decodeOp70 w) := by
  unfold decodeOp70
  split
  case h_6 => exact faithful_error
  all_goals next fn => exact faithful_r rfl rfl op fn (by simp +contextual [zero_iff, fx3_slot, fx4_fld])

theorem decodeOp71_faithful (op : (fld w 25 7).toNat = 0x71) : Faithful w (decodeOp71 w) := by
  unfold decodeOp71
  split
  case h_6 => exact faithful_error
  all_goals next fn => exact faithful_r rfl rfl op fn (by simp +contextual [zero_iff, fx3_slot])

theorem decodeOp72_faithful (op : (fld w 25 7).toNat = 0x72) : Faithful w (decodeOp72 w) := by
  unfold decodeOp72
  split
  case h_4 => exact faithful_error
  all_goals next fn => exact faithful_r rfl rfl op fn (by simp +contextual [zero_iff, fx3_slot])

theorem decodeOp74_faithful (op : (fld w 25 7).toNat = 0x74) : Faithful w (decodeOp74 w) := by
  unfold decodeOp74
  split
  case h_8 fn => exact faithful_r (ok := true) rfl rfl op fn (by simp)
  case h_11 => exact faithful_error
  all_goals next fn => exact faithful_r rfl rfl op fn (by simp +contextual [zero_iff, fx3_slot])

/-- The upper five bits of a word are those of its opcode. -/
theorem fld_above (w : BitVec 32) : (fld w 27 5).toNat = (fld w 25 7).toNat / 4 := by
  simp only [fld, BitVec.extractLsb'_toNat, Nat.shiftRight_eq_div_pow]
  omega

/-- A no-op, whose other bits are free (R128). -/
theorem faithful_nop (op : (fld w 25 7).toNat / 4 = 30) : Faithful w (.ok (.nop (fld w 0 27))) :=
  faithful_ok rfl rfl (nopWord_fields w (BitVec.eq_of_toNat_eq ((fld_above w).trans op)))

/-- What the decoder reads from a word is encoded by that word, opcode by opcode (R127). -/
theorem decode_faithful : Faithful w (decode w) := by
  unfold decode
  split
  case h_1 op => exact decodeOp01_faithful op
  case h_2 op => exact decodeOp02_faithful op
  case h_3 op => exact decodeOp03_faithful op
  case h_4 op | h_5 op | h_20 op => exact faithful_u rfl rfl op
  case h_6 op => exact decodeOp06_faithful op
  case h_7 op | h_8 op | h_9 op | h_10 op | h_11 op | h_12 op | h_13 op | h_24 op =>
    exact faithful_i_all rfl rfl op rfl (by simp)
  case h_14 op | h_15 op | h_16 op | h_17 op => exact faithful_s rfl rfl op
  case h_18 op => exact decodeOp14_faithful op
  case h_19 op => exact decodeOp18_faithful op
  case h_21 op => exact faithful_i rfl rfl op (fun z => congrArg BitVec.toNat ((zero_iff w 12 3).1 z)) (by simp)
  case h_22 op => exact decodeOp1B_faithful op
  case h_23 op => exact decodeOp1C_faithful op
  case h_25 op => exact decodeOp1E_faithful op
  case h_26 op => exact decodeOp1F_faithful op
  case h_27 op => exact decodeOp20_faithful op
  case h_46 op =>
    exact faithful_need fun z => faithful_v3 (fun _ _ _ => rfl) (fun _ _ _ => rfl) op ((zero_iff w 24 1).1 z)
  case h_53 op => exact decodeOp59_faithful op
  case h_54 op => exact decodeOp5A_faithful op
  case h_59 op => exact decodeOp5F_faithful op
  case h_60 op => exact decodeOp60_faithful op
  case h_61 op => exact decodeOp61_faithful op
  case h_62 op => exact decodeOp62_faithful op
  case h_63 op => exact decodeOp63_faithful op
  case h_69 op =>
    exact faithful_need fun z => faithful_v2 (fun _ _ => rfl) (fun _ _ => rfl) op (dBits_dbit w).symm
      (congrArg BitVec.toNat ((zero_iff w 0 7).1 z))
  case h_70 op => exact decodeOp6E_faithful op
  case h_71 op => exact decodeOp6F_faithful op
  case h_72 op => exact decodeOp70_faithful op
  case h_73 op => exact decodeOp71_faithful op
  case h_74 op => exact decodeOp72_faithful op
  case h_75 op => exact decodeOp74_faithful op
  case h_76 op | h_77 op | h_78 op | h_79 op => exact faithful_nop (by rw [op])
  case h_80 => exact faithful_error
  all_goals next op => exact faithful_v3 (fun _ _ _ => rfl) (fun _ _ _ => rfl) op (dBits_dbit w).symm

end

/-- Settles O3: the decoder answers no instruction but one whose fields make up the word. -/
theorem encodeOfDecode : Obligations.EncodeOfDecode := fun _ i decoded => decode_faithful i decoded

end Sys2Proof
end

section
/-! PROOF. Words written out from the encoding tables, and the opcodes that R128 leaves unassigned or free (R123 to R128). -/

namespace Sys2Proof

/-- Settles O1: the decoder, run on each word. -/
theorem decodesWords : Obligations.DecodesWords := ⟨rfl, rfl, rfl, rfl, rfl, rfl, rfl, rfl⟩

/-- The opcode of a word is what its upper seven bits hold. -/
theorem opcode_shift (w : BitVec 32) : (w >>> 25).toNat = (fld w 25 7).toNat := by
  simp only [fld, BitVec.extractLsb'_toNat, BitVec.toNat_ushiftRight, Nat.shiftRight_eq_div_pow]
  omega

/-- The opcodes that R128 lists as illegal. -/
def unassigned : List Nat :=
  [0x00, 0x07, 0x0F, 0x15, 0x16, 0x17, 0x21, 0x22, 0x23, 0x24, 0x25, 0x26, 0x27, 0x28, 0x29,
      0x2A, 0x2B, 0x2C, 0x2D, 0x2E, 0x2F, 0x30, 0x31, 0x32, 0x33, 0x34, 0x35, 0x36, 0x37, 0x38, 0x39, 0x3A, 0x3B, 0x3C, 0x3D, 0x3E,
      0x3F, 0x64, 0x65, 0x66, 0x67, 0x73, 0x75, 0x76, 0x77, 0x7C, 0x7D, 0x7E, 0x7F]

/-- No arm of the decoder is for an opcode that R128 lists as illegal. -/
theorem decode_unassigned {w : BitVec 32} (listed : (fld w 25 7).toNat ∈ unassigned) : decode w = .error .reservedOpcode := by
  unfold decode
  split
  case h_80 => rfl
  all_goals next op => exact absurd (op ▸ listed) (by decide)

/-- The four opcodes of the no-ops are an arm of the decoder each, with every other bit free (R128). -/
theorem decode_nop {w : BitVec 32} (high : w.extractLsb' 27 5 = 0b11110#5) : decode w = .ok (.nop (fld w 0 27)) := by
  have above : (w.extractLsb' 27 5).toNat = 30 := congrArg BitVec.toNat high
  have opcode : (fld w 25 7).toNat = 0x78 ∨ (fld w 25 7).toNat = 0x79 ∨ (fld w 25 7).toNat = 0x7A ∨ (fld w 25 7).toNat = 0x7B := by
    have := fld_above w
    rw [fld, above] at this
    omega
  unfold decode
  obtain op | op | op | op := opcode
  all_goals
    rw [op]
    rfl

/-- A word that does not decode takes the precise illegal-instruction trap (R126, R128). -/
theorem execIllegalInstruction_traps {w : BitVec 32} {e : DecodeError} (refused : decode w = .error e) (s : Machine.State) :
    Machine.execIllegalInstruction w s = .next (Machine.stopAt s (.trap { code := 1 }) none) := by
  rw [Machine.execIllegalInstruction, refused]
  rfl

/-- Settles O4: the opcodes by the arms of the decoder. -/
theorem unassignedOpcodes : Obligations.UnassignedOpcodes := by
  refine ⟨fun w listed => ?_, fun w s high => ⟨_, decode_nop high, rfl⟩⟩
  have refused := decode_unassigned (opcode_shift w ▸ listed)
  exact ⟨refused, execIllegalInstruction_traps refused⟩

end Sys2Proof
end

section
/-! PROOF. The source and destination fields of scalar instructions (R110, R111, R130). -/

namespace Sys2Proof.Machine

/-! ## Sources (R130) -/

section

variable {s : State}

theorem readSrc_register {n : Fin 24} (named : n ≠ 0) (free : pendingX s n = false) : readSrc (.s n) s = .ok (s.me.r.x[n], s) := by
  rw [readSrc, ok_bind ((useX_ok s n).2 free), if_neg (Fin.val_ne_zero_iff.2 named)]
  rfl

/-- An instruction that has popped an entry before it waited finds it again (R111). -/
theorem popQ_held {k : Fin 8} {v : Word} {rest : List (Nat × Word)} (held : s.me.popped = (k.val, v) :: rest) :
    popQ k s = .ok (v, modMe s fun h => { h with popped := rest }) := by
  have found : s.me.popped.find? (fun e => e.1 == k.val) = some (k.val, v) := by rw [held]; exact List.find?_cons_of_pos (by simp)
  rw [popQ, found]
  simp only [modMe, held, List.erase_cons_head]

section

variable {k : Fin 8} (fresh : ∀ e ∈ s.me.popped, e.1 ≠ k.val)

include fresh

theorem popQ_queue : popQ k s = match s.me.r.q[k] with
    | [] => .error (.wait (.queueEmpty k))
    | v :: rest => .ok (v, modRegs s fun r => { r with q := r.q.set k rest }) := by
  have none_ : s.me.popped.find? (fun e => e.1 == k.val) = none := List.find?_eq_none.2 (by simpa using fresh)
  rw [popQ, none_]
  rfl

/-- The head of a queue is popped, and no other queue changes. -/
theorem popQ_head {v : Word} {rest : List Word} (head : s.me.r.q[k] = v :: rest) :
    ∃ t, popQ k s = .ok (v, t) ∧ t = { s with me := t.me } ∧ t.me = { s.me with r := t.me.r } ∧
      t.me.r = { s.me.r with q := t.me.r.q } ∧ t.me.r.q[k] = rest ∧ ∀ j : Fin 8, j ≠ k → t.me.r.q[j] = s.me.r.q[j] := by
  refine ⟨modRegs s fun r => { r with q := r.q.set k rest }, (popQ_queue fresh).trans (by rw [head]), rfl, rfl, rfl,
    Vector.getElem_set_self _, fun j other => ?_⟩
  exact Vector.getElem_set_ne k.isLt j.isLt fun same => other (Fin.ext same.symm)

theorem popQ_empty (empty : s.me.r.q[k] = []) : popQ k s = .error (.wait (.queueEmpty k)) := by
  rw [popQ_queue fresh, empty]

end

/-! ## Destinations (R130) -/

theorem writeDst_zero (v : Word) : writeDst (.s 0) v s = .ok s := by
  rw [writeDst, ok_bind ((useX_ok s 0).2 (pendingX_zero s))]
  rfl

theorem writeDst_register {n : Fin 24} (named : n ≠ 0) (free : pendingX s n = false) (v : Word) :
    writeDst (.s n) v s = .ok (modRegs s fun r => { r with x := r.x.set n v }) := by
  rw [writeDst, ok_bind ((useX_ok s n).2 free)]
  simp only [setX_register _ named]
  rfl

section

variable {k : Fin 8} (free : pendingQ s k = false)

include free

theorem pushQ_room (room : s.me.r.q[k].length < queueDepth k.val) (v : Word) :
    pushQ k v s = .ok (modRegs s fun r => { r with q := r.q.set k (r.q[k] ++ [v]) }) := by
  have open_ : roomQ k s = .ok ⟨⟩ := if_neg (by omega)
  rw [pushQ, ok_bind ((useQ_ok s k).2 free), ok_bind open_]
  rfl

theorem pushQ_full (full : queueDepth k.val ≤ s.me.r.q[k].length) (v : Word) : pushQ k v s = .error (.full k s.me.r.q) := by
  have closed : roomQ k s = .error (.full k s.me.r.q) := if_pos full
  rw [pushQ, ok_bind ((useQ_ok s k).2 free), closed]
  rfl

end

/-! ## Fields that an instruction may not name (R110, R130) -/

theorem legal_illegal {srcs dsts : List SOp} (bad : (srcs.all srcOk && dsts.all dstOk) = false) :
    legal srcs dsts = .error (.trap { code := 1 }) := by
  rw [legal, bad]
  rfl

/-- q0 to q3 and q6 are no sources, q4, q5 and q7 no destinations (R110). -/
theorem fields_illegal {srcs dsts : List SOp}
    (named : (∃ k : Fin 8, SOp.q k ∈ srcs ∧ (k.val ≤ 3 ∨ k.val = 6)) ∨
      ∃ k : Fin 8, SOp.q k ∈ dsts ∧ (k.val = 4 ∨ k.val = 5 ∨ k.val = 7)) : (srcs.all srcOk && dsts.all dstOk) = false := by
  rw [Bool.and_eq_false_iff, List.all_eq_false, List.all_eq_false]
  obtain ⟨k, mem, which⟩ | ⟨k, mem, which⟩ := named
  · refine .inl ⟨_, mem, ?_⟩
    simp only [srcOk, Bool.or_eq_true, beq_iff_eq]
    omega
  · refine .inr ⟨_, mem, ?_⟩
    simp only [dstOk, Bool.or_eq_true, beq_iff_eq, decide_eq_true_eq]
    omega

section

variable {srcs dsts : List SOp} (bad : legal srcs dsts = .error (.trap { code := 1 }))

include bad

theorem finish_illegal (k : PUnit → Except Stop State) :
    finish s (legal srcs dsts >>= k) = .next (stopAt s (.trap { code := 1 }) none) := by
  rw [bad]
  rfl

theorem finishSlot_illegal (slot : Word) (k : PUnit → Except Stop State) :
    finishSlot s slot (legal srcs dsts >>= k) = .next (stopAt s (.trap { code := 1 }) none) := by
  rw [bad]
  exact finishSlot_trap s slot _ (by decide)

/-- Every scalar instruction looks at its fields first. -/
theorem exec_illegal {i : Instr} (fields : scalarFields i = some (srcs, dsts)) :
    exec i s = .next (stopAt s (.trap { code := 1 }) none) := by
  cases i
  all_goals cases fields
  case ldb.refl | ldh.refl | ldw.refl | ldd.refl | ldbu.refl | ldhu.refl | ldwu.refl | stb.refl | sth.refl | stw.refl | std.refl |
      setvlw.refl | proof.refl => exact finishSlot_illegal bad _ _
  all_goals exact finish_illegal bad _

end

end

/-- Settles O11: each kind of field by what a read or a write of it does, and illegal fields by the check that comes first. -/
theorem scalarOperands : Obligations.ScalarOperands :=
  ⟨fun _ => ⟨rfl, fun _ => readSrc_register, fun _ _ _ => popQ_held, fun _ _ _ fresh head => popQ_head fresh head,
      fun _ fresh empty => popQ_empty fresh empty⟩,
    fun _ v => ⟨writeDst_zero v, fun _ named free => writeDst_register named free v, fun _ free room => pushQ_room free room v,
      fun _ free full => pushQ_full free full v⟩,
    fun _ _ _ _ fields named => exec_illegal (legal_illegal (fields_illegal named)) fields⟩

end Sys2Proof.Machine
end

section
/-! PROOF. The immediate, constant and object-address instructions (R124, R131, R133 to R135). -/

namespace Sys2Proof.Machine

section

variable {sd sa sb : SOp} {s s1 s2 s3 : State} {a b : Word}

/-! ## Immediates (R133) -/

/-- An instruction of one source and one destination that nothing stops retires with its value (R130). -/
theorem scalar1_retires {f : Word → Word} (source : srcOk sa = true) (dest : dstOk sd = true) (read : readSrc sa s = .ok (a, s1))
    (write : writeDst sd (f a) s1 = .ok s2) : scalar1 sd sa f s = .next (retire s2) := by
  have fields : legal [sa] [sd] = .ok ⟨⟩ := (legal_ok ..).2 (by simp [source, dest])
  rw [scalar1, ok_bind fields, ok_bind read]
  dsimp only
  rw [ok_bind write]
  rfl

/-- Each immediate instruction is an instruction of one source, with its value of that and of imm12 sign-extended (R124, R133). -/
theorem exec_immediateOps {e : (SOp → SOp → BitVec 12 → Instr) × (Word → Word → Word)} (he : e ∈ immediateOps) (sd sa : SOp)
    (imm : BitVec 12) (s : State) : exec (e.1 sd sa imm) s = scalar1 sd sa (fun a => e.2 a (imm.signExtend 64)) s := by
  have less (a b : Word) : boolW (a.slt b) = if a.toInt < b.toInt then 1 else 0 := by simp [boolW, BitVec.slt]
  have below (a b : Word) : boolW (a.ult b) = if a.toNat < b.toNat then 1 else 0 := by simp [boolW, BitVec.ult]
  simp only [immediateOps, List.mem_cons, List.not_mem_nil, or_false] at he
  obtain rfl | rfl | rfl | rfl | rfl | rfl := he
  case inr.inr.inr.inr.inl => simp only [← less]; rfl
  case inr.inr.inr.inr.inr => simp only [← below]; rfl
  all_goals rfl

/-- Each shift by an immediate is an instruction of one source (R133). -/
theorem exec_shiftOps {e : (SOp → SOp → BitVec 6 → Instr) × (Word → BitVec 6 → Word)} (he : e ∈ shiftOps) (sd sa : SOp)
    (n : BitVec 6) (s : State) : exec (e.1 sd sa n) s = scalar1 sd sa (fun a => e.2 a n) s := by
  simp only [shiftOps, List.mem_cons, List.not_mem_nil, or_false] at he
  obtain rfl | rfl | rfl := he <;> rfl

/-! ## Addresses (R131, R134, R135) -/

/-- The value of the upper immediate is its 32-bit value, signed (R134). -/
theorem intOf_highPart (imm : BitVec 20) : intOf (highPart imm) = (imm ++ 0#12).toInt :=
  BitVec.toInt_signExtend_of_le (by decide)

/-- A base and a displacement whose sum stays within an object form an address (R131). -/
theorem effAddr_forms {base : Word} {d off : Int} (hoff : off = (base.toNat % 2 ^ 44 : Nat) + d) (low : 0 ≤ off) (high : off < 2 ^ 44) :
    effAddr base d = .ok (BitVec.ofNat 64 (base.toNat / 2 ^ 44 * 2 ^ 44 + off.toNat)) := by
  rw [effAddr_inside (by rw [offsetOf_eq]; omega) (by rw [offsetOf_eq]; omega), offsetOf_eq, hoff]

/-- A base and a displacement whose sum leaves an object are ADDRFORM (R131). -/
theorem effAddr_addrForm {base : Word} {d off : Int} (hoff : off = (base.toNat % 2 ^ 44 : Nat) + d) (out : off < 0 ∨ 2 ^ 44 ≤ off) :
    ∃ info, effAddr base d = .error (.trap { code := 6, info := info }) :=
  ⟨_, effAddr_outside (by rw [offsetOf_eq]; omega) 0⟩

/-- OBJ reads both its sources, then forms their address (R135). -/
theorem execObj_reads (sources : srcOk sa = true ∧ srcOk sb = true) (dest : dstOk sd = true) (readA : readSrc sa s = .ok (a, s1))
    (readB : readSrc sb s1 = .ok (b, s2)) :
    execObj sd sa sb s = finish s (do let t ← effAddr a b.toInt; let s3 ← writeDst sd t s2; return retire s3) := by
  have fields : legal [sa, sb] [sd] = .ok ⟨⟩ := (legal_ok ..).2 (by simp [sources, dest])
  rw [execObj, ok_bind fields, ok_bind readA]
  dsimp only
  rw [ok_bind readB]
  rfl

/-- PCHI forms its address from the pc (R134). -/
theorem execPchi_reads (imm : BitVec 20) (dest : dstOk sd = true) :
    execPchi sd imm s =
      finish s (do let t ← effAddr s.me.r.pc (imm ++ 0#12).toInt; let s3 ← writeDst sd t s; return retire s3) := by
  have fields : legal [] [sd] = .ok ⟨⟩ := (legal_ok ..).2 (by simp [dest])
  rw [execPchi, ok_bind fields, intOf_highPart]

section

variable {base : Word} {d off : Int} (hoff : off = (base.toNat % 2 ^ 44 : Nat) + d)

include hoff

/-- An address that is formed is written, and the instruction retires. -/
theorem formed_retires (low : 0 ≤ off) (high : off < 2 ^ 44)
    (write : writeDst sd (BitVec.ofNat 64 (base.toNat / 2 ^ 44 * 2 ^ 44 + off.toNat)) s2 = .ok s3) :
    finish s (do let t ← effAddr base d; let s3 ← writeDst sd t s2; return retire s3) = .next (retire s3) := by
  rw [ok_bind (effAddr_forms hoff low high), ok_bind write]
  rfl

/-- An address that is not formed stops the instruction with nothing done. -/
theorem unformed_stops (out : off < 0 ∨ 2 ^ 44 ≤ off) :
    ∃ info, finish s (do let t ← effAddr base d; let s3 ← writeDst sd t s2; return retire s3) =
      .next (stopAt s (.trap { code := 6, info := info }) none) := by
  obtain ⟨info, failed⟩ := effAddr_addrForm hoff out
  exact ⟨info, by rw [failed]; rfl⟩

end

theorem execLih_retires (imm : BitVec 20) (dest : dstOk sd = true)
    (write : writeDst sd ((imm ++ 0#12 : BitVec 32).signExtend 64) s = .ok s3) : execLih sd imm s = .next (retire s3) := by
  have fields : legal [] [sd] = .ok ⟨⟩ := (legal_ok ..).2 (by simp [dest])
  have write : writeDst sd (highPart imm) s = .ok s3 := write
  rw [execLih, ok_bind fields, ok_bind write]
  rfl

/-- The information word of an address fault holds the handle (R306). -/
theorem addrInfo_handle {handle : Nat} (small : handle < 2 ^ 20) : (addrInfo handle 0 0 0).toNat % 2 ^ 20 = handle := by
  simp only [addrInfo, wordOfNat, BitVec.toNat_ofNat]
  omega

section

variable (sources : srcOk sa = true ∧ srcOk sb = true) (dest : dstOk sd = true) (readA : readSrc sa s = .ok (a, s1))
  (readB : readSrc sb s1 = .ok (b, s2))

include sources dest readA readB

/-- OBJH joins a handle and an offset that are in range (R135). -/
theorem execObjh_retires (handle : a.toNat < 2 ^ 20) (offset : b.toNat < 2 ^ 44)
    (write : writeDst sd (BitVec.ofNat 64 (a.toNat * 2 ^ 44 + b.toNat)) s2 = .ok s3) : execObjh sd sa sb s = .next (retire s3) := by
  have fields : legal [sa, sb] [sd] = .ok ⟨⟩ := (legal_ok ..).2 (by simp [sources, dest])
  have inRange : ¬ (2 ^ 20 ≤ a.toNat ∨ 2 ^ 44 ≤ b.toNat) := by omega
  have write : writeDst sd (wordOfNat (a.toNat * 2 ^ 44 + b.toNat)) s2 = .ok s3 := write
  rw [execObjh, ok_bind fields, ok_bind readA]
  dsimp only
  rw [ok_bind readB]
  dsimp only
  rw [if_neg inRange, ok_bind write]
  rfl

/-- OBJH of a handle or an offset out of range is ADDRFORM, which names a handle that is one (R306, log 92). -/
theorem execObjh_addrForm (out : 2 ^ 20 ≤ a.toNat ∨ 2 ^ 44 ≤ b.toNat) :
    ∃ info, execObjh sd sa sb s = .next (stopAt s (.trap { code := 6, info := info }) none) ∧
      (a.toNat < 2 ^ 20 → info.toNat % 2 ^ 20 = a.toNat) := by
  have fields : legal [sa, sb] [sd] = .ok ⟨⟩ := (legal_ok ..).2 (by simp [sources, dest])
  refine ⟨if a.toNat < 2 ^ 20 then addrInfo a.toNat 0 0 0 else 0, ?_, fun small => ?_⟩
  · rw [execObjh, ok_bind fields, ok_bind readA]
    dsimp only
    rw [ok_bind readB]
    dsimp only
    rw [if_pos out]
    rfl
  · rw [if_pos small, addrInfo_handle small]

end

end

/-- Settles O14: each instruction by what it reads, the address or the value that it forms, and what it writes. -/
theorem immediatesAndAddresses : Obligations.ImmediatesAndAddresses := by
  refine ⟨⟨fun e he sd sa imm s s1 s2 a source dest read write => ?_, fun e he sd sa n s s1 s2 a source dest read write => ?_⟩,
    fun sd sa sb imm s s1 s2 a b srcA srcB dest readA readB => ⟨fun off hoff => ?_, fun pc off hpc hoff => ?_⟩,
    fun sd sa sb imm s s1 s2 a b srcA srcB dest readA readB => ⟨fun s3 write => execLih_retires imm dest write, ?_, ?_, ?_⟩⟩
  · exact (exec_immediateOps he ..).trans (scalar1_retires source dest read write)
  · exact (exec_shiftOps he ..).trans (scalar1_retires source dest read write)
  · have reads : exec (.obj sd sa sb) s = _ := execObj_reads ⟨srcA, srcB⟩ dest readA readB
    rw [reads]
    exact ⟨fun low high s3 write => formed_retires hoff low high write, unformed_stops hoff⟩
  · subst hpc
    have reads : exec (.pchi sd imm) s = _ := execPchi_reads imm dest
    rw [reads]
    exact ⟨fun low high s3 write => formed_retires hoff low high write, unformed_stops hoff⟩
  · exact fun handle offset s3 write => execObjh_retires ⟨srcA, srcB⟩ dest readA readB handle offset write
  · intro out
    have arm : exec (.objh sd sa sb) s = execObjh sd sa sb s := rfl
    rw [arm]
    exact execObjh_addrForm ⟨srcA, srcB⟩ dest readA readB out
  · intro s3 write
    rw [← offsetOf_eq] at write
    exact scalar1_retires (f := fun a => wordOfNat (offsetOf a)) srcA dest readA write

end Sys2Proof.Machine
end

section
/-! PROOF. The words of an open stick body, and what a body may not hold (R128, R144, R145). -/

namespace Sys2Proof.Machine

/-! ## Words that are passed over (R144) -/

/-- A test of the levels up to one of the six, on the registers of each. -/
theorem any_levels {p : Nat → Bool} {q : Fin 6 → Prop} {lvl : Nat} (few : lvl ≤ 5) (each : ∀ l : Fin 6, p l.val = true ↔ q l) :
    (List.range (lvl + 1)).any p = true ↔ ∃ l : Fin 6, l.val ≤ lvl ∧ q l := by
  simp only [List.any_eq_true, List.mem_range, Nat.lt_succ_iff]
  constructor
  · rintro ⟨l, below, holds⟩
    exact ⟨⟨l, by omega⟩, below, (each ⟨l, by omega⟩).1 holds⟩
  · rintro ⟨l, below, holds⟩
    exact ⟨l, below, (each l).2 holds⟩

/-- The word at position j is limited to the first iteration of an inner level that is past it, or to the last of one that is not there
yet (R144). -/
def limited (k : Stick) (j : Nat) : Prop :=
  (k.firsts.getLsbD j = true ∧ ∃ l : Fin 6, l.val ≤ k.flagLvl.toNat ∧ k.index[l] ≠ 0) ∨
    (k.lasts.getLsbD j = true ∧ ∃ l : Fin 6, l.val ≤ k.flagLvl.toNat ∧ k.index[l].toNat + 1 ≠ k.count[l].toNat)

theorem skipped_iff {k : Stick} (few : k.flagLvl.toNat ≤ 5) (j : Nat) : skipped k j = true ↔ limited k j := by
  have index (l : Fin 6) : k.indexOf l.val = k.index[l].toNat := congrArg BitVec.toNat (vget_getElem ..).symm
  have count (l : Fin 6) : k.countOf l.val = k.count[l].toNat := congrArg BitVec.toNat (vget_getElem ..).symm
  have past (l : Fin 6) : (k.indexOf l.val != 0) = true ↔ k.index[l] ≠ 0 := by
    rw [bne_iff_ne, index, ne_eq, ne_eq, ← BitVec.toNat_inj]
    rfl
  have early (l : Fin 6) : (k.indexOf l.val + 1 != k.countOf l.val) = true ↔ k.index[l].toNat + 1 ≠ k.count[l].toNat := by
    rw [bne_iff_ne, index, count]
  rw [skipped, Bool.or_eq_true, Bool.and_eq_true, Bool.and_eq_true, any_levels few past, any_levels few early]
  rfl

section

variable {s : State} {w : BitVec 32} (isOpen : s.me.r.stick.active = true)

/-- STICKEND is never passed over. -/
theorem bodyStop_stickend (s : State) : bodyStop 0x36000001#32 s = none := by
  rw [bodyStop]
  exact if_pos (by simp)

include isOpen

/-- What an open body does with a word that is not STICKEND (R144, R145). -/
theorem bodyStop_open (other : w ≠ 0x36000001#32) : bodyStop w s =
    if 64 ≤ s.me.r.stick.pos.toNat then
      match decode w with
      | .ok _ => some (stopAt s (.trap { code := 0x17 }) none)
      | .error _ => none
    else if skipped s.me.r.stick s.me.r.stick.pos.toNat then
      some { s with me := { s.me with wait := none, r := { s.me.r with
        pc := nextPc s.me.r.pc, stick := { s.me.r.stick with pos := s.me.r.stick.pos + 1 } } } }
    else none := by
  have runs : ¬ (!s.me.r.stick.active || w == 0x36000001#32) = true := by simp [isOpen, other]
  have next : stickNext s.me.r.stick = { s.me.r.stick with pos := s.me.r.stick.pos + 1 } := if_pos isOpen
  rw [bodyStop]
  dsimp only
  rw [if_neg runs, next]
  rfl

theorem bodyStop_tooLong (long : 64 ≤ s.me.r.stick.pos.toNat) (other : w ≠ 0x36000001#32) {i : Instr} (decoded : decode w = .ok i) :
    bodyStop w s = some (stopAt s (.trap { code := 0x17 }) none) := by
  rw [bodyStop_open isOpen other, if_pos long, decoded]

theorem bodyStop_illegal (long : 64 ≤ s.me.r.stick.pos.toNat) {e : DecodeError} (refused : decode w = .error e) :
    bodyStop w s = none := by
  have other : w ≠ 0x36000001#32 := fun same => nomatch (same ▸ refused : decode 0x36000001#32 = .error e)
  rw [bodyStop_open isOpen other, if_pos long, refused]

theorem bodyStop_skips (few : s.me.r.stick.flagLvl.toNat ≤ 5) (short : s.me.r.stick.pos.toNat < 64) (other : w ≠ 0x36000001#32)
    (skips : limited s.me.r.stick s.me.r.stick.pos.toNat) :
    bodyStop w s = some { s with me := { s.me with wait := none, r := { s.me.r with
        pc := nextPc s.me.r.pc, stick := { s.me.r.stick with pos := s.me.r.stick.pos + 1 } } } } := by
  rw [bodyStop_open isOpen other, if_neg (by omega), if_pos ((skipped_iff few _).2 skips)]

theorem bodyStop_runs (few : s.me.r.stick.flagLvl.toNat ≤ 5) (short : s.me.r.stick.pos.toNat < 64)
    (runs : ¬ limited s.me.r.stick s.me.r.stick.pos.toNat) : bodyStop w s = none := by
  by_cases last : w = 0x36000001#32
  · rw [last, bodyStop_stickend]
  · rw [bodyStop_open isOpen last, if_neg (by omega), if_neg fun skips => runs ((skipped_iff few _).1 skips)]

/-! ## What a body may not hold (R145) -/

theorem noBody_open : noBody s = .error (.trap { code := 0x17 }) := by
  rw [noBody, isOpen]
  rfl

/-- A branch, a jump or SETVLX whose fields are legal takes the stick fault next. -/
theorem finish_fields_open {srcs dsts : List SOp} (fields : srcs.all srcOk = true ∧ dsts.all dstOk = true)
    (k : PUnit → Except Stop State) :
    finish s (legal srcs dsts >>= fun _ => noBody s >>= k) = .next (stopAt s (.trap { code := 0x17 }) none) := by
  rw [ok_bind ((legal_ok ..).2 fields), noBody_open isOpen]
  rfl

theorem finish_open (k : PUnit → Except Stop State) :
    finish s (noBody s >>= k) = .next (stopAt s (.trap { code := 0x17 }) none) := by
  rw [noBody_open isOpen]
  rfl

theorem execStick_open (n : Fin 24) {fx : BitVec 5} (level : fx.toNat < 6) :
    execStick (.s n) fx s = .next (stopAt s (.trap { code := 0x17 }) none) := by
  have inRange : ensure (decide (fx.toNat ≤ 5)) cIllegal = .ok ⟨⟩ := (ensure_ok ..).2 (decide_eq_true (by omega))
  rw [execStick, walkerOf, ok_bind rfl, ok_bind inRange, noBody_open isOpen]
  rfl

theorem execLoop_open {sa sb : SOp} {fx : BitVec 5} (fields : [sa, sb].all srcOk = true) (level : fx.toNat < 8)
    (lasts : fx = 7 → sb = .s 0) : execLoop sa sb fx s = .next (stopAt s (.trap { code := 0x17 }) none) := by
  have inRange : ensure (decide (fx.toNat ≤ 7) && (fx.toNat != 7 || sb == .s 0)) cIllegal = .ok ⟨⟩ := by
    rw [ensure_ok, Bool.and_eq_true, Bool.or_eq_true]
    refine ⟨decide_eq_true (by omega), ?_⟩
    by_cases seven : fx = 7
    · exact .inr (by rw [lasts seven]; rfl)
    · exact .inl (bne_iff_ne.2 fun same => seven (BitVec.eq_of_toNat_eq same))
  rw [execLoop, ok_bind ((legal_ok ..).2 ⟨fields, rfl⟩)]
  dsimp only
  rw [ok_bind inRange, noBody_open isOpen]
  rfl

theorem execEndHart_open (closed : s.me.r.strip.isOpen = false) :
    execEndHart s = .next (stopAt s (.trap { code := 0x17 }) none) := by
  have noStrip : ensure (!s.me.r.strip.isOpen) cStripState = .ok ⟨⟩ := (ensure_ok ..).2 (by rw [closed]; rfl)
  rw [execEndHart, ok_bind noStrip, noBody_open isOpen]

/-- What an open body may not reach takes the stick fault once its fields are legal (R145). -/
theorem exec_bodyForbids {i : Instr} (forbidden : bodyForbids i = true) (wf : wellFormed i = true)
    (closed : s.me.r.strip.isOpen = false) (walker : ∀ q fx, i ≠ .stick (.q q) fx)
    (lasts : ∀ sa sb fx, i = .loop sa sb fx → fx = 7 → sb = .s 0)
    (fields : ∀ srcs dsts, scalarFields i = some (srcs, dsts) → srcs.all srcOk = true ∧ dsts.all dstOk = true) :
    exec i s = .next (stopAt s (.trap { code := 0x17 }) none) := by
  unfold bodyForbids at forbidden
  split at forbidden
  case h_10 sa fx =>
    cases sa with
    | s n => exact execStick_open isOpen n (of_decide_eq_true wf)
    | q k => exact absurd rfl (walker k fx)
  case h_11 sa sb fx => exact execLoop_open isOpen (fields _ _ rfl).1 (of_decide_eq_true wf) (lasts sa sb fx rfl)
  case h_12 => exact execEndHart_open isOpen closed
  case h_13 | h_14 => exact finish_open isOpen _
  case h_15 => exact absurd forbidden (by decide)
  all_goals exact finish_fields_open isOpen (fields _ _ rfl) _

end

end Sys2Proof.Machine

namespace Sys2Proof

open Machine in
/-- Settles O19: the words of an open body by what it does with each, and what it may not hold by the check that each makes. -/
theorem stickWords : Obligations.StickWords := by
  refine ⟨?_, fun i s forbidden wf isOpen closed walker lasts fields =>
    exec_bodyForbids isOpen forbidden wf closed walker lasts fields⟩
  intro s w k isOpen few
  refine ⟨?_, ?_, ?_, ?_, bodyStop_stickend s⟩
  · exact fun long other ⟨i, decoded⟩ => bodyStop_tooLong isOpen long other decoded
  · exact fun long ⟨e, refused⟩ => bodyStop_illegal isOpen long refused
  · exact fun short other skips => bodyStop_skips isOpen few short other skips
  · exact fun short first last => bodyStop_runs isOpen few short (not_or.2 ⟨first, last⟩)

end Sys2Proof
end

section
/-! PROOF. SETVL, SETVLX and VLMAX; SETMODE, GETMODE and SETFORME (R113 to R121, R147, R149). -/

namespace Sys2Proof.Machine

/-! ## Element types (R114) -/

/-- The width of an element type is the one that its table gives. -/
theorem etypeBits_table {e : Nat × Nat} (he : e ∈ etypeTable) : etypeBits e.1 = some e.2 := by
  have all : ∀ e ∈ etypeTable, etypeBits e.1 = some e.2 := by decide
  exact all e he

/-- The element types that have a width are those of the table. -/
theorem etypeBits_isSome {t : Nat} (small : t < 32) : (etypeBits t).isSome = true ↔ ∃ e ∈ etypeTable, t = e.1 := by
  have all : ∀ t < 32, (etypeBits t).isSome = true ↔ ∃ e ∈ etypeTable, t = e.1 := by decide
  exact all t small

theorem slotEtype_eq (x : Word) : slotEtype x = x.toNat % 32 := by
  rw [slotEtype, field_eq, Nat.pow_zero, Nat.div_one]
  rfl

/-! ## Vector length (R116, R147) -/

theorem noBody_closed {s : State} (closed : s.me.r.stick.active = false) : noBody s = .ok ⟨⟩ := (ensure_ok ..).2 (by rw [closed]; rfl)

/-- VLMAX of a slot: F x L x 512 bytes over the element width (R116). -/
theorem vlmax_eq (h : Hart) (x : Word) {e : Nat × Nat} (he : e ∈ etypeTable) (type : x.toNat % 32 = e.1) :
    vlmax (lanesOf h) x = 2 ^ (x.toNat / 2 ^ 37 % 8) * (32 / 2 ^ h.nh) * 4096 / e.2 := by
  rw [vlmax, vlmaxBits, slotF, field_eq, lanesOf, Nat.shiftRight_eq_div_pow, slotEbits, slotEtype_eq, type, etypeBits_table he]
  rfl

section

variable {sd sa : SOp} {g : Fin 8} {s s1 s2 : State} {a : Word} {limit : Nat} (dest : dstOk sd = true) (source : srcOk sa = true)
  (read : readSrc sa s = .ok (a, s1))

include dest source read

theorem execSetvl_sets (hlimit : vlmax (lanesOf s.me) s.me.r.g[g] = limit)
    (write : writeDst sd (BitVec.ofNat 64 (Nat.min a.toNat limit)) s1 = .ok s2) : execSetvl sd sa g s =
      .next (retire (modRegs s2 fun r => { r with vl := BitVec.ofNat 64 (Nat.min a.toNat limit), vstart := 0 })) := by
  have fields : legal [sa] [sd] = .ok ⟨⟩ := (legal_ok ..).2 (by simp [source, dest])
  subst hlimit
  rw [execSetvl, ok_bind fields, ok_bind read]
  dsimp only
  exact congrArg (finish s) (ok_bind write _)

variable (closed : s.me.r.stick.active = false)

include closed

theorem execSetvlx_sets (imm : BitVec 12) (hlimit : vlmax (lanesOf s.me) s.me.r.g[g] = limit) (more : a ≠ 0)
    (write : writeDst sd (BitVec.ofNat 64 (Nat.min a.toNat limit)) s1 = .ok s2) : execSetvlx sd sa g imm s =
      .next (retire (modRegs s2 fun r => { r with vl := BitVec.ofNat 64 (Nat.min a.toNat limit), vstart := 0 })) := by
  have fields : legal [sa] [sd] = .ok ⟨⟩ := (legal_ok ..).2 (by simp [source, dest])
  subst hlimit
  rw [execSetvlx, ok_bind fields, ok_bind (noBody_closed closed), ok_bind read]
  dsimp only
  rw [if_neg more]
  exact congrArg (finish s) (ok_bind write _)

/-- SETVLX of 0 branches (R147). -/
theorem execSetvlx_branches {imm : BitVec 12} {o : Int} (ho : o = (s.me.r.pc.toNat % 2 ^ 44 : Nat) + 4 * imm.toInt) (low : 0 ≤ o)
    (high : o < 2 ^ 44) (none_ : a = 0) (write : writeDst sd 0 s1 = .ok s2) : execSetvlx sd sa g imm s =
      .next (retireTo (modRegs s2 fun r => { r with vl := 0, vstart := 0 })
        (BitVec.ofNat 64 (s.me.r.pc.toNat / 2 ^ 44 * 2 ^ 44 + o.toNat))) := by
  have fields : legal [sa] [sd] = .ok ⟨⟩ := (legal_ok ..).2 (by simp [source, dest])
  rw [execSetvlx, ok_bind fields, ok_bind (noBody_closed closed), ok_bind read]
  dsimp only
  rw [if_pos none_, ok_bind (effAddr_forms ho low high), ok_bind write]
  rfl

end

/-- Settles O20: VLMAX by the element type of its slot, and each instruction by what it reads and writes. -/
theorem vectorLength : Obligations.VectorLength := by
  intro sd sa g imm s s1 a dest source read e he type limit n
  have hlimit : vlmax (lanesOf s.me) s.me.r.g[g] = limit := vlmax_eq s.me _ he type
  exact ⟨fun s2 write => ⟨execSetvl_sets dest source read hlimit write,
      fun closed more => execSetvlx_sets dest source read closed imm hlimit more write⟩,
    fun closed none_ o ho low high s2 write => execSetvlx_branches dest source read closed ho low high none_ write⟩

/-! ## Values of mode slots and formes (R113 to R115, R118 to R121) -/

/-- The bits of a register from one on are zero when it is small. -/
theorem field_above (x : Word) {lo n : Nat} (top : lo + n = 64) : (field x lo n == 0) = true ↔ x.toNat < 2 ^ lo := by
  have bound : x.toNat / 2 ^ lo < 2 ^ n := Nat.div_lt_of_lt_mul (by rw [← Nat.pow_add, top]; exact x.isLt)
  rw [beq_iff_eq, field_eq, Nat.mod_eq_of_lt bound, Nat.div_eq_zero_iff, or_iff_right (by positivity)]

/-- A bit of a register, as a field. -/
theorem bitAt_iff (x : Word) (i : Nat) : bitAt x i = true ↔ x.toNat / 2 ^ i % 2 ^ 1 = 1 := by
  rw [bitAt, Nat.testBit_eq_decide_div_mod_eq, decide_eq_true_eq, Nat.pow_one]

/-- The values that SETMODE accepts. -/
theorem slotOk_iff (a : Word) : slotOk a = true ↔ (∃ e ∈ etypeTable, a.toNat % 32 = e.1) ∧ a.toNat / 2 ^ 5 % 8 ≤ 5 ∧
    a.toNat / 2 ^ 34 % 8 ≤ 6 ∧ a.toNat / 2 ^ 37 % 8 ≤ 4 ∧ a.toNat / 2 ^ 46 % 4 ≤ 2 ∧ a.toNat < 2 ^ 50 := by
  rw [slotOk, Bool.and_eq_true, field_above a rfl, slotEtype_eq]
  simp only [Bool.and_eq_true, decide_eq_true_eq, etypeBits_isSome (Nat.mod_lt _ (by decide : 32 > 0)), slotRnd, slotScope, slotSparse,
    field_eq, and_assoc]
  rfl

/-- The values that SETFORME accepts. -/
theorem formeOk_iff (a : Word) : formeOk a = true ↔ formeAccepted a := by
  have least : fG a ≤ Nat.min (fW a - 2) 31 ↔ fG a ≤ fW a - 2 ∧ fG a ≤ 31 := Nat.le_min
  have above : (field a 39 25 == 0) = true ↔ a.toNat < 2 ^ 39 := field_above a rfl
  have conv : (!(fConv a && fN a != 1)) = true ↔ (fConv a = true → fN a = 1) := by cases fConv a <;> simp
  simp only [formeOk, sfmtOk, Bool.and_eq_true, Bool.or_eq_true, decide_eq_true_eq, beq_iff_eq (a := fSfmt a), above, least,
    conv]
  simp only [formeAccepted, fFieldsA, fFieldsB, fFieldsP, fW, fG, fM, fN, fK, fConv, fSfmt, fSigned, fXw, fXs, field_eq, bitAt_iff, and_assoc, or_assoc]

section

variable {sd sa : SOp} {g : Fin 8} {s s1 s2 : State} {a : Word}

theorem execGetmode_gives (dest : dstOk sd = true) (write : writeDst sd s.me.r.g[g] s = .ok s1) :
    execGetmode sd g s = .next (retire s1) := by
  have fields : legal [] [sd] = .ok ⟨⟩ := (legal_ok ..).2 (by simp [dest])
  have write : writeDst sd (slotOf s g) s = .ok s1 := write
  rw [execGetmode, ok_bind fields, ok_bind write]
  rfl

variable (source : srcOk sa = true) (read : readSrc sa s = .ok (a, s1))

include source read

theorem execSetmode_writes (good : slotOk a = true) :
    execSetmode sa g s = .next (retire (modRegs s1 fun r => { r with g := r.g.set g a })) := by
  have fields : legal [sa] [] = .ok ⟨⟩ := (legal_ok ..).2 (by simp [source])
  rw [execSetmode, ok_bind fields, ok_bind read]
  dsimp only
  rw [ensure_bind good]
  rfl

theorem execSetmode_traps (bad : ¬ slotOk a = true) : execSetmode sa g s = .next (stopAt s (.trap { code := 2 }) none) := by
  have fields : legal [sa] [] = .ok ⟨⟩ := (legal_ok ..).2 (by simp [source])
  rw [execSetmode, ok_bind fields, ok_bind read]
  dsimp only
  rw [ensure, if_neg bad]
  rfl

theorem execSetforme_writes (good : formeOk a = true) :
    execSetforme sa g s = .next (retire (modRegs s1 fun r => { r with fm := r.fm.set g a })) := by
  have fields : legal [sa] [] = .ok ⟨⟩ := (legal_ok ..).2 (by simp [source])
  rw [execSetforme, ok_bind fields, ok_bind read]
  dsimp only
  rw [ensure_bind good]
  rfl

theorem execSetforme_traps (bad : ¬ formeOk a = true) : execSetforme sa g s = .next (stopAt s (.trap { code := 3 }) none) := by
  have fields : legal [sa] [] = .ok ⟨⟩ := (legal_ok ..).2 (by simp [source])
  rw [execSetforme, ok_bind fields, ok_bind read]
  dsimp only
  rw [ensure, if_neg bad]
  rfl

end

/-- Settles O22: SETMODE and SETFORME by the values that they accept, GETMODE by the slot. -/
theorem modeSlots : Obligations.ModeSlots := by
  intro sa sd g s s1 a source dest read
  rw [← slotOk_iff a, ← formeOk_iff a, ← formeOk_iff 0x24_9484_4892]
  exact ⟨execSetmode_writes source read, execSetmode_traps source read, fun s2 write => execGetmode_gives dest write,
    execSetforme_writes source read, execSetforme_traps source read, by decide⟩

end Sys2Proof.Machine
end

section
/-! PROOF. O35: the number of an element of a w register is not bounded, and elements one register length apart are one (R108, R117). -/

namespace Sys2Proof.Machine

/-- Past the end of a w register the model's elements begin again at its element 0. -/
theorem getElem_w_past_end (r : Regs) (n : Fin 8) : getElem r (.w n) 4 16 1024 = getElem r (.w n) 4 16 0 := rfl

theorem getElem_w_written (r : Regs) (n : Fin 8) (x : Nat) : getElem (putElems (.w n) 4 16 r [(0, x)]) (.w n) 4 16 0 = x % 2 ^ 16 := by
  show wideGet (vget (vset r.w n.val (widePut (vget r.w n.val 0) 0 16 x)) n.val 0) 0 16 = _
  rw [vget_vset _ _ _ _ _ n.isLt, if_pos rfl, wideGet_widePut_same _ _ (by decide)]

theorem wideGet_zero (w off n : Nat) : wideGet 0#w off n = 0 := by
  rw [wideGet, BitVec.toNat_zero, bitsOf, Nat.zero_shiftRight, Nat.zero_mod]

theorem getElem_launch_w : getElem Regs.launch (.w 0) 4 16 0 = 0 := by
  have empty : vget Regs.launch.w 0 0 = 0 := vget_eq (Vector.replicate 8 0) 0 0
  show wideGet (vget Regs.launch.w 0 0) 0 16 = 0
  rw [empty]
  exact wideGet_zero ..

/-- Refutes O35: the clause that an element which is not written keeps its value is claimed of every number, also of one past the
end of a w register. At 4 lanes and 16 bits element 1,024 of w0 is its element 0 again, so that 1 written to element 0 of the
launch registers reads as element 1,024 too, which held 0. -/
theorem not_elementwiseResults : ¬ Obligations.ElementwiseResults := by
  intro claim
  obtain ⟨-, keeps, -⟩ := claim.2 Regs.launch (.w 0) 4 16 [(0, 1)] (by decide) (by decide) (by simp)
  have kept := keeps 1024 (by simp)
  rw [getElem_w_past_end, getElem_w_past_end, getElem_w_written, getElem_launch_w] at kept
  exact absurd kept (by decide)

end Sys2Proof.Machine
end

section
/-! PROOF. VMV, VBCAST and VEXTRACT: what their checks at issue let pass, and what they write then (R192, R193). -/

namespace Sys2Proof.Machine

/-! ## Operands -/

theorem operand_tier {o : VOp} {tiers : List Nat} {f : Nat} (h : operand o tiers f = .ok ⟨⟩) : tierOf o ∈ tiers := by
  unfold operand at h
  rw [ensure_ok, Bool.and_eq_true, List.contains_iff_mem] at h
  exact h.1

/-- An operand that is admitted among some tiers is admitted alone. -/
theorem operand_own {o : VOp} {tiers : List Nat} {f : Nat} (h : operand o tiers f = .ok ⟨⟩) : operand o [tierOf o] f = .ok ⟨⟩ := by
  unfold operand at h ⊢
  rw [ensure_ok, Bool.and_eq_true] at h ⊢
  exact ⟨by simp, h.2⟩

theorem tier_vw {o : VOp} {f : Nat} (h : operand o tVW f = .ok ⟨⟩) : tierOf o = 0 ∨ tierOf o = 1 := by
  simpa [tVW] using operand_tier h

theorem tierOf_q (k : Fin 8) : tierOf (.q k) = 3 ∨ tierOf (.q k) = 6 ∨ tierOf (.q k) = 7 := by
  revert k
  decide

/-- An operand of tier v or w names a register of that file. -/
theorem operand_vw {o : VOp} {f : Nat} (h : operand o tVW f = .ok ⟨⟩) : (∃ n, o = .v n) ∨ ∃ n, o = .w n := by
  have tier := tier_vw h
  cases o with
  | v n => exact .inl ⟨n, rfl⟩
  | w n => exact .inr ⟨n, rfl⟩
  | z n | m n | none => exact absurd tier (by simp [tierOf])
  | q k =>
    have := tierOf_q k
    omega

/-! ## Outcomes -/

/-- An instruction of the vector stream whose body meets another cause than uncorrectable data traps with nothing changed. -/
theorem runStream_stops {s : State} {g : Fin 8} {env : Env} {c : VCtx} (i : Instr) (start : starts s g env c)
    {body : Env → State → StreamResult} {t : TrapInfo} (failed : body env s = .error (.trap t)) (memory : t.code ≠ cUncorrectable) :
    runStream i 0 false g none none body s = .next (stopAt s (.trap t) none) := by
  obtain ⟨⟨replay, parked, room⟩, dispatched, -⟩ := start
  have same : preciseTrap s t (lossSlot i env.slot) false false = stopAt s (.trap t) none := by
    rw [← stopAt_trap s t _ parked, lossSlot]
    split
    · exact stopAt_trap_slot s t env.slot memory
    · rfl
  simp only [runStream, replay, dispatched, parked, room, failed, Bool.false_eq_true, if_false, Bool.not_true]
  exact congrArg Host.Outcome.next same

/-! ## VMV (R192) -/

/-- Tiers between which VMV moves a bit string. -/
def moveString (d a : Nat) : Bool := (d == 0 && a == 4) || (d == 4 && a == 0)

/-- Tiers between which VMV moves. -/
def movePair (d a : Nat) : Bool :=
  ((d == 0 || d == 1) && ((a == 0 || a == 1) || a == 3)) || ((d == 0 || d == 1 || d == 2) && a == 2) ||
    (d == 2 && (a == 0 || a == 1)) || (d == 4 && a == 4) || moveString d a

/-- The size of the groups that VMV names. -/
def moveGroup (c : VCtx) (d a : Nat) : Nat := if moveString d a then 1 else c.f

/-- What a z operand asks of type, VL and predicate. -/
def moveZ (c : VCtx) (d a : Nat) : Bool := !(d == 2 || a == 2) || (c.et == 3 && decide (c.vl ≤ c.lanes * 1024) && predEnds c)

/-- What a bit string asks of type, VL and GROUP. -/
def moveBits (c : VCtx) (d a : Nat) : Bool := !moveString d a || (c.et == 6 && decide (c.vl ≤ 16 * c.lanes) && c.f == 1)

/-- Element e of what VMV moves: 16 bits of a string, or an element. -/
def moveElem (c : VCtx) (va : VOp) (x : VSrc) (r : Regs) (e : Nat) : Nat :=
  if tierOf va = 4 then
    (((List.range 16).map (16 * e + ·)).map fun i => bit (getMask r (maskOf va) c.lanes i) <<< (i % 16)).sum
  else if tierOf va = 2 then getZ r (zOf va) c.lanes e
  else srcElem r c.lanes c.b x e

/-- The registers after VMV. -/
def moved (c : VCtx) (vd va : VOp) (x : VSrc) (r : Regs) : Regs :=
  if tierOf vd = 4 ∧ tierOf va = 4 then
    putMasks (maskOf vd) c.lanes r ((c.active r).map fun e => (e, getMask r (maskOf va) c.lanes e))
  else if tierOf vd = 4 then
    putMasks (maskOf vd) c.lanes r ((c.active r).flatMap fun e =>
      ((List.range 16).map (16 * e + ·)).map fun i => (i, (srcElem r c.lanes 16 x e).testBit (i % 16)))
  else if tierOf vd = 2 then ((c.active r).map fun e => (e, moveElem c va x r e)).foldl (setZ (zOf vd) c.lanes) r
  else putElems vd c.lanes c.b r ((c.active r).map fun e => (e, moveElem c va x r e))

section

variable {dt : Bool} {g : Fin 8} {vd va : VOp} {s s1 : State} {env : Env} {c : VCtx} {x : VSrc} (start : starts s g env c)
  (wide : wLimit c vd = .ok ⟨⟩) (single : c.et = 7 → tierOf va ≠ 3) (pair : movePair (tierOf vd) (tierOf va) = true)
  (opd : operand vd [tierOf vd] (moveGroup c (tierOf vd) (tierOf va)) = .ok ⟨⟩)
  (opa : operand va [tierOf va] (moveGroup c (tierOf vd) (tierOf va)) = .ok ⟨⟩)
  (limit : vcheckVl c tyAll false (moveLimit c (tierOf vd) (tierOf va)) = .ok ⟨⟩)

include single in
theorem move_single : (!(c.et == 7 && tierOf va == 3)) = true := by
  simpa [imp_iff_not_or] using single

include start wide single pair opd opa limit

/-- VMV with a z operand that its type, VL or predicate does not fit. -/
theorem vmv_traps (unfit : moveZ c (tierOf vd) (tierOf va) = false) :
    exec (.vmv dt g vd va) s = .next (stopAt s (.trap { code := 4 }) none) := by
  refine runStream_stops (.vmv dt g vd va) start ?_ (by decide)
  obtain rfl := start.2.2
  unfold vmvBody
  dsimp only
  rw [ensure_bind (by exact pair), ok_bind (by exact opd), ok_bind (by exact opa), ensure_bind (move_single single), ok_bind limit,
    ok_bind wide, ensure, if_neg (by exact ne_true_of_eq_false unfit)]
  rfl

/-- VMV whose operands, type, VL and predicate are admitted and whose registers are at hand. -/
theorem vmv_moves (fit : moveZ c (tierOf vd) (tierOf va) = true) (bits : moveBits c (tierOf vd) (tierOf va) = true)
    (groups : tierOf vd = 4 → tierOf va = 4 → maskOperand vd (predCount c.f c.b) = .ok ⟨⟩ ∧ maskOperand va (predCount c.f c.b) = .ok ⟨⟩)
    (take : takeSrc va c.b s = .ok (x, s1)) (ready : useMap c s1 env.seq dt vd [va] = .ok ⟨⟩) :
    exec (.vmv dt g vd va) s =
      retires env (withRegs s1 (commit c 0 (dtCount dt s1.me.r c c.b) (moved c vd va x s1.me.r))) := by
  refine runStream_retires (.vmv dt g vd va) rfl start ?_
  obtain rfl := start.2.2
  unfold vmvBody
  dsimp only
  rw [ensure_bind (by exact pair), ok_bind (by exact opd), ok_bind (by exact opa), ensure_bind (move_single single), ok_bind limit,
    ok_bind wide, ensure_bind (by exact fit), ensure_bind (by exact bits)]
  split
  · next masks =>
    obtain ⟨destination, source⟩ := groups masks.1 masks.2
    rw [ok_bind (by exact destination), ok_bind (by exact source), ok_bind take, moved, if_pos masks]
    dsimp only
    rw [ok_bind ready]
    rfl
  · next masks =>
    rw [ok_bind take, moved, if_neg masks]
    dsimp only
    rw [ok_bind ready]
    rfl

end

/-! ## The operands of VMV -/

theorem movePair_elements {d a : Nat} (hd : d = 0 ∨ d = 1) (ha : a = 0 ∨ a = 1 ∨ a = 3) : movePair d a = true := by
  obtain rfl | rfl := hd <;> obtain rfl | rfl | rfl := ha <;> rfl

theorem moveString_elements {d a : Nat} (hd : d ≠ 4) (ha : a ≠ 4) : moveString d a = false := by
  simp [moveString, hd, ha]

theorem moveLimit_elements (c : VCtx) {d a : Nat} (hd : d ≠ 2) (ha : a ≠ 2) : moveLimit c d a = vlmaxBits c.lanes c.f c.b := by
  simp [moveLimit, hd, ha]

theorem moveZ_elements (c : VCtx) {d a : Nat} (hd : d ≠ 2) (ha : a ≠ 2) : moveZ c d a = true := by
  simp [moveZ, hd, ha]

/-- The tiers of a VMV to or from a z register. -/
def zTiers (d a : Nat) : Prop := (d = 0 ∨ d = 1 ∨ d = 2) ∧ a = 2 ∨ d = 2 ∧ (a = 0 ∨ a = 1)

/-- The operands of such a VMV are admitted. -/
theorem z_operands {vd va : VOp} {f : Nat} {n : Fin 4}
    (h : va = .z n ∧ (operand vd tVW f = .ok ⟨⟩ ∨ ∃ k, vd = .z k) ∨ vd = .z n ∧ operand va tVW f = .ok ⟨⟩) :
    zTiers (tierOf vd) (tierOf va) ∧ operand vd [tierOf vd] f = .ok ⟨⟩ ∧ operand va [tierOf va] f = .ok ⟨⟩ := by
  obtain ⟨rfl, opd | ⟨k, rfl⟩⟩ | ⟨rfl, opa⟩ := h
  · exact ⟨.inl ⟨(tier_vw opd).imp_right .inl, rfl⟩, operand_own opd, operand_z n rfl f⟩
  · exact ⟨.inl ⟨.inr (.inr rfl), rfl⟩, operand_z k rfl f, operand_z n rfl f⟩
  · exact ⟨.inr ⟨rfl, tier_vw opa⟩, operand_z n rfl f, operand_own opa⟩

theorem movePair_z {d a : Nat} (h : zTiers d a) : movePair d a = true := by
  obtain ⟨rfl | rfl | rfl, rfl⟩ | ⟨rfl, rfl | rfl⟩ := h <;> rfl

theorem moveString_z {d a : Nat} (h : zTiers d a) : moveString d a = false := by
  obtain ⟨rfl | rfl | rfl, rfl⟩ | ⟨rfl, rfl | rfl⟩ := h <;> rfl

theorem moveZ_iff (c : VCtx) {d a : Nat} (h : zTiers d a) :
    moveZ c d a = true ↔ c.et = 3 ∧ c.vl ≤ c.lanes * 1024 ∧ predEnds c = true := by
  have z : (d == 2 || a == 2) = true := by
    obtain ⟨-, rfl⟩ | ⟨rfl, -⟩ := h <;> simp
  simp [moveZ, z, and_assoc]

theorem moveBits_string (c : VCtx) (d a : Nat) (type_ : c.et = 6) (one : c.f = 1) (short : c.vl ≤ 16 * c.lanes) :
    moveBits c d a = true := by
  simp [moveBits, type_, one, short]

/-- A bit of a string, in its place (R192). -/
theorem bit_shift (b : Bool) {e j : Nat} (h : j < 16) : bit b <<< ((16 * e + j) % 16) = if b then 2 ^ j else 0 := by
  rw [show (16 * e + j) % 16 = j by omega]
  cases b
  · exact Nat.zero_shiftLeft j
  · exact Nat.one_shiftLeft j

section

variable {dt : Bool} {g : Fin 8} {vd va : VOp} {s s1 : State} {env : Env} {c : VCtx} {x : VSrc} (start : starts s g env c)
  (wide : wLimit c vd = .ok ⟨⟩) (take : takeSrc va c.b s = .ok (x, s1))

include start wide take

section

variable (single : c.et = 7 → tierOf va ≠ 3) (opd : operand vd tVW c.f = .ok ⟨⟩) (opa : operand va [0, 1, 3] c.f = .ok ⟨⟩)
  (check : vcheck c tyAll false = .ok ⟨⟩)

include single opd opa check

/-- VMV between element groups, or from a queue. -/
theorem vmv_elements (ready : useMap c s1 env.seq dt vd [va] = .ok ⟨⟩) :
    exec (.vmv dt g vd va) s = retires env (withRegs s1 (commit c 0 (dtCount dt s1.me.r c c.b) (putElems vd c.lanes c.b s1.me.r
      ((c.active s1.me.r).map fun i => (i, srcElem s1.me.r c.lanes c.b x i))))) := by
  have hd := tier_vw opd
  have ha : tierOf va = 0 ∨ tierOf va = 1 ∨ tierOf va = 3 := by simpa using operand_tier opa
  have noMask : tierOf vd ≠ 4 ∧ tierOf va ≠ 4 := by omega
  have noZ : tierOf vd ≠ 2 ∧ tierOf va ≠ 2 := by omega
  have elements : moveString (tierOf vd) (tierOf va) = false := moveString_elements noMask.1 noMask.2
  have group : moveGroup c (tierOf vd) (tierOf va) = c.f := if_neg (by simp [elements])
  have run := vmv_moves start wide single (movePair_elements hd ha) (group ▸ operand_own opd) (group ▸ operand_own opa)
    (moveLimit_elements c noZ.1 noZ.2 ▸ check) (moveZ_elements c noZ.1 noZ.2) (by simp [moveBits, elements])
    (fun d => absurd d noMask.1) take ready
  simpa only [moved, moveElem, noMask, noZ, and_self, if_false] using run

/-- VBCAST of element 0. -/
theorem vbcast_elements (ready : useTouched s1 env.seq (touchesAll vd c.lanes c.b (c.issued dt s1.me.r) ++
      touches va c.lanes c.b (((c.issued dt s1.me.r).map fun _ => 0).take 1)) = .ok ⟨⟩) :
    exec (.vbcast dt g vd va) s = retires env (withRegs s1 (commit c 0 (dtCount dt s1.me.r c c.b) (putElems vd c.lanes c.b s1.me.r
      ((c.active s1.me.r).map fun i => (i, srcElem s1.me.r c.lanes c.b x 0))))) := by
  show execVbcast dt g vd va s = _
  unfold execVbcast
  refine runStream_retires (.vbcast dt g vd va) rfl start ?_
  obtain rfl := start.2.2
  dsimp only
  rw [ok_bind opd, ok_bind opa, ensure_bind (move_single single), ok_bind check, ok_bind wide, ok_bind take]
  dsimp only
  rw [ok_bind ready]
  rfl

end

section

variable (single : c.et = 7 → tierOf va ≠ 3) {n : Fin 4}
  (sides : va = .z n ∧ (operand vd tVW c.f = .ok ⟨⟩ ∨ ∃ k, vd = .z k) ∨ vd = .z n ∧ operand va tVW c.f = .ok ⟨⟩)
  (limit : vcheckVl c tyAll false (moveLimit c (tierOf vd) (tierOf va)) = .ok ⟨⟩)

include single sides limit

/-- VMV to or from a z register that its type, VL and predicate fit. -/
theorem vmv_z (ready : useMap c s1 env.seq dt vd [va] = .ok ⟨⟩) (fit : c.et = 3 ∧ c.vl ≤ c.lanes * 1024 ∧ predEnds c = true) :
    exec (.vmv dt g vd va) s =
      retires env (withRegs s1 (commit c 0 (dtCount dt s1.me.r c c.b) (moved c vd va x s1.me.r))) := by
  obtain ⟨tiers, opd, opa⟩ := z_operands sides
  have group : moveGroup c (tierOf vd) (tierOf va) = c.f := if_neg (by simp [moveString_z tiers])
  have noMask (d : tierOf vd = 4) : tierOf va ≠ 4 := by obtain ⟨h, -⟩ | ⟨h, -⟩ := tiers <;> omega
  exact vmv_moves start wide single (movePair_z tiers) (group ▸ opd) (group ▸ opa) limit ((moveZ_iff c tiers).2 fit)
    (by simp [moveBits, moveString_z tiers]) (fun d a => absurd a (noMask d)) take ready

omit take in
/-- VMV to or from a z register that its type, VL or predicate does not fit. -/
theorem vmv_z_traps (unfit : c.et ≠ 3 ∨ c.lanes * 1024 < c.vl ∨ predEnds c = false) :
    exec (.vmv dt g vd va) s = .next (stopAt s (.trap { code := 4 }) none) := by
  obtain ⟨tiers, opd, opa⟩ := z_operands sides
  have group : moveGroup c (tierOf vd) (tierOf va) = c.f := if_neg (by simp [moveString_z tiers])
  refine vmv_traps start wide single (movePair_z tiers) (group ▸ opd) (group ▸ opa) limit (Bool.eq_false_iff.2 fun fit => ?_)
  obtain ⟨et, vl, pred⟩ := (moveZ_iff c tiers).1 fit
  obtain other | long | past := unfit
  · exact other et
  · omega
  · exact ne_true_of_eq_false past pred

end

section

variable (ready : useMap c s1 env.seq dt vd [va] = .ok ⟨⟩)

include ready

/-- VMV between m groups. -/
theorem vmv_masks {n k : Fin 8} (hd : vd = .m n) (ha : va = .m k) (destination : maskOperand vd (predCount c.f c.b) = .ok ⟨⟩)
    (source : maskOperand va (predCount c.f c.b) = .ok ⟨⟩)
    (limit : vcheckVl c tyAll false (moveLimit c (tierOf vd) (tierOf va)) = .ok ⟨⟩) :
    exec (.vmv dt g vd va) s = retires env (withRegs s1 (commit c 0 (dtCount dt s1.me.r c c.b)
      (putMasks n c.lanes s1.me.r ((c.active s1.me.r).map fun i => (i, getMask s1.me.r k c.lanes i))))) := by
  subst hd ha
  exact vmv_moves start wide (fun _ => nofun) rfl rfl rfl limit rfl rfl (fun _ _ => ⟨destination, source⟩) take ready

section

variable {n : Fin 64} {k : Fin 8} (type_ : c.et = 6) (one : c.f = 1) (short : c.vl ≤ 16 * c.lanes) (check : vcheck c tyAll false = .ok ⟨⟩)

include type_ one short check

/-- VMV of the bit string of an m register to a v register. -/
theorem vmv_toElements (hd : vd = .v n) (ha : va = .m k) :
    exec (.vmv dt g vd va) s = retires env (withRegs s1 (commit c 0 (dtCount dt s1.me.r c c.b) (putElems vd c.lanes c.b s1.me.r
      ((c.active s1.me.r).map fun i =>
        (i, ((List.range 16).map fun j => if getMask s1.me.r k c.lanes (16 * i + j) then 2 ^ j else 0).sum))))) := by
  subst hd ha
  have limit : vcheckVl c tyAll false (moveLimit c 0 4) = .ok ⟨⟩ := check
  have run := vmv_moves (vd := .v n) (va := .m k) start wide (fun _ => nofun) rfl (operand_v n rfl) rfl limit rfl (moveBits_string c 0 4 type_ one short) nofun take ready
  have value (i : Nat) : moveElem c (.m k) x s1.me.r i =
      ((List.range 16).map fun j => if getMask s1.me.r k c.lanes (16 * i + j) then 2 ^ j else 0).sum := by
    refine congrArg List.sum (List.map_map.trans (List.map_congr_left fun j hj => ?_))
    exact bit_shift _ (List.mem_range.1 hj)
  have written : moved c (.v n) (.m k) x s1.me.r = putElems (.v n) c.lanes c.b s1.me.r
      ((c.active s1.me.r).map fun i => (i, moveElem c (.m k) x s1.me.r i)) := rfl
  simpa only [written, value] using run

/-- VMV of the elements of a v register to the bit string of an m register. -/
theorem vmv_toMask (hd : vd = .m k) (ha : va = .v n) :
    exec (.vmv dt g vd va) s = retires env (withRegs s1 (commit c 0 (dtCount dt s1.me.r c c.b) (putMasks k c.lanes s1.me.r
      ((c.active s1.me.r).flatMap fun i => (List.range 16).map fun j =>
        (16 * i + j, (getElem s1.me.r va c.lanes 16 i).testBit j))))) := by
  subst hd ha
  obtain ⟨rfl, rfl⟩ : VSrc.reg (.v n) = x ∧ s = s1 := by simpa [takeSrc] using take
  have limit : vcheckVl c tyAll false (moveLimit c 4 0) = .ok ⟨⟩ := check
  have run := vmv_moves (vd := .m k) (va := .v n) start wide (fun _ => nofun) rfl rfl (operand_v n rfl) limit rfl (moveBits_string c 4 0 type_ one short) (fun _ => nofun)
    take ready
  have value (i : Nat) : (((List.range 16).map (16 * i + ·)).map fun b => (b, (srcElem s.me.r c.lanes 16 (.reg (.v n)) i).testBit (b % 16))) =
      (List.range 16).map fun j => (16 * i + j, (getElem s.me.r (.v n) c.lanes 16 i).testBit j) := by
    refine List.map_map.trans (List.map_congr_left fun j hj => ?_)
    have low : (16 * i + j) % 16 = j := by have := List.mem_range.1 hj; omega
    simp only [Function.comp, low]
    rfl
  have written : moved c (.m k) (.v n) (.reg (.v n)) s.me.r = putMasks k c.lanes s.me.r ((c.active s.me.r).flatMap fun i =>
      ((List.range 16).map (16 * i + ·)).map fun b => (b, (srcElem s.me.r c.lanes 16 (.reg (.v n)) i).testBit (b % 16))) := rfl
  simpa only [written, value] using run

end

end

end

/-- VEXTRACT of element 0 into a queue. -/
theorem vextract_pushes {g : Fin 8} {va : VOp} {s s2 : State} {env : Env} {c : VCtx} {k : Fin 8} (start : starts s g env c)
    (queue : k = 4 ∨ k = 5) (opa : operand va tVW c.f = .ok ⟨⟩) (type_ : c.et ∈ tyFI) (whole : c.vstart = 0)
    (limit : c.vl ≤ vlmaxBits c.lanes c.f c.b)
    (ready : useTouched s env.seq (touches va c.lanes c.b (List.range (Nat.min 1 c.vl))) = .ok ⟨⟩)
    (push : pushQ k (if c.vl = 0 then 0 else extendTo64 c.et c.b (srcElem s.me.r c.lanes c.b (.reg va) 0)) s = .ok s2) :
    exec (.vextract g (.q k) va) s = retires env s2 := by
  show execVextract g (.q k) va s = _
  unfold execVextract
  refine runStream_retires (.vextract g (.q k) va) rfl start ?_
  have destination : operand (.q k) [6] 1 = .ok ⟨⟩ := by obtain rfl | rfl := queue <;> rfl
  obtain rfl := start.2.2
  dsimp only
  rw [ok_bind destination, ok_bind opa, ensure_bind (by simp [type_, whole, limit]), ok_bind ready, ok_bind (by exact push)]
  rfl

/-- Settles O38: VMV, VBCAST and VEXTRACT by the tiers of their operands. -/
theorem moveResults : Obligations.MoveResults := by
  intro dt g vd va s s1 env c x r start wide take hr single
  subst hr
  refine ⟨fun opd opa check => ⟨vmv_elements start wide take single opd opa check, vbcast_elements start wide take single opd opa check⟩,
    fun ready limit => ⟨?_, ?_, ?_, fun n k hd ha destination source => vmv_masks start wide take ready hd ha destination source limit⟩,
    ?_, fun n k type_ one short check ready => ⟨vmv_toElements start wide take ready type_ one short check,
      vmv_toMask start wide take ready type_ one short check⟩, ?_⟩
  · rintro n rfl hd et vl pred l
    have run := vmv_z start wide take single (.inl ⟨rfl, hd⟩) limit ready ⟨et, vl, pred⟩
    obtain (⟨k, rfl⟩ | ⟨k, rfl⟩) | ⟨k, rfl⟩ := hd.imp_left operand_vw
    · exact run
    · exact run
    · exact run
  · rintro n rfl opa et vl pred
    have run := vmv_z start wide take single (.inr ⟨rfl, opa⟩) limit ready ⟨et, vl, pred⟩
    obtain ⟨k, rfl⟩ | ⟨k, rfl⟩ := operand_vw opa
    · exact run
    · exact run
  · exact fun n sides unfit => vmv_z_traps start wide single sides limit unfit
  · rintro k z d a
    have zs : (tierOf vd == 2 || tierOf va == 2) = true := by
      obtain rfl | rfl := z
      · rfl
      · exact Bool.or_true _
    simp [moveLimit, zs, d, a]
  · rintro k s2 rfl queue opa type_ whole vl ready push
    obtain ⟨rfl, rfl⟩ : VSrc.reg va = x ∧ s = s1 := by
      obtain ⟨n, rfl⟩ | ⟨n, rfl⟩ := operand_vw opa
      · simpa [takeSrc] using take
      · simpa [takeSrc] using take
    exact vextract_pushes start queue opa type_ whole vl ready push

end Sys2Proof.Machine
end

section
/-! PROOF. The banks of a core: what an exchange keeps of each hart, what a fill leaves, and QDEADLOCK taken by the one instruction that
waits (R112, R258, R294, R316). -/

namespace Sys2Proof.Machine

/-! ## A hart at the exchange -/

@[simp] theorem unpopHart_hid (h : Hart) : (unpopHart h).hid = h.hid := by
  rw [unpopHart_eq]

theorem abandonMmau_hid (h : Hart) (f : Flight) : (abandonMmau h f).hid = h.hid := by
  unfold abandonMmau
  dsimp only
  split <;> rfl

theorem foldl_abandonMmau_hid (l : List Flight) (h : Hart) : (l.foldl abandonMmau h).hid = h.hid := by
  induction l generalizing h with
  | nil => rfl
  | cons f l ih => exact (ih _).trans (abandonMmau_hid h f)

@[simp] theorem abandon_hid (h : Hart) : (abandon h).hid = h.hid :=
  (foldl_abandonMmau_hid ..).trans (unpopHart_hid h)

/-- The name, the bank and the registers of a hart are as they were. -/
def SameBank (h g : Hart) : Prop := g.hid = h.hid ∧ g.bank = h.bank ∧ g.r = h.r

theorem takePin_sameBank (s : State) : SameBank s.me (takePin s).me := by
  unfold takePin
  split
  · exact ⟨rfl, rfl, rfl⟩
  · exact ⟨rfl, rfl, rfl⟩

/-! ## A core at the exchange -/

@[simp] theorem wakeCluster_mem (s : State) (cl : Nat) : (wakeCluster s cl).mem = s.mem := by
  have change (t : State) (f : Cluster → Cluster) : (modCluster t cl f).mem = t.mem := by
    unfold modCluster
    split <;> rfl
  unfold wakeCluster
  split
  · split
    · exact change ..
    · exact change ..
    · rfl
  · rfl

/-- Where no address holds a correctable error, reading the descriptors changes nothing. -/
theorem correctDescriptors_clean (s : State) (core : Nat) (clean : s.softMem = []) : correctDescriptors s core = s := by
  have range (a n : Nat) : correctRange s a n = s := by
    rw [correctRange, clean]
    rfl
  exact List.foldl_fixed' (fun c => range (descAddr s c) 24) _

/-- What a hart becomes in the exchange of the banks of a core. -/
def swapped (s : State) (core : Nat) (h : Hart) : Hart :=
  if h.core ≠ core ∨ h.hid = 0 then h
  else match h.bank with
    | .active => { abandon h with bank := .shadow }
    | .shadow => { loadDescriptor s h with bank := .active }
    | .image => h

/-- A fill of a free shadow bank brings in images alone. -/
theorem startFill_keeps (s : State) (core : Nat) :
    (startFill s core).mem = s.mem ∧ (getCore (startFill s core) core).swapAsked = (getCore s core).swapAsked ∧
      (getCore (startFill s core) core).swaps = (getCore s core).swaps ∧
      ∀ h ∈ s.rest, h.bank ≠ .image → h ∈ (startFill s core).rest := by
  unfold startFill
  split
  · exact ⟨rfl, rfl, rfl, fun h here _ => here⟩
  · split
    · rw [getCore_modCore_same, getCore_of_cores (modHarts_cores ..), getCore_of_cores (wakeCluster_cores ..)]
      refine ⟨wakeCluster_mem .., rfl, rfl, fun h here bank => ?_⟩
      rw [modCore_rest, modHarts_rest, wakeCluster_rest]
      exact List.mem_map.2 ⟨h, here, if_neg fun image => bank image.2.2⟩
    · exact ⟨rfl, rfl, rfl, fun h here _ => here⟩

theorem takePins_keeps (s : State) (core : Nat) {h : Hart} (here : h ∈ s.rest) : ∃ g ∈ (takePins s core).rest, SameBank h g := by
  refine ⟨_, List.mem_map.2 ⟨h, here, rfl⟩, ?_⟩
  split
  · exact takePin_sameBank { s with me := h }
  · exact ⟨rfl, rfl, rfl⟩

/-- What the end of an exchange keeps: the pins of the harts that go on, and a fill. -/
theorem startFill_takePins_keeps (s : State) (core : Nat) :
    (startFill (takePins s core) core).mem = s.mem ∧
      (getCore (startFill (takePins s core) core) core).swapAsked = (getCore s core).swapAsked ∧
      (getCore (startFill (takePins s core) core) core).swaps = (getCore s core).swaps ∧
      ∀ h ∈ s.rest, h.bank ≠ .image → ∃ g ∈ (startFill (takePins s core) core).rest, SameBank h g := by
  obtain ⟨mem, asked, swaps, fill⟩ := startFill_keeps (takePins s core) core
  rw [getCore_takePins] at asked swaps
  refine ⟨mem, asked, swaps, fun h here bank => ?_⟩
  obtain ⟨g, pinned, same⟩ := takePins_keeps s core here
  exact ⟨g, fill g pinned (same.2.1 ▸ bank), same⟩

/-- An exchange with no correctable error in memory. -/
theorem exchange_keeps {s : State} {core : Nat} (clean : s.softMem = []) : (exchange s core).mem = s.mem ∧ (getCore (exchange s core) core).swapAsked = none ∧
    (getCore (exchange s core) core).swaps = (getCore s core).swaps + 1 ∧
    ∀ h ∈ s.rest, (swapped s core h).bank ≠ .image → ∃ g ∈ (exchange s core).rest, SameBank (swapped s core h) g := by
  unfold exchange
  dsimp only
  rw [correctDescriptors_clean s core clean]
  obtain ⟨mem, asked, swaps, harts⟩ := startFill_takePins_keeps _ core
  refine ⟨mem.trans (wakeCluster_mem ..), asked.trans ?_, swaps.trans ?_, fun h here bank => ?_⟩
  · rw [getCore_modCore_same]
  · rw [getCore_modCore_same, getCore_of_cores (modHarts_cores ..), getCore_of_cores (wakeCluster_cores ..)]
  · have there : swapped s core h ∈ (modHarts (wakeCluster s (clusterOf core)) (swapped s core)).rest :=
      List.mem_map_of_mem (by rwa [wakeCluster_rest])
    exact harts _ there bank

/-! ## Fills -/

/-- With the shadow bank full no image fills it. -/
theorem startFill_full (s : State) (core : Nat) (full : (getCore s core).shadow ≠ .free) : startFill s core = s := by
  unfold startFill
  split
  · rfl
  · exact if_neg full

theorem resumeShadow_full (s : State) (core : Nat) (full : (getCore s core).shadow ≠ .free) :
    (resumeShadow s core).mem = s.mem ∧ (resumeShadow s core).rest = s.rest ∧
      (getCore (resumeShadow s core) core).shadow = (getCore s core).shadow ∧
      (activeFree s core = true → (∃ h ∈ allHarts s, h.core = core ∧ h.bank = .shadow) →
        (getCore (resumeShadow s core) core).swapAsked = some none) := by
  unfold resumeShadow
  rw [startFill_full s core full]
  dsimp only
  split
  · rw [getCore_modCore_same, getCore_of_cores (wakeCluster_cores ..)]
    exact ⟨wakeCluster_mem .., wakeCluster_rest .., rfl, fun _ _ => rfl⟩
  · next unasked =>
    refine ⟨rfl, rfl, rfl, fun free ⟨h, here, place, bank⟩ => absurd ?_ unasked⟩
    rw [free, Bool.true_and, List.any_eq_true]
    exact ⟨h, here, by rw [place, bank]; simp⟩

theorem activeFree_iff (s : State) (core : Nat) : activeFree s core = true ↔ ∀ h ∈ allHarts s, h.core = core → h.bank ≠ .active := by
  simp [activeFree]

/-- A bank whose image is loaded (R316). -/
def filled (s : State) (core : Nat) : State := modCore s core fun c => { c with shadow := .clean, kept := false }

theorem execBankFillDone_fills {s : State} {core ctx : Nat} (filling : (getCore s core).shadow = .filling)
    (known : ∃ h ∈ allHarts s, h.core = core ∧ h.ctx = ctx ∧ h.bank = .shadow) :
    execBankFillDone core ctx s = .next (resumeShadow (filled s core) core) := by
  obtain ⟨h, here, place, context, bank⟩ := known
  have found : ((allHarts s).any fun h => h.core == core && h.ctx == ctx && h.bank == .shadow) = true :=
    List.any_eq_true.2 ⟨h, here, by rw [place, context, bank]; simp⟩
  rw [execBankFillDone, found, filling]
  rfl

theorem execBankFillDone_idle {s : State} {core : Nat} (idle : (getCore s core).shadow ≠ .filling) (ctx : Nat) :
    execBankFillDone core ctx s = .next s := by
  have no : ((getCore s core).shadow == .filling) = false := by simpa using idle
  rw [execBankFillDone, no]
  rfl

/-! ## Traps at a boundary -/

theorem execFetchFault_stops {s : State} {e : Stop} (failed : nextWord s = .error e) : execFetchFault s = .next (stopAt s e none) := by
  rw [execFetchFault, failed]

/-- The one instruction that waits to start is the oldest, and its queue the one that is waited on (R112). -/
theorem queueWaiter_single {s : State} {f : Flight} {b : Fin 8} (waits : f.why = some (.queueFull b))
    (only : s.me.flights.filter (·.parked) = [f]) : queueWaiter s = some (f, [b]) := by
  have waiting (x : Flight) : x ∈ s.me.flights ∧ x.parked = true ↔ x = f := by
    have member := List.mem_singleton (a := x) (b := f)
    rw [← only, List.mem_filter] at member
    exact member
  obtain ⟨member, parked⟩ := (waiting f).2 rfl
  have first : firstParked s.me = some f :=
    firstParked_oldest member parked fun x here parked => .inl ((waiting x).1 ⟨here, parked⟩)
  have queues : queuesWaited s = [b] := by
    rw [queuesWaited, only, List.filterMap_cons, waits]
    rfl
  rw [queueWaiter, first, queues]

theorem execQdeadlock_traps {s : State} {a b : Fin 8} {f : Flight} (live : s.me.live = true) (free : boundaryDue s s.me = false)
    (waits : s.me.wait = some (.queueEmpty a)) (waiter : queueWaiter s = some (f, [b])) (file : 6 ≤ a.val ↔ 6 ≤ b.val) :
    execQdeadlock s = .next (deadlock s f (2 ^ a.val ||| 2 ^ b.val)) := by
  have same : ([b].any fun q => decide (6 ≤ a.val) == decide (6 ≤ q.val)) = true := by simp [file]
  have bits : queueBits [a, b] = 2 ^ a.val ||| 2 ^ b.val := by simp [queueBits]
  rw [execQdeadlock, waiter, waits, ← bits]
  exact if_pos ⟨live, by rw [free]; rfl, same⟩

/-- Settles O55: each step of the banks by what it keeps, and the traps at a boundary by their causes. -/
theorem bankEvents : Obligations.BankEvents := by
  intro core s c hc
  subst hc
  refine ⟨fun asked clean soft calm => ?_, fun idle => ?_, fun spilling => ?_, fun ctx filling known => ?_,
    fun idle ctx => execBankFillDone_idle idle ctx, fun e failed => execFetchFault_stops failed,
    fun a b f live free waits found why file only => execQdeadlock_traps live free waits (queueWaiter_single why only) file⟩
  · have pending : swapPending s core = true := by
      rw [swapPending, clean, Option.isSome_iff_ne_none.2 asked]
      rfl
    obtain ⟨mem, none_, swaps, harts⟩ := exchange_keeps (core := core) soft
    refine ⟨exchange s core, ?_, none_, swaps, mem, fun h here place launched => ?_⟩
    · show execBankExchange core s = _
      rw [execBankExchange, pending, calm]
      rfl
    · have kept (bank : (swapped s core h).bank ≠ .image) := harts h here bank
      have swaps : swapped s core h = match h.bank with
          | .active => { abandon h with bank := .shadow }
          | .shadow => { loadDescriptor s h with bank := .active }
          | .image => h := if_neg (by simp [place, launched])
      refine ⟨fun bank => ?_, fun bank => ?_⟩
      · rw [bank] at swaps
        rw [swaps] at kept
        exact kept nofun
      · rw [bank] at swaps
        rw [swaps] at kept
        obtain ⟨g, there, hid, bank, -⟩ := kept nofun
        exact ⟨g, there, hid.trans (abandon_hid h), bank⟩
  · show execBankExchange core s = _
    have still : swapPending s core = false := by
      rw [swapPending]
      obtain none_ | busy := idle
      · rw [none_]
        rfl
      · rw [Bool.and_eq_false_iff]
        exact .inr (by simpa using busy)
    rw [execBankExchange, still]
    rfl
  · show execSpillDone core s = _
    rw [execSpillDone, if_pos spilling]
    rfl
  · obtain ⟨mem, rest, shadow, asks⟩ := resumeShadow_full (filled s core) core (by rw [filled, getCore_modCore_same]; nofun)
    rw [filled, getCore_modCore_same] at shadow
    have fills := execBankFillDone_fills filling known
    obtain ⟨h, here, place, -, bank⟩ := known
    exact ⟨_, fills, shadow, mem, rest,
      fun none_ => asks ((activeFree_iff _ core).2 none_) ⟨h, here, place, bank⟩⟩

end Sys2Proof.Machine
end
